-- ==== Sys2Proof/Word.lean ====
section
/-! DEFINITION. Word types of the OZT-24: bytes, register words, 64-bit instruction words and lane masks (spec/00_scope.md R4). -/
namespace Sys2Proof

/-- One byte of memory. -/
abbrev Byte := BitVec 8
/-- One 32-bit register word of one lane (R72). -/
abbrev Word := BitVec 32
/-- One 64-bit value: an instruction word, a register pair, a flit. -/
abbrev Quad := BitVec 64
/-- One bit per lane of a gang, bit i for lane i; bits at the gang's width and above are 0. -/
abbrev Mask := BitVec 64

end Sys2Proof
end

