-- ==== Sys2Proof/Config.lean ====
section
/-! DEFINITION. What the spec leaves open, as opaque constants: nothing can evaluate them, so a claim about them holds for every value (assumption log 2).
Each is applied to the data the open value depends on, or to the state's counter freeNext for a fresh value each time. -/
namespace Sys2Proof

/-- The byte that a line written under key serial w reads as under key serial r (R191, R297: unrelated bytes). -/
opaque Config.scramble (w r pa : Nat) (b : Byte) : Byte
/-- The bytes a COLL_MISMATCH destination is left with (R248: unspecified in value). -/
opaque Config.mismatchByte (n addr : Nat) : Byte
/-- The byte that a copy job reads from scratchpad, tiles or accumulators that its team has released (R344 governs writes alone). -/
opaque Config.releasedByte (n addr : Nat) : Byte
/-- The bytes of a staging tile that a handle's descriptor leaves unwritten (R163, R220). -/
opaque Config.stagingByte (n addr : Nat) : Byte
/-- The window mapping and the reserve after a RET through a frame whose slide word software has changed in memory (R96: unspecified) (log 52). -/
opaque Config.freeSlide (n : Nat) : Nat
/-- Whether that RET leaves out its in-flight wait (R96: unspecified). -/
opaque Config.freeFlag (n : Nat) : Bool
/-- The bytes that a path beyond the path table's eight takes in spawn memory (R55: not given); taken modulo 33 (log 38). -/
opaque Config.pathBytes : Nat
/-- The size of a launch's .oz.live in records, which hexld records in the launch template (R287) in no field that R249 gives; by the launch record (log 86). -/
opaque Config.liveRecords (record : List Byte) : Nat
/-- The slice bytes 24-31 of a queue descriptor (R236: used by the slice) (log 78). -/
opaque Config.sliceByte (n : Nat) : Byte
/-- The opcode weight table of a firmware image (R258); taken modulo 16. -/
opaque Config.opcodeWeight (image : List Byte) (opc : Nat) : Nat
/-- The cluster limit ILIM of a firmware image (R258). -/
opaque Config.ilim (image : List Byte) : Nat
/-- The trip and hold temperatures of a firmware image, in 1/16 degree (R262). -/
opaque Config.tripTemp (image : List Byte) : Int
opaque Config.holdTemp (image : List Byte) : Int
/-- The verdict of the Falcon-1024 signature check of a firmware image (R300). -/
opaque Config.imageSigned (image : List Byte) : Bool
/-- The security version of a firmware image (R300, R301). -/
opaque Config.imageVersion (image : List Byte) : Nat
/-- The mailbox status of a command done, of a LOADKEY that does not unwrap, of a refused state change or attestation, and of a boot's verdict (R296, R300: values not given). -/
opaque Config.mailDone : Nat
opaque Config.mailFailed : Nat
opaque Config.mailVerdict (good : Bool) : Nat
/-- SHAKE256 with a 64-byte result (R300, R301). -/
opaque Config.shake256 (x : List Byte) : List Byte
/-- The Falcon-1024 signature by the device's identity key (R301). -/
opaque Config.falconSign (x : List Byte) : List Byte
/-- A partition's ML-KEM-1024 public key (R296, R301). -/
opaque Config.kemPublicKey (part : Nat) : List Byte
/-- Whether a LOADKEY's ciphertext and wrapped key unwrap (R296). -/
opaque Config.unwraps (part : Nat) (ciphertext wrapped : List Byte) : Bool
/-- Whether a die being fenced still answers for a dirty sector (R281). -/
opaque Config.dieAnswers (n sector : Nat) : Bool
/-- Where an uncorrectable word of a bench's SRAM met an operation (R174): the first accumulator element that used it. -/
opaque Config.eccPlace (n : Nat) : Nat
/-- A byte of a word that could not be read rightly, as a job reads it (R226: as the memory returned it) (log 85). -/
opaque Config.eccByte (n addr : Nat) : Byte
/-- Which of the bytes that a running engine operation may read there it reads: the byte as it stands, or one of those that copies have replaced meanwhile (R170, R177). -/
opaque Config.engineRead (n addr : Nat) : Nat
/-- The fabric port that an access to another package takes (R282, R294). -/
opaque Config.fabricPort (pa : Nat) : Nat
/-- The lanes whose PCIe completions fail together (R293). -/
opaque Config.failedLanes (n : Nat) : BitVec 64
/-- The slack a member of a collective measured, in units of 0.1 microsecond (R263). -/
opaque Config.slackOf (n : Nat) : Nat

end Sys2Proof
end

