-- ==== Sys2Proof/Syntax.lean ====
section
/-! DEFINITION. The syntax of the OZT-24: operand codes, modifiers, one constructor of Instr for every row of spec/opcode_table.json.
The first 131 constructors are instructions of the seven formats (spec/05_encoding.md R111, R122); the other 77 are the steps of the machine's other agents
(spec/95_what_each_step_holds.md), whose parameters are the choices the spec leaves to the agent. -/
namespace Sys2Proof

/-- The 8-bit operand codes of R113, every code one operand. -/
inductive Operand where
  | v (n : BitVec 7)        -- 0x00-0x7F vector register
  | s (n : BitVec 6)        -- 0x80-0xBF scalar register
  | p (n : BitVec 4)        -- 0xC0-0xCF predicate register
  | special (n : BitVec 4)  -- 0xD0-0xDF special operand (R39)
  | mi (n : BitVec 2)       -- 0xE0-0xE3 receive register
  | mo (n : BitVec 2)       -- 0xE4-0xE7 send register
  | reserved (n : BitVec 3) -- 0xE8-0xEF reserved
  | iconst (n : BitVec 3)   -- 0xF0-0xF7 integer constant
  | fconst (n : BitVec 3)   -- 0xF8-0xFF FP32 constant
  deriving DecidableEq, Repr

/-- The guard of R109: predicate PG and its negation bit PN. -/
structure Guard where
  pg : BitVec 4
  pn : Bool
  deriving DecidableEq, Repr

/-- Raw types .B32 and .B64. -/
inductive BTy | b32 | b64
  deriving DecidableEq, Repr
/-- Integer types of R359. -/
inductive ITy | s32 | n32 | s64 | n64
  deriving DecidableEq, Repr
/-- The five floating-point types of R347. -/
inductive FTy | f32 | f16 | bf16 | f16x2 | bf16x2
  deriving DecidableEq, Repr
/-- The three scalar floating-point types of R328. -/
inductive F3 | f32 | f16 | bf16
  deriving DecidableEq, Repr
/-- The register types of R116 that CVT may name (its .B32 and .B64 are refused, R333). -/
inductive RegTy
  | s8 | s16 | s32 | s64 | n8 | n16 | n32 | n64 | f32 | f16 | bf16 | f16x2 | bf16x2 | e4m3 | e5m2
  deriving DecidableEq, Repr
/-- Rounding modes of R117. -/
inductive Rnd | rn | rz | ru | rd
  deriving DecidableEq, Repr
/-- Access widths of R111. -/
inductive Width | w1 | w2 | w4 | w8 | w16
  deriving DecidableEq, Repr
/-- Atomic types of R307. -/
inductive ATy | s32 | n32 | s64 | n64 | f32 | bf16x2 | f16x2
  deriving DecidableEq, Repr
/-- Atomic operations of R307. -/
inductive AOp | add | min | max | and | or | xor | xchg
  deriving DecidableEq, Repr
/-- IMUL's variants (R359). -/
inductive MulVar | lo | hi | wide
  deriving DecidableEq, Repr
/-- BCNT's operations (R314). -/
inductive BcntOp | pop | lzc | tzc
  deriving DecidableEq, Repr
/-- Integer comparison conditions (R361). -/
inductive ICond | eq | ne | lt | le | gt | ge
  deriving DecidableEq, Repr
/-- Floating-point comparison conditions (R349). -/
inductive FCond | eq | ne | lt | le | gt | ge | num | nan
  deriving DecidableEq, Repr
/-- SHFL's modes (R397). -/
inductive ShflMode | idx | up | dn | xor
  deriving DecidableEq, Repr
/-- VOTE's modes (R415). -/
inductive VoteMode | all | any | uni | ballot
  deriving DecidableEq, Repr
/-- REDG's operations (R392). -/
inductive RedgOp | add | min | max | and | or | xor
  deriving DecidableEq, Repr
/-- REDG's types (R392). -/
inductive RedgTy | s32 | n32 | s64 | n64 | f32
  deriving DecidableEq, Repr
/-- Spaces of R181. -/
inductive Space | global | local | peer | accum | host | tile
  deriving DecidableEq, Repr
/-- SPLIT of TLOAD and TSTORE (R408). -/
inductive Split | one | q4 | span
  deriving DecidableEq, Repr
/-- WSTAT's selections (R419). -/
inductive WSel | depth | spill | ring | spillcnt | refillcnt | reserve
  deriving DecidableEq, Repr
/-- The source formats a converting copy accepts (R219). -/
inductive SrcF | raw | fp32 | fp16 | bf16 | e4m3 | e5m2 | dbf8 | dbf6 | dbf4 | int8
  deriving DecidableEq, Repr
/-- System registers of R358, but for FAMKILL, whose write is a constructor of its own. -/
inductive SysReg
  | nstat | cycle | formwait | rdlease | wrlease | rdcways | pceil | thot | pstat | tcause | tpc | tnext | tmask | taddr | tladdr
  | wdlimit | wdgrace | famkill
  deriving DecidableEq, Repr

/-- A second source: a register or constant code (form A), or IMM32 (form I). -/
inductive Src
  | reg (o : Operand)
  | imm (x : BitVec 32)
  deriving DecidableEq, Repr
/-- A source whose immediate is zero- or sign-extended under .B64 (R306, R375). -/
inductive BSrc
  | reg (o : Operand)
  | imm (sx : Bool) (x : BitVec 32)
  deriving DecidableEq, Repr

structure MovArgs where
  ty : BTy
  d : Operand
  s1 : BSrc
  deriving DecidableEq, Repr
structure LogicArgs where
  ty : BTy
  d : Operand
  s1 : Operand
  s2 : BSrc
  deriving DecidableEq, Repr
structure ShiftArgs where
  ty : BTy
  d : Operand
  s1 : Operand
  s2 : Src
  deriving DecidableEq, Repr
structure IntArgs where
  ty : ITy
  sat : Bool
  d : Operand
  s1 : Operand
  s2 : Src
  deriving DecidableEq, Repr
structure IMadArgs where
  ty : ITy
  sat : Bool
  d : Operand
  s1 : Operand
  s2 : Src
  s3 : Operand
  deriving DecidableEq, Repr
structure IMulArgs where
  ty : ITy
  var : MulVar
  d : Operand
  s1 : Operand
  s2 : Src
  deriving DecidableEq, Repr
structure IMinArgs where
  ty : ITy
  d : Operand
  s1 : Operand
  s2 : Src
  deriving DecidableEq, Repr
structure BcntArgs where
  op : BcntOp
  ty : BTy
  d : Operand
  s1 : Operand
  deriving DecidableEq, Repr
/-- BFX's position and length: two operands (form A) or two bytes of IMM32 (form I). -/
inductive BfxPos
  | regs (pos len : Operand)
  | imm (pos len : BitVec 8)
  deriving DecidableEq, Repr
structure BfxArgs where
  ty : ITy
  d : Operand
  s1 : Operand
  pl : BfxPos
  deriving DecidableEq, Repr
structure BfiArgs where
  ty : BTy
  d : Operand
  s1 : Operand
  s2 : Operand
  s3 : Operand
  deriving DecidableEq, Repr
structure FArgs where
  ty : FTy
  rnd : Rnd
  n1 : Bool
  n2 : Bool
  d : Operand
  s1 : Operand
  s2 : Src
  deriving DecidableEq, Repr
structure FmaArgs where
  ty : FTy
  rnd : Rnd
  n1 : Bool
  n2 : Bool
  n3 : Bool
  d : Operand
  s1 : Operand
  s2 : Src
  s3 : Operand
  deriving DecidableEq, Repr
structure FMinArgs where
  ty : FTy
  d : Operand
  s1 : Operand
  s2 : Src
  deriving DecidableEq, Repr
structure ICmpArgs where
  cond : ICond
  ty : ITy
  d : Operand
  s1 : Operand
  s2 : Operand
  deriving DecidableEq, Repr
structure FCmpArgs where
  cond : FCond
  ty : F3
  d : Operand
  s1 : Operand
  s2 : Operand
  deriving DecidableEq, Repr
structure SelArgs where
  ty : BTy
  d : Operand
  s1 : Operand
  s2 : Operand
  s3 : Operand
  deriving DecidableEq, Repr
structure PlopArgs where
  d : Operand
  s1 : Operand
  s2 : Operand
  s3 : Operand
  lut : BitVec 8
  deriving DecidableEq, Repr
structure ShflArgs where
  mode : ShflMode
  ty : BTy
  d : Operand
  s1 : Operand
  s2 : Src
  deriving DecidableEq, Repr
structure VoteArgs where
  mode : VoteMode
  d : Operand
  s1 : Operand
  deriving DecidableEq, Repr
structure PermArgs where
  ty : BTy
  d : Operand
  s1 : Operand
  s2 : Src
  deriving DecidableEq, Repr
structure RedgArgs where
  op : RedgOp
  ty : RedgTy
  d : Operand
  s1 : Operand
  deriving DecidableEq, Repr
structure LeaArgs where
  n32 : Bool
  sx : Bool
  sh : BitVec 5
  d : Operand
  s1 : Operand
  s2 : Src
  deriving DecidableEq, Repr
structure SfuArgs where
  la : BitVec 4
  ty : F3
  d : Operand
  s1 : Operand
  deriving DecidableEq, Repr
structure FrndArgs where
  la : BitVec 4
  rnd : Rnd
  ty : F3
  d : Operand
  s1 : Operand
  deriving DecidableEq, Repr
/-- CVT's three forms (R333): plain, into a slot's format, out of it. -/
inductive CvtForm
  | plain (sat : Bool) (rnd : Rnd) (dt st : RegTy)
  | toSlot (ty : RegTy) (fs : BitVec 3)
  | fromSlot (rnd : Rnd) (ty : RegTy) (fs : BitVec 3)
  deriving DecidableEq, Repr
structure CvtArgs where
  la : BitVec 4
  d : Operand
  s1 : Operand
  form : CvtForm
  deriving DecidableEq, Repr
structure DbfpkArgs where
  la : BitVec 4
  d : Operand
  s1 : Operand
  fs : BitVec 3
  deriving DecidableEq, Repr
structure DbfunpkArgs where
  la : BitVec 4
  rnd : Rnd
  dt : F3
  d : Operand
  s1 : Operand
  fs : BitVec 3
  deriving DecidableEq, Repr
structure LoadArgs where
  la : BitVec 4
  d : Operand
  ab : Operand
  w : Width
  sx : Bool
  ch : BitVec 2
  off : BitVec 11
  deriving DecidableEq, Repr
structure StoreArgs where
  ab : Operand
  s2 : Operand
  w : Width
  ch : BitVec 2
  off : BitVec 11
  deriving DecidableEq, Repr
structure AtomArgs where
  la : BitVec 4
  d : Operand
  ab : Operand
  s2 : Operand
  op : AOp
  ty : ATy
  off : BitVec 11
  deriving DecidableEq, Repr
structure RedArgs where
  ab : Operand
  s2 : Operand
  op : AOp
  ty : ATy
  off : BitVec 11
  deriving DecidableEq, Repr
structure CasArgs where
  la : BitVec 4
  d : Operand
  ab : Operand
  s2 : Operand
  ty : ITy
  off : BitVec 11
  deriving DecidableEq, Repr
structure LineArgs where
  ab : Operand
  off : BitVec 11
  deriving DecidableEq, Repr
structure QueueArgs where
  la : BitVec 4
  d : Operand
  ab : Operand
  s2 : Operand
  w : Width
  deriving DecidableEq, Repr
structure MmadArgs where
  pr : Bool
  ac : BitVec 2
  ta : BitVec 3
  tb : BitVec 3
  hb : Bool
  bs : Operand
  hs : Operand
  fa : BitVec 3
  fb : BitVec 3
  deriving DecidableEq, Repr
structure LutmmArgs where
  pr : Bool
  ac : BitVec 2
  tb : BitVec 3
  hb : Bool
  kt : BitVec 2
  bs : Operand
  hs : Operand
  fa : BitVec 3
  fb : BitVec 3
  deriving DecidableEq, Repr
structure TbuildArgs where
  pr : Bool
  ta : BitVec 3
  kt : BitVec 2
  bs : Operand
  fa : BitVec 3
  fb : BitVec 3
  kq : BitVec 2
  deriving DecidableEq, Repr
structure TbqryArgs where
  la : BitVec 4
  kt : BitVec 2
  d : Operand
  bench : BitVec 3
  deriving DecidableEq, Repr
structure AccArgs where
  la : BitVec 4
  ac : BitVec 2
  r : Operand
  fa : BitVec 3
  cb : BitVec 2
  row : BitVec 4
  deriving DecidableEq, Repr
structure TileArgs where
  la : BitVec 4
  ta : BitVec 3
  r : Operand
  row : BitVec 6
  deriving DecidableEq, Repr
structure MengqArgs where
  la : BitVec 4
  pr : Bool
  d : Operand
  query : BitVec 3
  deriving DecidableEq, Repr
structure CpyArgs where
  dsp : Space
  ssp : Space
  ds : Operand
  bs : Option Operand
  tk : Option Operand
  fs : BitVec 3
  srcf : SrcF
  deriving DecidableEq, Repr
structure TileCpyArgs where
  sp : Space
  ds : Operand
  bs : Option Operand
  tk : Option Operand
  fs : BitVec 3
  split : Split
  srcf : SrcF
  deriving DecidableEq, Repr
structure TdescArgs where
  la : BitVec 4
  ssp : Space
  ds : Operand
  hd : Operand
  slot : BitVec 3
  deriving DecidableEq, Repr
structure CpyqArgs where
  la : BitVec 4
  ds : Operand
  tk : Operand
  deriving DecidableEq, Repr
structure CollArgs where
  ds : Operand
  bs : Option Operand
  tk : Option Operand
  deriving DecidableEq, Repr
structure WaitArgs where
  res : Bool
  thr : BitVec 6
  mask : BitVec 4
  deriving DecidableEq, Repr
structure BarArgs where
  s1 : Operand
  off : BitVec 16
  deriving DecidableEq, Repr
structure BarPhArgs where
  s1 : Operand
  s2 : Operand
  off : BitVec 16
  deriving DecidableEq, Repr
structure BarDstArgs where
  la : BitVec 4
  d : Operand
  s1 : Operand
  off : BitVec 16
  deriving DecidableEq, Repr
structure BtryArgs where
  la : BitVec 4
  d : Operand
  s1 : Operand
  s2 : Operand
  off : BitVec 16
  deriving DecidableEq, Repr
structure GbarriveArgs where
  la : BitVec 4
  d : Operand
  s1 : Operand
  imm : BitVec 12
  deriving DecidableEq, Repr
structure GbwaitArgs where
  s1 : Operand
  s2 : Operand
  imm : BitVec 12
  deriving DecidableEq, Repr
structure RingDstArgs where
  la : BitVec 4
  d : Operand
  ring : BitVec 2
  deriving DecidableEq, Repr
structure RingStageArgs where
  s1 : Operand
  ring : BitVec 2
  deriving DecidableEq, Repr
structure ChanbindArgs where
  s1 : Operand
  mi : BitVec 2
  mo : BitVec 2
  deriving DecidableEq, Repr
structure MsgsendArgs where
  d : Operand
  s1 : Operand
  b64 : Bool
  deriving DecidableEq, Repr
structure MsgrecvArgs where
  la : BitVec 4
  d : Operand
  s1 : Operand
  nb : Bool
  pq : BitVec 4
  deriving DecidableEq, Repr
structure PwrreqArgs where
  la : BitVec 4
  d : Operand
  s1 : Operand
  deriving DecidableEq, Repr

/-- A gang's place: the number of its team and its index in the team, 0-31 home, 32-63 formed (R39, R63). -/
structure GangKey where
  team : Nat
  idx : Nat
  deriving DecidableEq, Repr
/-- A context of a partition (R254). -/
structure CtxKey where
  part : Nat
  ctx : Nat
  deriving DecidableEq, Repr
/-- The dispatcher's choice for one team (R255: not architectural). -/
structure Placement where
  core : Nat            -- the solo core, or the leader core
  resident : Nat        -- resident number 0-15 (R89)
  scratchBase : Nat     -- first byte of the allocation in the core's scratchpad
  deriving DecidableEq, Repr
/-- Who writes a configuration register (R262, R295, R302). -/
inductive CfgAgent | host | security
  deriving DecidableEq, Repr
/-- One reading of a cluster's sensors (R262). -/
structure SensorReading where
  cluster : Nat
  hottestBench : Nat    -- package core id x 4 + bench
  temp : BitVec 16      -- 1/16 degree C of the hottest sensor
  deriving DecidableEq, Repr
/-- A detected hardware error (R282). -/
structure HwError where
  part : Nat
  cls : BitVec 8
  unit : BitVec 8
  unitId : BitVec 32
  ctx : Option Nat
  pa : BitVec 64
  detail : BitVec 32
  deriving DecidableEq, Repr
/-- A packet between packages (R248, R294): an access to be performed at its home slice, what a load or an atomic has found there, or a step of a collective. -/
inductive RemotePacket
  | read (pa kd n : Nat)
  | write (pa kd : Nat) (bytes : List Byte)
  | atomic (pa kd : Nat) (op : AOp) (ty : ATy) (x : BitVec 64)
  | cas (pa kd w cmp new : Nat)
  | reply (pa kd : Nat) (bytes : List Byte)
  | collUp (group seq rank : Nat) (desc : List (BitVec 32)) (elems : List (BitVec 32))
  | collDown (group seq : Nat) (desc : List (BitVec 32)) (elems : List (BitVec 32))
  deriving DecidableEq, Repr

/-- One constructor per row of spec/opcode_table.json, in the table's order. -/
inductive Instr where
  | nop
  | mov (g : Guard) (a : MovArgs)
  | iadd (g : Guard) (a : IntArgs)
  | isub (g : Guard) (a : IntArgs)
  | imul (g : Guard) (a : IMulArgs)
  | imad (g : Guard) (a : IMadArgs)
  | imin (g : Guard) (a : IMinArgs)
  | imax (g : Guard) (a : IMinArgs)
  | and (g : Guard) (a : LogicArgs)
  | andn (g : Guard) (a : LogicArgs)
  | or (g : Guard) (a : LogicArgs)
  | xor (g : Guard) (a : LogicArgs)
  | shl (g : Guard) (a : ShiftArgs)
  | shr (g : Guard) (a : ShiftArgs)
  | sar (g : Guard) (a : ShiftArgs)
  | bcnt (g : Guard) (a : BcntArgs)
  | bfx (g : Guard) (a : BfxArgs)
  | bfi (g : Guard) (a : BfiArgs)
  | fadd (g : Guard) (a : FArgs)
  | fmul (g : Guard) (a : FArgs)
  | ffma (g : Guard) (a : FmaArgs)
  | fmin (g : Guard) (a : FMinArgs)
  | fmax (g : Guard) (a : FMinArgs)
  | icmp (g : Guard) (a : ICmpArgs)
  | fcmp (g : Guard) (a : FCmpArgs)
  | sel (g : Guard) (a : SelArgs)
  | plop (g : Guard) (a : PlopArgs)
  | shfl (g : Guard) (a : ShflArgs)
  | vote (g : Guard) (a : VoteArgs)
  | perm (g : Guard) (a : PermArgs)
  | redg (g : Guard) (a : RedgArgs)
  | lea (g : Guard) (a : LeaArgs)
  | ld (g : Guard) (a : LoadArgs)
  | ldPoll (g : Guard) (a : LoadArgs)
  | ldc (g : Guard) (a : LoadArgs)
  | lds (g : Guard) (a : LoadArgs)
  | ldp (g : Guard) (a : LoadArgs)
  | st (g : Guard) (a : StoreArgs)
  | sts (g : Guard) (a : StoreArgs)
  | stp (g : Guard) (a : StoreArgs)
  | atom (g : Guard) (a : AtomArgs)
  | atoms (g : Guard) (a : AtomArgs)
  | atomp (g : Guard) (a : AtomArgs)
  | red (g : Guard) (a : RedArgs)
  | cas (g : Guard) (a : CasArgs)
  | cass (g : Guard) (a : CasArgs)
  | prefL1 (g : Guard) (a : LineArgs)
  | prefLlc (g : Guard) (a : LineArgs)
  | fenceRepl (g : Guard)
  | fenceHost (g : Guard)
  | fenceEng (g : Guard)
  | fenceAll (g : Guard)
  | cmntWb (g : Guard) (a : LineArgs)
  | cmntDrop (g : Guard) (a : LineArgs)
  | qpush (g : Guard) (a : QueueArgs)
  | qpop (g : Guard) (a : QueueArgs)
  | qpopWait (g : Guard) (a : QueueArgs)
  | mmad (g : Guard) (a : MmadArgs)
  | azero (g : Guard) (pr : Bool) (ac : BitVec 2)
  | tbuild (g : Guard) (a : TbuildArgs)
  | lutmm (g : Guard) (a : LutmmArgs)
  | tbinv (g : Guard) (pr : Bool) (kt : BitVec 2)
  | tbqry (g : Guard) (a : TbqryArgs)
  | accrd (g : Guard) (a : AccArgs)
  | accwr (g : Guard) (a : AccArgs)
  | twr (g : Guard) (a : TileArgs)
  | trd (g : Guard) (a : TileArgs)
  | mengq (g : Guard) (a : MengqArgs)
  | cpy (g : Guard) (a : CpyArgs)
  | tload (g : Guard) (a : TileCpyArgs)
  | tstore (g : Guard) (a : TileCpyArgs)
  | tdesc (g : Guard) (a : TdescArgs)
  | cpyq (g : Guard) (a : CpyqArgs)
  | cpycan (g : Guard) (tk : Operand)
  | coll (g : Guard) (a : CollArgs)
  | tpost (g : Guard) (tk : Operand)
  | tsig (g : Guard) (tk : Operand)
  | braM (g : Guard) (off : BitVec 32)
  | braS (g : Guard) (off : BitVec 32)
  | brx (g : Guard) (ra : Operand)
  | call (g : Guard) (sl : BitVec 4) (off : BitVec 32)
  | callx (g : Guard) (ra : Operand) (sl : BitVec 4)
  | ret (g : Guard)
  | join
  | exit (g : Guard)
  | trap (g : Guard) (n : BitVec 16)
  | brk (g : Guard)
  | wflush (g : Guard)
  | wstat (g : Guard) (d : Operand) (sel : WSel)
  | elect (g : Guard) (d : Operand) (sform : Bool)
  | launch (g : Guard) (d : Operand) (ar : Operand)
  | grow (g : Guard) (d : Operand) (n : Operand)
  | yield (g : Guard)
  | gsr (g : Guard) (d : Operand) (reg : SysReg)
  | ssr (g : Guard) (s : Operand) (reg : SysReg)
  | famkillWrite (g : Guard) (s : Operand)
  | eret (g : Guard)
  | eretSkip (g : Guard)
  | rcp (g : Guard) (a : SfuArgs)
  | rsq (g : Guard) (a : SfuArgs)
  | sqrt (g : Guard) (a : SfuArgs)
  | exp2 (g : Guard) (a : SfuArgs)
  | log2 (g : Guard) (a : SfuArgs)
  | sin (g : Guard) (a : SfuArgs)
  | cos (g : Guard) (a : SfuArgs)
  | tanh (g : Guard) (a : SfuArgs)
  | cvt (g : Guard) (a : CvtArgs)
  | frnd (g : Guard) (a : FrndArgs)
  | dbfpk (g : Guard) (a : DbfpkArgs)
  | dbfunpk (g : Guard) (a : DbfunpkArgs)
  | wait (g : Guard) (a : WaitArgs)
  | binit (g : Guard) (a : BarPhArgs)
  | barrive (g : Guard) (a : BarDstArgs)
  | bwait (g : Guard) (a : BarPhArgs)
  | btry (g : Guard) (a : BtryArgs)
  | binval (g : Guard) (a : BarArgs)
  | bstat (g : Guard) (a : BarDstArgs)
  | bstatClr (g : Guard) (a : BarDstArgs)
  | gbarrive (g : Guard) (a : GbarriveArgs)
  | gbwait (g : Guard) (a : GbwaitArgs)
  | racq (g : Guard) (a : RingDstArgs)
  | rcommit (g : Guard) (a : RingStageArgs)
  | rwait (g : Guard) (a : RingDstArgs)
  | rfree (g : Guard) (a : RingStageArgs)
  | tsync (g : Guard)
  | chanbind (g : Guard) (a : ChanbindArgs)
  | msgsend (g : Guard) (a : MsgsendArgs)
  | msgrecv (g : Guard) (a : MsgrecvArgs)
  | pwrreq (g : Guard) (a : PwrreqArgs)
  | pwrrel (g : Guard) (la : BitVec 4) (d : Operand)
  | perflvl (g : Guard) (s1 : Operand)
  -- steps of the other agents
  | issueSelect (core bench : Nat)
  | gangStarved (g : GangKey)
  | resultWriteback (g : GangKey)
  | accessPerformed (g : GangKey)
  | replicaPropagation (die addr : Nat)
  | translationWalk (core : Nat) (c : CtxKey) (va : Nat)
  | trapEntry (g : GangKey)
  | watchdogExpiry (g : GangKey)
  | watchdogGraceExpiry (g : GangKey)
  | formwaitExpiry (team : Nat)
  | formedGangRelease (team : Nat)
  | porterSpill (g : GangKey)
  | porterRefill (g : GangKey)
  | spawnOverflowMove (team : Nat)
  | gangEnd (g : GangKey)
  | hostPost (c : CtxKey) (index : Nat)
  | taskIngest (c : CtxKey)
  | gridCodebookRead (grid : Nat)
  | teamPlace (part : Nat) (place : Placement)
  | taskJobStart (c : CtxKey) (index : Nat)
  | engineOpStart (core : Nat)
  | engineSlave (core : Nat)
  | handleFetch (core : Nat)
  | engineOpRetire (core : Nat)
  | copyJobAccept (job : Nat)
  | copyByteWrite (job unit : Nat)
  | copyJobFault (job : Nat)
  | copyJobComplete (job : Nat)
  | flitDelivery (core mo : Nat)
  | weighbridgeWindow (cluster : Nat)
  | leaveGrant (cluster : Nat)
  | perfLevelChange (cluster : Nat)
  | thermalSweep (readings : List SensorReading)
  | timeRebase (part : Nat)
  | preemptSaveTeam (c : CtxKey) (q : Nat)
  | preemptSaveContext (c : CtxKey)
  | preemptSavePartition (part : Nat)
  | preemptSwapPartition (part : Nat)
  | preemptForcedStop (g : GangKey)
  | shadowExchange (part : Nat)
  | teamSave (team : Nat)
  | teamRestore (team : Nat)
  | fqreplyServiced (part seq : Nat)
  | fqreplyRefused (part seq : Nat)
  | fqbaseWrite (part : Nat) (x : BitVec 64)
  | elbaseWrite (part : Nat) (x : BitVec 64)
  | hcmaskWrite (part : Nat) (x : BitVec 64)
  | rdcwaysWrite (part : Nat) (x : BitVec 64)
  | tlbInvalidate (part : Nat) (x : BitVec 64)
  | tlbInvalidateDone (part : Nat)
  | gbcfgWrite (part : Nat) (x : BitVec 64)
  | statWrite (part : Nat) (x : BitVec 64)
  | pceilWrite (part : Nat) (agent : CfgAgent) (x : BitVec 64)
  | contextRun (c : CtxKey)
  | contextStop (c : CtxKey)
  | hatomWrite (x : BitVec 64)
  | configRegisterWrite (part : Nat) (off : Nat) (x : BitVec 64)
  | hostCompletionError (g : GangKey)
  | loadkey (part d : Nat) (ciphertext wrapped : List Byte)
  | revoke (part d : Nat)
  | attest (part : Nat) (nonce : List Byte)
  | lcstate (code : Nat)
  | packageReset
  | hbmWipeDone
  | firmwareImage (image : List Byte)
  | dieFence (die : Nat)
  | dieDrop (die : Nat)
  | errorDetected (e : HwError)
  | correctedErrorLog (e : HwError)
  | coolantAlarm
  | coolantRecover
  | coolantFatal
  | programTimeTick (g : GangKey)
  | fabricConfiguration (pkg : Nat) (members : List Nat)
  | dieReset (die : Nat)
  | hostLinkWrite (pa : Nat) (kd : Nat) (bytes : List Byte)
  | fabricRemoteAccess (p : RemotePacket)
  deriving DecidableEq, Repr

end Sys2Proof
end

