-- ==== Sys2Proof/WellFormed.lean ====
section
/-! DEFINITION. Which instructions are well formed as syntax: the field rules of each entry (shapeOk, spec/05_encoding.md R112 and the entries' ILLEGAL_FIELD lists) and the
operand rules that no launch record bears on (operandsOk, R74, R114, R115). A broken field rule is ILLEGAL_FIELD, a broken operand rule ILLEGAL_OPERAND (R123). -/
namespace Sys2Proof

/-- The classes of operand code that an entry's field accepts (R114). -/
inductive OpKind
  | src      -- any readable source of a VEC or SFU entry: v, s, p, special, constant
  | movSrc   -- the same, and mi0-mi3 (MOV)
  | regConst -- v, s or a constant
  | vsi      -- v, s or an integer constant
  | si       -- s or an integer constant
  | vs       -- v or s
  | vsp      -- v, s or p
  | vp       -- v or p
  | vec | scal | pred | mi | mo
  | movDst   -- v, s, p or mo0-mo3 (MOV)
  deriving DecidableEq, Repr

def OpKind.accepts : OpKind → Operand → Bool
  | .src, .v _ | .src, .s _ | .src, .p _ | .src, .special _ | .src, .iconst _ | .src, .fconst _ => true
  | .movSrc, .v _ | .movSrc, .s _ | .movSrc, .p _ | .movSrc, .special _ | .movSrc, .iconst _ | .movSrc, .fconst _ | .movSrc, .mi _ => true
  | .regConst, .v _ | .regConst, .s _ | .regConst, .iconst _ | .regConst, .fconst _ => true
  | .vsi, .v _ | .vsi, .s _ | .vsi, .iconst _ => true
  | .si, .s _ | .si, .iconst _ => true
  | .vs, .v _ | .vs, .s _ => true
  | .vsp, .v _ | .vsp, .s _ | .vsp, .p _ => true
  | .vp, .v _ | .vp, .p _ => true
  | .vec, .v _ => true
  | .scal, .s _ => true
  | .pred, .p _ => true
  | .mi, .mi _ => true
  | .mo, .mo _ => true
  | .movDst, .v _ | .movDst, .s _ | .movDst, .p _ | .movDst, .mo _ => true
  | _, _ => false

/-- One operand field in use: the operand, how many consecutive registers it names, what it accepts, and whether it is written. -/
structure Use where
  o : Operand
  n : Nat
  kind : OpKind
  dst : Bool
  deriving DecidableEq, Repr

/-- A register operand of n registers begins at a multiple of n (R74, R365, R323, R111 DS). -/
def Operand.aligned (o : Operand) (n : Nat) : Bool :=
  match o with
  | .v r => r.toNat % n = 0
  | .s r => r.toNat % n = 0
  | _ => true

def Use.ok (u : Use) : Bool := u.kind.accepts u.o && u.o.aligned u.n

def BTy.regs : BTy → Nat | .b32 => 1 | .b64 => 2
def ITy.regs : ITy → Nat | .s32 | .n32 => 1 | .s64 | .n64 => 2
def ITy.is64 : ITy → Bool | .s32 | .n32 => false | .s64 | .n64 => true
def ITy.signed : ITy → Bool | .s32 | .s64 => true | .n32 | .n64 => false
def RedgTy.regs : RedgTy → Nat | .s64 | .n64 => 2 | _ => 1
def ATy.regs : ATy → Nat | .s64 | .n64 => 2 | _ => 1
def ATy.isFloat : ATy → Bool | .f32 | .bf16x2 | .f16x2 => true | _ => false
def RegTy.regs : RegTy → Nat | .s64 | .n64 => 2 | _ => 1
def RegTy.isX2 : RegTy → Bool | .f16x2 | .bf16x2 => true | _ => false
def RegTy.isInt : RegTy → Bool | .s8 | .s16 | .s32 | .s64 | .n8 | .n16 | .n32 | .n64 => true | _ => false
def FTy.hasImm : FTy → Bool | .f32 | .f16 | .bf16 => true | _ => false
def Width.bytes : Width → Nat | .w1 => 1 | .w2 => 2 | .w4 => 4 | .w8 => 8 | .w16 => 16
def Width.regs : Width → Nat | .w8 => 2 | .w16 => 4 | _ => 1

/-- The use of a second source, none for an immediate. -/
def Src.use (x : Src) (n : Nat) (k : OpKind) : List Use :=
  match x with | .reg o => [⟨o, n, k, false⟩] | .imm _ => []
def BSrc.use (x : BSrc) (n : Nat) (k : OpKind) : List Use :=
  match x with | .reg o => [⟨o, n, k, false⟩] | .imm _ _ => []
def BfxPos.use : BfxPos → List Use
  | .regs p l => [⟨p, 1, .src, false⟩, ⟨l, 1, .src, false⟩]
  | .imm _ _ => []

/-- A destination and a source use. -/
def dUse (o : Operand) (n : Nat) (k : OpKind) : Use := ⟨o, n, k, true⟩
def sUse (o : Operand) (n : Nat) (k : OpKind) : Use := ⟨o, n, k, false⟩

def optUse (o : Option Operand) : List Use :=
  match o with | some x => [sUse x 1 .scal] | none => []

/-- The general-register width GSR's destination must have (R357, R358). -/
def SysReg.is64 : SysReg → Bool
  | .cycle | .tmask | .taddr | .tladdr => true
  | _ => false

/-- Every register operand of an instruction, with what its field accepts. LEA's index and the shifts' amount are called 32-bit registers (R369, R395): that they accept every
source class that R114 gives an arithmetic entry, a predicate too and for LEA a constant, is the model's choice (log 26). -/
def Instr.uses : Instr → List Use
  | .mov _ a => dUse a.d a.ty.regs .movDst :: a.s1.use a.ty.regs .movSrc
  | .iadd _ a | .isub _ a => dUse a.d a.ty.regs .vs :: sUse a.s1 a.ty.regs .src :: a.s2.use a.ty.regs .src
  | .imul _ a => dUse a.d (if a.var = .wide then 2 else a.ty.regs) .vs :: sUse a.s1 a.ty.regs .src :: a.s2.use a.ty.regs .src
  | .imad _ a => dUse a.d a.ty.regs .vs :: sUse a.s1 a.ty.regs .src :: sUse a.s3 a.ty.regs .src :: a.s2.use a.ty.regs .src
  | .imin _ a | .imax _ a => dUse a.d a.ty.regs .vs :: sUse a.s1 a.ty.regs .src :: a.s2.use a.ty.regs .src
  | .and _ a | .andn _ a | .or _ a | .xor _ a => dUse a.d a.ty.regs .vsp :: sUse a.s1 a.ty.regs .src :: a.s2.use a.ty.regs .src
  | .shl _ a | .shr _ a | .sar _ a => dUse a.d a.ty.regs .vs :: sUse a.s1 a.ty.regs .src :: a.s2.use 1 .src
  | .bcnt _ a => [dUse a.d 1 .vs, sUse a.s1 a.ty.regs .src]
  | .bfx _ a => dUse a.d a.ty.regs .vs :: sUse a.s1 a.ty.regs .src :: a.pl.use
  | .bfi _ a => [dUse a.d a.ty.regs .vs, sUse a.s1 a.ty.regs .src, sUse a.s2 a.ty.regs .src, sUse a.s3 1 .src]
  | .fadd _ a | .fmul _ a => dUse a.d 1 .vs :: sUse a.s1 1 .src :: a.s2.use 1 .src
  | .ffma _ a => dUse a.d 1 .vs :: sUse a.s1 1 .src :: sUse a.s3 1 .src :: a.s2.use 1 .src
  | .fmin _ a | .fmax _ a => dUse a.d 1 .vs :: sUse a.s1 1 .src :: a.s2.use 1 .src
  | .icmp _ a => [dUse a.d 1 .vsp, sUse a.s1 a.ty.regs .src, sUse a.s2 a.ty.regs .src]
  | .fcmp _ a => [dUse a.d 1 .vsp, sUse a.s1 1 .src, sUse a.s2 1 .src]
  | .sel _ a => [dUse a.d a.ty.regs .vs, sUse a.s1 a.ty.regs .src, sUse a.s2 a.ty.regs .src, sUse a.s3 1 .pred]
  | .plop _ a => [dUse a.d 1 .pred, sUse a.s1 1 .pred, sUse a.s2 1 .pred, sUse a.s3 1 .pred]
  | .shfl _ a => dUse a.d a.ty.regs .vec :: sUse a.s1 a.ty.regs .vec :: a.s2.use 1 .regConst
  | .vote _ a => [dUse a.d 1 (if a.mode = .ballot then .vec else .vp), sUse a.s1 1 .vsp]
  | .perm _ a => dUse a.d a.ty.regs .vec :: sUse a.s1 a.ty.regs .vec :: a.s2.use 1 .regConst
  | .redg _ a => [dUse a.d a.ty.regs .vec, sUse a.s1 a.ty.regs .src]
  | .lea _ a => dUse a.d (if a.n32 then 1 else 2) .vs :: sUse a.s1 (if a.n32 then 1 else 2) .src :: a.s2.use 1 .src
  | .ld _ a | .ldPoll _ a | .ldp _ a => [dUse a.d a.w.regs .vs, sUse a.ab 2 .vs]
  | .ldc _ a => [dUse a.d a.w.regs .vs, sUse a.ab 2 .scal]
  | .lds _ a => [dUse a.d a.w.regs .vs, sUse a.ab 1 .vs]
  | .st _ a | .stp _ a => [sUse a.ab 2 .vs, sUse a.s2 a.w.regs (if a.w = .w16 then .vs else .regConst)]
  | .sts _ a => [sUse a.ab 1 .vs, sUse a.s2 a.w.regs (if a.w = .w16 then .vs else .regConst)]
  | .atom _ a | .atomp _ a => [dUse a.d a.ty.regs .vs, sUse a.ab 2 .vs, sUse a.s2 a.ty.regs .regConst]
  | .atoms _ a => [dUse a.d a.ty.regs .vs, sUse a.ab 1 .vs, sUse a.s2 a.ty.regs .regConst]
  | .red _ a => [sUse a.ab 2 .vs, sUse a.s2 a.ty.regs .regConst]
  | .cas _ a => [dUse a.d a.ty.regs .vs, sUse a.ab 2 .vs, sUse a.s2 (2 * a.ty.regs) .vs]
  | .cass _ a => [dUse a.d a.ty.regs .vs, sUse a.ab 1 .vs, sUse a.s2 (2 * a.ty.regs) .vs]
  | .prefL1 _ a | .prefLlc _ a | .cmntWb _ a | .cmntDrop _ a => [sUse a.ab 2 .vs]
  | .qpush _ a => [dUse a.d 1 .pred, sUse a.ab 2 .vs, sUse a.s2 a.w.regs (if a.w = .w16 then .vs else .regConst)]
  | .qpop _ a | .qpopWait _ a => [dUse a.d a.w.regs .vs, sUse a.ab 2 .vs, dUse a.s2 1 .pred]
  | .mmad _ a => sUse a.bs 1 .scal :: (if a.hb then [sUse a.hs 2 .scal] else [])
  | .lutmm _ a => sUse a.bs 1 .scal :: (if a.hb then [sUse a.hs 2 .scal] else [])
  | .tbuild _ a => [sUse a.bs 1 .scal]
  | .tbqry _ a => [dUse a.d 1 .vs]
  | .accrd _ a => [dUse a.r 1 .vec]
  | .accwr _ a => [sUse a.r 1 .vec]
  | .trd _ a => [dUse a.r 1 .vec]
  | .twr _ a => [sUse a.r 1 .vec]
  | .mengq _ a => [dUse a.d 1 .vs]
  | .cpy _ a => sUse a.ds 8 .scal :: (optUse a.bs ++ optUse a.tk)
  | .tload _ a | .tstore _ a => sUse a.ds 8 .scal :: (optUse a.bs ++ optUse a.tk)
  | .tdesc _ a => [sUse a.ds 8 .scal, dUse a.hd 2 .scal]
  | .cpyq _ a => [dUse a.ds 8 .scal, sUse a.tk 1 .scal]
  | .cpycan _ tk | .tpost _ tk | .tsig _ tk => [sUse tk 1 .scal]
  | .coll _ a => sUse a.ds 8 .scal :: (optUse a.bs ++ optUse a.tk)
  | .brx _ ra => [sUse ra 1 .vs]
  | .callx _ ra _ => [sUse ra 1 .vs]
  | .wstat _ d _ => [dUse d 1 .scal]
  | .elect _ d sform => [dUse d 1 (if sform then .scal else .pred)]
  | .launch _ d ar => [dUse d 1 .scal, sUse ar 2 .scal]
  | .grow _ d n => [dUse d 1 .scal, sUse n 1 .si]
  | .gsr _ d r => [dUse d (if r.is64 then 2 else 1) (if r = .tladdr then .vec else .scal)]
  | .ssr _ s _ | .famkillWrite _ s => [sUse s 1 .si]
  | .rcp _ a | .rsq _ a | .sqrt _ a | .exp2 _ a | .log2 _ a | .sin _ a | .cos _ a | .tanh _ a => [dUse a.d 1 .vs, sUse a.s1 1 .src]
  | .cvt _ a =>
    match a.form with
    | .plain _ _ dt sty => [dUse a.d dt.regs .vs, sUse a.s1 sty.regs .src]
    | .toSlot ty _ => [dUse a.d 1 .vs, sUse a.s1 ty.regs .src]
    | .fromSlot _ ty _ => [dUse a.d ty.regs .vs, sUse a.s1 1 .src]
  | .frnd _ a => [dUse a.d 1 .vs, sUse a.s1 1 .src]
  | .dbfpk _ a => [dUse a.d 1 .vec, sUse a.s1 1 .vs]
  | .dbfunpk _ a => [dUse a.d 1 .vec, sUse a.s1 1 .vs]
  | .binit _ a | .bwait _ a => [sUse a.s1 1 .vsi, sUse a.s2 1 .vsi]
  | .barrive _ a | .bstat _ a | .bstatClr _ a => [dUse a.d 1 .vsp, sUse a.s1 1 .vsi]
  | .btry _ a => [dUse a.d 1 .vsp, sUse a.s1 1 .vsi, sUse a.s2 1 .vsi]
  | .binval _ a => [sUse a.s1 1 .vsi]
  | .gbarrive _ a => [dUse a.d 1 .vsp, sUse a.s1 1 .vsi]
  | .gbwait _ a => [sUse a.s1 1 .vsi, sUse a.s2 1 .vsi]
  | .racq _ a | .rwait _ a => [dUse a.d 1 .vs]
  | .rcommit _ a | .rfree _ a => [sUse a.s1 1 .vsi]
  | .chanbind _ a => [sUse a.s1 1 .vsi]
  | .msgsend _ a => [dUse a.d 1 .mo, sUse a.s1 (if a.b64 then 2 else 1) .vsi]
  | .msgrecv _ a => [dUse a.d 2 .vs, sUse a.s1 1 .mi, dUse (.p a.pq) 1 .pred]
  | .pwrreq _ a => [dUse a.d 1 .scal, sUse a.s1 1 .scal]
  | .pwrrel _ _ d => [dUse d 1 .scal]
  | .perflvl _ s1 => [sUse s1 1 .scal]
  | _ => []

/-- A source that differs from lane to lane in the sense of R115. -/
def Operand.laneVarying : Operand → Bool
  | .v _ => true
  | .special n => n = 0 || n = 1 || n = 12
  | _ => false

/-- The instructions whose scalar destination R115 restricts: classes VEC and SFU, and loads (R365). A base or operand that
an entry reads once from its lowest active lane is no vector source. -/
def Instr.scalarRule : Instr → Bool
  | .mov _ _ | .iadd _ _ | .isub _ _ | .imul _ _ | .imad _ _ | .imin _ _ | .imax _ _ | .and _ _ | .andn _ _ | .or _ _ | .xor _ _
  | .shl _ _ | .shr _ _ | .sar _ _ | .bcnt _ _ | .bfx _ _ | .bfi _ _ | .fadd _ _ | .fmul _ _ | .ffma _ _ | .fmin _ _ | .fmax _ _
  | .icmp _ _ | .fcmp _ _ | .sel _ _ | .lea _ _
  | .rcp _ _ | .rsq _ _ | .sqrt _ _ | .exp2 _ _ | .log2 _ _ | .sin _ _ | .cos _ _ | .tanh _ _ | .cvt _ _ | .frnd _ _
  | .ld _ _ | .ldPoll _ _ | .lds _ _ | .ldp _ _ | .qpop _ _ | .qpopWait _ _ => true
  | _ => false

def Instr.scalarDstOk (i : Instr) : Bool :=
  !i.scalarRule ||
  !((i.uses.any fun u => u.dst && OpKind.accepts .scal u.o) && (i.uses.any fun u => !u.dst && u.o.laneVarying))

/-- The operand rules that depend on the word alone (R74, R114, R115) (log 27). -/
def Instr.operandsOk (i : Instr) : Bool := i.uses.all Use.ok && i.scalarDstOk

/-- Fields of a form I immediate that the B types admit: .B32 has one form (R306, R375). -/
def BSrc.shapeOk (x : BSrc) (ty : BTy) : Bool :=
  match x with | .imm sx _ => !(sx && ty = .b32) | .reg _ => true

def Src.isImm : Src → Bool | .imm _ => true | .reg _ => false

/-- The immediate of a float form I: .F16 and .BF16 stand in bits 15:0 (R347). -/
def floatImmOk (ty : FTy) (x : Src) : Bool :=
  match x with
  | .imm v => ty.hasImm && (ty = .f32 || v.toNat < 65536)
  | .reg _ => true

def SrcF.isRaw : SrcF → Bool | .raw => true | _ => false

/-- The pairs of spaces a copy may not join (R183). -/
def spacePairOk (dsp ssp : Space) : Bool :=
  !(dsp = .host && (ssp = .host || ssp = .tile || ssp = .accum))

/-- System registers that SSR may write (R358); FAMKILL's write is a constructor of its own. -/
def SysReg.writable : SysReg → Bool
  | .nstat | .formwait | .pceil | .tnext | .wdlimit | .wdgrace => true
  | _ => false

def CvtForm.shapeOk : CvtForm → Bool
  | .plain sat rnd dt st => (dt.isX2 == st.isX2) && !(sat && dt.isInt) && !(dt.isInt && st.isInt && rnd ≠ .rn)
  | .toSlot ty _ => !ty.isX2
  | .fromSlot _ ty _ => !ty.isX2

/-- The field rules that depend on the word alone (R112 and each entry's ILLEGAL_FIELD list) (log 27). -/
def Instr.shapeOk : Instr → Bool
  | .mov _ a => a.s1.shapeOk a.ty && (match a.s1 with | .reg (.mi _) => a.ty = .b64 | _ => true)
  | .and _ a | .andn _ a | .or _ a | .xor _ a => a.s2.shapeOk a.ty
  | .iadd _ a | .isub _ a => !(a.sat && a.s2.isImm)
  | .imul _ a => !(a.s2.isImm && a.var ≠ .lo) && !(a.var = .wide && a.ty.is64)
  | .imad _ a => !(a.s2.isImm && (a.sat || a.s3 ≠ a.d))
  | .fadd _ a | .fmul _ a => floatImmOk a.ty a.s2 && !(a.s2.isImm && (a.n1 || a.n2 || a.rnd ≠ .rn))
  | .ffma _ a => floatImmOk a.ty a.s2 && !(a.s2.isImm && (a.n1 || a.n2 || a.n3 || a.rnd ≠ .rn || a.s3 ≠ a.d))
  | .fmin _ a | .fmax _ a => floatImmOk a.ty a.s2
  | .shfl _ a => match a.s2 with | .imm v => a.ty = .b32 && v.toNat < 64 | .reg _ => true
  | .redg _ a => !(a.ty = .f32 && (a.op = .and || a.op = .or || a.op = .xor))
  | .lea _ a => !(a.n32 && a.sx) && !(a.s2.isImm && (a.sh ≠ 0 || (!a.n32 && !a.sx)))
  | .rcp _ a | .rsq _ a | .sqrt _ a | .exp2 _ a | .log2 _ a | .sin _ a | .cos _ a | .tanh _ a => a.la ≠ 15
  | .cvt _ a => a.la ≠ 15 && a.form.shapeOk
  | .frnd _ a => a.la ≠ 15
  | .dbfpk _ a => a.la ≠ 15
  | .dbfunpk _ a => a.la ≠ 15
  | .ld _ a | .ldc _ a => !(a.sx && a.w.bytes > 2)
  | .ldPoll _ a | .lds _ a | .ldp _ a => !(a.sx && a.w.bytes > 2) && a.ch = 0
  | .sts _ a | .stp _ a => a.ch = 0
  | .atom _ a | .atoms _ a | .atomp _ a => !(a.ty.isFloat && (a.op = .and || a.op = .or || a.op = .xor))
  | .red _ a => !(a.ty.isFloat && (a.op = .and || a.op = .or || a.op = .xor)) && a.op ≠ .xchg
  | .qpush _ a | .qpop _ a | .qpopWait _ a => a.w.bytes > 2
  | .mmad _ a => if a.hb then a.tb = 0 else a.hs = .v 0
  | .lutmm _ a => if a.hb then a.tb = 0 else a.hs = .v 0
  | .accwr _ a => a.la = 0
  | .twr _ a => a.la = 0
  | .mengq _ a => a.query.toNat ≤ 4
  | .cpy _ a => spacePairOk a.dsp a.ssp && !(a.srcf.isRaw && a.fs ≠ 0)
  | .tload _ a => (a.sp = .global || a.sp = .local || a.sp = .peer || a.sp = .host) && !(a.srcf.isRaw && a.fs ≠ 0)
  | .tstore _ a => (a.sp = .global || a.sp = .local || a.sp = .peer) && !(a.srcf.isRaw && a.fs ≠ 0)
  | .tdesc _ a => a.ssp = .global || a.ssp = .local || a.ssp = .peer
  | .call _ sl _ => sl.toNat ≤ 12
  | .callx _ _ sl => sl.toNat ≤ 12
  | .ssr _ _ r => r.writable
  | _ => true

/-- The instruction is one that a word of the spec's encodings carries, or a step of another agent. -/
def Instr.isWord : Instr → Bool
  | .issueSelect .. | .gangStarved .. | .resultWriteback .. | .accessPerformed .. | .replicaPropagation .. | .translationWalk ..
  | .trapEntry .. | .watchdogExpiry .. | .watchdogGraceExpiry .. | .formwaitExpiry .. | .formedGangRelease .. | .porterSpill ..
  | .porterRefill .. | .spawnOverflowMove .. | .gangEnd .. | .hostPost .. | .taskIngest .. | .gridCodebookRead .. | .teamPlace ..
  | .taskJobStart .. | .engineOpStart .. | .engineSlave .. | .handleFetch .. | .engineOpRetire .. | .copyJobAccept .. | .copyByteWrite ..
  | .copyJobFault .. | .copyJobComplete .. | .flitDelivery .. | .weighbridgeWindow .. | .leaveGrant .. | .perfLevelChange ..
  | .thermalSweep .. | .timeRebase .. | .preemptSaveTeam .. | .preemptSaveContext .. | .preemptSavePartition .. | .preemptSwapPartition ..
  | .preemptForcedStop .. | .shadowExchange .. | .teamSave .. | .teamRestore .. | .fqreplyServiced .. | .fqreplyRefused .. | .fqbaseWrite ..
  | .elbaseWrite .. | .hcmaskWrite .. | .rdcwaysWrite .. | .tlbInvalidate .. | .tlbInvalidateDone .. | .gbcfgWrite .. | .statWrite ..
  | .pceilWrite .. | .contextRun .. | .contextStop .. | .hatomWrite .. | .configRegisterWrite .. | .hostCompletionError .. | .loadkey ..
  | .revoke .. | .attest .. | .lcstate .. | .packageReset | .hbmWipeDone | .firmwareImage .. | .dieFence .. | .dieDrop .. | .errorDetected ..
  | .correctedErrorLog .. | .coolantAlarm | .coolantRecover | .coolantFatal | .programTimeTick .. | .fabricConfiguration .. | .dieReset ..
  | .hostLinkWrite .. | .fabricRemoteAccess .. => false
  | _ => true

/-- A well-formed instruction word: its fields and operands obey every rule that the word alone decides. -/
def Instr.wellFormed (i : Instr) : Bool := i.isWord && i.shapeOk && i.operandsOk

end Sys2Proof
end

