-- ==== Sys2Proof/Machine/Numbers.lean ====
section
/-! DEFINITION. Number formats and exact arithmetic (spec/06_numbers.md R132 to R137): the floating-point layouts, exact values, the one rounding to a format,
and conversion to integers. Every operation forms an exact value and rounds it once (R135). -/
namespace Sys2Proof

/-- A floating-point layout of R132: exponent bits, fraction bits, bias, and whether it is E4M3 (no infinity, two NaN patterns). -/
structure FloatFmt where
  ebits : Nat
  fbits : Nat
  bias : Nat
  e4m3 : Bool
  deriving DecidableEq, Repr

def FloatFmt.fp32 : FloatFmt := ⟨8, 23, 127, false⟩
def FloatFmt.fp16 : FloatFmt := ⟨5, 10, 15, false⟩
def FloatFmt.bf16 : FloatFmt := ⟨8, 7, 127, false⟩
def FloatFmt.e5m2 : FloatFmt := ⟨5, 2, 15, false⟩
def FloatFmt.e4m3fmt : FloatFmt := ⟨4, 3, 7, true⟩

/-- The canonical NaN of R132. -/
def FloatFmt.nan (f : FloatFmt) : Nat :=
  if f.e4m3 then 0x7F else ((2 ^ f.ebits - 1) <<< f.fbits) + 2 ^ (f.fbits - 1)
/-- The pattern of the largest finite value, sign 0. -/
def FloatFmt.maxFinite (f : FloatFmt) : Nat :=
  if f.e4m3 then 0x7E else ((2 ^ f.ebits - 1) <<< f.fbits) - 1
/-- The pattern of +infinity, for the formats that have one. -/
def FloatFmt.infinity (f : FloatFmt) : Nat := (2 ^ f.ebits - 1) <<< f.fbits
/-- The weight of the sign bit. -/
def FloatFmt.signBit (f : FloatFmt) : Nat := 2 ^ (f.ebits + f.fbits)
/-- The exponent of the smallest subnormal. -/
def FloatFmt.minExp (f : FloatFmt) : Int := 1 - (f.bias : Int) - (f.fbits : Int)
def FloatFmt.withSign (f : FloatFmt) (neg : Bool) (bits : Nat) : Nat := if neg then f.signBit + bits else bits

/-- An exact value: a NaN, an infinity, or (-1)^neg x num / den x 2^exp with den > 0; num = 0 is a signed zero. -/
inductive Exact where
  | nan
  | inf (neg : Bool)
  | fin (neg : Bool) (num den : Nat) (exp : Int)
  deriving DecidableEq, Repr

def Exact.isNaN : Exact → Bool | .nan => true | _ => false
def Exact.isInf : Exact → Bool | .inf _ => true | _ => false
def Exact.isZero : Exact → Bool | .fin _ n _ _ => n = 0 | _ => false
def Exact.neg : Exact → Exact
  | .nan => .nan
  | .inf s => .inf (!s)
  | .fin s n d e => .fin (!s) n d e
/-- Flip the sign when b holds (R348 Neg). -/
def Exact.negIf (b : Bool) (x : Exact) : Exact := if b then x.neg else x
def Exact.abs : Exact → Exact
  | .nan => .nan
  | .inf _ => .inf false
  | .fin _ n d e => .fin false n d e
def Exact.negative : Exact → Bool | .nan => false | .inf s => s | .fin s _ _ _ => s
def Exact.zero : Exact := .fin false 0 1 0
def Exact.one : Exact := .fin false 1 1 0
def Exact.ofInt (x : Int) : Exact := .fin (x < 0) x.natAbs 1 0

/-- The value of a pattern (R132, R133: subnormals included; R134: every NaN is one NaN). -/
def FloatFmt.decode (f : FloatFmt) (bits : Nat) : Exact :=
  let neg := (bits / f.signBit) % 2 = 1
  let e := (bits >>> f.fbits) % 2 ^ f.ebits
  let m := bits % 2 ^ f.fbits
  if f.e4m3 then
    if e = 15 ∧ m = 7 then .nan
    else if e = 0 then .fin neg m 1 f.minExp
    else .fin neg (2 ^ f.fbits + m) 1 (f.minExp + (e : Int) - 1)
  else if e = 2 ^ f.ebits - 1 then (if m = 0 then .inf neg else .nan)
  else if e = 0 then .fin neg m 1 f.minExp
  else .fin neg (2 ^ f.fbits + m) 1 (f.minExp + (e : Int) - 1)

/-- x times 2^k for k of either sign, as a fraction. -/
def scaleFrac (num den : Nat) (k : Int) : Nat × Nat :=
  match k with
  | .ofNat n => (num <<< n, den)
  | .negSucc n => (num, den <<< (n + 1))

/-- floor(log2 (num / den x 2^exp)) for num > 0. -/
def floorLog2 (num den : Nat) (exp : Int) : Int :=
  let l : Int := (Nat.log2 num : Int) - (Nat.log2 den : Int)
  let (a, b) := scaleFrac num den (-l)
  (if a ≥ b then l else l - 1) + exp

/-- Round the fraction num / den of a value with sign neg to an integer (R117). -/
def roundFrac (rnd : Rnd) (neg : Bool) (num den : Nat) : Nat :=
  let q := num / den
  let r := num % den
  let up :=
    match rnd with
    | .rn => 2 * r > den || (2 * r = den && q % 2 = 1)
    | .rz => false
    | .ru => !neg && r ≠ 0
    | .rd => neg && r ≠ 0
  if up then q + 1 else q

/-- A rounded result: the pattern and whether the conversion saturated (R136, R142). -/
structure Rounded where
  bits : Nat
  sat : Bool
  deriving DecidableEq, Repr

/-- The result of an overflow (R135) or, under saturation or in E4M3, R136's. -/
def FloatFmt.overflow (f : FloatFmt) (rnd : Rnd) (sat neg : Bool) : Rounded :=
  if sat then ⟨f.withSign neg f.maxFinite, true⟩
  else if f.e4m3 then ⟨f.nan, false⟩
  else
    match rnd, neg with
    | .rn, _ => ⟨f.withSign neg f.infinity, false⟩
    | .rz, _ => ⟨f.withSign neg f.maxFinite, false⟩
    | .ru, false => ⟨f.infinity, false⟩
    | .ru, true => ⟨f.withSign true f.maxFinite, false⟩
    | .rd, false => ⟨f.maxFinite, false⟩
    | .rd, true => ⟨f.withSign true f.infinity, false⟩

/-- Round an exact value once to a format (R134 to R136). Overflow: the value rounded with an unbounded exponent exceeds the largest finite value. -/
def FloatFmt.round (f : FloatFmt) (rnd : Rnd) (sat : Bool) (x : Exact) : Rounded :=
  match x with
  | .nan => ⟨f.nan, false⟩
  | .inf neg =>
    if sat then ⟨f.withSign neg f.maxFinite, true⟩
    else if f.e4m3 then ⟨f.nan, false⟩
    else ⟨f.withSign neg f.infinity, false⟩
  | .fin neg num den exp =>
    if num = 0 then ⟨f.withSign neg 0, false⟩
    else
      let q := max (floorLog2 num den exp - (f.fbits : Int)) f.minExp
      let (a, b) := scaleFrac num den (exp - q)
      let bits := ((q - f.minExp).toNat <<< f.fbits) + roundFrac rnd neg a b
      if bits > f.maxFinite then f.overflow rnd sat neg else ⟨f.withSign neg bits, false⟩

/-- Round to nearest even without saturation. -/
def FloatFmt.rne (f : FloatFmt) (x : Exact) : Nat := (f.round .rn false x).bits

/-- The exact value rounded to an integer (R137); none for a NaN, the bound's sign for an infinity. -/
def Exact.roundInt (rnd : Rnd) (x : Exact) : Option (Except Bool Int) :=
  match x with
  | .nan => none
  | .inf neg => some (.error neg)
  | .fin neg num den exp =>
    let (a, b) := scaleFrac num den exp
    let n : Int := (roundFrac rnd neg a b : Nat)
    some (.ok (if neg then -n else n))

/-- Conversion to an integer range (R137): the result and whether it saturated. An infinity counts as saturating (log 28). -/
def Exact.toInt (rnd : Rnd) (lo hi : Int) (x : Exact) : Int × Bool :=
  match x.roundInt rnd with
  | none => (0, false)
  | some (.error neg) => (if neg then lo else hi, true)
  | some (.ok n) => if n < lo then (lo, true) else if n > hi then (hi, true) else (n, false)

/-- Exact product; infinity times zero is a NaN. -/
def Exact.mul (x y : Exact) : Exact :=
  match x, y with
  | .nan, _ => .nan
  | _, .nan => .nan
  | .inf s, .inf t => .inf (s != t)
  | .inf s, .fin t n _ _ => if n = 0 then .nan else .inf (s != t)
  | .fin s n _ _, .inf t => if n = 0 then .nan else .inf (s != t)
  | .fin s n d e, .fin t m c g => .fin (s != t) (n * m) (d * c) (e + g)

/-- Exact quotient by a finite nonzero value. -/
def Exact.div (x y : Exact) : Exact :=
  match x, y with
  | .nan, _ => .nan
  | _, .nan => .nan
  | .inf s, .fin t _ _ _ => .inf (s != t)
  | .inf _, .inf _ => .nan
  | .fin s _ _ _, .inf t => .fin (s != t) 0 1 0
  | .fin s n d e, .fin t m c g => if m = 0 then .nan else .fin (s != t) (n * c) (d * m) (e - g)

/-- The signed numerator of a finite value over den x 2^base, for base at or below its exponent. -/
def signedAt (neg : Bool) (num : Nat) (exp base : Int) : Int :=
  let n : Int := (num <<< (exp - base).toNat : Nat)
  if neg then -n else n

/-- Exact sum. An exact zero sum of opposite signs is +0, or -0 under .RD (R135); infinities of both signs give a NaN. -/
def Exact.add (rnd : Rnd) (x y : Exact) : Exact :=
  match x, y with
  | .nan, _ => .nan
  | _, .nan => .nan
  | .inf s, .inf t => if s = t then .inf s else .nan
  | .inf s, .fin .. => .inf s
  | .fin .., .inf t => .inf t
  | .fin s n d e, .fin t m c g =>
    let base := min e g
    let sum := signedAt s (n * c) e base + signedAt t (m * d) g base
    if sum = 0 then .fin (if s = t then s else rnd = .rd) 0 1 0
    else .fin (sum < 0) sum.natAbs (d * c) base

/-- Comparison of two values that are no NaN: negative, zero or positive, with -0 equal to +0. -/
def Exact.cmp (x y : Exact) : Int :=
  match x, y with
  | .inf s, .inf t => if s = t then 0 else if s then -1 else 1
  | .inf s, _ => if s then -1 else 1
  | _, .inf t => if t then 1 else -1
  | .fin s n d e, .fin t m c g =>
    let base := min e g
    (signedAt s (n * c) e base - signedAt t (m * d) g base).sign
  | .nan, _ => 0
  | _, .nan => 0

/-- Order for FMIN and FMAX: as cmp, with -0 below +0 (R134). -/
def Exact.lessMin (x y : Exact) : Bool :=
  x.cmp y < 0 || (x.cmp y = 0 && x.negative && !y.negative)

/-- FMIN on patterns (R134): the chosen operand's bits; the canonical NaN when both are NaNs. -/
def FloatFmt.min (f : FloatFmt) (a b : Nat) : Nat :=
  let x := f.decode a
  let y := f.decode b
  if x.isNaN then (if y.isNaN then f.nan else b) else if y.isNaN then a
  else if y.lessMin x then b else a
/-- FMAX on patterns (R134). -/
def FloatFmt.max (f : FloatFmt) (a b : Nat) : Nat :=
  let x := f.decode a
  let y := f.decode b
  if x.isNaN then (if y.isNaN then f.nan else b) else if y.isNaN then a
  else if x.lessMin y then b else a

/-- FRND (R353): the integral value of the mode in the same format; zeros and infinities pass, a zero result keeps the sign. -/
def FloatFmt.integral (f : FloatFmt) (rnd : Rnd) (a : Nat) : Nat :=
  match f.decode a with
  | .nan => f.nan
  | .inf neg => f.withSign neg f.infinity
  | .fin neg num den exp =>
    let (x, y) := scaleFrac num den exp
    f.rne (.fin neg (roundFrac rnd neg x y) 1 0)

/-- The format of a scalar floating-point type. -/
def F3.fmt : F3 → FloatFmt | .f32 => .fp32 | .f16 => .fp16 | .bf16 => .bf16
/-- The format of one element of a floating-point type and whether a register holds two. -/
def FTy.fmt : FTy → FloatFmt | .f32 => .fp32 | .f16 => .fp16 | .bf16 => .bf16 | .f16x2 => .fp16 | .bf16x2 => .bf16
def FTy.isX2 : FTy → Bool | .f16x2 | .bf16x2 => true | _ => false

/-- Apply a function of 16-bit patterns to both halves of a register. -/
def onHalves2 (g : Nat → Nat → Nat) (a b : Nat) : Nat :=
  g (a % 65536) (b % 65536) % 65536 + (g (a / 65536 % 65536) (b / 65536 % 65536) % 65536) * 65536
def onHalves3 (g : Nat → Nat → Nat → Nat) (a b c : Nat) : Nat :=
  g (a % 65536) (b % 65536) (c % 65536) % 65536 + (g (a / 65536 % 65536) (b / 65536 % 65536) (c / 65536 % 65536) % 65536) * 65536

def FTy.width (t : FTy) : Nat := match t with | .f32 => 32 | _ => 16

/-- Lift an operation on the patterns of one element to a register of the type; narrow results fill the high bits with zero (R116). -/
def FTy.lift2 (t : FTy) (g : Nat → Nat → Nat) (a b : Nat) : Nat :=
  if t.isX2 then onHalves2 g a b else g (a % 2 ^ t.width) (b % 2 ^ t.width)
def FTy.lift3 (t : FTy) (g : Nat → Nat → Nat → Nat) (a b c : Nat) : Nat :=
  if t.isX2 then onHalves3 g a b c else g (a % 2 ^ t.width) (b % 2 ^ t.width) (c % 2 ^ t.width)

/-- FADD, FMUL and FFMA on patterns (R348). -/
def floatAdd (f : FloatFmt) (rnd : Rnd) (n1 n2 : Bool) (a b : Nat) : Nat :=
  (f.round rnd false (Exact.add rnd ((f.decode a).negIf n1) ((f.decode b).negIf n2))).bits
def floatMul (f : FloatFmt) (rnd : Rnd) (n1 n2 : Bool) (a b : Nat) : Nat :=
  (f.round rnd false (Exact.mul ((f.decode a).negIf n1) ((f.decode b).negIf n2))).bits
def floatFma (f : FloatFmt) (rnd : Rnd) (n1 n2 n3 : Bool) (a b c : Nat) : Nat :=
  (f.round rnd false (Exact.add rnd (Exact.mul ((f.decode a).negIf n1) ((f.decode b).negIf n2)) ((f.decode c).negIf n3))).bits

/-- Two's-complement reading of the low w bits. -/
def signedOf (w : Nat) (x : Nat) : Int :=
  let y := x % 2 ^ w
  if y < 2 ^ (w - 1) then (y : Int) else (y : Int) - 2 ^ w
/-- The bit pattern of an integer in w bits. -/
def bitsOf (w : Nat) (x : Int) : Nat := (x % (2 ^ w : Int)).toNat

def Exact.le (x y : Exact) : Bool := x.cmp y ≤ 0

/-- FCMP's outcome (R349). -/
def FCond.holds (c : FCond) (x y : Exact) : Bool :=
  let un := x.isNaN || y.isNaN
  match c with
  | .eq => !un && x.cmp y = 0
  | .ne => un || x.cmp y ≠ 0
  | .lt => !un && x.cmp y < 0
  | .le => !un && x.cmp y ≤ 0
  | .gt => !un && x.cmp y > 0
  | .ge => !un && x.cmp y ≥ 0
  | .num => !un
  | .nan => un

/-- ICMP's outcome (R361). -/
def ICond.holds (c : ICond) (x y : Int) : Bool :=
  match c with
  | .eq => x = y
  | .ne => x ≠ y
  | .lt => x < y
  | .le => x ≤ y
  | .gt => x > y
  | .ge => x ≥ y

/-- The exact sum of a list of values with R150's rule for zero: -0 only when every term is -0. -/
def Exact.sum (xs : List Exact) : Exact :=
  match xs with
  | [] => .zero
  | x :: rest => rest.foldl (fun acc y => Exact.add .rn acc y) x

/-- Width in bits and signedness of an integer register type, none for the others. -/
def RegTy.intInfo? : RegTy → Option (Nat × Bool)
  | .s8 => some (8, true)
  | .s16 => some (16, true)
  | .s32 => some (32, true)
  | .s64 => some (64, true)
  | .n8 => some (8, false)
  | .n16 => some (16, false)
  | .n32 => some (32, false)
  | .n64 => some (64, false)
  | _ => none
/-- The float format of one element of a register type and its width. -/
def RegTy.floatFmt : RegTy → FloatFmt
  | .f16 | .f16x2 => .fp16
  | .bf16 | .bf16x2 => .bf16
  | .e4m3 => .e4m3fmt
  | .e5m2 => .e5m2
  | _ => .fp32

def intRange (w : Nat) (signed : Bool) : Int × Int :=
  if signed then (-(2 ^ (w - 1)), 2 ^ (w - 1) - 1) else (0, 2 ^ w - 1)

/-- The exact value that the low bits of a register hold under a type (R116). -/
def RegTy.value (t : RegTy) (x : Nat) : Exact :=
  match t.intInfo? with
  | some (w, true) => Exact.ofInt (signedOf w x)
  | some (w, false) => Exact.ofInt (x % 2 ^ w : Nat)
  | none => t.floatFmt.decode (x % (2 * t.floatFmt.signBit))

/-- The 32- or 64-bit register pattern of a value under a type, with R116's fill, and whether it saturated. -/
def RegTy.write (t : RegTy) (rnd : Rnd) (sat : Bool) (x : Exact) : Rounded :=
  match t.intInfo? with
  | some (w, signed) =>
    let (lo, hi) := intRange w signed
    let (n, s) := x.toInt rnd lo hi
    ⟨bitsOf (if w = 64 then 64 else 32) n, s⟩
  | none => t.floatFmt.round rnd sat x

/-- CVT's plain form on one lane (R334): an X2 type converts each half (log 28). -/
def cvtPlain (sat : Bool) (rnd : Rnd) (dt sty : RegTy) (x : Nat) : Rounded :=
  if dt.isX2 then
    let lo := dt.write rnd sat (sty.value (x % 65536))
    let hi := dt.write rnd sat (sty.value (x / 65536 % 65536))
    ⟨lo.bits % 65536 + (hi.bits % 65536) * 65536, lo.sat || hi.sat⟩
  else dt.write rnd sat (sty.value x)

/-- The FP32 constants of R113, as patterns. -/
def fp32Constant (n : BitVec 3) : Nat :=
  match n.toNat with
  | 0 => 0
  | 1 => 0x3F000000
  | 2 => 0x3F800000
  | 3 => 0x40000000
  | 4 => 0x40800000
  | 5 => 0xBF000000
  | 6 => 0xBF800000
  | _ => 0xC0000000
/-- The integer constants of R113. -/
def intConstant (n : BitVec 3) : Int :=
  match n.toNat with
  | 0 => 0
  | 1 => 1
  | 2 => 2
  | 3 => 4
  | 4 => 8
  | 5 => 16
  | 6 => -1
  | _ => -2

/-- Atomic and RED arithmetic on the operands' patterns (R200, R307). -/
def atomResult (op : AOp) (ty : ATy) (old x : Nat) : Nat :=
  let w := if ty.regs = 2 then 64 else 32
  let signed := ty = .s32 || ty = .s64
  let num (y : Nat) : Int := if signed then signedOf w y else (y % 2 ^ w : Nat)
  let fl : FTy := match ty with | .bf16x2 => .bf16x2 | .f16x2 => .f16x2 | _ => .f32
  match op with
  | .add => if ty.isFloat then fl.lift2 (floatAdd fl.fmt .rn false false) old x else (old + x) % 2 ^ w
  | .min => if ty.isFloat then fl.lift2 fl.fmt.min old x else if num x < num old then x % 2 ^ w else old
  | .max => if ty.isFloat then fl.lift2 fl.fmt.max old x else if num x > num old then x % 2 ^ w else old
  | .and => old &&& (x % 2 ^ w)
  | .or => old ||| (x % 2 ^ w)
  | .xor => old ^^^ (x % 2 ^ w)
  | .xchg => x % 2 ^ w

end Sys2Proof
end

