-- ==== Sys2Proof/Machine/Dbf.lean ====
section
/-! DEFINITION. The dual-exponent block float DBF (spec/06_numbers.md R138 to R141): element values, block layout, and the conversion of 32 values to a block. -/
namespace Sys2Proof

/-- The three DBF formats: element width 8, 6 or 4. -/
inductive DbfFmt | dbf8 | dbf6 | dbf4
  deriving DecidableEq, Repr

def DbfFmt.width : DbfFmt → Nat | .dbf8 => 8 | .dbf6 => 6 | .dbf4 => 4
/-- Magnitude bits m = w - 2 (R138). -/
def DbfFmt.mag (f : DbfFmt) : Nat := f.width - 2
/-- Bytes of a block (R139). -/
def DbfFmt.blockBytes : DbfFmt → Nat | .dbf8 => 34 | .dbf6 => 26 | .dbf4 => 18
/-- The exponent of the magnitude step under exponent byte E (R138). -/
def DbfFmt.step (f : DbfFmt) (e : Nat) : Int := (e : Int) - 127 - ((f.mag : Int) - 1)

/-- The value of one element (R138, R140). -/
def DbfFmt.element (f : DbfFmt) (eh el : Nat) (x : Nat) : Exact :=
  let neg := (x >>> (f.width - 1)) % 2 = 1
  let e := if (x >>> f.mag) % 2 = 1 then eh else el
  if e = 255 then .nan else .fin neg (x % 2 ^ f.mag) 1 (f.step e)

/-- The little-endian number of a list of bytes. -/
def natOfBytes : List Byte → Nat
  | [] => 0
  | b :: bs => b.toNat + 256 * natOfBytes bs
/-- The n low bytes of a number, least significant first. -/
def bytesOfNat (n x : Nat) : List Byte := (List.range n).map fun k => BitVec.ofNat 8 (x >>> (8 * k))

/-- The value of element i of a block given as bytes (R139). -/
def DbfFmt.readElement (f : DbfFmt) (blk : List Byte) (i : Nat) : Exact :=
  let x := natOfBytes (blk.drop 2)
  f.element (blk.getD 0 0).toNat (blk.getD 1 0).toNat ((x >>> (i * f.width)) % 2 ^ f.width)

/-- e(x) of R141 for a finite nonzero value, none otherwise. -/
def dbfExp (x : Exact) : Option Int :=
  match x with
  | .fin _ n d e => if n = 0 then none else some (floorLog2 n d e + 127)
  | _ => none

/-- Step 1 of R141 over the values given: EH. -/
def dbfHigh (xs : List Exact) : Nat :=
  match xs.filterMap dbfExp with
  | [] => if xs.any Exact.isInf then 254 else 0
  | e :: es => (min (max (es.foldl max e) 0) 254).toNat

/-- Step 3 of R141: the clamped magnitude under exponent E and whether the clamp took effect. -/
def DbfFmt.magnitude (f : DbfFmt) (e : Nat) (x : Exact) : Nat × Bool :=
  match x with
  | .nan => (0, false)
  | .inf _ => (2 ^ f.mag - 1, true)
  | .fin _ n d g =>
    let (a, b) := scaleFrac n d (g - f.step e)
    let m := roundFrac .rn false a b
    if m > 2 ^ f.mag - 1 then (2 ^ f.mag - 1, true) else (m, false)

/-- |x| - M x 2^step as a nonnegative integer in units of 2^-600 / den, the den being common to the block (R141). -/
def dbfError (f : DbfFmt) (e m : Nat) (x : Exact) : Nat :=
  match x with
  | .fin _ n d g =>
    let a := n <<< (g + 600).toNat
    let b := (m * d) <<< (f.step e + 600).toNat
    if a ≥ b then a - b else b - a
  | _ => 0

/-- One encoded element: its code, its error, and whether it saturates (R141 steps 3 and 4). -/
structure DbfElem where
  code : Nat
  err : Nat
  sat : Bool
  deriving DecidableEq, Repr

def DbfFmt.code (f : DbfFmt) (neg high : Bool) (m : Nat) : Nat :=
  (if neg then 2 ^ (f.width - 1) else 0) + (if high then 2 ^ f.mag else 0) + m

def DbfFmt.encodeElem (f : DbfFmt) (eh el : Nat) (x : Exact) : DbfElem :=
  let (mh, ch) := f.magnitude eh x
  let (ml, _) := f.magnitude el x
  let rh := dbfError f eh mh x
  let rl := dbfError f el ml x
  if x.isInf || rh ≤ rl then ⟨f.code x.negative true mh, rh, ch⟩
  else ⟨f.code x.negative false ml, rl, false⟩

/-- Step 5: an element of a block that holds a NaN. -/
def DbfFmt.encodeInNaN (f : DbfFmt) (el : Nat) (x : Exact) : DbfElem :=
  if x.isNaN then ⟨f.code false true 0, 0, false⟩
  else ⟨f.code x.negative false (f.magnitude el x).1, 0, x.isInf⟩

/-- A block as (EH, EL, element codes, saturated). -/
structure DbfBlock where
  eh : Nat
  el : Nat
  codes : List Nat
  sat : Bool
  deriving DecidableEq, Repr

/-- The sum of squared errors and the block under one gap (R141 step 2). -/
def DbfFmt.encodeGap (f : DbfFmt) (xs : List Exact) (eh g : Nat) : Nat × DbfBlock :=
  let el := eh - g
  let es := xs.map (f.encodeElem eh el)
  ((es.map fun e => e.err * e.err).foldl (· + ·) 0, ⟨eh, el, es.map DbfElem.code, es.any DbfElem.sat⟩)

/-- Keep the encoding of least squared error, the smaller gap on a tie (R141 step 2). -/
def DbfFmt.bestGap (f : DbfFmt) (xs : List Exact) (eh : Nat) : List Nat → Nat × DbfBlock → DbfBlock
  | [], best => best.2
  | g :: gs, best =>
    let c := f.encodeGap xs eh g
    f.bestGap xs eh gs (if c.1 < best.1 then c else best)

/-- EncodeDBF of 32 values already divided by the slot's scale (R141); gap 0 is automatic. -/
def DbfFmt.encode (f : DbfFmt) (gap : Nat) (xs : List Exact) : DbfBlock :=
  if xs.any Exact.isNaN then
    let el := dbfHigh (xs.filter fun x => !x.isNaN)
    let es := xs.map (f.encodeInNaN el)
    ⟨255, el, es.map DbfElem.code, es.any DbfElem.sat⟩
  else
    let eh := dbfHigh xs
    if gap = 0 then f.bestGap xs eh [4, 6, 8] (f.encodeGap xs eh 2) else (f.encodeGap xs eh gap).2

/-- The packed string of element codes (R139). -/
def packCodes (w : Nat) : List Nat → Nat
  | [] => 0
  | c :: cs => c + 2 ^ w * packCodes w cs

/-- The bytes of a block (R139). -/
def DbfBlock.bytes (f : DbfFmt) (b : DbfBlock) : List Byte :=
  BitVec.ofNat 8 b.eh :: BitVec.ofNat 8 b.el :: bytesOfNat (f.blockBytes - 2) (packCodes f.width b.codes)

end Sys2Proof
end

