-- ==== Sys2Proof/Decode.lean ====
section
/-! DEFINITION. Decoding and encoding of the 64-bit instruction words (spec/05_encoding.md R109 to R117, R122 to R125 and each entry's encoding table).
decode is total: a word gives one instruction or one of the decode causes that the word alone decides. encode is written from the same tables. -/
namespace Sys2Proof

/-- The decode causes of R123 that depend on the word alone. -/
inductive DecodeError
  | illegalOpcode | illegalField | illegalOperand
  deriving DecidableEq, Repr

/-- Bits lo to lo + n - 1 of a bit vector. -/
def field {w : Nat} (x : BitVec w) (lo n : Nat) : BitVec n := x.extractLsb' lo n

def Operand.code : Operand → BitVec 8
  | .v n => 0#1 ++ n
  | .s n => 0b10#2 ++ n
  | .p n => 0xC#4 ++ n
  | .special n => 0xD#4 ++ n
  | .mi n => 0b111000#6 ++ n
  | .mo n => 0b111001#6 ++ n
  | .reserved n => 0b11101#5 ++ n
  | .iconst n => 0b11110#5 ++ n
  | .fconst n => 0b11111#5 ++ n

def Operand.ofCode (c : BitVec 8) : Operand :=
  if c.toNat < 0x80 then .v (field c 0 7)
  else if c.toNat < 0xC0 then .s (field c 0 6)
  else if c.toNat < 0xD0 then .p (field c 0 4)
  else if c.toNat < 0xE0 then .special (field c 0 4)
  else if c.toNat < 0xE4 then .mi (field c 0 2)
  else if c.toNat < 0xE8 then .mo (field c 0 2)
  else if c.toNat < 0xF0 then .reserved (field c 0 3)
  else if c.toNat < 0xF8 then .iconst (field c 0 3)
  else .fconst (field c 0 3)

/-- BS and TK of format Q: 0xFF names none (R111, R112). -/
def optCode (o : Option Operand) : BitVec 8 :=
  match o with | some x => x.code | none => 0xFF#8
def optOfCode (c : BitVec 8) : Option Operand := if c = 0xFF#8 then none else some (Operand.ofCode c)

def boolBit (b : Bool) : BitVec 1 := BitVec.ofBool b
def bitBool (x : BitVec 1) : Bool := x = 1#1

-- The code of every modifier value, and the value of every assigned code.
def BTy.code : BTy → BitVec 5
  | .b32 => 15
  | .b64 => 16
def BTy.ofCode? (x : BitVec 5) : Option BTy :=
  match x.toNat with
  | 15 => some .b32
  | 16 => some .b64
  | _ => none
def ITy.code : ITy → BitVec 5
  | .s32 => 2
  | .n32 => 6
  | .s64 => 3
  | .n64 => 7
def ITy.ofCode? (x : BitVec 5) : Option ITy :=
  match x.toNat with
  | 2 => some .s32
  | 6 => some .n32
  | 3 => some .s64
  | 7 => some .n64
  | _ => none
def ITy.imod : ITy → BitVec 2
  | .s32 => 0
  | .n32 => 1
  | .s64 => 2
  | .n64 => 3
def ITy.ofImod? (x : BitVec 2) : Option ITy :=
  match x.toNat with
  | 0 => some .s32
  | 1 => some .n32
  | 2 => some .s64
  | 3 => some .n64
  | _ => none
def ITy.bfxImod : ITy → BitVec 2
  | .n32 => 0
  | .s32 => 1
  | .n64 => 2
  | .s64 => 3
def ITy.ofBfxImod? (x : BitVec 2) : Option ITy :=
  match x.toNat with
  | 0 => some .n32
  | 1 => some .s32
  | 2 => some .n64
  | 3 => some .s64
  | _ => none
def FTy.code : FTy → BitVec 5
  | .f32 => 8
  | .f16 => 9
  | .bf16 => 10
  | .f16x2 => 11
  | .bf16x2 => 12
def FTy.ofCode? (x : BitVec 5) : Option FTy :=
  match x.toNat with
  | 8 => some .f32
  | 9 => some .f16
  | 10 => some .bf16
  | 11 => some .f16x2
  | 12 => some .bf16x2
  | _ => none
def F3.code : F3 → BitVec 5
  | .f32 => 8
  | .f16 => 9
  | .bf16 => 10
def F3.ofCode? (x : BitVec 5) : Option F3 :=
  match x.toNat with
  | 8 => some .f32
  | 9 => some .f16
  | 10 => some .bf16
  | _ => none
def RegTy.code : RegTy → BitVec 5
  | .s8 => 0
  | .s16 => 1
  | .s32 => 2
  | .s64 => 3
  | .n8 => 4
  | .n16 => 5
  | .n32 => 6
  | .n64 => 7
  | .f32 => 8
  | .f16 => 9
  | .bf16 => 10
  | .f16x2 => 11
  | .bf16x2 => 12
  | .e4m3 => 13
  | .e5m2 => 14
def RegTy.ofCode? (x : BitVec 5) : Option RegTy :=
  match x.toNat with
  | 0 => some .s8
  | 1 => some .s16
  | 2 => some .s32
  | 3 => some .s64
  | 4 => some .n8
  | 5 => some .n16
  | 6 => some .n32
  | 7 => some .n64
  | 8 => some .f32
  | 9 => some .f16
  | 10 => some .bf16
  | 11 => some .f16x2
  | 12 => some .bf16x2
  | 13 => some .e4m3
  | 14 => some .e5m2
  | _ => none
def Rnd.code : Rnd → BitVec 2
  | .rn => 0
  | .rz => 1
  | .ru => 2
  | .rd => 3
def Rnd.ofCode? (x : BitVec 2) : Option Rnd :=
  match x.toNat with
  | 0 => some .rn
  | 1 => some .rz
  | 2 => some .ru
  | 3 => some .rd
  | _ => none
def Width.code : Width → BitVec 3
  | .w1 => 0
  | .w2 => 1
  | .w4 => 2
  | .w8 => 3
  | .w16 => 4
def Width.ofCode? (x : BitVec 3) : Option Width :=
  match x.toNat with
  | 0 => some .w1
  | 1 => some .w2
  | 2 => some .w4
  | 3 => some .w8
  | 4 => some .w16
  | _ => none
def ATy.code : ATy → BitVec 3
  | .s32 => 0
  | .n32 => 1
  | .s64 => 2
  | .n64 => 3
  | .f32 => 4
  | .bf16x2 => 5
  | .f16x2 => 6
def ATy.ofCode? (x : BitVec 3) : Option ATy :=
  match x.toNat with
  | 0 => some .s32
  | 1 => some .n32
  | 2 => some .s64
  | 3 => some .n64
  | 4 => some .f32
  | 5 => some .bf16x2
  | 6 => some .f16x2
  | _ => none
def AOp.code : AOp → BitVec 3
  | .add => 0
  | .min => 1
  | .max => 2
  | .and => 3
  | .or => 4
  | .xor => 5
  | .xchg => 6
def AOp.ofCode? (x : BitVec 3) : Option AOp :=
  match x.toNat with
  | 0 => some .add
  | 1 => some .min
  | 2 => some .max
  | 3 => some .and
  | 4 => some .or
  | 5 => some .xor
  | 6 => some .xchg
  | _ => none
def ITy.aty : ITy → BitVec 3
  | .s32 => 0
  | .n32 => 1
  | .s64 => 2
  | .n64 => 3
def ITy.ofAty? (x : BitVec 3) : Option ITy :=
  match x.toNat with
  | 0 => some .s32
  | 1 => some .n32
  | 2 => some .s64
  | 3 => some .n64
  | _ => none
def MulVar.code : MulVar → BitVec 2
  | .lo => 0
  | .hi => 1
  | .wide => 2
def MulVar.ofCode? (x : BitVec 2) : Option MulVar :=
  match x.toNat with
  | 0 => some .lo
  | 1 => some .hi
  | 2 => some .wide
  | _ => none
def BcntOp.code : BcntOp → BitVec 2
  | .pop => 0
  | .lzc => 1
  | .tzc => 2
def BcntOp.ofCode? (x : BitVec 2) : Option BcntOp :=
  match x.toNat with
  | 0 => some .pop
  | 1 => some .lzc
  | 2 => some .tzc
  | _ => none
def ICond.code : ICond → BitVec 4
  | .eq => 0
  | .ne => 1
  | .lt => 2
  | .le => 3
  | .gt => 4
  | .ge => 5
def ICond.ofCode? (x : BitVec 4) : Option ICond :=
  match x.toNat with
  | 0 => some .eq
  | 1 => some .ne
  | 2 => some .lt
  | 3 => some .le
  | 4 => some .gt
  | 5 => some .ge
  | _ => none
def FCond.code : FCond → BitVec 4
  | .eq => 0
  | .ne => 1
  | .lt => 2
  | .le => 3
  | .gt => 4
  | .ge => 5
  | .num => 6
  | .nan => 7
def FCond.ofCode? (x : BitVec 4) : Option FCond :=
  match x.toNat with
  | 0 => some .eq
  | 1 => some .ne
  | 2 => some .lt
  | 3 => some .le
  | 4 => some .gt
  | 5 => some .ge
  | 6 => some .num
  | 7 => some .nan
  | _ => none
def ShflMode.code : ShflMode → BitVec 2
  | .idx => 0
  | .up => 1
  | .dn => 2
  | .xor => 3
def ShflMode.ofCode? (x : BitVec 2) : Option ShflMode :=
  match x.toNat with
  | 0 => some .idx
  | 1 => some .up
  | 2 => some .dn
  | 3 => some .xor
  | _ => none
def VoteMode.code : VoteMode → BitVec 2
  | .all => 0
  | .any => 1
  | .uni => 2
  | .ballot => 3
def VoteMode.ofCode? (x : BitVec 2) : Option VoteMode :=
  match x.toNat with
  | 0 => some .all
  | 1 => some .any
  | 2 => some .uni
  | 3 => some .ballot
  | _ => none
def RedgOp.code : RedgOp → BitVec 4
  | .add => 0
  | .min => 1
  | .max => 2
  | .and => 3
  | .or => 4
  | .xor => 5
def RedgOp.ofCode? (x : BitVec 4) : Option RedgOp :=
  match x.toNat with
  | 0 => some .add
  | 1 => some .min
  | 2 => some .max
  | 3 => some .and
  | 4 => some .or
  | 5 => some .xor
  | _ => none
def RedgTy.code : RedgTy → BitVec 5
  | .s32 => 2
  | .n32 => 6
  | .s64 => 3
  | .n64 => 7
  | .f32 => 8
def RedgTy.ofCode? (x : BitVec 5) : Option RedgTy :=
  match x.toNat with
  | 2 => some .s32
  | 6 => some .n32
  | 3 => some .s64
  | 7 => some .n64
  | 8 => some .f32
  | _ => none
def Space.code : Space → BitVec 3
  | .global => 0
  | .local => 1
  | .peer => 2
  | .accum => 3
  | .host => 4
  | .tile => 5
def Space.ofCode? (x : BitVec 3) : Option Space :=
  match x.toNat with
  | 0 => some .global
  | 1 => some .local
  | 2 => some .peer
  | 3 => some .accum
  | 4 => some .host
  | 5 => some .tile
  | _ => none
def Split.code : Split → BitVec 2
  | .one => 0
  | .q4 => 1
  | .span => 2
def Split.ofCode? (x : BitVec 2) : Option Split :=
  match x.toNat with
  | 0 => some .one
  | 1 => some .q4
  | 2 => some .span
  | _ => none
def WSel.code : WSel → BitVec 4
  | .depth => 0
  | .spill => 1
  | .ring => 2
  | .spillcnt => 3
  | .refillcnt => 4
  | .reserve => 5
def WSel.ofCode? (x : BitVec 4) : Option WSel :=
  match x.toNat with
  | 0 => some .depth
  | 1 => some .spill
  | 2 => some .ring
  | 3 => some .spillcnt
  | 4 => some .refillcnt
  | 5 => some .reserve
  | _ => none
def SrcF.code : SrcF → BitVec 6
  | .raw => 0
  | .fp32 => 1
  | .fp16 => 2
  | .bf16 => 3
  | .e4m3 => 4
  | .e5m2 => 5
  | .dbf8 => 8
  | .dbf6 => 9
  | .dbf4 => 10
  | .int8 => 16
def SrcF.ofCode? (x : BitVec 6) : Option SrcF :=
  match x.toNat with
  | 0 => some .raw
  | 1 => some .fp32
  | 2 => some .fp16
  | 3 => some .bf16
  | 4 => some .e4m3
  | 5 => some .e5m2
  | 8 => some .dbf8
  | 9 => some .dbf6
  | 10 => some .dbf4
  | 16 => some .int8
  | _ => none
def SysReg.code : SysReg → BitVec 8
  | .nstat => 0
  | .cycle => 1
  | .formwait => 2
  | .rdlease => 3
  | .wrlease => 4
  | .rdcways => 5
  | .pceil => 8
  | .thot => 9
  | .pstat => 10
  | .tcause => 16
  | .tpc => 17
  | .tnext => 18
  | .tmask => 19
  | .taddr => 20
  | .tladdr => 21
  | .wdlimit => 24
  | .wdgrace => 25
  | .famkill => 26
def SysReg.ofCode? (x : BitVec 8) : Option SysReg :=
  match x.toNat with
  | 0 => some .nstat
  | 1 => some .cycle
  | 2 => some .formwait
  | 3 => some .rdlease
  | 4 => some .wrlease
  | 5 => some .rdcways
  | 8 => some .pceil
  | 9 => some .thot
  | 10 => some .pstat
  | 16 => some .tcause
  | 17 => some .tpc
  | 18 => some .tnext
  | 19 => some .tmask
  | 20 => some .taddr
  | 21 => some .tladdr
  | 24 => some .wdlimit
  | 25 => some .wdgrace
  | 26 => some .famkill
  | _ => none

/-- Bits 50:0 of a word, by format (R111); bit 50 is 0 in format A and 1 in format I. -/
structure FieldsA where
  d : BitVec 8
  s1 : BitVec 8
  s2 : BitVec 8
  s3 : BitVec 8
  la : BitVec 4
  mod : BitVec 14
  deriving DecidableEq, Repr
structure FieldsI where
  d : BitVec 8
  s1 : BitVec 8
  imod : BitVec 2
  imm : BitVec 32
  deriving DecidableEq, Repr
structure FieldsM where
  la : BitVec 4
  d : BitVec 8
  ab : BitVec 8
  s2 : BitVec 8
  op3 : BitVec 3
  w : BitVec 3
  aty : BitVec 3
  ch : BitVec 2
  poll : BitVec 1
  off : BitVec 11
  deriving DecidableEq, Repr
structure FieldsX where
  la : BitVec 4
  pr : BitVec 1
  ac : BitVec 2
  ta : BitVec 3
  tb : BitVec 3
  hb : BitVec 1
  kt : BitVec 2
  bs : BitVec 8
  hs : BitVec 8
  fa : BitVec 3
  fb : BitVec 3
  mod : BitVec 13
  deriving DecidableEq, Repr
structure FieldsQ where
  la : BitVec 4
  dsp : BitVec 3
  ssp : BitVec 3
  ds : BitVec 8
  bs : BitVec 8
  tk : BitVec 8
  fs : BitVec 3
  mod : BitVec 14
  deriving DecidableEq, Repr
structure FieldsC where
  ra : BitVec 8
  sl : BitVec 4
  rsv : BitVec 3
  mod4 : BitVec 4
  off : BitVec 32
  deriving DecidableEq, Repr
structure FieldsS where
  la : BitVec 4
  d : BitVec 8
  s1 : BitVec 8
  s2 : BitVec 8
  imm : BitVec 23
  deriving DecidableEq, Repr

inductive Fields
  | a (f : FieldsA) | i (f : FieldsI) | m (f : FieldsM) | x (f : FieldsX) | q (f : FieldsQ) | c (f : FieldsC) | s (f : FieldsS)
  deriving DecidableEq, Repr

/-- A word cut into opcode, guard and the fields of its format. -/
structure WordFields where
  opc : BitVec 8
  guard : Guard
  fields : Fields
  deriving DecidableEq, Repr

def Fields.body : Fields → BitVec 51
  | .a f => 0#1 ++ f.d ++ f.s1 ++ f.s2 ++ f.s3 ++ f.la ++ f.mod
  | .i f => 1#1 ++ f.d ++ f.s1 ++ f.imod ++ f.imm
  | .m f => f.la ++ f.d ++ f.ab ++ f.s2 ++ f.op3 ++ f.w ++ f.aty ++ f.ch ++ f.poll ++ f.off
  | .x f => f.la ++ f.pr ++ f.ac ++ f.ta ++ f.tb ++ f.hb ++ f.kt ++ f.bs ++ f.hs ++ f.fa ++ f.fb ++ f.mod
  | .q f => f.la ++ f.dsp ++ f.ssp ++ f.ds ++ f.bs ++ f.tk ++ f.fs ++ f.mod
  | .c f => f.ra ++ f.sl ++ f.rsv ++ f.mod4 ++ f.off
  | .s f => f.la ++ f.d ++ f.s1 ++ f.s2 ++ f.imm

def WordFields.join (w : WordFields) : BitVec 64 := w.opc ++ w.guard.pg ++ boolBit w.guard.pn ++ w.fields.body

/-- The guard bits, at one place in every format (R109). -/
def guardBits (w : BitVec 64) : Guard := ⟨field w 52 4, w.getLsbD 51⟩
/-- Bits 7:5 of an opcode: its engine class (R104). -/
def opcClass (opc : BitVec 8) : Nat := opc.toNat / 32

def splitA (b : BitVec 51) : FieldsA := ⟨field b 42 8, field b 34 8, field b 26 8, field b 18 8, field b 14 4, field b 0 14⟩
def splitI (b : BitVec 51) : FieldsI := ⟨field b 42 8, field b 34 8, field b 32 2, field b 0 32⟩
def splitM (b : BitVec 51) : FieldsM :=
  ⟨field b 47 4, field b 39 8, field b 31 8, field b 23 8, field b 20 3, field b 17 3, field b 14 3, field b 12 2, field b 11 1, field b 0 11⟩
def splitX (b : BitVec 51) : FieldsX :=
  ⟨field b 47 4, field b 46 1, field b 44 2, field b 41 3, field b 38 3, field b 37 1, field b 35 2, field b 27 8, field b 19 8, field b 16 3,
    field b 13 3, field b 0 13⟩
def splitQ (b : BitVec 51) : FieldsQ :=
  ⟨field b 47 4, field b 44 3, field b 41 3, field b 33 8, field b 25 8, field b 17 8, field b 14 3, field b 0 14⟩
def splitC (b : BitVec 51) : FieldsC := ⟨field b 43 8, field b 39 4, field b 36 3, field b 32 4, field b 0 32⟩
def splitS (b : BitVec 51) : FieldsS := ⟨field b 47 4, field b 39 8, field b 31 8, field b 23 8, field b 0 23⟩

/-- The fields of a body in the format of its class (R104, R111). -/
def splitBody (cls : Nat) (b : BitVec 51) : Fields :=
  match cls with
  | 0 | 5 => if field b 50 1 = 1#1 then .i (splitI b) else .a (splitA b)
  | 1 => .m (splitM b)
  | 2 => .x (splitX b)
  | 3 => .q (splitQ b)
  | 4 => .c (splitC b)
  | _ => .s (splitS b)

def splitWord (w : BitVec 64) : WordFields :=
  let opc := field w 56 8
  ⟨opc, ⟨field w 52 4, bitBool (field w 51 1)⟩, splitBody (opcClass opc) (field w 0 51)⟩

/-- The 120 assigned opcodes (R122). -/
def assigned (opc : BitVec 8) : Bool :=
  let o := opc.toNat
  o ≤ 0x31 || (0x40 ≤ o && o ≤ 0x4A) || (0x60 ≤ o && o ≤ 0x68) || (0x80 ≤ o && o ≤ 0x91) || (0xA0 ≤ o && o ≤ 0xAB) ||
    (0xC0 ≤ o && o ≤ 0xD3)

/-- Format A with no lookahead, format A with lookahead, and format I. -/
def fmtA (d s1 s2 s3 : BitVec 8) (mod : BitVec 14) : Fields := .a ⟨d, s1, s2, s3, 0, mod⟩
def fmtAL (la : BitVec 4) (d s1 : BitVec 8) (mod : BitVec 14) : Fields := .a ⟨d, s1, 0, 0, la, mod⟩
def fmtI (d s1 : BitVec 8) (imod : BitVec 2) (imm : BitVec 32) : Fields := .i ⟨d, s1, imod, imm⟩

def FTy.imod : FTy → BitVec 2
  | .f32 => 0 | .f16 => 1 | .bf16 => 2 | _ => 3
def FTy.ofImod? (x : BitVec 2) : Option FTy :=
  match x.toNat with
  | 0 => some .f32
  | 1 => some .f16
  | 2 => some .bf16
  | _ => none

def BTy.shiftImod : BTy → BitVec 2 | .b32 => 0 | .b64 => 1
def BTy.ofShiftImod? (x : BitVec 2) : Option BTy :=
  match x.toNat with
  | 0 => some .b32
  | 1 => some .b64
  | _ => none
/-- IMOD of AND and MOV: .B32, .B64 zero-extended, .B64 sign-extended (R306, R375). -/
def logicImod (ty : BTy) (sx : Bool) : BitVec 2 :=
  match ty, sx with | .b32, _ => 0 | .b64, false => 1 | .b64, true => 2
def ofLogicImod? (x : BitVec 2) : Option (BTy × Bool) :=
  match x.toNat with
  | 0 => some (.b32, false)
  | 1 => some (.b64, false)
  | 2 => some (.b64, true)
  | _ => none
/-- IMOD of LEA: .B64 sign-extended, .B32 (R369). -/
def ofLeaImod? (x : BitVec 2) : Option (Bool × Bool) :=
  match x.toNat with
  | 0 => some (false, true)
  | 1 => some (true, false)
  | _ => none

def mod5 (ty : BitVec 5) : BitVec 14 := 0#9 ++ ty
def logicFields (a : LogicArgs) : Fields :=
  match a.s2 with
  | .reg o => fmtA a.d.code a.s1.code o.code 0 (mod5 a.ty.code)
  | .imm sx v => fmtI a.d.code a.s1.code (logicImod a.ty sx) v
def shiftFields (a : ShiftArgs) : Fields :=
  match a.s2 with
  | .reg o => fmtA a.d.code a.s1.code o.code 0 (mod5 a.ty.code)
  | .imm v => fmtI a.d.code a.s1.code a.ty.shiftImod v
def intMod (ty : ITy) (var : BitVec 2) : BitVec 14 := 0#7 ++ var ++ ty.code
def satVar (sat : Bool) : BitVec 2 := 0#1 ++ boolBit sat
def intFields (ty : ITy) (var : BitVec 2) (d s1 : Operand) (s2 : Src) (s3 : BitVec 8) : Fields :=
  match s2 with
  | .reg o => fmtA d.code s1.code o.code s3 (intMod ty var)
  | .imm v => fmtI d.code s1.code ty.imod v
def floatMod (ty : FTy) (rnd : Rnd) (n1 n2 n3 : Bool) : BitVec 14 :=
  0#3 ++ boolBit n3 ++ boolBit n2 ++ boolBit n1 ++ 0#1 ++ rnd.code ++ ty.code
def floatFields (ty : FTy) (rnd : Rnd) (n1 n2 n3 : Bool) (d s1 : Operand) (s2 : Src) (s3 : BitVec 8) : Fields :=
  match s2 with
  | .reg o => fmtA d.code s1.code o.code s3 (floatMod ty rnd n1 n2 n3)
  | .imm v => fmtI d.code s1.code ty.imod v
def cmpMod (cond : BitVec 4) (ty : BitVec 5) : BitVec 14 := 0#5 ++ cond ++ ty
def sfuFields (a : SfuArgs) : Fields := fmtAL a.la a.d.code a.s1.code (mod5 a.ty.code)
def cvtMod : CvtForm → BitVec 14
  | .plain sat rnd dt sty => 0#1 ++ boolBit sat ++ rnd.code ++ dt.code ++ sty.code
  | .toSlot ty fs => 1#1 ++ 0#2 ++ 0#2 ++ ty.code ++ 0#1 ++ fs
  | .fromSlot rnd ty fs => 1#1 ++ 0#2 ++ rnd.code ++ ty.code ++ 1#1 ++ fs

def loadFields (a : LoadArgs) (poll : Bool) : Fields :=
  .m ⟨a.la, a.d.code, a.ab.code, 0, 0, a.w.code, 0#2 ++ boolBit a.sx, a.ch, boolBit poll, a.off⟩
def storeFields (a : StoreArgs) : Fields := .m ⟨0, 0, a.ab.code, a.s2.code, 0, a.w.code, 0, a.ch, 0, a.off⟩
/-- W of an atomic matches its type (R307). -/
def ATy.width (ty : ATy) : BitVec 3 := if ty.regs = 2 then 3 else 2
def ITy.width (ty : ITy) : BitVec 3 := if ty.regs = 2 then 3 else 2
def atomFields (a : AtomArgs) : Fields := .m ⟨a.la, a.d.code, a.ab.code, a.s2.code, a.op.code, a.ty.width, a.ty.code, 0, 0, a.off⟩
def casFields (a : CasArgs) : Fields := .m ⟨a.la, a.d.code, a.ab.code, a.s2.code, 0, a.ty.width, a.ty.aty, 0, 0, a.off⟩
def lineFields (a : LineArgs) (op3 : BitVec 3) : Fields := .m ⟨0, 0, a.ab.code, 0, op3, 0, 0, 0, 0, a.off⟩
def fenceFields (op3 : BitVec 3) : Fields := .m ⟨0, 0, 0, 0, op3, 0, 0, 0, 0, 0⟩
def queueFields (a : QueueArgs) (op3 : BitVec 3) : Fields := .m ⟨a.la, a.d.code, a.ab.code, a.s2.code, op3, a.w.code, 0, 0, 0, 0⟩
def accFields (a : AccArgs) : Fields := .x ⟨a.la, 0, a.ac, 0, 0, 0, 0, 0, a.r.code, a.fa, 0, 0#7 ++ a.cb ++ a.row⟩
def taskFields (tk : Operand) : Fields := .q ⟨0, 0, 0, 0, 0xFF, tk.code, 0, 0⟩
def ctl (ra : BitVec 8) (mod4 : BitVec 4) (off : BitVec 32) : Fields := .c ⟨ra, 0, 0, mod4, off⟩
def syn (la : BitVec 4) (d s1 s2 : BitVec 8) (imm : BitVec 23) : Fields := .s ⟨la, d, s1, s2, imm⟩
def barImm (clr : Bool) (off : BitVec 16) : BitVec 23 := 0#6 ++ boolBit clr ++ off

/-- The opcode of every instruction (R122). -/
def Instr.opcode : Instr → BitVec 8
  | .nop => 0x00 | .mov .. => 0x01 | .iadd .. => 0x02 | .isub .. => 0x03 | .imul .. => 0x04 | .imad .. => 0x05 | .imin .. => 0x06 | .imax .. => 0x07
  | .and .. => 0x08 | .or .. => 0x09 | .xor .. => 0x0A | .andn .. => 0x0B | .shl .. => 0x0C | .shr .. => 0x0D | .sar .. => 0x0E | .bcnt .. => 0x0F
  | .bfx .. => 0x10 | .bfi .. => 0x11 | .fadd .. => 0x12 | .fmul .. => 0x13 | .ffma .. => 0x14 | .fmin .. => 0x15 | .fmax .. => 0x16
  | .icmp .. => 0x17 | .fcmp .. => 0x18 | .sel .. => 0x19 | .plop .. => 0x1A | .shfl .. => 0x1B | .vote .. => 0x1C | .perm .. => 0x1D
  | .redg .. => 0x1E | .lea .. => 0x1F
  | .ld .. => 0x20 | .ldPoll .. => 0x20 | .st .. => 0x21 | .lds .. => 0x22 | .sts .. => 0x23 | .ldc .. => 0x24 | .atom .. => 0x25 | .red .. => 0x26
  | .atoms .. => 0x27 | .cas .. => 0x28 | .cass .. => 0x29 | .ldp .. => 0x2A | .stp .. => 0x2B | .atomp .. => 0x2C | .prefL1 .. => 0x2D | .prefLlc .. => 0x2D
  | .fenceRepl .. => 0x2E | .fenceHost .. => 0x2E | .fenceEng .. => 0x2E | .fenceAll .. => 0x2E | .cmntWb .. => 0x2F | .cmntDrop .. => 0x2F
  | .qpush .. => 0x30 | .qpop .. => 0x31 | .qpopWait .. => 0x31
  | .mmad .. => 0x40 | .azero .. => 0x41 | .tbuild .. => 0x42 | .lutmm .. => 0x43 | .tbinv .. => 0x44 | .tbqry .. => 0x45 | .accrd .. => 0x46
  | .accwr .. => 0x47 | .twr .. => 0x48 | .trd .. => 0x49 | .mengq .. => 0x4A
  | .cpy .. => 0x60 | .tload .. => 0x61 | .tstore .. => 0x62 | .tdesc .. => 0x63 | .cpyq .. => 0x64 | .cpycan .. => 0x65 | .coll .. => 0x66
  | .tsig .. => 0x67 | .tpost .. => 0x68
  | .braM .. => 0x80 | .braS .. => 0x80 | .brx .. => 0x81 | .call .. => 0x82 | .callx .. => 0x83 | .ret .. => 0x84 | .join => 0x85 | .exit .. => 0x86
  | .trap .. => 0x87 | .wflush .. => 0x88 | .wstat .. => 0x89 | .elect .. => 0x8A | .launch .. => 0x8B | .grow .. => 0x8C | .yield .. => 0x8D
  | .brk .. => 0x8E | .gsr .. => 0x8F | .ssr .. => 0x90 | .famkillWrite .. => 0x90 | .eret .. => 0x91 | .eretSkip .. => 0x91
  | .rcp .. => 0xA0 | .rsq .. => 0xA1 | .sqrt .. => 0xA2 | .exp2 .. => 0xA3 | .log2 .. => 0xA4 | .sin .. => 0xA5 | .cos .. => 0xA6 | .tanh .. => 0xA7
  | .cvt .. => 0xA8 | .frnd .. => 0xA9 | .dbfpk .. => 0xAA | .dbfunpk .. => 0xAB
  | .wait .. => 0xC0 | .binit .. => 0xC1 | .barrive .. => 0xC2 | .bwait .. => 0xC3 | .btry .. => 0xC4 | .binval .. => 0xC5 | .bstat .. => 0xC6
  | .bstatClr .. => 0xC6 | .gbarrive .. => 0xC7 | .gbwait .. => 0xC8 | .racq .. => 0xC9 | .rcommit .. => 0xCA | .rwait .. => 0xCB | .rfree .. => 0xCC
  | .tsync .. => 0xCD | .chanbind .. => 0xCE | .msgsend .. => 0xCF | .msgrecv .. => 0xD0 | .pwrreq .. => 0xD1 | .perflvl .. => 0xD2 | .pwrrel .. => 0xD3
  | _ => 0xFF

/-- The guard a word carries; NOP and JOIN have none (R362, R379). -/
def Instr.guard : Instr → Guard
  | .mov g _ | .iadd g _ | .isub g _ | .imul g _ | .imad g _ | .imin g _ | .imax g _ | .and g _ | .andn g _ | .or g _ | .xor g _
  | .shl g _ | .shr g _ | .sar g _ | .bcnt g _ | .bfx g _ | .bfi g _ | .fadd g _ | .fmul g _ | .ffma g _ | .fmin g _ | .fmax g _
  | .icmp g _ | .fcmp g _ | .sel g _ | .plop g _ | .shfl g _ | .vote g _ | .perm g _ | .redg g _ | .lea g _
  | .ld g _ | .ldPoll g _ | .ldc g _ | .lds g _ | .ldp g _ | .st g _ | .sts g _ | .stp g _ | .atom g _ | .atoms g _ | .atomp g _
  | .red g _ | .cas g _ | .cass g _ | .prefL1 g _ | .prefLlc g _ | .fenceRepl g | .fenceHost g | .fenceEng g | .fenceAll g
  | .cmntWb g _ | .cmntDrop g _ | .qpush g _ | .qpop g _ | .qpopWait g _
  | .mmad g _ | .azero g _ _ | .tbuild g _ | .lutmm g _ | .tbinv g _ _ | .tbqry g _ | .accrd g _ | .accwr g _ | .twr g _ | .trd g _ | .mengq g _
  | .cpy g _ | .tload g _ | .tstore g _ | .tdesc g _ | .cpyq g _ | .cpycan g _ | .coll g _ | .tpost g _ | .tsig g _
  | .braM g _ | .braS g _ | .brx g _ | .call g _ _ | .callx g _ _ | .ret g | .exit g | .trap g _ | .brk g | .wflush g | .wstat g _ _
  | .elect g _ _ | .launch g _ _ | .grow g _ _ | .yield g | .gsr g _ _ | .ssr g _ _ | .famkillWrite g _ | .eret g | .eretSkip g
  | .rcp g _ | .rsq g _ | .sqrt g _ | .exp2 g _ | .log2 g _ | .sin g _ | .cos g _ | .tanh g _ | .cvt g _ | .frnd g _ | .dbfpk g _ | .dbfunpk g _
  | .wait g _ | .binit g _ | .barrive g _ | .bwait g _ | .btry g _ | .binval g _ | .bstat g _ | .bstatClr g _ | .gbarrive g _ | .gbwait g _
  | .racq g _ | .rcommit g _ | .rwait g _ | .rfree g _ | .tsync g | .chanbind g _ | .msgsend g _ | .msgrecv g _ | .pwrreq g _ | .pwrrel g _ _
  | .perflvl g _ => g
  | _ => ⟨0, false⟩

/-- Bits 50:0 of an instruction, from its entry's encoding table. -/
def Instr.toFields : Instr → Fields
  | .nop => fmtA 0 0 0 0 0
  | .mov _ a =>
    match a.s1 with
    | .reg o => fmtA a.d.code o.code 0 0 (mod5 a.ty.code)
    | .imm sx v => fmtI a.d.code 0 (logicImod a.ty sx) v
  | .iadd _ a | .isub _ a => intFields a.ty (satVar a.sat) a.d a.s1 a.s2 0
  | .imul _ a => intFields a.ty a.var.code a.d a.s1 a.s2 0
  | .imad _ a => intFields a.ty (satVar a.sat) a.d a.s1 a.s2 a.s3.code
  | .imin _ a | .imax _ a => intFields a.ty 0 a.d a.s1 a.s2 0
  | .and _ a | .andn _ a | .or _ a | .xor _ a => logicFields a
  | .shl _ a | .shr _ a | .sar _ a => shiftFields a
  | .bcnt _ a => fmtA a.d.code a.s1.code 0 0 (0#7 ++ a.op.code ++ a.ty.code)
  | .bfx _ a =>
    match a.pl with
    | .regs p l => fmtA a.d.code a.s1.code p.code l.code (mod5 a.ty.code)
    | .imm p l => fmtI a.d.code a.s1.code a.ty.bfxImod (0#16 ++ l ++ p)
  | .bfi _ a => fmtA a.d.code a.s1.code a.s2.code a.s3.code (mod5 a.ty.code)
  | .fadd _ a | .fmul _ a => floatFields a.ty a.rnd a.n1 a.n2 false a.d a.s1 a.s2 0
  | .ffma _ a => floatFields a.ty a.rnd a.n1 a.n2 a.n3 a.d a.s1 a.s2 a.s3.code
  | .fmin _ a | .fmax _ a => floatFields a.ty .rn false false false a.d a.s1 a.s2 0
  | .icmp _ a => fmtA a.d.code a.s1.code a.s2.code 0 (cmpMod a.cond.code a.ty.code)
  | .fcmp _ a => fmtA a.d.code a.s1.code a.s2.code 0 (cmpMod a.cond.code a.ty.code)
  | .sel _ a => fmtA a.d.code a.s1.code a.s2.code a.s3.code (mod5 a.ty.code)
  | .plop _ a => fmtA a.d.code a.s1.code a.s2.code a.s3.code (0#6 ++ a.lut)
  | .shfl _ a =>
    match a.s2 with
    | .reg o => fmtA a.d.code a.s1.code o.code 0 (0#7 ++ a.mode.code ++ a.ty.code)
    | .imm v => fmtI a.d.code a.s1.code a.mode.code v
  | .vote _ a => fmtA a.d.code a.s1.code 0 0 (0#7 ++ a.mode.code ++ 0#5)
  | .perm _ a =>
    match a.s2 with
    | .reg o => fmtA a.d.code a.s1.code o.code 0 (mod5 a.ty.code)
    | .imm v => fmtI a.d.code a.s1.code a.ty.shiftImod v
  | .redg _ a => fmtA a.d.code a.s1.code 0 0 (cmpMod a.op.code a.ty.code)
  | .lea _ a =>
    match a.s2 with
    | .reg o => fmtA a.d.code a.s1.code o.code 0 (0#7 ++ boolBit a.n32 ++ boolBit a.sx ++ a.sh)
    | .imm v => fmtI a.d.code a.s1.code (if a.n32 then 1 else 0) v
  | .rcp _ a | .rsq _ a | .sqrt _ a | .exp2 _ a | .log2 _ a | .sin _ a | .cos _ a | .tanh _ a => sfuFields a
  | .cvt _ a => fmtAL a.la a.d.code a.s1.code (cvtMod a.form)
  | .frnd _ a => fmtAL a.la a.d.code a.s1.code (0#7 ++ a.rnd.code ++ a.ty.code)
  | .dbfpk _ a => fmtAL a.la a.d.code a.s1.code (0#11 ++ a.fs)
  | .dbfunpk _ a => fmtAL a.la a.d.code a.s1.code (0#4 ++ a.rnd.code ++ a.dt.code ++ a.fs)
  | .ld _ a | .ldc _ a | .lds _ a | .ldp _ a => loadFields a false
  | .ldPoll _ a => loadFields a true
  | .st _ a | .sts _ a | .stp _ a => storeFields a
  | .atom _ a | .atoms _ a | .atomp _ a => atomFields a
  | .red _ a => atomFields ⟨0, .v 0, a.ab, a.s2, a.op, a.ty, a.off⟩
  | .cas _ a | .cass _ a => casFields a
  | .prefL1 _ a | .cmntWb _ a => lineFields a 0
  | .prefLlc _ a | .cmntDrop _ a => lineFields a 1
  | .fenceRepl _ => fenceFields 1
  | .fenceHost _ => fenceFields 2
  | .fenceEng _ => fenceFields 3
  | .fenceAll _ => fenceFields 7
  | .qpush _ a | .qpop _ a => queueFields a 0
  | .qpopWait _ a => queueFields a 1
  | .mmad _ a => .x ⟨0, boolBit a.pr, a.ac, a.ta, a.tb, boolBit a.hb, 0, a.bs.code, a.hs.code, a.fa, a.fb, 0⟩
  | .lutmm _ a => .x ⟨0, boolBit a.pr, a.ac, 0, a.tb, boolBit a.hb, a.kt, a.bs.code, a.hs.code, a.fa, a.fb, 0⟩
  | .tbuild _ a => .x ⟨0, boolBit a.pr, 0, a.ta, 0, 0, a.kt, a.bs.code, 0, a.fa, a.fb, 0#11 ++ a.kq⟩
  | .azero _ pr ac => .x ⟨0, boolBit pr, ac, 0, 0, 0, 0, 0, 0, 0, 0, 0⟩
  | .tbinv _ pr kt => .x ⟨0, boolBit pr, 0, 0, 0, 0, kt, 0, 0, 0, 0, 0⟩
  | .tbqry _ a => .x ⟨a.la, 0, 0, 0, 0, 0, a.kt, 0, a.d.code, 0, 0, 0#10 ++ a.bench⟩
  | .accrd _ a | .accwr _ a => accFields a
  | .twr _ a | .trd _ a => .x ⟨a.la, 0, 0, a.ta, 0, 0, 0, 0, a.r.code, 0, 0, 0#1 ++ a.row ++ 0#6⟩
  | .mengq _ a => .x ⟨a.la, boolBit a.pr, 0, 0, 0, 0, 0, 0, a.d.code, 0, 0, 0#10 ++ a.query⟩
  | .cpy _ a => .q ⟨0, a.dsp.code, a.ssp.code, a.ds.code, optCode a.bs, optCode a.tk, a.fs, 0#8 ++ a.srcf.code⟩
  | .tload _ a => .q ⟨0, 5, a.sp.code, a.ds.code, optCode a.bs, optCode a.tk, a.fs, 0#6 ++ a.split.code ++ a.srcf.code⟩
  | .tstore _ a => .q ⟨0, a.sp.code, 5, a.ds.code, optCode a.bs, optCode a.tk, a.fs, 0#6 ++ a.split.code ++ a.srcf.code⟩
  | .tdesc _ a => .q ⟨a.la, 0, a.ssp.code, a.ds.code, 0xFF, 0xFF, 0, a.hd.code ++ 0#3 ++ a.slot⟩
  | .cpyq _ a => .q ⟨a.la, 0, 0, a.ds.code, 0xFF, a.tk.code, 0, 0⟩
  | .cpycan _ tk | .tpost _ tk | .tsig _ tk => taskFields tk
  | .coll _ a => .q ⟨0, 0, 0, a.ds.code, optCode a.bs, optCode a.tk, 0, 0⟩
  | .braM _ off => ctl 0 0 off
  | .braS _ off => ctl 0 1 off
  | .brx _ ra => ctl ra.code 0 0
  | .call _ sl off => .c ⟨0, sl, 0, 0, off⟩
  | .callx _ ra sl => .c ⟨ra.code, sl, 0, 0, 0⟩
  | .ret _ | .join | .exit _ | .brk _ | .wflush _ | .yield _ | .eret _ => ctl 0 0 0
  | .eretSkip _ => ctl 0 1 0
  | .trap _ n => ctl 0 0 (0#16 ++ n)
  | .wstat _ d ws => ctl d.code ws.code 0
  | .elect _ d sform => ctl d.code (0#3 ++ boolBit sform) 0
  | .launch _ d ar => ctl d.code 0 (0#24 ++ ar.code)
  | .grow _ d n => ctl d.code 0 (0#24 ++ n.code)
  | .gsr _ d r => ctl d.code 0 (0#24 ++ r.code)
  | .ssr _ s r => ctl s.code 0 (0#24 ++ r.code)
  | .famkillWrite _ s => ctl s.code 0 0x1A
  | .wait _ a => syn 0 0 0 0 (0#12 ++ boolBit a.res ++ a.thr ++ a.mask)
  | .binit _ a | .bwait _ a => syn 0 0 a.s1.code a.s2.code (barImm false a.off)
  | .barrive _ a | .bstat _ a => syn a.la a.d.code a.s1.code 0 (barImm false a.off)
  | .bstatClr _ a => syn a.la a.d.code a.s1.code 0 (barImm true a.off)
  | .btry _ a => syn a.la a.d.code a.s1.code a.s2.code (barImm false a.off)
  | .binval _ a => syn 0 0 a.s1.code 0 (barImm false a.off)
  | .gbarrive _ a => syn a.la a.d.code a.s1.code 0 (0#11 ++ a.imm)
  | .gbwait _ a => syn 0 0 a.s1.code a.s2.code (0#11 ++ a.imm)
  | .racq _ a | .rwait _ a => syn a.la a.d.code 0 0 (0#21 ++ a.ring)
  | .rcommit _ a | .rfree _ a => syn 0 0 a.s1.code 0 (0#21 ++ a.ring)
  | .tsync _ => syn 0 0 0 0 0
  | .chanbind _ a => syn 0 0 a.s1.code 0 (0#19 ++ a.mi ++ a.mo)
  | .msgsend _ a => syn 0 a.d.code a.s1.code 0 (0#22 ++ boolBit a.b64)
  | .msgrecv _ a => syn a.la a.d.code a.s1.code 0 (0#18 ++ boolBit a.nb ++ a.pq)
  | .pwrreq _ a => syn a.la a.d.code a.s1.code 0 0
  | .pwrrel _ la d => syn la d.code 0 0 0
  | .perflvl _ s1 => syn 0 0 s1.code 0 0
  | _ => fmtA 0 0 0 0 0

def Instr.toWord (i : Instr) : WordFields := ⟨i.opcode, i.guard, i.toFields⟩

/-- The word of an instruction; a step of another agent has none. -/
def encode (i : Instr) : Option (BitVec 64) := if i.isWord then some i.toWord.join else none

-- Reading the fields. Each function gives the one instruction the fields could stand for; parse then checks that they are its fields.

def readSrc (f : FieldsA) : Src := .reg (Operand.ofCode f.s2)

def parseLogic (f : Fields) : Option LogicArgs :=
  match f with
  | .a f => do return ⟨← BTy.ofCode? (field f.mod 0 5), .ofCode f.d, .ofCode f.s1, .reg (.ofCode f.s2)⟩
  | .i f => do
    let (ty, sx) ← ofLogicImod? f.imod
    return ⟨ty, .ofCode f.d, .ofCode f.s1, .imm sx f.imm⟩
  | _ => none
def parseMov (f : Fields) : Option MovArgs :=
  match f with
  | .a f => do return ⟨← BTy.ofCode? (field f.mod 0 5), .ofCode f.d, .reg (.ofCode f.s1)⟩
  | .i f => do
    let (ty, sx) ← ofLogicImod? f.imod
    return ⟨ty, .ofCode f.d, .imm sx f.imm⟩
  | _ => none
def parseShift (f : Fields) : Option ShiftArgs :=
  match f with
  | .a f => do return ⟨← BTy.ofCode? (field f.mod 0 5), .ofCode f.d, .ofCode f.s1, readSrc f⟩
  | .i f => do return ⟨← BTy.ofShiftImod? f.imod, .ofCode f.d, .ofCode f.s1, .imm f.imm⟩
  | _ => none
def parseInt (f : Fields) : Option IntArgs :=
  match f with
  | .a f => do return ⟨← ITy.ofCode? (field f.mod 0 5), bitBool (field f.mod 5 1), .ofCode f.d, .ofCode f.s1, readSrc f⟩
  | .i f => do return ⟨← ITy.ofImod? f.imod, false, .ofCode f.d, .ofCode f.s1, .imm f.imm⟩
  | _ => none
def parseIMul (f : Fields) : Option IMulArgs :=
  match f with
  | .a f => do
    return ⟨← ITy.ofCode? (field f.mod 0 5), ← MulVar.ofCode? (field f.mod 5 2), .ofCode f.d, .ofCode f.s1, readSrc f⟩
  | .i f => do return ⟨← ITy.ofImod? f.imod, .lo, .ofCode f.d, .ofCode f.s1, .imm f.imm⟩
  | _ => none
def parseIMad (f : Fields) : Option IMadArgs :=
  match f with
  | .a f => do
    return ⟨← ITy.ofCode? (field f.mod 0 5), bitBool (field f.mod 5 1), .ofCode f.d, .ofCode f.s1, readSrc f, .ofCode f.s3⟩
  | .i f => do return ⟨← ITy.ofImod? f.imod, false, .ofCode f.d, .ofCode f.s1, .imm f.imm, .ofCode f.d⟩
  | _ => none
def parseIMin (f : Fields) : Option IMinArgs :=
  match f with
  | .a f => do return ⟨← ITy.ofCode? (field f.mod 0 5), .ofCode f.d, .ofCode f.s1, readSrc f⟩
  | .i f => do return ⟨← ITy.ofImod? f.imod, .ofCode f.d, .ofCode f.s1, .imm f.imm⟩
  | _ => none
def parseBcnt (f : Fields) : Option BcntArgs :=
  match f with
  | .a f => do return ⟨← BcntOp.ofCode? (field f.mod 5 2), ← BTy.ofCode? (field f.mod 0 5), .ofCode f.d, .ofCode f.s1⟩
  | _ => none
def parseBfx (f : Fields) : Option BfxArgs :=
  match f with
  | .a f => do
    return ⟨← ITy.ofCode? (field f.mod 0 5), .ofCode f.d, .ofCode f.s1, .regs (.ofCode f.s2) (.ofCode f.s3)⟩
  | .i f => do return ⟨← ITy.ofBfxImod? f.imod, .ofCode f.d, .ofCode f.s1, .imm (field f.imm 0 8) (field f.imm 8 8)⟩
  | _ => none
def parseBfi (f : Fields) : Option BfiArgs :=
  match f with
  | .a f => do return ⟨← BTy.ofCode? (field f.mod 0 5), .ofCode f.d, .ofCode f.s1, .ofCode f.s2, .ofCode f.s3⟩
  | _ => none
def parseF (f : Fields) : Option FArgs :=
  match f with
  | .a f => do
    return ⟨← FTy.ofCode? (field f.mod 0 5), ← Rnd.ofCode? (field f.mod 5 2), bitBool (field f.mod 8 1), bitBool (field f.mod 9 1),
      .ofCode f.d, .ofCode f.s1, readSrc f⟩
  | .i f => do return ⟨← FTy.ofImod? f.imod, .rn, false, false, .ofCode f.d, .ofCode f.s1, .imm f.imm⟩
  | _ => none
def parseFma (f : Fields) : Option FmaArgs :=
  match f with
  | .a f => do
    return ⟨← FTy.ofCode? (field f.mod 0 5), ← Rnd.ofCode? (field f.mod 5 2), bitBool (field f.mod 8 1), bitBool (field f.mod 9 1),
      bitBool (field f.mod 10 1), .ofCode f.d, .ofCode f.s1, readSrc f, .ofCode f.s3⟩
  | .i f => do return ⟨← FTy.ofImod? f.imod, .rn, false, false, false, .ofCode f.d, .ofCode f.s1, .imm f.imm, .ofCode f.d⟩
  | _ => none
def parseFMin (f : Fields) : Option FMinArgs :=
  match f with
  | .a f => do return ⟨← FTy.ofCode? (field f.mod 0 5), .ofCode f.d, .ofCode f.s1, readSrc f⟩
  | .i f => do return ⟨← FTy.ofImod? f.imod, .ofCode f.d, .ofCode f.s1, .imm f.imm⟩
  | _ => none
def parseICmp (f : Fields) : Option ICmpArgs :=
  match f with
  | .a f => do
    return ⟨← ICond.ofCode? (field f.mod 5 4), ← ITy.ofCode? (field f.mod 0 5), .ofCode f.d, .ofCode f.s1, .ofCode f.s2⟩
  | _ => none
def parseFCmp (f : Fields) : Option FCmpArgs :=
  match f with
  | .a f => do
    return ⟨← FCond.ofCode? (field f.mod 5 4), ← F3.ofCode? (field f.mod 0 5), .ofCode f.d, .ofCode f.s1, .ofCode f.s2⟩
  | _ => none
def parseSel (f : Fields) : Option SelArgs :=
  match f with
  | .a f => do return ⟨← BTy.ofCode? (field f.mod 0 5), .ofCode f.d, .ofCode f.s1, .ofCode f.s2, .ofCode f.s3⟩
  | _ => none
def parsePlop (f : Fields) : Option PlopArgs :=
  match f with
  | .a f => some ⟨.ofCode f.d, .ofCode f.s1, .ofCode f.s2, .ofCode f.s3, field f.mod 0 8⟩
  | _ => none
def parseShfl (f : Fields) : Option ShflArgs :=
  match f with
  | .a f => do
    return ⟨← ShflMode.ofCode? (field f.mod 5 2), ← BTy.ofCode? (field f.mod 0 5), .ofCode f.d, .ofCode f.s1, readSrc f⟩
  | .i f => do return ⟨← ShflMode.ofCode? f.imod, .b32, .ofCode f.d, .ofCode f.s1, .imm f.imm⟩
  | _ => none
def parseVote (f : Fields) : Option VoteArgs :=
  match f with
  | .a f => do return ⟨← VoteMode.ofCode? (field f.mod 5 2), .ofCode f.d, .ofCode f.s1⟩
  | _ => none
def parsePerm (f : Fields) : Option PermArgs :=
  match f with
  | .a f => do return ⟨← BTy.ofCode? (field f.mod 0 5), .ofCode f.d, .ofCode f.s1, readSrc f⟩
  | .i f => do return ⟨← BTy.ofShiftImod? f.imod, .ofCode f.d, .ofCode f.s1, .imm f.imm⟩
  | _ => none
def parseRedg (f : Fields) : Option RedgArgs :=
  match f with
  | .a f => do return ⟨← RedgOp.ofCode? (field f.mod 5 4), ← RedgTy.ofCode? (field f.mod 0 5), .ofCode f.d, .ofCode f.s1⟩
  | _ => none
def parseLea (f : Fields) : Option LeaArgs :=
  match f with
  | .a f => some ⟨bitBool (field f.mod 6 1), bitBool (field f.mod 5 1), field f.mod 0 5, .ofCode f.d, .ofCode f.s1, readSrc f⟩
  | .i f => do
    let (n32, sx) ← ofLeaImod? f.imod
    return ⟨n32, sx, 0, .ofCode f.d, .ofCode f.s1, .imm f.imm⟩
  | _ => none
def parseSfu (f : Fields) : Option SfuArgs :=
  match f with
  | .a f => do return ⟨f.la, ← F3.ofCode? (field f.mod 0 5), .ofCode f.d, .ofCode f.s1⟩
  | _ => none
def parseCvtForm (m : BitVec 14) : Option CvtForm :=
  if field m 13 1 = 0#1 then do
    return .plain (bitBool (field m 12 1)) (← Rnd.ofCode? (field m 10 2)) (← RegTy.ofCode? (field m 5 5)) (← RegTy.ofCode? (field m 0 5))
  else if field m 3 1 = 0#1 then do return .toSlot (← RegTy.ofCode? (field m 4 5)) (field m 0 3)
  else do return .fromSlot (← Rnd.ofCode? (field m 9 2)) (← RegTy.ofCode? (field m 4 5)) (field m 0 3)
def parseCvt (f : Fields) : Option CvtArgs :=
  match f with
  | .a f => do return ⟨f.la, .ofCode f.d, .ofCode f.s1, ← parseCvtForm f.mod⟩
  | _ => none
def parseFrnd (f : Fields) : Option FrndArgs :=
  match f with
  | .a f => do return ⟨f.la, ← Rnd.ofCode? (field f.mod 5 2), ← F3.ofCode? (field f.mod 0 5), .ofCode f.d, .ofCode f.s1⟩
  | _ => none
def parseDbfpk (f : Fields) : Option DbfpkArgs :=
  match f with
  | .a f => some ⟨f.la, .ofCode f.d, .ofCode f.s1, field f.mod 0 3⟩
  | _ => none
def parseDbfunpk (f : Fields) : Option DbfunpkArgs :=
  match f with
  | .a f => do
    return ⟨f.la, ← Rnd.ofCode? (field f.mod 8 2), ← F3.ofCode? (field f.mod 3 5), .ofCode f.d, .ofCode f.s1, field f.mod 0 3⟩
  | _ => none

def readLoad (f : FieldsM) : Option LoadArgs := do
  return ⟨f.la, .ofCode f.d, .ofCode f.ab, ← Width.ofCode? f.w, bitBool (field f.aty 0 1), f.ch, f.off⟩
def readStore (f : FieldsM) : Option StoreArgs := do return ⟨.ofCode f.ab, .ofCode f.s2, ← Width.ofCode? f.w, f.ch, f.off⟩
def readAtom (f : FieldsM) : Option AtomArgs := do
  return ⟨f.la, .ofCode f.d, .ofCode f.ab, .ofCode f.s2, ← AOp.ofCode? f.op3, ← ATy.ofCode? f.aty, f.off⟩
def readRed (f : FieldsM) : Option RedArgs := do
  return ⟨.ofCode f.ab, .ofCode f.s2, ← AOp.ofCode? f.op3, ← ATy.ofCode? f.aty, f.off⟩
def readCas (f : FieldsM) : Option CasArgs := do
  return ⟨f.la, .ofCode f.d, .ofCode f.ab, .ofCode f.s2, ← ITy.ofAty? f.aty, f.off⟩
def readLine (f : FieldsM) : LineArgs := ⟨.ofCode f.ab, f.off⟩
def readQueue (f : FieldsM) : Option QueueArgs := do return ⟨f.la, .ofCode f.d, .ofCode f.ab, .ofCode f.s2, ← Width.ofCode? f.w⟩
def readTileCpy (sp : BitVec 3) (f : FieldsQ) : Option TileCpyArgs := do
  return ⟨← Space.ofCode? sp, .ofCode f.ds, optOfCode f.bs, optOfCode f.tk, f.fs, ← Split.ofCode? (field f.mod 6 2), ← SrcF.ofCode? (field f.mod 0 6)⟩

def parseVec (opc : Nat) (g : Guard) (f : Fields) : Option Instr :=
  match opc with
  | 0x00 => some .nop
  | 0x01 => (parseMov f).map (.mov g)
  | 0x02 => (parseInt f).map (.iadd g)
  | 0x03 => (parseInt f).map (.isub g)
  | 0x04 => (parseIMul f).map (.imul g)
  | 0x05 => (parseIMad f).map (.imad g)
  | 0x06 => (parseIMin f).map (.imin g)
  | 0x07 => (parseIMin f).map (.imax g)
  | 0x08 => (parseLogic f).map (.and g)
  | 0x09 => (parseLogic f).map (.or g)
  | 0x0A => (parseLogic f).map (.xor g)
  | 0x0B => (parseLogic f).map (.andn g)
  | 0x0C => (parseShift f).map (.shl g)
  | 0x0D => (parseShift f).map (.shr g)
  | 0x0E => (parseShift f).map (.sar g)
  | 0x0F => (parseBcnt f).map (.bcnt g)
  | 0x10 => (parseBfx f).map (.bfx g)
  | 0x11 => (parseBfi f).map (.bfi g)
  | 0x12 => (parseF f).map (.fadd g)
  | 0x13 => (parseF f).map (.fmul g)
  | 0x14 => (parseFma f).map (.ffma g)
  | 0x15 => (parseFMin f).map (.fmin g)
  | 0x16 => (parseFMin f).map (.fmax g)
  | 0x17 => (parseICmp f).map (.icmp g)
  | 0x18 => (parseFCmp f).map (.fcmp g)
  | 0x19 => (parseSel f).map (.sel g)
  | 0x1A => (parsePlop f).map (.plop g)
  | 0x1B => (parseShfl f).map (.shfl g)
  | 0x1C => (parseVote f).map (.vote g)
  | 0x1D => (parsePerm f).map (.perm g)
  | 0x1E => (parseRedg f).map (.redg g)
  | 0x1F => (parseLea f).map (.lea g)
  | _ => none

def parseMem (opc : Nat) (g : Guard) (f : FieldsM) : Option Instr :=
  match opc with
  | 0x20 => if f.poll = 1#1 then (readLoad f).map (.ldPoll g) else (readLoad f).map (.ld g)
  | 0x21 => (readStore f).map (.st g)
  | 0x22 => (readLoad f).map (.lds g)
  | 0x23 => (readStore f).map (.sts g)
  | 0x24 => (readLoad f).map (.ldc g)
  | 0x25 => (readAtom f).map (.atom g)
  | 0x26 => (readRed f).map (.red g)
  | 0x27 => (readAtom f).map (.atoms g)
  | 0x28 => (readCas f).map (.cas g)
  | 0x29 => (readCas f).map (.cass g)
  | 0x2A => (readLoad f).map (.ldp g)
  | 0x2B => (readStore f).map (.stp g)
  | 0x2C => (readAtom f).map (.atomp g)
  | 0x2D => if f.op3 = 0#3 then some (.prefL1 g (readLine f)) else some (.prefLlc g (readLine f))
  | 0x2E =>
    match f.op3.toNat with
    | 1 => some (.fenceRepl g)
    | 2 => some (.fenceHost g)
    | 3 => some (.fenceEng g)
    | 7 => some (.fenceAll g)
    | _ => none
  | 0x2F => if f.op3 = 0#3 then some (.cmntWb g (readLine f)) else some (.cmntDrop g (readLine f))
  | 0x30 => (readQueue f).map (.qpush g)
  | 0x31 => if f.op3 = 0#3 then (readQueue f).map (.qpop g) else (readQueue f).map (.qpopWait g)
  | _ => none

def parseMat (opc : Nat) (g : Guard) (f : FieldsX) : Option Instr :=
  match opc with
  | 0x40 => some (.mmad g ⟨bitBool f.pr, f.ac, f.ta, f.tb, bitBool f.hb, .ofCode f.bs, .ofCode f.hs, f.fa, f.fb⟩)
  | 0x41 => some (.azero g (bitBool f.pr) f.ac)
  | 0x42 => some (.tbuild g ⟨bitBool f.pr, f.ta, f.kt, .ofCode f.bs, f.fa, f.fb, field f.mod 0 2⟩)
  | 0x43 => some (.lutmm g ⟨bitBool f.pr, f.ac, f.tb, bitBool f.hb, f.kt, .ofCode f.bs, .ofCode f.hs, f.fa, f.fb⟩)
  | 0x44 => some (.tbinv g (bitBool f.pr) f.kt)
  | 0x45 => some (.tbqry g ⟨f.la, f.kt, .ofCode f.hs, field f.mod 0 3⟩)
  | 0x46 => some (.accrd g ⟨f.la, f.ac, .ofCode f.hs, f.fa, field f.mod 4 2, field f.mod 0 4⟩)
  | 0x47 => some (.accwr g ⟨f.la, f.ac, .ofCode f.hs, f.fa, field f.mod 4 2, field f.mod 0 4⟩)
  | 0x48 => some (.twr g ⟨f.la, f.ta, .ofCode f.hs, field f.mod 6 6⟩)
  | 0x49 => some (.trd g ⟨f.la, f.ta, .ofCode f.hs, field f.mod 6 6⟩)
  | 0x4A => some (.mengq g ⟨f.la, bitBool f.pr, .ofCode f.hs, field f.mod 0 3⟩)
  | _ => none

def parseCpy (opc : Nat) (g : Guard) (f : FieldsQ) : Option Instr :=
  match opc with
  | 0x60 => do
    return .cpy g ⟨← Space.ofCode? f.dsp, ← Space.ofCode? f.ssp, .ofCode f.ds, optOfCode f.bs, optOfCode f.tk, f.fs, ← SrcF.ofCode? (field f.mod 0 6)⟩
  | 0x61 => (readTileCpy f.ssp f).map (.tload g)
  | 0x62 => (readTileCpy f.dsp f).map (.tstore g)
  | 0x63 => do return .tdesc g ⟨f.la, ← Space.ofCode? f.ssp, .ofCode f.ds, .ofCode (field f.mod 6 8), field f.mod 0 3⟩
  | 0x64 => some (.cpyq g ⟨f.la, .ofCode f.ds, .ofCode f.tk⟩)
  | 0x65 => some (.cpycan g (.ofCode f.tk))
  | 0x66 => some (.coll g ⟨.ofCode f.ds, optOfCode f.bs, optOfCode f.tk⟩)
  | 0x67 => some (.tsig g (.ofCode f.tk))
  | 0x68 => some (.tpost g (.ofCode f.tk))
  | _ => none

def parseCtl (opc : Nat) (g : Guard) (f : FieldsC) : Option Instr :=
  let low := Operand.ofCode (field f.off 0 8)
  match opc with
  | 0x80 => if f.mod4 = 0#4 then some (.braM g f.off) else some (.braS g f.off)
  | 0x81 => some (.brx g (.ofCode f.ra))
  | 0x82 => some (.call g f.sl f.off)
  | 0x83 => some (.callx g (.ofCode f.ra) f.sl)
  | 0x84 => some (.ret g)
  | 0x85 => some .join
  | 0x86 => some (.exit g)
  | 0x87 => some (.trap g (field f.off 0 16))
  | 0x88 => some (.wflush g)
  | 0x89 => (WSel.ofCode? f.mod4).map (.wstat g (.ofCode f.ra))
  | 0x8A => some (.elect g (.ofCode f.ra) (bitBool (field f.mod4 0 1)))
  | 0x8B => some (.launch g (.ofCode f.ra) low)
  | 0x8C => some (.grow g (.ofCode f.ra) low)
  | 0x8D => some (.yield g)
  | 0x8E => some (.brk g)
  | 0x8F => (SysReg.ofCode? (field f.off 0 8)).map (.gsr g (.ofCode f.ra))
  | 0x90 =>
    if field f.off 0 8 = 0x1A#8 then some (.famkillWrite g (.ofCode f.ra))
    else (SysReg.ofCode? (field f.off 0 8)).map (.ssr g (.ofCode f.ra))
  | 0x91 => if f.mod4 = 0#4 then some (.eret g) else some (.eretSkip g)
  | _ => none

def parseSfuOp (opc : Nat) (g : Guard) (f : Fields) : Option Instr :=
  match opc with
  | 0xA0 => (parseSfu f).map (.rcp g)
  | 0xA1 => (parseSfu f).map (.rsq g)
  | 0xA2 => (parseSfu f).map (.sqrt g)
  | 0xA3 => (parseSfu f).map (.exp2 g)
  | 0xA4 => (parseSfu f).map (.log2 g)
  | 0xA5 => (parseSfu f).map (.sin g)
  | 0xA6 => (parseSfu f).map (.cos g)
  | 0xA7 => (parseSfu f).map (.tanh g)
  | 0xA8 => (parseCvt f).map (.cvt g)
  | 0xA9 => (parseFrnd f).map (.frnd g)
  | 0xAA => (parseDbfpk f).map (.dbfpk g)
  | 0xAB => (parseDbfunpk f).map (.dbfunpk g)
  | _ => none

def parseSyn (opc : Nat) (g : Guard) (f : FieldsS) : Option Instr :=
  let d := Operand.ofCode f.d
  let s1 := Operand.ofCode f.s1
  let s2 := Operand.ofCode f.s2
  let off := field f.imm 0 16
  match opc with
  | 0xC0 => some (.wait g ⟨bitBool (field f.imm 10 1), field f.imm 4 6, field f.imm 0 4⟩)
  | 0xC1 => some (.binit g ⟨s1, s2, off⟩)
  | 0xC2 => some (.barrive g ⟨f.la, d, s1, off⟩)
  | 0xC3 => some (.bwait g ⟨s1, s2, off⟩)
  | 0xC4 => some (.btry g ⟨f.la, d, s1, s2, off⟩)
  | 0xC5 => some (.binval g ⟨s1, off⟩)
  | 0xC6 => if field f.imm 16 1 = 1#1 then some (.bstatClr g ⟨f.la, d, s1, off⟩) else some (.bstat g ⟨f.la, d, s1, off⟩)
  | 0xC7 => some (.gbarrive g ⟨f.la, d, s1, field f.imm 0 12⟩)
  | 0xC8 => some (.gbwait g ⟨s1, s2, field f.imm 0 12⟩)
  | 0xC9 => some (.racq g ⟨f.la, d, field f.imm 0 2⟩)
  | 0xCA => some (.rcommit g ⟨s1, field f.imm 0 2⟩)
  | 0xCB => some (.rwait g ⟨f.la, d, field f.imm 0 2⟩)
  | 0xCC => some (.rfree g ⟨s1, field f.imm 0 2⟩)
  | 0xCD => some (.tsync g)
  | 0xCE => some (.chanbind g ⟨s1, field f.imm 2 2, field f.imm 0 2⟩)
  | 0xCF => some (.msgsend g ⟨d, s1, bitBool (field f.imm 0 1)⟩)
  | 0xD0 => some (.msgrecv g ⟨f.la, d, s1, bitBool (field f.imm 4 1), field f.imm 0 4⟩)
  | 0xD1 => some (.pwrreq g ⟨f.la, d, s1⟩)
  | 0xD2 => some (.perflvl g s1)
  | 0xD3 => some (.pwrrel g f.la d)
  | _ => none

/-- The one instruction that the fields could stand for, if the modifier values are assigned. -/
def candidate (w : WordFields) : Option Instr :=
  let o := w.opc.toNat
  match w.fields with
  | .a f => if o < 0x20 then parseVec o w.guard (.a f) else parseSfuOp o w.guard (.a f)
  | .i f => if o < 0x20 then parseVec o w.guard (.i f) else parseSfuOp o w.guard (.i f)
  | .m f => parseMem o w.guard f
  | .x f => parseMat o w.guard f
  | .q f => parseCpy o w.guard f
  | .c f => parseCtl o w.guard f
  | .s f => parseSyn o w.guard f

/-- Opcode and field checks of a word (R123, R124): every field must be the instruction's own, so a nonzero unused field is refused. -/
def parse (w : BitVec 64) : Except DecodeError Instr :=
  let f := splitWord w
  if assigned f.opc then
    match candidate f with
    | some i => if i.shapeOk ∧ i.toWord = f then .ok i else .error .illegalField
    | none => .error .illegalField
  else .error .illegalOpcode

/-- The instruction of a word, or the first decode cause the word alone decides (R123, R124). -/
def decode (w : BitVec 64) : Except DecodeError Instr :=
  match parse w with
  | .ok i => if i.operandsOk then .ok i else .error .illegalOperand
  | .error e => .error e

/-- Eight bytes, least significant first, as one word (R4, R102). -/
def wordOfBytes : List Byte → BitVec 64
  | [] => 0
  | b :: bs => (wordOfBytes bs <<< 8) ||| b.zeroExtend 64

def bytesOfWord (w : BitVec 64) : List Byte := (List.range 8).map fun k => field w (8 * k) 8

/-- Decode the instruction at the head of a list of bytes; words are 8 bytes each (R102). -/
def decodeBytes (bs : List Byte) : Option (Except DecodeError Instr × List Byte) :=
  if (bs.take 8).length = 8 then some (decode (wordOfBytes (bs.take 8)), bs.drop 8) else none

/-- The instruction read from a word numbered as the opcode table numbers it. -/
def decodeTableWord (_nbits w : Nat) : Option Instr :=
  match decodeBytes (bytesOfWord (BitVec.ofNat 64 w)) with
  | some (.ok i, _) => some i
  | _ => none

end Sys2Proof
end

