-- ==== Sys2Proof/Machine/State.lean ====
section
/-! DEFINITION. The state of the OZT-24 package as plain data: every piece of state that spec/ gives the machine, State.reset, and the reasons a step can stop.
Maps are association lists; an absent key reads the default record of its type. -/
namespace Sys2Proof.Machine

/-- A finite map held as a list of pairs. -/
abbrev Tbl (κ ν : Type) := List (κ × ν)

/-- Memory: (address, byte) pairs, addresses strictly rising, no byte equal to 0, which every unlisted address reads (R298: reset writes zero everywhere). -/
abbrev Memory := List Host.Cell

-- Paths and windows (spec/03_divergence.md, spec/04_registers.md)

/-- What a parked path waits on (R51, R55). -/
inductive ParkOn where
  | barrier (core off : Nat) (ph : Bool)   -- BWAIT (R229)
  | gbar (g : Nat) (ph : Bool)             -- GBWAIT (R232)
  | ringAcquire (core off : Nat)           -- RACQ (R235)
  | ringWait (core off : Nat)              -- RWAIT (R235)
  | receive (mi : Nat)                     -- MOV and MSGRECV (R241, R378)
  | credit (mo : Nat)                      -- MSGSEND (R378)
  | queue (pa seq : Nat)                   -- QPOP.WAIT, in order of arrival (R238)
  | service                                -- a page fault in service (R274)
  deriving DecidableEq, Repr

/-- What holds a path that is not parked: a gang-collective instruction (R68), a FENCE of the given kinds (R212), a WAIT (R417), a LUTMM whose table check is
still to come (R171), or a WFLUSH (R418). -/
inductive HeldOn where
  | collective
  | fence (kinds : Nat)
  | wait (res : Bool) (thr mask : Nat)
  | check
  | flush
  deriving DecidableEq, Repr

/-- A path's state (R67): ready to issue, held until a condition of its gang is met, waiting at its reconvergence PC or return point, waiting at an ERET, parked,
or about to raise BAD_TARGET at its BRX for the target that it read there (R70). -/
inductive PathState where
  | ready
  | held (on : HeldOn)
  | waiting
  | atEret
  | parked (on : ParkOn)
  | badTarget (target : Nat)
  deriving DecidableEq, Repr

/-- A path (R55). pos 0 stands at the clause header; pos i + 1 stands at word i. left: lanes still to act in a QPOP.WAIT; since: the number under which the path
began to wait at its instruction (R238, R176), 0 when it does not wait.
resumed: no header wait applies (R106). ret: the RET by which the path has come to the return point where it stands, whose LAND is still to be checked (R81). -/
structure Path where
  id : Nat
  hdr : Nat
  pos : Nat
  mask : Mask
  rpc : Option Nat
  link : Nat
  st : PathState
  left : Mask
  resumed : Bool
  cnt : Nat
  since : Nat
  ret : Option Nat
  deriving DecidableEq, Repr

/-- Why paths were divided: a branch (R57), a split (R58), a call at a depth (R71). -/
inductive NodeKind where
  | branch
  | split
  | call (depth : Nat)
  deriving DecidableEq, Repr

/-- The path that a division took away, whose place its merged path takes (R57), with its number; away counts threads departed at it (R66). -/
structure Node where
  id : Nat
  path : Nat
  rpc : Option Nat
  link : Nat
  kind : NodeKind
  away : Nat
  deriving DecidableEq, Repr

/-- The frame record of the call made from a frame (R80), with what the porter has spilled of that frame (R85, R87): its own granules' positions and the record;
loose: the free values that a changed slide word gives to the RET through the frame (R96) (log 52). -/
structure Frame where
  ret : Nat
  slide : Nat
  trapFrame : Bool
  ld : Nat
  sp : Nat
  node : Nat
  spilled : List Nat
  recSpilled : Bool
  loose : Option Nat
  deriving DecidableEq, Repr

-- Accesses in flight (spec/05_encoding.md R118 to R121, spec/09_consistency.md R203)

/-- The four in-flight counters (R120). -/
inductive Counter | ld | st | sp | cp
  deriving DecidableEq, Repr

/-- Where a lane's access goes: package memory or the host aperture at a physical address with its page attributes, or a scratchpad byte. -/
inductive Loc where
  | mem (pa : Nat) (kd : Nat) (coh : Nat) (ra : Bool)
  | scratch (core off : Nat)
  deriving DecidableEq, Repr

/-- What one lane's access does (R366, R401, R308, R324, R391); ch is the cache hint (R196); maint is CMNT's write-back of the line (R326). -/
inductive AccessOp where
  | load (w : Nat) (sx : Bool) (poll : Bool) (ch : Nat)
  | store (w : Nat) (x : Nat) (ch : Nat)
  | atom (op : AOp) (ty : ATy) (x : Nat)
  | cas (w : Nat) (cmp new : Nat)
  | maint (drop : Bool)
  deriving DecidableEq, Repr

structure LaneAccess where
  lane : Nat
  va : Nat
  loc : Loc
  op : AccessOp
  deriving DecidableEq, Repr

/-- A register written at a result's end: a vector register by its place in the ring, a scalar, or one lane of a predicate. -/
inductive RegWrite where
  | vec (abs lane : Nat) (x : Word)
  | scal (n : Nat) (x : Word)
  | pred (n lane : Nat) (b : Bool)
  deriving DecidableEq, Repr

/-- Where a result is aimed: consecutive vector registers by ring place, consecutive scalar registers, a predicate, or nowhere. -/
inductive Dest where
  | vec (abs n : Nat)
  | scal (i n : Nat)
  | pred (i : Nat)
  | none
  deriving DecidableEq, Repr

/-- The replay slot (R267). -/
structure Replay where
  word : BitVec 64
  mask : Mask
  addrs : Tbl Nat Nat
  data : Tbl Nat Nat
  flight : Option Nat
  deriving DecidableEq, Repr

/-- An instruction issued and not yet returned (R118 to R121). window: instructions of the lookahead window still to come, none for LA = 15. lanes: the lanes that
receive the one access of an LDC, none of them when every access serves its own lane. won: a CAS has succeeded, or a poll has read something new (R69). pc: where the
instruction stands; slot: its replay slot while no lane has performed its access (R266). -/
structure Flight where
  id : Nat
  counter : Option Counter
  todo : List LaneAccess
  dest : List Dest
  results : List RegWrite
  window : Option Nat
  path : Nat
  depth : Nat
  returned : Bool
  replaying : Bool
  sat : Bool
  won : Bool
  lanes : Mask
  pc : Nat
  slot : Option Replay
  deriving DecidableEq, Repr

-- Traps (spec/12_faults.md)

/-- What a trap carries to its entry (R265, R269, R270). -/
structure TrapInfo where
  cause : BitVec 8
  detail : BitVec 16
  pathf : Bool
  tpc : Nat
  tnext : Nat
  tmask : Mask
  taddr : Nat
  addrs : Tbl Nat Nat
  replay : Option Replay
  path : Nat
  deriving DecidableEq, Repr

/-- Access codes of the fault queue (R274). -/
inductive AccessKind | load | store | atomic | fetch | spill | refill | jobRead | jobWrite | handle
  deriving DecidableEq, Repr

/-- A gang parked on a page fault (R274): the trap of a refusal, and what the fault-queue entry says; seq none while the queue has no room;
answer: the verdict that came while the gang stood saved or in shadow storage, true for serviced. -/
structure PageWait where
  info : TrapInfo
  va : Nat
  cause : Nat
  kind : AccessKind
  level : Nat
  seq : Option Nat
  answer : Option Bool
  deriving DecidableEq, Repr

/-- One of up to four trap states (R269, R270). pending: a trap of the suspended paths that waited for its entry when this one entered. -/
structure TrapState where
  tcause : BitVec 32
  tpc : BitVec 32
  tnext : BitVec 32
  tnextWritten : Bool
  tmask : Mask
  taddr : BitVec 64
  addrs : Tbl Nat Nat
  replay : Option Replay
  handlerMode : Bool
  path : Nat
  paths : List Path
  nodes : List Node
  pending : Option TrapInfo
  deriving DecidableEq, Repr

/-- What a gang does about leave (R178, R259): units asked, the request's place in the cluster's order, the core cycle at which the wait began. -/
inductive Leave where
  | idle
  | waiting (units order since : Nat)
  | granted
  deriving DecidableEq, Repr

/-- The watchdog of a gang family, kept with its home gang (R275, R276). -/
inductive Watch where
  | counting
  | expired
  | grace (left : Nat)
  deriving DecidableEq, Repr

/-- A gang's standing under a pre-emption request (R277). -/
inductive Preempt where
  | no
  | pending (cycles : Nat)
  | stopped
  deriving DecidableEq, Repr

/-- The roles of R47. -/
inductive Role | any | copy | matrix | vector
  deriving DecidableEq, Repr

/-- A gang (R34, R38, R55, R63, R72, R79 to R92, R120, R142, R367). The vector registers stand by their place in the ring: statics at 0-15, windowed name x of
the current frame at x + 8 times the sum of the slides, and of shift, which a changed slide word leaves (R96). spillStopped: the fault at which a spill ahead of need has stopped, its address, cause and missing level (R94). lastPath: the path that issued last (R119). -/
structure Gang where
  width : Nat
  role : Role
  core : Nat
  bench : Nat
  quarter : Nat
  home : List (Nat × Nat)
  live : Mask
  exited : Mask
  away : Mask
  vregs : Tbl (Nat × Nat) Word
  sregs : Tbl Nat Word
  preds : Tbl Nat Mask
  paths : List Path
  lastPath : Nat
  nodes : List Node
  frames : List Frame
  taken : List Nat
  ringSize : Nat
  reserve : Nat
  shift : Nat
  spillcnt : BitVec 32
  refillcnt : BitVec 32
  spillOpen : Bool
  refillOff : Bool
  spillStopped : Option (Nat × Nat × Option Nat)
  flights : List Flight
  handlerMode : Bool
  traps : List TrapState
  pendingTrap : Option TrapInfo
  faultWait : Option PageWait
  nstat : Bool
  demoted : Bool
  passed : Nat
  starved : Bool
  readySince : Option Nat
  pt : Nat
  polls : Tbl Nat (Nat × Nat)
  leave : Leave
  reservation : Nat
  resLeft : Nat
  holdLut : Bool
  wdCycles : Nat
  watch : Watch
  preempt : Preempt
  deriving DecidableEq, Repr

-- Launches, grids and teams (spec/02_execution_model.md, spec/11_scheduling.md, spec/06_numbers.md R143)

/-- A format slot of the launch record (R143 to R145). -/
structure Slot where
  fmt : Nat
  sat : Bool
  rnd : Rnd
  planes : Nat
  gap : Nat
  cbSize : Nat
  scale : Nat
  cbAddr : Nat
  deriving DecidableEq, Repr

/-- A footprint region in whole 1 KiB units: first unit, count, write flag (R216). -/
structure Region where
  first : Nat
  count : Nat
  write : Bool
  deriving DecidableEq, Repr

/-- The parsed launch record (R249). liveRecs: the size of .oz.live in records (R287). -/
structure Launch where
  codeBase : Nat
  entry : Nat
  pair : Bool
  roles : Bool
  growable : Bool
  x : Nat
  y : Nat
  z : Nat
  gangs : Nat
  width : Nat
  copies : Nat
  matrices : Nat
  rings : List Nat
  winMin : Nat
  winMax : Nat
  vtop : Nat
  scalars : Nat
  stk : Nat
  spillBase : Nat
  scratch : Nat
  tiles : Nat
  accs : Nat
  tables : Nat
  prio : Nat
  barriers : Nat
  param : Nat
  safe : Nat
  liveTab : Nat
  liveRecs : Nat
  parent : Nat
  regions : List Region
  slots : List Slot
  deriving DecidableEq, Repr

/-- A grid the foreman holds (R27 to R29, R45, R148, R280). x is the count as GROW leaves it; next is the next linear index to place. -/
structure Grid where
  ctx : CtxKey
  task : Nat
  launch : Launch
  depth : Nat
  x : Nat
  next : Nat
  retired : Nat
  parent : Option Nat
  codebooks : Option (Tbl Nat (List Byte))
  failing : Bool
  deriving DecidableEq, Repr

/-- A thread's departure entry (R59, R60, R92). -/
structure Depart where
  rpc : Option Nat
  depth : Nat
  gangLeft : Nat
  laneLeft : Nat
  reserve : Nat
  node : Nat
  deriving DecidableEq, Repr

/-- A spawn entry (R59); order: its place among all entries written; cell: its overflow cell, when the porter has moved it (R93). -/
structure Spawn where
  target : Nat
  depart : Depart
  level : Nat
  homeGang : Nat
  homeLane : Nat
  vregs : Tbl Nat Word
  sregs : Tbl Nat Word
  preds : BitVec 16
  bytes : Nat
  order : Nat
  age : Nat
  cell : Option Nat
  deriving DecidableEq, Repr

/-- Table states (R169). -/
inductive TableState | empty | valid | lost | stale
  deriving DecidableEq, Repr

/-- A table record (R169, R172). -/
structure TableRec where
  st : TableState
  src : Nat
  fa : Nat
  fb : Nat
  kq : Nat
  deriving DecidableEq, Repr

/-- A copy descriptor (R218). -/
structure Desc where
  src : Nat
  dst : Nat
  rows : Nat
  cols : Nat
  sstr : Nat
  dstr : Nat
  vrows : Nat
  vcols : Nat
  esz : Nat
  tr : Bool
  zf : Bool
  deriving DecidableEq, Repr

/-- A handle slot (R227). -/
structure Handle where
  gen : Nat
  space : Space
  desc : Desc
  deriving DecidableEq, Repr

/-- The engine figures of one core for a team (R180). -/
structure Figures where
  ops : BitVec 32
  rebuilds : BitVec 32
  leaveWait : BitVec 32
  slaveCycles : BitVec 32
  deriving DecidableEq, Repr

/-- Where a team stands (R30, R278, R279). -/
inductive Residence where
  | placed
  | saved (slot : Nat)
  | shadowed
  deriving DecidableEq, Repr

/-- A team (R30 to R33, R89, R169, R227, R261). Tile, accumulator and table bytes stand by span index and the team's own names: tiles at
span x 2^16 + t x 2^13, accumulators at span x 2^14 + a x 2^12, tables at span x 2^17 + k x 2^15. -/
structure Team where
  grid : Nat
  ctx : CtxKey
  x : Nat
  y : Nat
  z : Nat
  core : Nat
  pair : Bool
  resident : Nat
  scratchBase : Nat
  res : Residence
  tiles : Memory
  accs : Memory
  tables : Memory
  poison : List (Nat × Nat)
  records : Tbl (Nat × Nat) TableRec
  handles : Tbl Nat Handle
  level : Nat
  figures : Tbl Nat Figures
  spawn : List Spawn
  departs : Tbl (Nat × Nat) (List Depart)
  preempting : Bool
  deriving DecidableEq, Repr

-- Tasks, jobs, engine (spec/10_async.md, spec/07_matrix.md)

/-- Task kinds and statuses of R242. -/
inductive TaskKind | grid | copy | coll | hostsig
  deriving DecidableEq, Repr
inductive TaskStatus | pending | ready | running | done | failed | cancelled
  deriving DecidableEq, Repr

/-- The foreman's copy of a task record (R242, R243). -/
structure Task where
  raw : List Byte
  kind : TaskKind
  status : TaskStatus
  prio : Nat
  counter : Nat
  payload : Nat
  succAddr : Nat
  succCount : Nat
  progress : Nat
  regions : List Region
  edges : List Nat
  order : Nat
  depth : Nat
  grid : Option Nat
  job : Option Nat
  deriving DecidableEq, Repr

/-- The kinds of job (R214). place: the identity of a collective's group table with its number among the COLLs on it, none while the table could not be read (log 90). -/
inductive JobKind where
  | copy (dsp ssp : Space) (srcf : SrcF) (slot : Slot)
  | tiles (load : Bool) (sp : Space) (srcf : SrcF) (slot : Slot) (parts : Nat)
  | coll (count op ty group : Nat) (place : Option (Nat × Nat))
  | cancel (task : Nat)
  | post (task : Nat)
  | signal (task : Nat)
  deriving DecidableEq, Repr

/-- Errors met by a job or an engine operation, in order of meeting: code, span index, row, column (R174, R226). -/
structure Err where
  code : Nat
  bench : Nat
  row : Nat
  col : Nat
  deriving DecidableEq, Repr

/-- A copy, collective or foreman request (R214 to R226, R245, R248). home: the core whose scratchpad LOCAL names; flight: the flight that its acceptance returns (R120);
stage: how far a collective has come (R248); moved: the units moved so far, in any order (R214); released: the core, base and size of the allocation that its team has released (R344); left: the bytes not yet taken away from the barrier. -/
structure Job where
  kind : JobKind
  desc : Desc
  gang : Option GangKey
  team : Option Nat
  ctx : CtxKey
  core : Option Nat
  engine : Nat
  bar : Option (Nat × Nat)
  task : Option Nat
  own : Option Nat
  order : Nat
  home : Nat
  flight : Option Nat
  accepted : Bool
  stage : Nat
  moved : List Nat
  left : Nat
  written : Nat
  errs : List Err
  paused : Option Nat
  merged : Bool
  stopped : Bool
  pt : Nat
  incoming : List (List (BitVec 32))
  released : Option (Nat × Nat × Nat)
  deriving DecidableEq, Repr

/-- The engine operations of R153. -/
inductive EngineKind where
  | mmad (ac ta tb fa fb : Nat) (handle : Option (Nat × Nat))
  | tbuild (kt ta fa fb kq : Nat)
  | lutmm (ac kt tb fa fb : Nat) (handle : Option (Nat × Nat))
  | azero (ac : Nat)
  | tbinv (kt : Nat)
  deriving DecidableEq, Repr

/-- An engine operation in a queue or running (R154 to R173). mask: the lanes that issued it; order: its place among all issues; staged: the operand of its handle,
quarter q at q x 2^13, once it has landed; desc: the handle's descriptor as the operation took it when it entered the queue, none where its generation was another (R407);
olds: bytes of tiles (false) and accumulators (true), by address, as they stood before copies wrote them while the operation runs (R177); left: the bytes that its fetch still owes the barrier; paused: a fetch's entry in the fault queue; errs: the hardware
errors it has met; touched: span indices whose source tile was written during a TBUILD (R170), or whose table a LUTMM has rebuilt at its start (R171). -/
structure EngineOp where
  kind : EngineKind
  pair : Bool
  gang : GangKey
  path : Nat
  mask : Mask
  bar : Option (Nat × Nat)
  order : Nat
  staged : Option Memory
  desc : Option Handle
  olds : List (Bool × Nat × Byte)
  left : Nat
  fault : Bool
  paused : Option Nat
  errs : List Err
  touched : List Nat
  deriving DecidableEq, Repr

/-- A core's matrix engine (R154, R156). -/
structure Engine where
  queue : List EngineOp
  running : Option EngineOp
  slaved : Bool
  deriving DecidableEq, Repr

/-- A binding of a send register (R239, R240). -/
structure Binding where
  owner : GangKey
  core : Nat
  mi : Nat
  credit : Bool
  id : Nat
  deriving DecidableEq, Repr

/-- A flit, or the unbind that follows a producer's last flit (data none), on its way or waiting in a receive register (R240). -/
structure Flit where
  fromCore : Nat
  fromMo : Nat
  core : Nat
  mi : Nat
  data : Option Quad
  id : Nat
  deriving DecidableEq, Repr

/-- A leaf translation as a TLB entry (R187, R188, R273) (log 51). -/
structure Leaf where
  va : Nat
  size : Nat
  pa : Nat
  x : Bool
  w : Bool
  owner : Nat
  pdie : Nat
  kd : Nat
  coh : Nat
  ra : Bool
  deriving DecidableEq, Repr

/-- An L1 copy of one 256 B sector (R195, R190): its line's write time, the program time at which its lease ends, the key domain it was read through, and the core
cycle from which on R208 lets no load use it (log 8). A copy of a PRIVATE or READ-SHARED page stands without a lease (leased false). -/
structure Sector where
  bytes : List Byte
  wts : Nat
  rts : Nat
  kd : Nat
  till : Nat
  leased : Bool
  deriving DecidableEq, Repr

/-- A core (R15, R16, R39, R101, R148, R154, R195, R273). -/
structure Core where
  cycle : Nat
  scratch : Memory
  tlb : Tbl Nat (List Leaf)
  l1 : Tbl Nat Sector
  dirty : List Nat
  engine : Engine
  banks : List Nat
  mo : Tbl Nat Binding
  flits : Tbl Nat Flit
  producers : Tbl Nat Nat
  deriving DecidableEq, Repr

/-- A bench's clause slot: the gangs issuing in it (R49, R50). -/
structure Bench where
  slot : List GangKey
  eng : Nat
  deriving DecidableEq, Repr

/-- A cluster's weighbridge and power state (R258 to R263). -/
structure Cluster where
  charge : Nat
  level : Nat
  thermal : Nat
  slack : Nat
  slackAt : Option Nat
  deriving DecidableEq, Repr

-- Partitions, contexts, package (spec/14_system.md, spec/12_faults.md)

/-- An agent parked on a fault-queue entry (R274). -/
inductive Agent where
  | gang (g : GangKey)
  | job (j : Nat)
  | handle (order : Nat)   -- the fetch of an engine operation (R163)
  deriving DecidableEq, Repr

/-- An unanswered entry of the fault queue (R274). -/
structure FaultEntry where
  seq : Nat
  ctx : CtxKey
  page : Nat
  cause : Nat
  joined : Nat
  agents : List Agent
  deriving DecidableEq, Repr

/-- A global barrier (R231) (log 81). -/
structure GBar where
  ph : Bool
  expect : Nat
  pending : Nat
  owner : Nat
  deriving DecidableEq, Repr

/-- A sector of another package's line in the partition's remote-data cache (R197): the slice that holds it, the copy, and the core cycles that its lease still has. -/
structure RemoteCopy where
  slice : Nat
  sector : Sector
  left : Nat
  deriving DecidableEq, Repr

/-- The message unit of a core as a save or a swap holds it (R101); late: flits that have reached the core and wait there behind another for their receive register, or for its return; seq: the
number under which it was saved, above that of every binding that it knows (log 100). -/
structure MsgUnit where
  mo : Tbl Nat Binding
  flits : Tbl Nat Flit
  producers : Tbl Nat Nat
  late : List Flit
  seq : Nat
  deriving DecidableEq, Repr

/-- What the shadow storage of a partition holds (R278); the records of its teams stand in State.teams, marked shadowed. -/
structure Shadow where
  gangs : Tbl GangKey Gang
  scratch : Tbl Nat Memory
  units : Tbl Nat MsgUnit
  deriving DecidableEq, Repr

/-- The registers of a partition block (R295, R444) and the partition's own state; saved: what the save layouts of R279 do not hold of saved gangs; units: the same of
message units, by team and core; swapping: a SWAP has been requested and not yet made (R277, R278). lineTimes: write and read times of lines and words (R210), horizon the
greatest time of a store, top a bound of every time of the partition; rdc: its remote-data cache (R197). -/
structure Part where
  hcmask : BitVec 12
  share : BitVec 16
  rdlease : Nat
  wrlease : Nat
  rdcways : Nat
  fqbase : Option (Nat × Nat)
  fqNext : Nat
  fq : List FaultEntry
  elbase : Option (Nat × Nat × Nat)
  elNext : Nat
  tlbinv : Option Nat
  kdmask : BitVec 64
  rej : Bool
  ceil : Nat
  mceil : Nat
  gbars : Tbl Nat GBar
  swapping : Bool
  shadow : Option Shadow
  saved : Tbl GangKey Gang
  units : Tbl (Nat × Nat) MsgUnit
  lineTimes : Tbl Nat (Nat × Nat)
  horizon : Nat
  top : Nat
  rdc : Tbl Nat RemoteCopy
  deriving DecidableEq, Repr

/-- The registers of a context block (R295, R444) with FORMWAIT, WDLIMIT and WDGRACE (R62, R275), posts not yet ingested (R252), save slots in use (R279) and
device task indices in use (R244). -/
structure Context where
  tbase : Nat
  handler : Nat
  taskarea : Nat
  savebase : Nat
  saveslots : Nat
  run : Bool
  ceil : Nat
  devbase : Nat
  childrec : Nat
  formwait : Nat
  wdlimit : BitVec 32
  wdgrace : BitVec 32
  posts : List Nat
  slotsUsed : List Nat
  devUsed : List Nat
  deriving DecidableEq, Repr

/-- The life-cycle states of R299. -/
inductive LifeCycle | manufacture | deployed | returned
  deriving DecidableEq, Repr

/-- The place of a team that a fence has torn down: what its allocation was while its die stands fenced (R182, R281) (log 47). -/
structure FencedTeam where
  ctx : CtxKey
  core : Nat
  pair : Bool
  base : Nat
  size : Nat
  deriving DecidableEq, Repr

/-- Package-wide state: fabric (packets sent, packets of collectives received, the number of COLLs issued on each group table, and their last slacks with the clusters that issued them, R263; fabricFixed: the package id stands for the rest of this boot, R19; unreachable: packages of the domain that no port reaches, R294), keys, security processor, Zhoina, sensors, dies (R19, R262, R281, R293 to R302). -/
structure Package where
  pkgid : Fin 1152
  domain : List Nat
  life : LifeCycle
  idKey : Bool
  firmware : List Byte
  fwGood : Bool
  fuse : Nat
  keys : Tbl Nat Nat
  keySerial : Nat
  revoked : List Nat
  mailStatus : Nat
  mailData : List Byte
  hatom : Bool
  wiping : Bool
  powered : Bool
  errors : Tbl Nat Nat
  thot : BitVec 32
  time : Nat
  fenced : List Nat
  absent : List Nat
  poisoned : List Nat
  lineKeys : Tbl Nat (Nat × Nat)
  out : List RemotePacket
  inbox : List RemotePacket
  collSeq : Tbl Nat Nat
  collWaiting : List (CtxKey × Nat × Nat)
  slacks : Tbl Nat (List (Nat × Option Nat))
  logged : Tbl (Nat × Nat) (Nat × Nat)
  fabricFixed : Bool
  unreachable : List Nat
  fencedTeams : List FencedTeam
  deriving DecidableEq, Repr

/-- A thread: its team, home gang and home lane (R63). -/
abbrev ThreadKey := Nat × Nat × Nat

/-- A store to a REPLICATED RA = 0 page not yet at every replica (R211), in the home slice's order: its address, the bytes it replaced, the dies whose replicas lack it, the
gang that stored, and the threads that have made or observed it or a later one (log 50). -/
structure Lag where
  addr : Nat
  olds : List Byte
  dies : List Nat
  gang : Option GangKey
  seen : List ThreadKey
  deriving DecidableEq, Repr

/-- Which agent moves next: the schedule, held as data (assumption log 1). -/
inductive Turn where
  | event (i : Instr)                  -- a step of another agent, an event constructor of Instr
  | issue (core bench k : Nat)         -- the k-th gang of a bench's clause slot issues its next word
  | tick (core n : Nat)                -- n core cycles pass on a core
  | evict (core sector : Nat)          -- the L1 drops a sector
  | elapse (n : Nat)                   -- n interposer cycles pass
  | link (pkg : Nat) (up : Bool)       -- a package of the domain becomes reachable, or unreachable (R294)
  deriving DecidableEq, Repr

/-- The whole machine. -/
structure State where
  agenda : List Turn
  cur : Option GangKey
  word : BitVec 64
  seq : Nat
  freeNext : Nat
  mem : Memory
  pkg : Package
  parts : Tbl Nat Part
  ctxs : Tbl CtxKey Context
  grids : Tbl Nat Grid
  tasks : Tbl (CtxKey × Nat) Task
  teams : Tbl Nat Team
  gangs : Tbl GangKey Gang
  jobs : Tbl Nat Job
  cores : Tbl Nat Core
  benches : Tbl (Nat × Nat) Bench
  clusters : Tbl Nat Cluster
  lags : List Lag
  transit : List Flit
  deriving DecidableEq, Repr

/-- Why a step stops. -/
inductive Fault where
  /-- Raised by step when Zhoina has removed module power (R302): nothing moves any more. Safe. -/
  | powerOff
  deriving DecidableEq, Repr

/-- Why an instruction has no meaning. -/
inductive Refusal where
  /-- Raised by Dispatch for a mnemonic that has no meaning yet. Safe. -/
  | notModelled (mnemonic : String)
  deriving DecidableEq, Repr

/-- A core as reset leaves it: counters 0, storage wiped (R298). -/
def Core.initial : Core := ⟨0, [], [], [], [], ⟨[], none, false⟩, [], [], [], []⟩
def Bench.initial : Bench := ⟨[], 7⟩
/-- A cluster with no resident team runs at level 0 (R261); clamps at the top (log 12). -/
def Cluster.initial : Cluster := ⟨0, 0, 7, 7, none⟩
/-- A partition's registers at reset, but for HCMASK (R444) (log 6). -/
def Part.initial : Part := ⟨0, 0x0101, 256, 64, 0, none, 1, [], none, 0, none, 0, false, 7, 7, [], false, none, [], [], [], 0, 0, []⟩
/-- A context's registers at reset (R444); FORMWAIT 256 (R62), WDLIMIT 0 and WDGRACE 0x0100_0000 (R275). -/
def Context.initial : Context := ⟨0, 0, 0, 0, 0, false, 0, 65536, 0, 256, 0, 0x01000000, [], [], []⟩
/-- The package at reset (R19, R298, R444; log 11 for the life-cycle state, the firmware and the sensor reading). -/
def Package.initial : Package :=
  ⟨0, [0], .manufacture, true, [], true, 0, [], 1, [], Config.mailVerdict true, [], true, false, true, [], 0, 0, [], [], [], [], [], [], [], [], [], [], false, [], []⟩

/-- The machine right after reset, the wipe done (R298, R444): partition 0 holds every half-column, every context is stopped, memory reads zero (log 11). -/
def State.reset : State where
  agenda := []
  cur := none
  word := 0
  seq := 1
  freeNext := 0
  mem := []
  pkg := .initial
  parts := [(0, { Part.initial with hcmask := 0xFFF })]
  ctxs := []
  grids := []
  tasks := []
  teams := []
  gangs := []
  jobs := []
  cores := []
  benches := []
  clusters := []
  lags := []
  transit := []

end Sys2Proof.Machine
end

