-- ==== Sys2Proof/Machine/Base.lean ====
section
/-! DEFINITION. Named operations over maps, memory and the records of the state (spec/01_organization.md R10 to R24, spec/02_execution_model.md R31, R38). -/
namespace Sys2Proof.Machine

-- Maps

def tget {κ ν : Type} [DecidableEq κ] (t : Tbl κ ν) (k : κ) : Option ν :=
  match t with
  | [] => none
  | (a, v) :: r => if a = k then some v else tget r k
def terase {κ ν : Type} [DecidableEq κ] (t : Tbl κ ν) (k : κ) : Tbl κ ν := t.filter fun p => p.1 ≠ k
def tset {κ ν : Type} [DecidableEq κ] (t : Tbl κ ν) (k : κ) (v : ν) : Tbl κ ν := (k, v) :: terase t k
/-- See log 6. -/
def tgetD {κ ν : Type} [DecidableEq κ] (t : Tbl κ ν) (k : κ) (d : ν) : ν := (tget t k).getD d

/-- Change the entries that p selects. -/
def tmap {κ ν : Type} (t : Tbl κ ν) (p : κ → ν → Bool) (f : ν → ν) : Tbl κ ν := t.map fun e => if p e.1 e.2 then (e.1, f e.2) else e
def tkeys {κ ν : Type} (t : Tbl κ ν) (p : κ → ν → Bool) : List κ := (t.filter fun e => p e.1 e.2).map Prod.fst

-- Memory (the canonical form of Memory.wf)

/-- One byte; an unlisted address reads 0 (log 4). -/
def Memory.read (m : Memory) (a : Nat) : Byte :=
  match m with
  | [] => 0
  | (k, b) :: r => if k = a then b else Memory.read r a

/-- A byte other than 0 put at its place among rising addresses. -/
def Memory.put (m : Memory) (a : Nat) (b : Byte) : Memory :=
  match m with
  | [] => [(a, b)]
  | (k, c) :: r => if k < a then (k, c) :: Memory.put r a b else if k = a then (a, b) :: r else (a, b) :: (k, c) :: r
/-- Write one byte: 0 unlists its address. -/
def Memory.write (m : Memory) (a : Nat) (b : Byte) : Memory := if b = 0 then m.filter fun c => c.1 ≠ a else m.put a b

/-- Every listed address is above lo, addresses rise, and no listed byte is 0. -/
def Memory.wfAbove (m : Memory) (lo : Nat) : Bool :=
  match m with
  | [] => true
  | (k, b) :: r => (lo ≤ k) && b ≠ 0 && Memory.wfAbove r (k + 1)
/-- The canonical form. -/
def Memory.wf (m : Memory) : Bool := Memory.wfAbove m 0

def Memory.readBytes (m : Memory) (a n : Nat) : List Byte := (List.range n).map fun i => Memory.read m (a + i)
def Memory.writeBytes (m : Memory) (a : Nat) : List Byte → Memory
  | [] => m
  | b :: bs => Memory.writeBytes (Memory.write m a b) (a + 1) bs
/-- An n-byte little-endian value (R4). -/
def Memory.readN (m : Memory) (a n : Nat) : Nat := natOfBytes (Memory.readBytes m a n)
def Memory.writeN (m : Memory) (a n x : Nat) : Memory := Memory.writeBytes m a (bytesOfNat n x)
/-- Zero n bytes from a on. -/
def Memory.clear (m : Memory) (a n : Nat) : Memory := m.filter fun c => c.1 < a || c.1 ≥ a + n

/-- Listed bytes of a range, moved to start at 0. -/
def Memory.slice (m : Memory) (a n : Nat) : Memory :=
  (m.filter fun c => a ≤ c.1 && c.1 < a + n).map fun c => (c.1 - a, c.2)

-- Lane masks

def Mask.has (m : Mask) (i : Nat) : Bool := m.getLsbD i
def laneBit (i : Nat) : Mask := (1#64) <<< i
/-- The lanes of a mask below w, ascending. -/
def lanesOf (m : Mask) (w : Nat) : List Nat := (List.range w).filter fun i => m.getLsbD i
def maskOf (ls : List Nat) : Mask := ls.foldl (fun m i => m ||| laneBit i) 0
def fullMask (w : Nat) : Mask := maskOf (List.range w)
def popcount (m : Mask) : Nat := (lanesOf m 64).length
/-- The lowest lane of a mask, 0 of an empty one. -/
def lowest (m : Mask) : Nat := (lanesOf m 64).headD 0

-- Geometry (R10, R15, R22, R31)

def dieOf (core : Nat) : Nat := core / 64
def clusterOf (core : Nat) : Nat := core / 8
def leaderOf (core : Nat) : Nat := core - core % 2
def followerOf (core : Nat) : Nat := leaderOf core + 1
/-- The half-column of a die: 2 x column, plus 1 in rows 2 and 3. -/
def halfColumn (die : Nat) : Nat := 2 * (die % 6) + (if die / 6 ≥ 2 then 1 else 0)
def Part.owns (p : Part) (h : Nat) : Bool := p.hcmask.getLsbD h
def Part.ownsDie (p : Part) (die : Nat) : Bool := die < 24 && p.owns (halfColumn die)
def Part.ownsCore (p : Part) (core : Nat) : Bool := core < 1536 && p.ownsDie (dieOf core)
/-- The partition's dies in ascending id. -/
def Part.dies (p : Part) : List Nat := (List.range 24).filter p.ownsDie

-- Records by key

def Launch.empty : Launch :=
  ⟨0, 0, false, false, false, 0, 0, 0, 1, 8, 0, 0, [], 14, 14, 15, 64, 1024, 0, 0, 0, 0, 0, 0, 0, 0, 0, 0, 0, 0xFFFFFFFF, [], []⟩
def Grid.empty : Grid := ⟨⟨0, 0⟩, 0, .empty, 1, 0, 0, 0, none, none, false⟩
def Team.empty : Team :=
  ⟨0, ⟨0, 0⟩, 0, 0, 0, 0, false, 0, 0, .placed, [], [], [], [], [], [], 7, [], [], [], false⟩
def Gang.empty : Gang :=
  ⟨8, .any, 0, 0, 0, [], 0, 0, 0, [], [], [], [], 0, [], [], [], 14, 0, 0, 0, 0, false, false, none, [], false, [], none, none, false, false, 0, false, none, 0,
    [], .idle, 0, 0, false, 0, .counting, .no⟩
def Slot.none : Slot := ⟨0, false, .rn, 0, 0, 0, 0, 0⟩
def TableRec.empty : TableRec := ⟨.empty, 0, 0, 0, 0⟩
def Figures.zero : Figures := ⟨0, 0, 0, 0⟩
def Path.empty : Path := ⟨0, 0, 0, 0, none, 0, .ready, 0, false, 1, 0, none⟩
def GBar.none : GBar := ⟨false, 0, 0, 0⟩

def State.gang (s : State) (k : GangKey) : Gang := tgetD s.gangs k .empty
def State.setGang (s : State) (k : GangKey) (g : Gang) : State := { s with gangs := tset s.gangs k g }
def State.modGang (s : State) (k : GangKey) (f : Gang → Gang) : State := s.setGang k (f (s.gang k))
def State.team (s : State) (t : Nat) : Team := tgetD s.teams t .empty
def State.setTeam (s : State) (t : Nat) (x : Team) : State := { s with teams := tset s.teams t x }
def State.modTeam (s : State) (t : Nat) (f : Team → Team) : State := s.setTeam t (f (s.team t))
def State.grid (s : State) (n : Nat) : Grid := tgetD s.grids n .empty
def State.setGrid (s : State) (n : Nat) (x : Grid) : State := { s with grids := tset s.grids n x }
def State.core (s : State) (c : Nat) : Core := tgetD s.cores c .initial
def State.setCore (s : State) (c : Nat) (x : Core) : State := { s with cores := tset s.cores c x }
def State.modCore (s : State) (c : Nat) (f : Core → Core) : State := s.setCore c (f (s.core c))
def State.bench (s : State) (c b : Nat) : Bench := tgetD s.benches (c, b) .initial
def State.setBench (s : State) (c b : Nat) (x : Bench) : State := { s with benches := tset s.benches (c, b) x }
def State.cluster (s : State) (n : Nat) : Cluster := tgetD s.clusters n .initial
def State.setCluster (s : State) (n : Nat) (x : Cluster) : State := { s with clusters := tset s.clusters n x }
def State.part (s : State) (p : Nat) : Part := tgetD s.parts p .initial
def State.setPart (s : State) (p : Nat) (x : Part) : State := { s with parts := tset s.parts p x }
def State.modPart (s : State) (p : Nat) (f : Part → Part) : State := s.setPart p (f (s.part p))
def State.ctx (s : State) (c : CtxKey) : Context := tgetD s.ctxs c .initial
def State.setCtx (s : State) (c : CtxKey) (x : Context) : State := { s with ctxs := tset s.ctxs c x }
def State.modCtx (s : State) (c : CtxKey) (f : Context → Context) : State := s.setCtx c (f (s.ctx c))
def State.setJob (s : State) (j : Nat) (x : Job) : State := { s with jobs := tset s.jobs j x }
def State.setTask (s : State) (c : CtxKey) (i : Nat) (x : Task) : State := { s with tasks := tset s.tasks (c, i) x }
def State.modPkg (s : State) (f : Package → Package) : State := { s with pkg := f s.pkg }
/-- A fresh number (log 5). -/
def State.bump (s : State) : State := { s with seq := s.seq + 1 }
/-- The next fresh free value's index is used up (log 2). -/
def State.useFree (s : State) : State := { s with freeNext := s.freeNext + 1 }

def State.gridOf (s : State) (k : GangKey) : Grid := s.grid (s.team k.team).grid
def State.launchOf (s : State) (k : GangKey) : Launch := (s.gridOf k).launch
def Launch.slot (l : Launch) (n : Nat) : Slot := l.slots.getD n .none

/-- The core whose scratchpad holds the team's allocation (R32): Team.core is the solo or leader core. -/
def Team.scratchCore (t : Team) : Nat := t.core
/-- The core of a home gang index (R31). -/
def homeCore (t : Team) (i : Nat) : Nat := if t.pair && (i % 8 ≥ 4) then t.core + 1 else t.core
/-- Benches of a team's span in span order (R155). -/
def Team.span (t : Team) : List (Nat × Nat) :=
  (List.range 4).map (fun b => (t.core, b)) ++ (if t.pair then (List.range 4).map (fun b => (t.core + 1, b)) else [])
def Team.spanSize (t : Team) : Nat := if t.pair then 8 else 4
/-- The span index of a bench of the team. -/
def Team.spanIndex (t : Team) (core bench : Nat) : Nat := if core = t.core then bench else 4 + bench
/-- The team's allocation in bytes (R250). -/
def Launch.alloc (l : Launch) : Nat := (l.scratch + 16 * l.barriers + 16 * l.rings.length + 15) / 16 * 16
/-- A LOCAL offset, which counts from the start of the core's scratchpad, lies in the team's allocation (R181, R182) (log 42). -/
def Team.holds (t : Team) (l : Launch) (off : Nat) : Bool := t.scratchBase ≤ off && off < t.scratchBase + l.alloc
/-- The byte of ring r's block within the allocation (R389). -/
def Launch.ringOff (l : Launch) (r : Nat) : Nat := l.scratch + 16 * l.barriers + 16 * r
/-- Gang indices of a team that exist, home and formed. -/
def State.gangsOf (s : State) (t : Nat) : List GangKey := (s.gangs.filter fun p => p.1.team = t).map Prod.fst
/-- Teams of a context in residence or saved. -/
def State.teamsOf (s : State) (c : CtxKey) : List Nat := (s.teams.filter fun p => p.2.ctx = c).map Prod.fst

/-- The in-flight counters (R120, R121): a counted instruction leaves the list only when it and every older one of its kind have returned. -/
def Gang.counter (g : Gang) (c : Counter) : Nat := (g.flights.filter fun f => f.counter = some c).length

/-- A structure field of bytes at an offset, little-endian. -/
def leField (bs : List Byte) (off n : Nat) : Nat := natOfBytes ((bs.drop off).take n)
def bitsAt (x lo n : Nat) : Nat := (x >>> lo) % 2 ^ n

/-- Apply f along a list, threading the state. -/
def State.forEach {α : Type} (s : State) (xs : List α) (f : State → α → State) : State := xs.foldl f s

end Sys2Proof.Machine
end

