-- ==== Sys2Proof/Machine/Mem.lean ====
section
/-! DEFINITION. Memory: translation (spec/08_memory.md R181 to R191, spec/12_faults.md R273), performing one lane's access (R198 to R200, spec/09_consistency.md R202 to R213),
the error log (R282) and the fault queue (R274). -/
namespace Sys2Proof.Machine

/-- A memory cause of R264; missing: the walk level at which V = 0 (R274). -/
structure MFault where
  cause : Nat
  missing : Option Nat
  deriving DecidableEq, Repr

/-- The access codes of the fault queue (R274). -/
def AccessKind.code : AccessKind → Nat
  | .load => 0 | .store => 1 | .atomic => 2 | .fetch => 3 | .spill => 4 | .refill => 5 | .jobRead => 6 | .jobWrite => 7 | .handle => 8
def AccessKind.writes : AccessKind → Bool
  | .store | .atomic | .spill | .jobWrite => true
  | _ => false

/-- The host aperture (R185) (log 4). -/
def isHost (pa : Nat) : Bool := pa / 2 ^ 41 = 0x7FF
def packageOf (pa : Nat) : Nat := pa / 2 ^ 41
def lineOf (pa : Nat) : Nat := pa / 1024
def sectorOf (pa : Nat) : Nat := pa / 256

/-- The key domain with no key behaves as revoked (R296, R297) (log 43). -/
def State.domainGone (s : State) (kd : Nat) : Bool := s.pkg.revoked.contains kd || (tget s.pkg.keys kd).isNone

/-- The key under which a package's controllers hold a key domain: this package's key slot, or the domain's own number where another package holds the slot (R296) (log 44). -/
def State.keyOf (s : State) (kd pa : Nat) : Nat := if packageOf pa = s.pkg.pkgid then tgetD s.pkg.keys kd 0 else kd
/-- One byte of memory through key domain kd (R191): bytes written under another key read as unrelated bytes (log 43, log 44). -/
def State.memByte (s : State) (kd pa : Nat) : Byte :=
  let b := s.mem.read pa
  match tget s.pkg.lineKeys (lineOf pa) with
  | none => b
  | some (_, w) => if s.keyOf kd pa = w then b else Config.scramble w (s.keyOf kd pa) pa b
/-- The dirty sector of a PRIVATE page that a core's L1 holds in memory's place until it is written back (R190, R195). -/
def State.dirtyCopy (s : State) (kd pa : Nat) : Option Sector :=
  s.cores.findSome? fun e => if e.2.dirty.contains (sectorOf pa) then (tget e.2.l1 (sectorOf pa)).filter fun c => c.kd = kd else none
/-- One byte read through key domain kd: the newest one, which a PRIVATE page's dirty sector holds before memory does (R190, R195) (log 127). -/
def State.keyRead (s : State) (kd pa : Nat) : Byte :=
  match s.dirtyCopy kd pa with
  | some c => c.bytes.getD (pa % 256) 0
  | none => s.memByte kd pa

/-- Re-encrypt a line whose bytes stand under another key before one of its bytes is written (R191). -/
def State.retag (s : State) (kd line : Nat) : State :=
  let r := s.keyOf kd (line * 1024)
  match tget s.pkg.lineKeys line with
  | none => { s with pkg := { s.pkg with lineKeys := tset s.pkg.lineKeys line (kd, r) } }
  | some (_, w) =>
    if w = r then s
    else
      let m := (List.range 1024).foldl (fun m i => Memory.write m (line * 1024 + i) (Config.scramble w r (line * 1024 + i) (Memory.read m (line * 1024 + i)))) s.mem
      { s with mem := m, pkg := { s.pkg with lineKeys := tset s.pkg.lineKeys line (kd, r) } }

/-- A byte put into a sector's copy. -/
def Sector.put (c : Sector) (pa : Nat) (b : Byte) : Sector := { c with bytes := c.bytes.set (pa % 256) b }
/-- A write at memory reaches the copies that stand without a lease (log 127). -/
def Core.patch (c : Core) (kd pa : Nat) (b : Byte) : Core := { c with l1 := tmap c.l1 (fun n x => n = sectorOf pa && !x.leased && x.kd = kd) fun x => x.put pa b }
/-- One byte written to memory through key domain kd; the store fills a poisoned sector and clears its mark (R281). -/
def State.keyWrite (s : State) (kd pa : Nat) (b : Byte) : State :=
  let s := s.retag kd (lineOf pa)
  { s with
    mem := s.mem.write pa b, pkg := { s.pkg with poisoned := s.pkg.poisoned.filter fun x => x ≠ sectorOf pa },
    cores := s.cores.map fun e => (e.1, e.2.patch kd pa b) }
def State.keyReadN (s : State) (kd pa n : Nat) : Nat := natOfBytes ((List.range n).map fun i => s.keyRead kd (pa + i))
def State.keyWriteBytes (s : State) (kd pa : Nat) : List Byte → State
  | [] => s
  | b :: bs => State.keyWriteBytes (s.keyWrite kd pa b) kd (pa + 1) bs

-- Translation (R187 to R189)

/-- Level, lowest VA bit and index width of the five tables (R187). -/
def walkLevels : List (Nat × Nat × Nat) := [(0, 48, 8), (1, 39, 9), (2, 30, 9), (3, 21, 9), (4, 16, 5)]

/-- A package id that no package has, or one outside the domain or unreachable (R185, R294); a poisoned sector that is read (R281) (log 53). -/
def State.badWord (s : State) (pa : Nat) (reads : Bool) : Bool :=
  !isHost pa && (!s.pkg.domain.contains (packageOf pa) || (packageOf pa ≠ s.pkg.pkgid && s.pkg.unreachable.contains (packageOf pa))
    || (packageOf pa = s.pkg.pkgid && reads && s.pkg.poisoned.contains (sectorOf pa)))
/-- An address of configuration space (R186), or of this package outside the partition (R24). -/
def State.foreignPa (s : State) (p : Part) (pa : Nat) : Bool :=
  let off := pa % 2 ^ 41
  (packageOf pa ≤ 1151 && off ≥ 0x18000000000) || (packageOf pa = s.pkg.pkgid && !p.owns (off / 2 ^ 37))
/-- What a walk meets at an entry, read as an ordinary load (R273): an address the partition may not reach (R189), a key domain outside KDMASK (R295), revoked or without a key
(R296, R297), or a word that cannot be read (log 43, log 53). -/
def State.tableCause (s : State) (p : Part) (pa : Nat) : Option Nat :=
  if s.foreignPa p pa then some 0x11
  else if (match tget s.pkg.lineKeys (lineOf pa) with | some (d, _) => packageOf pa = s.pkg.pkgid && (!p.kdmask.getLsbD d || s.domainGone d) | none => false) then some 0x16
  else if s.badWord pa true then some 0x60
  else none
/-- Eight bytes of a table, through the key domain in which its line lies (R296). -/
def State.tableEntry (s : State) (pa : Nat) : Nat :=
  match tget s.pkg.lineKeys (lineOf pa) with
  | some (d, _) => s.keyReadN d pa 8
  | none => s.mem.readN pa 8

/-- The walk of R187 to R189. An entry's reserved bits are those that R188 calls reserved; OWNER, RA, X and W where the entry gives them no meaning are not looked at (log 116). V = 0
is looked at before the reserved bits, so that an entry with both goes to the fault queue (log 120). -/
def State.walk (s : State) (p : Part) (va : Nat) : List (Nat × Nat × Nat) → Nat → Except MFault Leaf
  | [], _ => .error ⟨0x10, none⟩
  | (level, lo, bits) :: rest, base =>
    let a := base + 16 * bitsAt va lo bits
    match s.tableCause p a with
    | some c => .error ⟨c, none⟩
    | none =>
      let e := s.tableEntry a
      let f := s.tableEntry (a + 8)
      let leaf := bitsAt e 1 1 = 1
      let pa := bitsAt e 16 36 * 65536
      if bitsAt e 0 1 = 0 then .error ⟨0x10, some level⟩
      else if bitsAt e 52 12 ≠ 0 || bitsAt e 4 12 ≠ 0 || (leaf && level < 2) || (!leaf && level = 4) then .error ⟨0x10, none⟩
      else if !leaf then s.walk p va rest pa
      else
        let coh := bitsAt f 16 2
        let pdie := bitsAt f 24 5
        if bitsAt f 40 24 ≠ 0 || bitsAt f 0 15 ≠ 0 || pa % 2 ^ lo ≠ 0 || (24 ≤ pdie && pdie ≤ 30) || (coh = 3 && pdie ≠ 31) then .error ⟨0x10, none⟩
        else .ok ⟨va / 2 ^ lo * 2 ^ lo, 2 ^ lo, pa, bitsAt e 3 1 = 1, bitsAt e 2 1 = 1, bitsAt f 29 11, pdie, bitsAt f 18 6, coh, bitsAt f 15 1 = 1⟩
/-- The entry at which a walk meets DATA_UNCORRECTABLE. -/
def State.badEntry (s : State) (p : Part) (va : Nat) : List (Nat × Nat × Nat) → Nat → Option Nat
  | [], _ => none
  | (_, lo, bits) :: rest, base =>
    let a := base + 16 * bitsAt va lo bits
    if s.tableCause p a = some 0x60 then some a
    else State.badEntry s p va rest (bitsAt (s.tableEntry a) 16 36 * 65536)

/-- The table walk of a context from its translation base (R187, R273). -/
def State.walkVa (s : State) (c : CtxKey) (va : Nat) : Except MFault Leaf :=
  if va ≥ 2 ^ 56 then .error ⟨0x10, none⟩ else s.walk (s.part c.part) va walkLevels (s.ctx c).tbase

/-- The entries that a walk reads, from the top table down. -/
def State.walkReads (s : State) (p : Part) (va : Nat) : List (Nat × Nat × Nat) → Nat → List Nat
  | [], _ => []
  | (_, lo, bits) :: rest, base =>
    let a := base + 16 * bitsAt va lo bits
    match s.tableCause p a with
    | some _ => []
    | none => a :: if bitsAt (s.tableEntry a) 0 2 = 1 then State.walkReads s p va rest (bitsAt (s.tableEntry a) 16 36 * 65536) else []
/-- A packet to another package goes out with the access that is performed there (R294) (log 13). -/
def State.sendRemote (s : State) (pa : Nat) (p : RemotePacket) : State :=
  if isHost pa || packageOf pa = s.pkg.pkgid then s else s.modPkg fun k => { k with out := k.out ++ [p] }
/-- A walk asks another package for the tables that it holds, each under its line's key domain (R294, R296). -/
def State.askTables (s : State) (c : CtxKey) (va : Nat) : State :=
  (s.walkReads (s.part c.part) va walkLevels (s.ctx c).tbase).foldl
    (fun s a => s.sendRemote a (.read a ((tget s.pkg.lineKeys (lineOf a)).elim 0 Prod.fst) 16)) s

def Leaf.holds (l : Leaf) (va : Nat) : Bool := l.va ≤ va && va < l.va + l.size
def tlbKey (c : CtxKey) : Nat := c.part * 16 + c.ctx
/-- A core's translation: its TLB, else a walk (R273). -/
def State.lookup (s : State) (core : Option Nat) (c : CtxKey) (va : Nat) : Except MFault Leaf :=
  match core with
  | some k =>
    match (tgetD (s.core k).tlb (tlbKey c) []).find? (Leaf.holds · va) with
    | some l => .ok l
    | none => s.walkVa c va
  | none => s.walkVa c va
/-- Keep a translation in the core's TLB, walking the tables for one that it does not hold (log 51). -/
def State.fillTlb (s : State) (core : Nat) (c : CtxKey) (va : Nat) : State :=
  match s.lookup (some core) c va with
  | .error _ => s
  | .ok l =>
    let ls := tgetD (s.core core).tlb (tlbKey c) []
    if ls.contains l then s else (s.askTables c va).modCore core fun k => { k with tlb := tset k.tlb (tlbKey c) (l :: ls) }

/-- Keep the translations of a range that a core has used, page by page. -/
def State.fillRange (s : State) (core : Option Nat) (c : CtxKey) (va n : Nat) : State :=
  match core with
  | none => s
  | some k => (List.range (n / 65536 + 2)).foldl (fun s i => s.fillTlb k c (min (va + 65536 * i) (va + n - 1))) s

/-- Cases 2 to 5 of R189 for a translated address; core is the core that makes the access, none for a posted task's job; host: a copy's space, HOST or GLOBAL. -/
def State.checkLeaf (s : State) (c : CtxKey) (core : Option Nat) (kind : AccessKind) (host : Option Bool) (l : Leaf) (va : Nat) : Except MFault Loc :=
  let p := s.part c.part
  let pa := l.pa + (va - l.va)
  if (kind.writes && !l.w) || (kind = .fetch && !l.x) || (host = some true && !isHost pa) || (host = some false && isHost pa)
      || (l.pdie ≠ 31 && !p.ownsDie l.pdie) || s.foreignPa p pa then .error ⟨0x11, none⟩
  else if l.coh = 0 && core ≠ some l.owner then .error ⟨0x12, none⟩
  else if l.coh = 1 && kind.writes then .error ⟨0x13, none⟩
  else if s.domainGone l.kd then .error ⟨0x16, none⟩
  else .ok (.mem pa l.kd l.coh l.ra)

/-- A virtual address to a location, or the first cause of R189. -/
def State.translate (s : State) (c : CtxKey) (core : Option Nat) (kind : AccessKind) (host : Option Bool) (va : Nat) : Except MFault Loc :=
  match s.lookup core c va with
  | .error e => .error e
  | .ok l => s.checkLeaf c core kind host l va

/-- The line index of an address of this package in the partition's ranges, and its hash (R193). -/
def Part.linePos (p : Part) (pa : Nat) : Nat :=
  let off := pa % 2 ^ 41
  (((List.range 12).filter p.owns).filter fun h => h < off / 2 ^ 37).length * 2 ^ 37 + off % 2 ^ 37
def lineHash (l : Nat) : Nat := bitsAt l 0 11 ^^^ bitsAt l 11 11 ^^^ bitsAt l 22 9
/-- The slices and the stacks of the partition, ascending (R10, R12, R22). -/
def Part.slices (p : Part) : List Nat := p.dies.flatMap fun d => (List.range 8).map fun i => 8 * d + i
def Part.stacks (p : Part) : List Nat :=
  (List.range 24).filter fun n => p.owns (if n < 12 then n / 2 * 2 else (n - 12) / 2 * 2 + 1)
/-- The home slice of a physical address of this package, hashed or pinned to a die (R193, R194). -/
def Part.homeSlice (p : Part) (pdie pa : Nat) : Nat :=
  let h := lineHash (p.linePos pa / 1024)
  if pdie < 24 then 8 * pdie + h % 8 else p.slices.getD (h % p.slices.length) 0
/-- The slice that serves reads of a REPLICATED line to a core: one of the eight of its own region (R190). No step depends on it. -/
def Part.replicaSlice (p : Part) (core pa : Nat) : Nat := 8 * dieOf core + lineHash (p.linePos pa / 1024) % 8
/-- The set of the L1 in which a line stands (R195). Replacement is not architectural, so no step depends on it: any sector may leave at any time (State.evictSector). -/
def l1Set (pa : Nat) : Nat := bitsAt pa 10 7
/-- The stack in which a line lies, the same in both modes (R193, R194). No step depends on it: where a line lies is not visible (R186). -/
def Part.homeStack (p : Part) (pa : Nat) : Nat := p.stacks.getD (lineHash (p.linePos pa / 1024) % p.stacks.length) 0
/-- The local slice of another package's line (R197). -/
def Part.remoteSlice (p : Part) (pa : Nat) : Nat :=
  let l := bitsAt pa 10 42
  p.slices.getD ((bitsAt l 0 11 ^^^ bitsAt l 11 11 ^^^ bitsAt l 22 11 ^^^ bitsAt l 33 9) % p.slices.length) 0

/-- An access that cannot be made or whose word cannot be corrected (R185, R281, R294) (log 53). -/
def State.uncorrectable (s : State) (loc : Loc) (kind : AccessKind) : Bool :=
  match loc with
  | .mem pa _ _ _ => s.badWord pa (kind ≠ .store && kind ≠ .jobWrite && kind ≠ .spill)
  | .scratch _ _ => false

-- Error records (R282)

/-- n bytes of a base register's memory still lie in the partition (R295): those that HCMASK has since taken away hold nothing (log 115). -/
def State.ownsBase (s : State) (part base n : Nat) : Bool := packageOf base = s.pkg.pkgid && !s.foreignPa (s.part part) base && !s.foreignPa (s.part part) (base + (n - 1))
/-- The fault queue, all of whose 4,096 entries lie in the partition. -/
def State.queueBase (s : State) (part : Nat) : Option (Nat × Nat) := (s.part part).fqbase.filter fun b => s.ownsBase part b.1 131072
/-- Write an error record to a partition's log, if it has one, and count it for Zhoina (log 41). -/
def State.logTo (s : State) (part : Nat) (pa cls unit unitId : Nat) (ctx : Option Nat) (detail : Nat) : State :=
  let s := s.modPkg fun k => { k with errors := tset k.errors part (tgetD k.errors part 0 + 1) }
  match (s.part part).elbase with
  | none => s
  | some (base, kd, size) =>
    let n := (s.part part).elNext
    let c := match ctx with | some x => x % 16 | none => 16
    let rec32 := bytesOfNat 8 pa ++ bytesOfNat 1 part ++ bytesOfNat 1 cls ++ bytesOfNat 1 unit ++ bytesOfNat 1 c ++ bytesOfNat 4 unitId
      ++ bytesOfNat 8 s.pkg.time ++ bytesOfNat 4 detail ++ bytesOfNat 4 0
    let a := base + 32 * (n % (size * 128))
    let s := if size = 0 || !s.ownsBase part a 32 then s else s.keyWriteBytes kd a rec32
    s.modPart part fun p => { p with elNext := n + 1 }

/-- The record of an uncorrectable word (R281, R282, R293, R294): the host link, a fabric port, or the word's home slice reports it, CONTAINED. -/
def State.recordBad (s : State) (c : CtxKey) (pdie pa detail : Nat) : State :=
  let (unit, id) :=
    if isHost pa then (0x0B, 0)
    else if packageOf pa ≠ s.pkg.pkgid then (0x0A, Config.fabricPort pa % 18)
    else (0x05, (s.part c.part).homeSlice pdie pa)
  s.logTo c.part pa 0x02 unit id (some c.ctx) detail

-- The fault queue (R274)

/-- Whether a new entry's position is free: it holds no unanswered entry (log 48). -/
def Part.fqRoom (p : Part) : Bool := !(p.fq.any fun e => e.seq % 4096 = p.fqNext % 4096)

/-- Place a fault in the queue: join an unanswered entry of the same context, page and cause, write a new one, or wait (answer none) for room (log 41, log 48). -/
def State.queueFault (s : State) (a : Agent) (c : CtxKey) (va cause : Nat) (kind : AccessKind) (level unitId gridid : Nat) : State × Option Nat :=
  let p := s.part c.part
  let page := va / 65536
  match p.fq.find? fun e => e.ctx = c && e.page = page && e.cause = cause with
  | some e =>
    let e2 := { e with agents := e.agents ++ [a], joined := min (e.joined + 1) 65535 }
    let s := s.modPart c.part fun p => { p with fq := p.fq.map fun x => if x.seq = e.seq then e2 else x }
    let s := match s.queueBase c.part with
      | some (base, kd) => s.keyWriteBytes kd (base + 32 * (e.seq % 4096) + 12) (bytesOfNat 2 e2.joined)
      | none => s
    (s, some e.seq)
  | none =>
    match s.queueBase c.part with
    | none => (s, none)
    | some (base, kd) =>
      if !p.fqRoom then (s, none)
      else
        let n := p.fqNext
        let e : FaultEntry := ⟨n, c, page, cause, 1, [a]⟩
        let bytes := bytesOfNat 8 va ++ bytesOfNat 1 cause ++ bytesOfNat 1 kind.code ++ bytesOfNat 1 c.ctx ++ bytesOfNat 1 level ++ bytesOfNat 2 1 ++ bytesOfNat 2 0
          ++ bytesOfNat 4 unitId ++ bytesOfNat 4 gridid ++ bytesOfNat 4 n ++ bytesOfNat 4 0
        let s := s.keyWriteBytes kd (base + 32 * (n % 4096)) bytes
        (s.modPart c.part fun p => { p with fq := p.fq ++ [e], fqNext := if n + 1 = 2 ^ 32 then 1 else n + 1 }, some n)

-- Logical time (R206 to R210)

/-- The time key of a scratchpad's 1 KiB block; lines of memory use their own number. -/
def scratchLine (core off : Nat) : Nat := 2 ^ 50 + core * 512 + off / 1024
def Loc.timeKey : Loc → Nat
  | .mem pa _ _ _ => lineOf pa
  | .scratch core off => scratchLine core off

/-- The least program time of the partition's gangs, wherever they stand, those of its shadow storage and its saved ones too. -/
def State.leastTime (s : State) (part : Nat) : Nat :=
  let p := s.part part
  let shadow : Tbl GangKey Gang := match p.shadow with | some x => x.gangs | none => []
  match (s.gangs.filter (fun e => (s.team e.1.team).ctx.part = part) ++ p.saved ++ shadow).map fun e => e.2.pt with
  | [] => p.top
  | n :: ns => ns.foldl min n
/-- The common amount of a rebase: the least program time, or more when the times near their 48 bits (log 14). -/
def State.rebaseBy (s : State) (part : Nat) : Nat := max (s.leastTime part) ((s.part part).top - 2 ^ 47)
def rebaseGangs (d : Nat) (f : GangKey → Bool) (gs : Tbl GangKey Gang) : Tbl GangKey Gang := tmap gs (fun k _ => f k) fun (g : Gang) => { g with pt := g.pt - d }
def Sector.rebase (c : Sector) (d : Nat) : Sector := { c with wts := c.wts - d, rts := c.rts - d }
def rebaseSectors (d : Nat) (xs : Tbl Nat Sector) : Tbl Nat Sector :=
  (xs.filter fun (e : Nat × Sector) => !e.2.leased || e.2.rts ≥ d).map fun (e : Nat × Sector) => (e.1, e.2.rebase d)
/-- Every time of the partition falls by the common amount (R210); a time below it stands at 0, and a copy whose lease had ended is dropped (log 14). -/
def State.rebase (s : State) (part : Nat) : State :=
  let d := s.rebaseBy part
  let s := { s with
    gangs := rebaseGangs d (fun k => (s.team k.team).ctx.part = part) s.gangs,
    jobs := tmap s.jobs (fun _ j => j.ctx.part = part) fun (j : Job) => { j with pt := j.pt - d },
    cores := tmap s.cores (fun c _ => (s.part part).ownsCore c) fun (c : Core) => { c with l1 := rebaseSectors d c.l1 } }
  s.modPart part fun p =>
    { p with
      saved := rebaseGangs d (fun _ => true) p.saved, shadow := p.shadow.map fun (x : Shadow) => { x with gangs := rebaseGangs d (fun _ => true) x.gangs },
      lineTimes := p.lineTimes.map fun (e : Nat × Nat × Nat) => (e.1, e.2.1 - d, e.2.2 - d), horizon := p.horizon - d, top := p.top - d,
      rdc := (p.rdc.filter fun (e : Nat × RemoteCopy) => e.2.sector.rts ≥ d).map fun (e : Nat × RemoteCopy) =>
        (e.1, { e.2 with sector := e.2.sector.rebase d }) }
/-- Before any time would pass 2^48 - 1 the partition rebases (R210); a lease is shorter than 2^20 ticks (R207). -/
def State.timeRoom (s : State) (part : Nat) : State := if (s.part part).top + 2 ^ 21 ≥ 2 ^ 48 then s.rebase part else s
def State.partOf (s : State) (k : GangKey) : Nat := (s.team k.team).ctx.part

/-- A load at the point that holds the line, with a lease of some ticks: the program time is raised to the write time, the read time to the lease's end (R203, R206). -/
def State.timeRead (s : State) (k : GangKey) (lease key : Nat) : State :=
  let part := s.partOf k
  let s := s.timeRoom part
  let t := tgetD (s.part part).lineTimes key (0, 0)
  let g := s.gang k
  let pt := max g.pt t.1
  let s := s.modPart part fun p =>
    { p with lineTimes := tset p.lineTimes key (t.1, max t.2 (pt + lease)), horizon := max p.horizon t.1, top := max p.top (pt + lease) }
  s.setGang k { g with pt := pt }
/-- A load without a lease: of a scratchpad, a host page, or a page that no lease covers (R190, R213). -/
def State.timeLoad (s : State) (k : GangKey) (key : Nat) : State := s.timeRead k 0 key
/-- A store or atomic at program time pt: the new write time. -/
def State.timeStore (s : State) (part pt key : Nat) : State × Nat :=
  let d := (s.part part).top
  let s := s.timeRoom part
  let w := max (pt - (d - (s.part part).top)) ((tgetD (s.part part).lineTimes key (0, 0)).2 + 1)
  (s.modPart part fun p =>
    { p with lineTimes := tset p.lineTimes key (w, w), horizon := max p.horizon w, top := max p.top w }, w)
/-- A read by an agent other than a thread, at a program time: the line's read time is raised to it, so that a later store to it stands after the read in T (R203, R214) (log 15). -/
def State.agentRead (s : State) (part pt key : Nat) : State :=
  let d := (s.part part).top
  let s := s.timeRoom part
  let t := tgetD (s.part part).lineTimes key (0, 0)
  let r := max t.1 (pt - (d - (s.part part).top))
  s.modPart part fun p => { p with lineTimes := tset p.lineTimes key (t.1, max t.2 r), horizon := max p.horizon t.1, top := max p.top r }
/-- A gang's own store: its program time is the store's. -/
def State.gangStore (s : State) (k : GangKey) (key : Nat) : State :=
  let r := s.timeStore (s.partOf k) (s.gang k).pt key
  r.1.modGang k fun g => { g with pt := r.2 }
/-- An observation of a synchronisation object: everything that precedes it in T precedes the observer's later accesses (R205, R215) (log 15). -/
def State.observe (s : State) (k : GangKey) : State := s.modGang k fun g => { g with pt := max g.pt (s.part (s.partOf k)).horizon }

-- REPLICATED pages with RA = 0 (R211)

/-- The thread in a lane: itself in its home gang, its home thread in a formed gang (R63). -/
def Gang.threadAt (g : Gang) (k : GangKey) (lane : Nat) : ThreadKey := if k.idx < 32 then (k.team, k.idx, lane) else (k.team, g.home.getD lane (0, lane))
def Lag.meets (e : Lag) (pa w : Nat) : Bool := e.addr < pa + w && pa < e.addr + e.olds.length
/-- Split at the newest store that the replica of a die has, or that one of the threads has made or observed: the stores up to it, and those after it, in order. -/
def splitLags (die pa w : Nat) (ts : List ThreadKey) : List Lag → List Lag × List Lag
  | [] => ([], [])
  | e :: es =>
    let (known, after) := splitLags die pa w ts es
    if !known.isEmpty || (e.meets pa w && (!e.dies.contains die || ts.any e.seen.contains)) then (e :: known, after) else ([], e :: after)
/-- A store undone in a list of bytes that stand from an address on. -/
def Lag.undo (e : Lag) (pa : Nat) (bs : List Byte) : List Byte :=
  bs.zipIdx.map fun b => if e.addr ≤ pa + b.2 && pa + b.2 < e.addr + e.olds.length then e.olds.getD (pa + b.2 - e.addr) 0 else b.1
/-- The bytes that a replica beneath a die shows to some threads: the home slice's, less the whole stores that it lacks and they have not seen (R199, R211). -/
def State.replicaBytes (s : State) (die kd pa w : Nat) (ts : List ThreadKey) : List Byte :=
  (splitLags die pa w ts s.lags).2.foldr (fun e bs => if e.meets pa w then e.undo pa bs else bs) ((List.range w).map fun i => s.keyRead kd (pa + i))
/-- The threads have observed every store up to the version read; all says the home slice's own version. -/
def State.seeLags (s : State) (die pa w : Nat) (ts : List ThreadKey) (all : Bool) : State :=
  let (known, after) := if all then (s.lags, []) else splitLags die pa w ts s.lags
  { s with lags := (known.map fun e => if e.meets pa w then { e with seen := ts ++ e.seen } else e) ++ after }
/-- A store has still to reach the die's replica of the line. -/
def State.lagging (s : State) (die pa : Nat) : Bool := s.lags.any fun e => lineOf e.addr = lineOf pa && e.dies.contains die
/-- The replicas that a store has still to reach, those of the partition's dies (log 50). -/
def State.addLag (s : State) (k : Option GangKey) (ts : List ThreadKey) (part kd pa w : Nat) : State :=
  { s with lags := s.lags ++ [⟨pa, (List.range w).map fun i => s.keyRead kd (pa + i), (s.part part).dies, k, ts⟩] }

-- Performing one lane's access

def State.sendAt (s : State) (loc : Loc) (p : Nat → Nat → RemotePacket) : State := match loc with | .mem pa kd _ _ => s.sendRemote pa (p pa kd) | .scratch .. => s
/-- A read of n bytes at a location, which asks another package for them. -/
def State.sendRead (s : State) (loc : Loc) (n : Nat) : State := s.sendAt loc fun pa kd => .read pa kd n

-- L1 copies of PRIVATE and READ-SHARED pages (R190, R195, R196)

/-- A copy without a lease in a core's L1. -/
def State.plainCopy (s : State) (core kd pa : Nat) : Option Sector := (tget (s.core core).l1 (sectorOf pa)).filter fun c => !c.leased && c.kd = kd
/-- A dirty sector of a core's L1 is written back to its memory, by a packet where another package holds it; the copy stays (R190, R195). -/
def State.writeBack (s : State) (core sector : Nat) : State :=
  if !(s.core core).dirty.contains sector then s
  else
    let s1 := s.modCore core fun c => { c with dirty := c.dirty.filter fun y => y ≠ sector }
    match tget (s.core core).l1 sector with
    | none => s1
    | some c => (s1.keyWriteBytes c.kd (sector * 256) (c.bytes.take 256)).sendRemote (sector * 256) (.write (sector * 256) c.kd (c.bytes.take 256))
/-- A sector leaves a core's L1, written back first where it is dirty. -/
def State.dropSector (s : State) (core sector : Nat) : State := (s.writeBack core sector).modCore core fun c => { c with l1 := terase c.l1 sector }
/-- A leased copy of a sector leaves a core's L1. -/
def State.dropLeased (s : State) (core sector : Nat) : State :=
  s.modCore core fun c => { c with l1 := c.l1.filter fun e => !(e.1 = sector && e.2.leased) }
/-- A sector as its newest bytes stand, without a lease. -/
def State.plainSector (s : State) (kd pa : Nat) : Sector := ⟨(List.range 256).map fun i => s.keyRead kd (sectorOf pa * 256 + i), 0, 0, kd, 0, false⟩
/-- A load of a PRIVATE or READ-SHARED page: from L1, else from memory, which fills L1 unless the hint says otherwise; .LAST drops the copy (R190, R195, R196). LD.POLL reads past
L1 (R208). -/
def State.plainLoad (s : State) (k : GangKey) (core pa kd w : Nat) (poll : Bool) (ch : Nat) : State × Nat :=
  let x := s.keyReadN kd pa w
  let s := s.timeLoad k (lineOf pa)
  match (if poll then none else s.plainCopy core kd pa) with
  | some _ => (if ch = 3 then s.dropSector core (sectorOf pa) else s, x)
  | none =>
    let s1 := s.sendRemote pa (.read pa kd w)
    (if poll || ch ≥ 2 then s1
     else (s1.dropSector core (sectorOf pa)).modCore core fun c => { c with l1 := tset c.l1 (sectorOf pa) (s.plainSector kd pa) }, x)

/-- The copy of a remote sector that serves a load: same key domain, lease not over (R197). -/
def State.remoteHit (s : State) (k : GangKey) (kd pa : Nat) : Option RemoteCopy :=
  if packageOf pa = s.pkg.pkgid then none
  else (tget (s.part (s.partOf k)).rdc (sectorOf pa)).filter fun c => c.sector.kd = kd && (s.gang k).pt ≤ c.sector.rts && c.left > 0
/-- The bytes that a sector holds from an address on. -/
def Sector.at (c : Sector) (pa w : Nat) : Nat := natOfBytes ((c.bytes.drop (pa % 256)).take w)

/-- Load miss: served by the remote-data cache or at the home slice; the sector is copied into L1 with its lease (alloc), and another package's into the slice (keep)
(R190, R195 to R197, R208) (log 8). -/
def State.missLoad (s : State) (k : GangKey) (core pa kd w : Nat) (alloc keep : Bool) : State × Nat :=
  let s := s.writeBack core (sectorOf pa)
  let part := s.partOf k
  let cycle := (s.core core).cycle
  match s.remoteHit k kd pa with
  | some c =>
    let s := s.modGang k fun g => { g with pt := max g.pt c.sector.wts }
    (if alloc then s.modCore core fun x => { x with l1 := tset x.l1 (sectorOf pa) { c.sector with till := cycle + c.left } } else s, c.sector.at pa w)
  | none =>
    let x := s.keyReadN kd pa w
    let lease := (s.part part).rdlease
    let s := (s.timeRead k lease (lineOf pa)).sendRemote pa (.read pa kd w)
    let base := sectorOf pa * 256
    let copy : Sector := ⟨(List.range 256).map fun i => s.keyRead kd (base + i), (tgetD (s.part part).lineTimes (lineOf pa) (0, 0)).1, (s.gang k).pt + lease, kd, cycle + 16 * lease, true⟩
    let s := if keep && packageOf pa ≠ s.pkg.pkgid && (s.part part).rdcways > 0 then
        s.modPart part fun p => { p with rdc := tset p.rdc (sectorOf pa) ⟨p.remoteSlice pa, copy, 16 * lease⟩ }
      else s
    (s.modCore core fun c => { c with l1 := if alloc then tset c.l1 (sectorOf pa) copy else terase c.l1 (sectorOf pa) }, x)
/-- A load through L1 under leases: the copy while it may serve, else a miss, which .LAST lets fill nothing; .LAST drops the copy that it hits (R190, R196, R208). -/
def State.leasedLoad (s : State) (k : GangKey) (core pa kd w : Nat) (poll : Bool) (ch : Nat) : State × Nat :=
  match (if poll then none else tget (s.core core).l1 (sectorOf pa)) with
  | some c =>
    if c.leased && (s.gang k).pt ≤ c.rts && c.kd = kd && (s.core core).cycle < c.till then
      let s := s.modGang k fun g => { g with pt := max g.pt c.wts }
      (if ch = 3 then s.modCore core fun x => { x with l1 := terase x.l1 (sectorOf pa) } else s, c.at pa w)
    else s.missLoad k core pa kd w (ch < 2) (ch < 3)
  | none => if poll then
      let s := s.modPart (s.partOf k) fun p => { p with rdc := terase p.rdc (sectorOf pa) }
      s.missLoad k core pa kd w false (ch < 3)
    else s.missLoad k core pa kd w (ch < 2) (ch < 3)

/-- A load of w bytes by some threads (R366, R206, R190): PRIVATE and READ-SHARED words through L1 without a lease, host and scratchpad words as they stand; COHERENT and REPLICATED ones
under leases; a replica that lacks a store shows its older bytes (R211). -/
def State.loadLoc (s : State) (k : GangKey) (core : Nat) (loc : Loc) (w : Nat) (poll : Bool) (ch : Nat) (ts : List ThreadKey) : State × Nat :=
  match loc with
  | .scratch c off => (s.timeLoad k (scratchLine c off), (s.core c).scratch.readN off w)
  | .mem pa kd coh ra =>
    if isHost pa then (s.timeLoad k (lineOf pa), s.mem.readN pa w)
    else if coh < 2 then s.plainLoad k core pa kd w poll ch
    else if coh = 3 && !ra && !poll && s.lagging (dieOf core) pa then
      let s := s.dropLeased core (sectorOf pa)
      ((s.seeLags (dieOf core) pa w ts false).timeLoad k (lineOf pa), natOfBytes (s.replicaBytes (dieOf core) kd pa w ts))
    else
      let s := if coh = 3 && !ra then s.seeLags (dieOf core) pa w ts true else s
      s.leasedLoad k core pa kd w poll ch

/-- The writer's own L1 after a store through it: a copy that it has keeps the new bytes under a lease of WRLEASE, unless .LAST drops it (R190, R196, R207). -/
def State.ownCopy (s : State) (k : GangKey) (core pa kd ch : Nat) : State :=
  match (tget (s.core core).l1 (sectorOf pa)).filter Sector.leased with
  | none => s
  | some _ =>
    let p := s.part (s.partOf k)
    let till := (s.gang k).pt + p.wrlease
    let copy : Sector := ⟨(List.range 256).map fun i => s.keyRead kd (sectorOf pa * 256 + i), (s.gang k).pt, till, kd, (s.core core).cycle + 16 * p.rdlease, true⟩
    let s := s.modPart (s.partOf k) fun p => { p with
      lineTimes := tset p.lineTimes (lineOf pa) ((s.gang k).pt, max (tgetD p.lineTimes (lineOf pa) (0, 0)).2 till), top := max p.top till }
    s.modCore core fun cr => { cr with l1 := if ch = 3 then terase cr.l1 (sectorOf pa) else tset cr.l1 (sectorOf pa) copy }
/-- A store of w bytes by some threads at the point that holds the word (R190, R206): the home slice, which takes away the remote copy, the host, or a scratchpad. -/
def State.homeStore (s : State) (k : GangKey) (loc : Loc) (w x : Nat) (ts : List ThreadKey) : State :=
  match loc with
  | .scratch c off => (s.modCore c fun cr => { cr with scratch := cr.scratch.writeN off w x }).gangStore k (scratchLine c off)
  | .mem pa kd coh ra =>
    if isHost pa then ({ s with mem := s.mem.writeN pa w x }).gangStore k (lineOf pa)
    else
      let s1 := if coh = 3 && !ra then s.addLag (some k) ts (s.partOf k) kd pa w else s
      let s2 := (s1.keyWriteBytes kd pa (bytesOfNat w x)).gangStore k (lineOf pa)
      s2.modPart (s.partOf k) fun p => { p with rdc := terase p.rdc (sectorOf pa) }
/-- A PRIVATE page's store in L1: the copy that stands there takes it and is dirty; without one the sector is filled first, unless the hint allocates none or the sector is poisoned, whereupon
the store goes to the home slice (R190, R195, R196, R281) (log 127). -/
def State.plainStore (s : State) (k : GangKey) (core : Nat) (loc : Loc) (pa kd w x ch : Nat) (ts : List ThreadKey) : State :=
  let sector := sectorOf pa
  let fill : Option State := match s.plainCopy core kd pa with
    | some _ => some s
    | none =>
      if ch ≥ 2 || s.pkg.poisoned.contains sector then none
      else some (((s.dropSector core sector).sendRemote pa (.read (sector * 256) kd 256)).modCore core fun c => { c with l1 := tset c.l1 sector (s.plainSector kd pa) })
  match fill with
  | none => (s.homeStore k loc w x ts).sendRemote pa (.write pa kd (bytesOfNat w x))
  | some s =>
    let put (c : Sector) : Sector := (bytesOfNat w x).zipIdx.foldl (fun c b => c.put (pa + b.2) b.1) c
    let s := (s.modCore core fun c => { c with l1 := tmap c.l1 (fun n _ => n = sector) put, dirty := sector :: c.dirty.filter fun y => y ≠ sector }).gangStore k (lineOf pa)
    if ch = 3 then s.dropSector core sector else s
/-- A store of w bytes by some threads (R401, R190): in L1 on a PRIVATE page, elsewhere written through to the home slice, by a packet where another package holds it (R294). -/
def State.storeLoc (s : State) (k : GangKey) (core : Nat) (loc : Loc) (w x ch : Nat) (ts : List ThreadKey) : State :=
  match loc with
  | .scratch .. => s.homeStore k loc w x ts
  | .mem pa kd coh _ =>
    if isHost pa then s.homeStore k loc w x ts
    else if coh = 0 then s.plainStore k core loc pa kd w x ch ts
    else ((s.homeStore k loc w x ts).ownCopy k core pa kd ch).sendRemote pa (.write pa kd (bytesOfNat w x))
/-- The value at the point that holds the word, as an atomic reads it (R200). -/
def State.homeRead (s : State) (loc : Loc) (w : Nat) : Nat :=
  match loc with
  | .scratch c off => (s.core c).scratch.readN off w
  | .mem pa kd _ _ => if isHost pa then s.mem.readN pa w else s.keyReadN kd pa w

/-- The dirty sectors of a line are written back. -/
def State.writeLine (s : State) (core pa : Nat) : State := (List.range 4).foldl (fun s i => s.writeBack core (lineOf pa * 4 + i)) s
/-- The line leaves a core's L1, its dirty sectors written back. -/
def State.dropLine (s : State) (core pa : Nat) : State :=
  (s.writeLine core pa).modCore core fun c => { c with l1 := c.l1.filter fun e => lineOf (e.1 * 256) ≠ lineOf pa }
/-- An atomic on a PRIVATE page writes the owner's L1 line back and drops it (R190); one on a RA = 0 page observes the home value (R211). -/
def State.beforeAtomic (s : State) (core : Nat) (loc : Loc) (w : Nat) (ts : List ThreadKey) : State :=
  match loc with
  | .mem pa _ coh ra =>
    if isHost pa then s
    else if coh = 0 then s.dropLine core pa
    else if coh = 3 && !ra then s.seeLags (dieOf core) pa w ts true
    else s
  | .scratch _ _ => s

/-- A store at the home slice: the atomic's write, which L1 does not take (R209). -/
def State.homeWrite (s : State) (k : GangKey) (core : Nat) (loc : Loc) (w x : Nat) (ts : List ThreadKey) : State :=
  match loc with
  | .mem pa _ _ _ => if isHost pa then s.homeStore k loc w x ts else (s.dropSector core (sectorOf pa)).homeStore k loc w x ts
  | .scratch _ _ => s.homeStore k loc w x ts

/-- The home gangs whose family has a thread in a gang (R53): itself, or the home gangs of the threads that stand in a formed gang. -/
def Gang.families (g : Gang) (k : GangKey) : List Nat :=
  if k.idx < 32 then [k.idx] else (lanesOf (g.live &&& ~~~g.exited &&& ~~~g.away) g.width).map fun l => (g.home.getD l (0, l)).1
/-- An event of progress ends demotion in the team and restarts the watchdog of some families (R53, R69, R275) (log 15). -/
def State.progressOf (s : State) (team : Nat) (homes : List Nat) : State :=
  { s with gangs := s.gangs.map fun p =>
      if p.1.team = team then (p.1, { p.2 with demoted := false, wdCycles := if homes.contains p.1.idx then 0 else p.2.wdCycles }) else p }
def State.progress (s : State) (k : GangKey) : State := s.progressOf k.team ((s.gang k).families k)

/-- CMNT: the line's dirty sectors stand at the home slice; the line may be dropped. A host page is left as it is (R326). -/
def State.cleanLine (s : State) (core : Nat) (loc : Loc) (drop : Bool) : State :=
  match loc with
  | .mem pa _ _ _ =>
    if isHost pa then s
    else if drop then s.dropLine core pa
    else s.writeLine core pa
  | .scratch _ _ => s

/-- Perform one lane's access for some threads: the new state, the value read, and whether it changed the word. -/
def State.perform (s : State) (k : GangKey) (core : Nat) (a : LaneAccess) (ts : List ThreadKey) : State × Nat × Bool :=
  match a.op with
  | .load w _ poll ch =>
    let (s, x) := s.loadLoc k core a.loc w poll ch ts
    (s, x, false)
  | .store w x ch => ((s.storeLoc k core a.loc w x ch ts).progress k, 0, true)
  | .atom op ty x =>
    let w := if ty.regs = 2 then 8 else 4
    let s := s.beforeAtomic core a.loc w ts
    let old := s.homeRead a.loc w
    (((s.homeWrite k core a.loc w (atomResult op ty old x) ts).sendAt a.loc fun pa kd => .atomic pa kd op ty (BitVec.ofNat 64 x)).progress k, old, true)
  | .cas w cmp new =>
    let s := s.beforeAtomic core a.loc w ts
    let old := s.homeRead a.loc w
    let s := s.sendAt a.loc fun pa kd => .cas pa kd w cmp new
    if old = cmp % 2 ^ (8 * w) then ((s.homeWrite k core a.loc w new ts).progress k, old, true)
    else (s.timeLoad k a.loc.timeKey, old, false)
  | .maint drop => (s.cleanLine core a.loc drop, 0, false)

/-- A value read, extended to its registers (R366). -/
def extendLoad (w : Nat) (sx : Bool) (x : Nat) : Nat :=
  if w < 4 && sx then bitsOf 32 (signedOf (8 * w) x) else x

end Sys2Proof.Machine
end

