-- ==== Sys2Proof/Machine/Operands.lean ====
section
/-! DEFINITION. Registers and operands (spec/04_registers.md R72 to R79, spec/05_encoding.md R113 to R115, spec/02_execution_model.md R39). -/
namespace Sys2Proof.Machine

-- The window (R79): a windowed name's place in the ring

def slideSum (fs : List Frame) : Nat := (fs.map Frame.slide).foldl (· + ·) 0
/-- Granules (with what a changed slide word has added, R96) by which the current frame's window stands above the root's. -/
def Gang.baseGranule (g : Gang) : Nat := slideSum g.frames + g.shift
/-- WDEPTH (R79). -/
def Gang.depth (g : Gang) : Nat := g.frames.length
/-- The ring place of vector register name n in the current frame: statics stay, windowed names move by 8 x the slides. -/
def Gang.place (g : Gang) (n : Nat) : Nat := if n < 16 then n else n + 8 * g.baseGranule
def granuleOf (place : Nat) : Nat := place / 8

/-- A vector register of one lane; an untaken granule's register reads 0 (R84). -/
def Gang.readV (g : Gang) (n lane : Nat) : Word := tgetD g.vregs (g.place n, lane) 0
def Gang.readS (g : Gang) (n : Nat) : Word := tgetD g.sregs n 0
/-- A predicate; p0 reads true in every lane (R76). -/
def Gang.readP (g : Gang) (n : Nat) : Mask := if n = 0 then fullMask g.width else tgetD g.preds n 0

-- Writes at resolved places

def setBit (m : Mask) (i : Nat) (b : Bool) : Mask := if b then m ||| laneBit i else m &&& ~~~(laneBit i)
/-- One register write; a write to p0 is discarded (R76). -/
def Gang.writeReg (g : Gang) (w : RegWrite) : Gang :=
  match w with
  | .vec a l x => { g with vregs := tset g.vregs (a, l) x }
  | .scal n x => { g with sregs := tset g.sregs n x }
  | .pred n l b => if n = 0 then g else { g with preds := tset g.preds n (setBit (tgetD g.preds n 0) l b) }
def Gang.writeRegs (g : Gang) (ws : List RegWrite) : Gang := ws.foldl Gang.writeReg g

/-- Where an operand of n registers is aimed in the current frame. -/
def Gang.dest (g : Gang) (o : Operand) (n : Nat) : Dest :=
  match o with
  | .v r => .vec (g.place r.toNat) n
  | .s r => .scal r.toNat n
  | .p r => .pred r.toNat
  | _ => .none

/-- The i-th 32-bit word of a value. -/
def wordAt (x i : Nat) : Word := BitVec.ofNat 32 (x >>> (32 * i))
/-- The writes that give one lane a value; a scalar takes it whole. -/
def Dest.writes (d : Dest) (lane x : Nat) : List RegWrite :=
  match d with
  | .vec a n => (List.range n).map fun i => .vec (a + i) lane (wordAt x i)
  | .scal r n => (List.range n).map fun i => .scal (r + i) (wordAt x i)
  | .pred p => [.pred p lane (x % 2 = 1)]
  | .none => []
/-- The writes of a per-lane result: a scalar receives the lowest active lane's value (R115). -/
def Dest.laneWrites (d : Dest) (lanes : List Nat) (f : Nat → Nat) : List RegWrite :=
  match d with
  | .scal .. => match lanes with | [] => [] | l :: _ => d.writes l (f l)
  | _ => lanes.flatMap fun l => d.writes l (f l)

-- The issuing instruction's surroundings

/-- What an instruction word sees when it issues: its gang, its path, its team, grid and launch record, the path's unexited lanes and the active lanes (R7). -/
structure Issue where
  key : GangKey
  gang : Gang
  path : Path
  team : Team
  grid : Grid
  launch : Launch
  live : Mask
  active : Mask
  deriving DecidableEq, Repr

/-- See log 21. -/
def Gang.guardMask (g : Gang) (gd : Guard) : Mask :=
  let m := g.readP gd.pg.toNat
  if gd.pn then ~~~m &&& fullMask g.width else m

/-- Active lanes in ascending order. -/
def Issue.lanes (x : Issue) : List Nat := lanesOf x.active x.gang.width
def Issue.low (x : Issue) : Nat := x.lanes.headD 0

/-- A thread's home lane and home gang (R39, R63). -/
def Gang.homeOf (g : Gang) (k : GangKey) (lane : Nat) : Nat × Nat :=
  if k.idx < 32 then (k.idx, lane) else g.home.getD lane (0, lane)

/-- The special operands of R39, one lane (log 114). -/
def Issue.special (x : Issue) (s : State) (n lane : Nat) : Nat :=
  match n with
  | 0 => (x.gang.homeOf x.key lane).2
  | 1 => (x.gang.homeOf x.key lane).1
  | 2 => x.team.x
  | 3 => x.team.y
  | 4 => x.team.z
  | 5 => x.team.grid % 2 ^ 32
  | 6 => x.gang.width
  | 7 => (s.core x.gang.core).cycle % 2 ^ 32
  | 8 => if x.team.pair then (if x.gang.core = x.team.core then 1 else 2) else 0
  | 9 => x.gang.core
  | 10 => dieOf x.gang.core
  | 11 => s.pkg.pkgid
  | 12 => (if lane < 32 then x.live.toNat else x.live.toNat >>> 32) % 2 ^ 32
  | 13 => x.gang.depth
  | 14 => x.grid.task
  | _ => x.grid.depth

/-- How a constant operand is read: as a float of a type, or as an integer (R114). -/
inductive ReadAs | int | f32 | f16 | bf16 | f16x2 | bf16x2
  deriving DecidableEq, Repr

/-- An FP32 constant under a read class (R114) (log 26). -/
def constBits (c : ReadAs) (bits : Nat) : Nat :=
  let v := FloatFmt.fp32.decode bits
  match c with
  | .int | .f32 => bits
  | .f16 => FloatFmt.fp16.rne v
  | .bf16 => FloatFmt.bf16.rne v
  | .f16x2 => FloatFmt.fp16.rne v * 65537
  | .bf16x2 => FloatFmt.bf16.rne v * 65537

/-- An operand of n 32-bit registers, one lane, as an unsigned number (R114). -/
def Issue.read (x : Issue) (s : State) (o : Operand) (n : Nat) (c : ReadAs) (lane : Nat) : Nat :=
  match o with
  | .v r => (List.range n).foldr (fun i acc => (x.gang.readV (r.toNat + i) lane).toNat + 2 ^ 32 * acc) 0
  | .s r => (List.range n).foldr (fun i acc => (x.gang.readS (r.toNat + i)).toNat + 2 ^ 32 * acc) 0
  | .p r => if (x.gang.readP r.toNat).getLsbD lane then 1 else 0
  | .special r => x.special s r.toNat lane
  | .iconst r => bitsOf (32 * n) (intConstant r)
  | .fconst r => constBits c (fp32Constant r)
  | _ => 0

/-- A second source: a register or IMM32 as it stands. -/
def Issue.readSrc (x : Issue) (s : State) (o : Src) (n : Nat) (c : ReadAs) (lane : Nat) : Nat :=
  match o with
  | .reg r => x.read s r n c lane
  | .imm v => v.toNat
/-- A second source of an integer entry: form I extends IMM32 to 64 bits by the type (R359). -/
def Issue.readInt (x : Issue) (s : State) (o : Src) (ty : ITy) (lane : Nat) : Nat :=
  match o with
  | .reg r => x.read s r ty.regs .int lane
  | .imm v => if ty.is64 && ty.signed then bitsOf 64 (signedOf 32 v.toNat) else v.toNat
/-- A second source of a logic entry or MOV (R306, R375). -/
def Issue.readB (x : Issue) (s : State) (o : BSrc) (ty : BTy) (lane : Nat) : Nat :=
  match o with
  | .reg r => x.read s r ty.regs .int lane
  | .imm sx v => if sx && ty = .b64 then bitsOf 64 (signedOf 32 v.toNat) else v.toNat

/-- The class of constants under a float type. -/
def readAsF : FTy → ReadAs | .f32 => .f32 | .f16 => .f16 | .bf16 => .bf16 | .f16x2 => .f16x2 | .bf16x2 => .bf16x2
def readAs3 : F3 → ReadAs | .f32 => .f32 | .f16 => .f16 | .bf16 => .bf16
def readAsR : RegTy → ReadAs | .f32 => .f32 | .f16 => .f16 | .bf16 => .bf16 | .f16x2 => .f16x2 | .bf16x2 => .bf16x2 | _ => .int

/-- A base or operand that an entry reads once, from its lowest active lane (R110). -/
def Issue.once (x : Issue) (s : State) (o : Operand) (n : Nat) : Nat := x.read s o n .int x.low

/-- The operand names registers that the launch gives the gang (R73): VTOP and the scalar count. -/
def Launch.names (l : Launch) (o : Operand) (n : Nat) : Bool :=
  match o with
  | .v r => r.toNat + n ≤ l.vtop + 1
  | .s r => r.toNat + n ≤ l.scalars
  | _ => true

end Sys2Proof.Machine
end

