-- ==== Sys2Proof/Machine/Flags.lean ====
section
/-! DEFINITION. The one status flag of the OZT-24: NSTAT.SAT (spec/06_numbers.md R142), and the mode bit (spec/12_faults.md R268). Predicates are registers (R76). -/
namespace Sys2Proof.Machine

/-- A conversion saturated: SAT is sticky. -/
def Gang.saturate (g : Gang) (sat : Bool) : Gang := { g with nstat := g.nstat || sat }
/-- GSR's view of NSTAT. -/
def Gang.nstatWord (g : Gang) : Nat := if g.nstat then 1 else 0
/-- SSR's write of NSTAT: bit 0 alone counts. -/
def Gang.writeNstat (g : Gang) (x : Nat) : Gang := { g with nstat := x % 2 = 1 }
/-- A returning thread's NSTAT is ORed into the gang it rejoins. -/
def Gang.joinNstat (g : Gang) (sat : Bool) : Gang := g.saturate sat

end Sys2Proof.Machine
end

