-- ==== Sys2Proof/Machine/Window.lean ====
section
/-! DEFINITION. Windows, the ring and the porter (spec/04_registers.md R79 to R96, R37; the porter moves only taken granules, spec/19_programs_two.md). -/
namespace Sys2Proof.Machine

/-- What a need for space in the ring or the spill stack meets: done, a wait, a porter fault at an address (R94), or no room at all (R84). -/
inductive Room where
  | ok (s : State)
  | stall
  | fault (s : State) (va : Nat) (f : MFault) (kind : AccessKind)
  | overflow
  deriving DecidableEq, Repr

/-- Bytes of one team's spill region (R89). -/
def Launch.tspill (l : Launch) : Nat := l.gangs * l.width * l.stk + l.gangs * l.width * 1024
/-- SPBASE (R89). -/
def State.spBase (s : State) (t : Nat) : Nat :=
  let tm := s.team t
  let l := (s.grid tm.grid).launch
  l.spillBase + (16 * tm.core + tm.resident) * l.tspill
/-- The address of slot j of a home thread's stack (R90). -/
def State.slotAddr (s : State) (t hg hl j : Nat) : Nat :=
  let l := (s.grid (s.team t).grid).launch
  s.spBase t + hg * l.width * l.stk + j * l.width * 4 + hl * 4
/-- The departures of the thread in a lane, the newest first (R60). -/
def State.laneDeparts (s : State) (k : GangKey) (lane : Nat) : List Depart := tgetD (s.team k.team).departs ((s.gang k).homeOf k lane) []
/-- The departure by which a thread came into the gang of index i: the newest of those before it left that gang, if it has left it. -/
def cameBy (i : Nat) (ds : List Depart) : Option Depart := if ds.any (fun d => d.gangLeft = i) then (ds.dropWhile fun d => d.gangLeft ≠ i)[1]? else ds.head?
/-- The slot at which a lane's frames start: 0 at home, in a formed gang the reserve recorded when the thread came into it (R92). -/
def State.stackOff (s : State) (k : GangKey) (lane : Nat) : Nat :=
  if k.idx < 32 then 0 else match cameBy k.idx (s.laneDeparts k lane) with | some d => d.reserve | none => 0
/-- The first slot of frame f (R90). -/
def frameSlot (fs : List Frame) (f : Nat) : Nat := ((fs.take f).map fun r => 8 * r.slide + 2).foldl (· + ·) 0
/-- The granule at position j of frame f's own granules. -/
def frameGranule (fs : List Frame) (f j : Nat) : Nat := 2 + slideSum (fs.take f) + j

/-- SFRAMES (R87): frames wholly spilled. -/
def Gang.sframes (g : Gang) : Nat := (g.frames.takeWhile Frame.recSpilled).length
/-- SGRAN (R87): own granules of frame SFRAMES already spilled, by position. -/
def Gang.sgran (g : Gang) : Nat :=
  match g.frames[g.sframes]? with
  | some f => match f.spilled with | [] => 0 | js => js.foldl max 0 + 1
  | none => 0
/-- TAKEN (R87): the two static granules and the taken windowed granules. -/
def Gang.takenCount (g : Gang) : Nat := 2 + g.taken.length
def Gang.wspill (g : Gang) : Nat := g.sframes % 65536 * 65536 + g.sgran % 256 * 256
def Gang.wring (g : Gang) : Nat := g.ringSize % 512 * 2 ^ 17 + g.takenCount % 512 * 256

-- Lane-words of a bench (R37)

/-- Lane-words that a gang's ring draws from quarter q. -/
def Gang.quarterCost (g : Gang) (granules q : Nat) : Nat :=
  let all := granules * 8 * g.width
  if g.width = 8 then (if g.quarter = q then all else 0)
  else if g.width = 16 then (if g.quarter = q / 2 then all / 2 else 0)
  else all / 4
def State.gangsOnBench (s : State) (core bench : Nat) : List (GangKey × Gang) :=
  s.gangs.filter fun p => p.2.core = core && p.2.bench = bench && (s.team p.1.team).res = .placed
/-- Lane-words in use in a quarter of a bench. -/
def State.quarterUse (s : State) (core bench q : Nat) : Nat :=
  ((s.gangsOnBench core bench).map fun p => p.2.quarterCost p.2.ringSize q).foldl (· + ·) 0
/-- A gang's ring of n more granules fits its quarters. -/
def State.ringFits (s : State) (g : Gang) (n : Nat) : Bool :=
  (List.range 4).all fun q => s.quarterUse g.core g.bench q + g.quarterCost n q ≤ 16384

/-- Free the granules that gone names, whose values are lost in every lane but those of kept; a grown ring shrinks back (R84). -/
def Gang.free (g : Gang) (winMin : Nat) (gone : Nat → Bool) (kept : List Nat) : Gang :=
  let taken := g.taken.filter fun x => !gone x
  { g with
    taken := taken, vregs := g.vregs.filter (fun e => !gone (granuleOf e.1.1) || kept.contains e.1.2),
    ringSize := if g.ringSize > winMin then max winMin (2 + taken.length) else g.ringSize }

/-- A result still outstanding is aimed at a register of the granule (R85); the replay of a faulting instruction, for which its handler's WFLUSH cannot wait, finds its place later (log 71). -/
def Gang.aimedAt (g : Gang) (gran : Nat) : Bool :=
  g.flights.any fun f => !f.returned && !f.replaying && f.dest.any fun d =>
    match d with
    | .vec a n => (List.range n).any fun i => granuleOf (a + i) = gran
    | _ => false

-- Spilling (R85, R90, R92)

/-- Lanes whose words the porter moves for frame f: not those departed from this gang at a lower depth (R92) (log 73). -/
def State.porterLanes (s : State) (k : GangKey) (f : Nat) : List Nat :=
  let g := s.gang k
  (lanesOf (g.live &&& ~~~g.exited) g.width).filter fun l =>
    !(g.away.getLsbD l && match (s.laneDeparts k l).find? fun d => d.gangLeft = k.idx with | some d => f > d.depth | none => false)

/-- The porter's words of one item: lane, virtual address, value (log 73). -/
def State.porterPlan (s : State) (k : GangKey) (f slot n : Nat) (value : Nat → Nat → Word) : List (Nat × Nat × Word) :=
  let g := s.gang k
  (s.porterLanes k f).flatMap fun l =>
    let (hg, hl) := g.homeOf k l
    (List.range n).map fun i => (l, s.slotAddr k.team hg hl (s.stackOff k l + slot + i), value l i)

/-- Translate the addresses of a porter item; the first fault, or the first word that cannot be reached or corrected, stops it (R94, R185, R281) (log 67). -/
def State.porterLocs (s : State) (k : GangKey) (kind : AccessKind) : List (Nat × Nat × Word) → Except (Nat × MFault) (List (Nat × Loc × Word))
  | [] => .ok []
  | (l, va, x) :: rest =>
    match s.translate (s.team k.team).ctx (some (s.gang k).core) kind none va with
    | .error e => .error (va, e)
    | .ok loc =>
      if s.uncorrectable loc kind then .error (va, ⟨0x60, none⟩)
      else
      match s.porterLocs k kind rest with
      | .error e => .error e
      | .ok r => .ok ((l, loc, x) :: r)

/-- The porter's translations stand in the core's TLB (R273). -/
def State.porterFill (s : State) (k : GangKey) (ws : List (Nat × Nat × Word)) : State := ws.foldl (fun s w => s.fillTlb (s.gang k).core (s.team k.team).ctx w.2.1) s

def State.rawWrite (s : State) (loc : Loc) (n x : Nat) : State :=
  match loc with
  | .mem pa kd _ _ => if isHost pa then { s with mem := s.mem.writeN pa n x } else s.keyWriteBytes kd pa (bytesOfNat n x)
  | .scratch c off => s.modCore c fun cr => { cr with scratch := cr.scratch.writeN off n x }
def State.rawRead (s : State) (loc : Loc) (n : Nat) : Nat := s.homeRead loc n
/-- A write by an agent other than a thread, at a program time: the line takes a new write time, and its older copies serve no load of that time (R96, R206, R215) (log 15). -/
def State.agentWrite (s : State) (part pt : Nat) (loc : Loc) (n x : Nat) : State :=
  let s := ((s.rawWrite loc n x).timeStore part pt loc.timeKey).1
  match loc with
  | .mem pa _ _ _ => s.modPart part fun p => { p with rdc := terase p.rdc (sectorOf pa) }
  | .scratch .. => s
/-- A porter's write, ordered before the gang's later accesses: the core's own copy goes with it (R96). -/
def State.porterWrite (s : State) (k : GangKey) (loc : Loc) (x : Nat) : State :=
  let s := (s.agentWrite (s.partOf k) (s.gang k).pt loc 4 x).sendAt loc fun pa kd => .write pa kd (bytesOfNat 4 x)
  match loc with
  | .mem pa _ _ _ => s.dropLeased (s.gang k).core (sectorOf pa)
  | .scratch .. => s
/-- A porter's words of another package's memory go out as packets (R294) (log 13). -/
def State.porterReads (s : State) (_k : GangKey) (ws : List (Nat × Loc × Word)) : State := ws.foldl (fun s w => s.sendRead w.2.1 4) s
def State.porterWrites (s : State) (k : GangKey) (ws : List (Nat × Loc × Word)) : State := ws.foldl (fun s w => s.porterWrite k w.2.1 w.2.2.toNat) s

/-- The slide word of a frame record (R90). -/
def Frame.word (f : Frame) : Word :=
  BitVec.ofNat 32 (f.slide * 2 ^ 28 + (if f.trapFrame then 2 ^ 27 else 0) + f.ld % 64 * 2 ^ 21 + f.sp % 64 * 2 ^ 15)

def Gang.setFrame (g : Gang) (i : Nat) (f : Frame) : Gang := { g with frames := g.frames.set i f }

/-- The next item the porter would spill: frame, its record, and the position of its lowest taken granule, none for the record (log 71). -/
def Gang.nextSpill (g : Gang) : Option (Nat × Frame × Option Nat) :=
  match g.frames[g.sframes]? with
  | none => none
  | some f => some (g.sframes, f, (List.range f.slide).find? fun j => g.taken.contains (frameGranule g.frames g.sframes j) && !f.spilled.contains j)

/-- Spill one item: the oldest frame's lowest taken own granule, or its outgoing record after its last one. freed says that a granule was freed (log 71). A lane departed below the frame, of
which the porter moves no word, keeps its values (R66). -/
def State.spillItem (s : State) (k : GangKey) : Room × Bool :=
  let g := s.gang k
  match g.nextSpill with
  | none => (.overflow, false)
  | some (f, fr, some j) =>
    let gran := frameGranule g.frames f j
    let plan := s.porterPlan k f (frameSlot g.frames f + 8 * j) 8 fun l i => tgetD g.vregs (8 * gran + i, l) 0
    if g.aimedAt gran then (.stall, false)
    else
      match s.porterLocs k .spill plan with
      | .error (va, e) => (.fault s va e .spill, false)
      | .ok ws =>
        let s := (s.porterFill k plan).porterWrites k ws
        let kept := (lanesOf g.away g.width).filter fun l => !(s.porterLanes k f).contains l
        (.ok (s.modGang k fun g => ((g.setFrame f { fr with spilled := fr.spilled ++ [j] }).free (s.launchOf k).winMin (fun x => decide (x = gran)) kept) |> fun g => { g with spillcnt := g.spillcnt + 1, spillStopped := none }), true)
  | some (f, fr, none) =>
    let plan := s.porterPlan k f (frameSlot g.frames f + 8 * fr.slide) 2 fun _ i => if i = 0 then BitVec.ofNat 32 fr.ret else fr.word
    match s.porterLocs k .spill plan with
    | .error (va, e) => (.fault s va e .spill, false)
    | .ok ws =>
      let s := (s.porterFill k plan).porterWrites k ws
      (.ok (s.modGang k fun g => { g.setFrame f { fr with recSpilled := true } with spillStopped := none }), false)

/-- Spill frame records that stand next, when no taken granule of theirs is left. -/
def State.spillRecords (s : State) (k : GangKey) : Nat → Room
  | 0 => .ok s
  | fuel + 1 =>
    match (s.gang k).nextSpill with
    | some (_, _, none) =>
      match (s.spillItem k).1 with
      | .ok s => s.spillRecords k fuel
      | r => r
    | _ => .ok s

/-- Spill until a granule is freed, then go on through the records that follow it. -/
def State.spillOne (s : State) (k : GangKey) : Nat → Room
  | 0 => .overflow
  | fuel + 1 =>
    match s.spillItem k with
    | (.ok s, true) => s.spillRecords k (s.gang k).depth
    | (.ok s, false) => s.spillOne k fuel
    | (r, _) => r

/-- Some frame below the current one still holds a taken own granule. -/
def Gang.canSpill (g : Gang) : Bool :=
  g.taken.any fun x => 2 ≤ x && x < 2 + g.baseGranule

/-- Room for one granule (R84): grow the ring, else spill, else there is none; a spill ahead of need that a fault stopped raises it now (R94). -/
def State.makeRoom (s : State) (k : GangKey) : Room :=
  let g := s.gang k
  if g.takenCount < g.ringSize then .ok s
  else if g.ringSize < (s.launchOf k).winMax && s.ringFits g 1 then .ok (s.setGang k { g with ringSize := g.ringSize + 1 })
  else if !g.canSpill then .overflow
  else
    match g.spillStopped with
    | some (va, cause, miss) => .fault (s.setGang k { g with spillStopped := none }) va ⟨cause, miss⟩ .spill
    | none => s.spillOne k (2 * g.depth + 16 * g.depth + 1)

/-- Take the granule of a ring place at its first write (R84); statics are always taken. -/
def State.take (s : State) (k : GangKey) (gran : Nat) : Room :=
  let g := s.gang k
  if gran < 2 || g.taken.contains gran then .ok s
  else
    match s.makeRoom k with
    | .ok s => .ok (s.modGang k fun g => { g with taken := gran :: g.taken, ringSize := max g.ringSize (g.takenCount + 1) })
    | r => r
def State.takeAll (s : State) (k : GangKey) : List Nat → Room
  | [] => .ok s
  | x :: xs =>
    match s.take k x with
    | .ok s => s.takeAll k xs
    | r => r
/-- The granules of a destination. -/
def Dest.granules (d : Dest) : List Nat :=
  match d with
  | .vec a n => ((List.range n).map fun i => granuleOf (a + i)).eraseDups
  | _ => []

-- Refilling (R86, R96)

/-- The newest spilled item: a granule position of frame SFRAMES, or the record of the frame below it. -/
def Gang.nextRefill (g : Gang) : Option (Nat × Frame × Option Nat) :=
  match g.frames[g.sframes]? with
  | some f =>
    match f.spilled with
    | [] => if g.sframes = 0 then none else (g.frames[g.sframes - 1]?).map fun r => (g.sframes - 1, r, none)
    | js => some (g.sframes, f, some (js.foldl max 0))
  | none => if g.sframes = 0 then none else (g.frames[g.sframes - 1]?).map fun r => (g.sframes - 1, r, none)

def AccessOp.writes : AccessOp → Bool | .load .. => false | .maint _ => false | _ => true
/-- A store of the gang's own has still to be performed, which a refill must read (R96) (log 52). -/
def Gang.storesAhead (g : Gang) : Bool := g.flights.any fun f => !f.replaying && f.todo.any fun a => a.op.writes
/-- Refill one item: the exact reverse of a spill. A refill waits for the gang's earlier stores. A record comes back as memory holds it, in the copy of the lowest lane moved where the lanes'
copies differ, which is the model's choice; a slide word that differs makes the RET through the frame loose (R96) (log 52). A register that a replay has written since the spill keeps that value
(log 71). -/
def State.refillItem (s : State) (k : GangKey) : Room :=
  let g := s.gang k
  if g.storesAhead then .stall else
  match g.nextRefill with
  | none => .ok s
  | some (f, fr, some j) =>
    let gran := frameGranule g.frames f j
    let plan := s.porterPlan k f (frameSlot g.frames f + 8 * j) 8 fun _ i => BitVec.ofNat 32 i
    if g.takenCount < g.ringSize || (g.ringSize < (s.launchOf k).winMax && s.ringFits g 1) then
      match s.porterLocs k .refill plan with
      | .error (va, e) => .fault s va e .refill
      | .ok ws =>
        let s := (s.porterFill k plan).porterReads k ws
        let vals := ws.map fun w => ((8 * gran + w.2.2.toNat, w.1), BitVec.ofNat 32 (s.rawRead w.2.1 4))
        .ok (s.setGang k { (g.setFrame f { fr with spilled := fr.spilled.filter (fun x => x ≠ j) }) with
          taken := gran :: g.taken, ringSize := max g.ringSize (g.takenCount + 1), refillcnt := g.refillcnt + 1,
          vregs := vals.foldl (fun t v => if (tget t v.1).isSome then t else tset t v.1 v.2) g.vregs })
    else .stall
  | some (f, fr, none) =>
    let plan := s.porterPlan k f (frameSlot g.frames f + 8 * fr.slide) 2 fun _ i => BitVec.ofNat 32 i
    match s.porterLocs k .refill plan with
    | .error (va, e) => .fault s va e .refill
    | .ok ws =>
      let s := (s.porterFill k plan).porterReads k ws
      let word : Nat → Word → Word := fun i d => ((ws.find? (fun w => w.2.2.toNat = i)).map (fun w => BitVec.ofNat 32 (s.rawRead w.2.1 4))).getD d
      let ret : Nat := (word 0 (BitVec.ofNat 32 fr.ret)).toNat
      let same : Bool := decide (word 1 fr.word = fr.word)
      if same then .ok (s.setGang k (g.setFrame f { fr with ret := ret, recSpilled := false }))
      else .ok ((s.setGang k (g.setFrame f { fr with ret := ret, recSpilled := false, loose := some s.freeNext })).useFree.useFree)

/-- Some part of frame f is spilled. -/
def Gang.frameSpilled (g : Gang) (f : Nat) : Bool :=
  match g.frames[f]? with
  | some fr => fr.recSpilled || !fr.spilled.isEmpty
  | none => false
/-- Refill until frame f is wholly resident (R81) (log 72). -/
def State.refillTo (s : State) (k : GangKey) (f : Nat) : Nat → Room
  | 0 => .stall
  | fuel + 1 =>
    if (s.gang k).frameSpilled f then
      match s.refillItem k with
      | .ok s => s.refillTo k f fuel
      | r => r
    else .ok s
/-- A call all of whose paths have returned or exited waits for its caller's frame, which the porter refills (R71, R81). -/
def Gang.callOver (g : Gang) : Bool :=
  g.nodes.any fun n => (match n.kind with | .call d => d = g.depth | _ => false) && n.away = 0 && !(g.nodes.any fun m => m.link = n.id)
    && g.paths.all fun p => p.link ≠ n.id || p.st = .waiting
/-- A handler has ended by EXIT and its trap frame is still to be removed (R271). -/
def Gang.closing (g : Gang) : Bool := decide ((g.frames.filter Frame.trapFrame).length > g.traps.length)
/-- The porter refills ahead of need (R86), and for a call or a handler that is over. -/
def Gang.wantsRefill (g : Gang) : Bool :=
  ((g.callOver || g.closing) && g.depth ≥ 1 && g.frameSpilled (g.depth - 1)) || !g.refillOff && ((g.depth ≥ 1 && g.frameSpilled (g.depth - 1)) || (g.depth ≥ 2 && g.frameSpilled (g.depth - 2)))

/-- Spill every frame below the current one (R418, R279). -/
def State.spillAll (s : State) (k : GangKey) : Nat → Room
  | 0 => .ok s
  | fuel + 1 =>
    match (s.gang k).nextSpill with
    | none => .ok s
    | some _ =>
      match (s.spillItem k).1 with
      | .ok s => s.spillAll k fuel
      | r => r
def Gang.spillFuel (g : Gang) : Nat := 14 * (g.depth + 1)

/-- A call's reserve check against every thread's stack (R91, R92); the frames' own slots count where a changed slide word has left the reserve below them (R96) (log 52). -/
def State.reserveOk (s : State) (k : GangKey) (slots : Nat) : Bool :=
  let g := s.gang k
  (lanesOf (g.live &&& ~~~g.exited) g.width).all fun l => (s.stackOff k l + max g.reserve (frameSlot g.frames g.depth) + slots) * 4 ≤ (s.launchOf k).stk

/-- A virtual address within the gang's active spill range (R95): slots 0 to reserve - 1 of every lane's home stack, in a formed gang of each of its threads', from the recorded
reserve (log 74). -/
def State.inSpillRange (s : State) (k : GangKey) (va n : Nat) : Bool :=
  let g := s.gang k
  let l := s.launchOf k
  (if k.idx < 32 then List.range g.width else lanesOf (g.live &&& ~~~g.exited) g.width).any fun lane =>
    let (hg, hl) := g.homeOf k lane
    (List.range n).any fun i =>
      let a := va + i
      let base := s.spBase k.team + hg * l.width * l.stk + hl * 4
      a ≥ base && (a - base) % (l.width * 4) < 4 && (a - base) / (l.width * 4) ≥ s.stackOff k lane && (a - base) / (l.width * 4) < s.stackOff k lane + g.reserve

end Sys2Proof.Machine
end

