-- ==== Sys2Proof/Machine/Sync.lean ====
section
/-! DEFINITION. Synchronisation objects: paths and their waking, barrier objects (spec/10_async.md R228 to R230), the status word (spec/07_matrix.md R174), stage rings
(R233 to R235), global barriers (R231, R232), fences (spec/09_consistency.md R212) and the gathering of a gang at a collective (spec/03_divergence.md R68). -/
namespace Sys2Proof.Machine

/-- The path past the word at which it stands (R102, R108). -/
def Path.next (p : Path) : Path :=
  if p.pos ≥ p.cnt then { p with hdr := (p.hdr + 8 * (p.cnt + 1)) % 2 ^ 64, pos := 0, st := .ready, left := 0, resumed := false, since := 0 }
  else { p with pos := p.pos + 1, st := .ready, left := 0, resumed := false, since := 0 }
/-- The path at the header of another clause. -/
def Path.goto (p : Path) (off : Nat) : Path := { p with hdr := off % 2 ^ 64, pos := 0, st := .ready, left := 0, resumed := false, since := 0 }
/-- The byte offset from the code base at which the path stands. -/
def Path.pc (p : Path) : Nat := (p.hdr + 8 * p.pos) % 2 ^ 64

def Gang.path (g : Gang) (id : Nat) : Path := (g.paths.find? fun p => p.id = id).getD { Path.empty with id := id }
def Gang.modPath (g : Gang) (id : Nat) (f : Path → Path) : Gang := { g with paths := g.paths.map fun p => if p.id = id then f p else p }
def State.modPath (s : State) (k : GangKey) (id : Nat) (f : Path → Path) : State := s.modGang k fun g => g.modPath id f
/-- Take a gang out of its bench's clause slot (R49, R50). -/
def State.leaveSlot (s : State) (k : GangKey) : State :=
  { s with benches := s.benches.map fun e => (e.1, { e.2 with slot := e.2.slot.filter fun x => x ≠ k }) }

/-- Park a path (R51): it keeps its place at the parking instruction and the gang leaves the clause slot. -/
def State.park (s : State) (k : GangKey) (id : Nat) (on : ParkOn) : State :=
  (s.modPath k id fun p => { p with st := .parked on }).leaveSlot k

-- The status word (R174)

/-- Merge errors into a status word: code x 2^24 + position of the first, and how many. -/
def mergeWord (old first n : Nat) : Nat :=
  if n = 0 then old
  else
    let c := min 255 (bitsAt old 16 8 + n)
    if old ≥ 2 ^ 31 then old / 2 ^ 24 * 2 ^ 24 + c * 2 ^ 16 + old % 2 ^ 16
    else 2 ^ 31 + bitsAt first 24 7 * 2 ^ 24 + c * 2 ^ 16 + first % 2 ^ 16

/-- The order of errors within an engine operation. -/
def Err.before (a b : Err) : Bool :=
  a.bench < b.bench || (a.bench = b.bench && (a.row < b.row || (a.row = b.row && (a.col < b.col || (a.col = b.col && a.code < b.code)))))
def firstErr (es : List Err) : Option Err :=
  es.foldl (fun b e => match b with | none => some e | some x => if e.before x then some e else some x) none
/-- Errors counted once for each pair of bench and code. -/
def countErrs (es : List Err) : Nat := ((es.map fun e => (e.bench, e.code)).eraseDups).length
def Err.engineWord (e : Err) : Nat := e.code * 2 ^ 24 + e.bench % 8 * 2 ^ 13 + e.row % 16 * 2 ^ 9 + e.col % 64 * 8
/-- A job's position field: its source row, saturating at 8,191 (R226). -/
def Err.jobWord (e : Err) : Nat := e.code * 2 ^ 24 + min e.row 8191 * 8

-- Barrier objects

def invalidWord : Nat := 0xFFFFFFFF
def State.objWord (s : State) (core off i : Nat) : Nat := (s.core core).scratch.readN (off + 4 * i) 4
/-- The partition that holds a core. -/
def State.corePart (s : State) (core : Nat) : Option Nat := (s.parts.find? fun e => e.2.ownsCore core).map Prod.fst
/-- A write of an object's words takes its place in T: a load that sees it stands after it, and after all that precedes it (R205) (log 15). -/
def State.stampObj (s : State) (core off : Nat) : State :=
  match s.corePart core with
  | some p => (s.timeStore p (s.part p).horizon (scratchLine core off)).1
  | none => s
def State.setObjWord (s : State) (core off i x : Nat) : State := (s.modCore core fun c => { c with scratch := c.scratch.writeN (off + 4 * i) 4 x }).stampObj core off
def barPhase (w : Nat) : Bool := w ≥ 2 ^ 31
def barExp (w : Nat) : Nat := bitsAt w 16 15
def barPending (w : Nat) : Nat := w % 2 ^ 16
def barWord (ph : Bool) (exp pnd : Nat) : Nat := (if ph then 2 ^ 31 else 0) + exp % 2 ^ 15 * 2 ^ 16 + pnd % 2 ^ 16

/-- Every path of a gang, those suspended under a trap too (R269). -/
def Gang.allPaths (g : Gang) : List Path := g.paths ++ g.traps.flatMap TrapState.paths
def Gang.mapAll (g : Gang) (f : Path → Path) : Gang :=
  { g with paths := g.paths.map f, traps := g.traps.map fun t => { t with paths := t.paths.map f } }
/-- Some path somewhere is parked as told. -/
def State.anyParked (s : State) (f : ParkOn → Bool) : Bool :=
  s.gangs.any fun e => e.2.allPaths.any fun p => match p.st with | .parked on => f on | _ => false
def Path.retry (p : Path) (f : ParkOn → Bool) : Path :=
  match p.st with | .parked on => if f on then { p with st := .ready, resumed := true } else p | _ => p
/-- Let paths parked as told issue their parking instruction again, without the header's wait (R106, R312) (log 76). -/
def State.retry (s : State) (f : GangKey → ParkOn → Bool) : State :=
  { s with gangs := s.gangs.map fun e => (e.1, e.2.mapAll fun p => p.retry (f e.1)) }
/-- Wake every path parked on the barrier with a phase other than the new one (R230) (log 76). -/
def State.wakeBarrier (s : State) (core off : Nat) (ph : Bool) : State :=
  s.retry fun _ on => match on with | .barrier c o q => c = core && o = off && q ≠ ph | _ => false

/-- Flip the phase when arrivals and bytes both stand at zero (R230). -/
def State.flipIfDone (s : State) (core off : Nat) : State :=
  let w := s.objWord core off 0
  if barPending w = 0 && s.objWord core off 1 = 0 then
    (s.setObjWord core off 0 (barWord (!barPhase w) (barExp w) (barExp w))).wakeBarrier core off (!barPhase w)
  else s

def State.mergeStatus (s : State) (core off first n : Nat) : State :=
  if s.objWord core off 0 = invalidWord then s else s.setObjWord core off 2 (mergeWord (s.objWord core off 2) first n)

/-- One arrival (R230). -/
def State.arrive (s : State) (core off : Nat) : State :=
  let w := s.objWord core off 0
  if w = invalidWord then s
  else if barPending w = 0 then s.mergeStatus core off (0x20 * 2 ^ 24) 1
  else (s.setObjWord core off 0 (barWord (barPhase w) (barExp w) (barPending w - 1))).flipIfDone core off

/-- Take n bytes away from the pending bytes (R221). -/
def State.takeBytes (s : State) (core off n : Nat) : State :=
  if s.objWord core off 0 = invalidWord || n = 0 then s
  else (s.setObjWord core off 1 (s.objWord core off 1 - n)).flipIfDone core off
/-- Add n bytes at issue; bytes added never flip a barrier. -/
def State.addBytes (s : State) (core off n : Nat) : State :=
  if s.objWord core off 0 = invalidWord then s else s.setObjWord core off 1 (s.objWord core off 1 + n)

/-- The conditions under which BINIT and BINVAL raise BARRIER_BUSY (R229). -/
def State.barrierBusy (s : State) (core off : Nat) : Bool :=
  (s.anyParked fun on => match on with | .barrier c o _ => c = core && o = off | _ => false)
  || s.objWord core off 1 ≠ 0
  || s.cores.any fun e => (e.2.engine.queue ++ e.2.engine.running.toList).any fun o => o.bar = some (core, off)

-- Stage rings

def ringStage (w1 st : Nat) : Nat := bitsAt w1 (2 * st) 2
def setRingStage (w1 st x : Nat) : Nat := w1 - ringStage w1 st * 4 ^ st + x * 4 ^ st
def ringWord (pidx cidx dm1 : Nat) : Nat := pidx % 8 * 64 + cidx % 8 * 8 + dm1 % 8
/-- A block on which ring operations raise RING_STATE (R234) (log 80). -/
def State.ringBad (s : State) (core off : Nat) : Bool :=
  let w0 := s.objWord core off 0
  let w1 := s.objWord core off 1
  let depth := w0 % 8 + 1
  w0 ≥ 512 || w1 ≥ 65536 || s.objWord core off 2 ≠ 0 || s.objWord core off 3 ≠ 0 || w0 % 8 = 0 || bitsAt w0 6 3 ≥ depth || bitsAt w0 3 3 ≥ depth
    || (List.range 8).any fun i => i ≥ depth && ringStage w1 i ≠ 0

-- Global barriers (R231, R232)

def State.gbar (s : State) (part g : Nat) : GBar := tgetD (s.part part).gbars g .none
/-- Wake every path parked on a global barrier whose phase has changed. -/
def State.wakeGbar (s : State) (part g : Nat) (ph : Bool) : State :=
  s.retry fun k on => match on with | .gbar b q => b = g && q ≠ ph && (s.team k.team).ctx.part = part | _ => false

-- Fences (R212)

/-- CPYCAN, TPOST and TSIG move no data: they are requests, not jobs. -/
def JobKind.isRequest : JobKind → Bool | .cancel _ | .post _ | .signal _ => true | _ => false

def EngineKind.handle : EngineKind → Option (Nat × Nat)
  | .mmad _ _ _ _ _ h | .lutmm _ _ _ _ _ h => h
  | _ => none
/-- The bytes of a handle operand have landed, or its fetch has failed (R163). -/
def EngineOp.landed (o : EngineOp) : Bool := o.kind.handle.isNone || o.staged.isSome || o.fault
/-- A handle fetch of the gang, a job by R214, that has not ended. -/
def State.fetching (s : State) (k : GangKey) : Bool := s.cores.any fun e => e.2.engine.queue.any fun o => o.gang = k && !o.landed
/-- The waits of a FENCE: bit 0 REPL, bit 1 HOST, bit 2 ENG. -/
def State.fenceMet (s : State) (k : GangKey) (kinds : Nat) : Bool :=
  let todo := (s.gang k).flights.flatMap Flight.todo
  let repl := !(s.lags.any fun e => e.gang = some k) && todo.all fun a => !(a.op.writes && match a.loc with | .mem _ _ coh _ => coh = 3 | _ => false)
  let host := todo.all fun a => !(match a.loc with | .mem pa _ _ _ => isHost pa | _ => false)
  let eng := !(s.jobs.any fun e => e.2.gang = some k && !e.2.kind.isRequest) && !s.fetching k
  (!kinds.testBit 0 || repl) && (!kinds.testBit 1 || host) && (!kinds.testBit 2 || eng)

-- Gathering at a collective (R68)

/-- A path parked on an object. -/
def Path.isParked (p : Path) : Bool := match p.st with | .parked _ => true | _ => false
def Path.isWaiting (p : Path) : Bool := match p.st with | .waiting => true | .atEret => true | _ => false
/-- A path that waits at the ERET at which p stands (R341). -/
def Path.atEretOf (q p : Path) : Bool := q.st = .atEret && q.hdr = p.hdr && q.pos = p.pos

/-- A departed thread of home gang k that is parked in the formed gang where it runs. -/
def State.awayParked (s : State) (k : GangKey) (lane : Nat) : Bool :=
  s.gangs.any fun e => e.1.team = k.team && e.1.idx ≥ 32 && (List.range e.2.home.length).any fun l =>
    e.2.home[l]? = some (k.idx, lane) && e.2.live.getLsbD l && !e.2.exited.getLsbD l && !e.2.away.getLsbD l
      && e.2.paths.any fun p => p.mask.getLsbD l && p.isParked
/-- A departed lane that comes back some day: its departure record names a reconvergence PC (R440). -/
def State.willReturn (s : State) (k : GangKey) (lane : Nat) : Bool :=
  (tgetD (s.team k.team).departs ((s.gang k).homeOf k lane) []).any fun d => d.gangLeft = k.idx && d.laneLeft = lane && d.rpc.isSome

/-- Every other unexited thread of the gang stands at the same instruction, waits, or is parked (R68). -/
def State.gathered (s : State) (k : GangKey) (p : Path) : Bool :=
  let g := s.gang k
  (g.paths.all fun q => q.id = p.id || (q.mask &&& ~~~g.exited) = 0 || q.isParked || q.isWaiting || (q.hdr = p.hdr && q.pos = p.pos))
  && (k.idx ≥ 32 || (lanesOf g.away g.width).all fun l => !s.willReturn k l || s.awayParked k l)

/-- Every register result of the gang is written, but a faulting instruction's (log 23). -/
def Gang.drained (g : Gang) : Bool := g.flights.all fun f => f.returned || f.dest.isEmpty || f.replaying
/-- A WAIT completes (R417): mask bit 3 LD, 2 ST, 1 SP, 0 CP (log 23). -/
def Gang.waitMet (g : Gang) (res : Bool) (thr mask : Nat) : Bool :=
  (!mask.testBit 3 || g.counter .ld ≤ thr) && (!mask.testBit 2 || g.counter .st ≤ thr) && (!mask.testBit 1 || g.counter .sp ≤ thr)
    && (!mask.testBit 0 || g.counter .cp ≤ thr) && (!res || g.drained)

/-- A result is still aimed at a granule that WFLUSH would spill (R85, R418). -/
def Gang.flushBlocked (g : Gang) : Bool := g.taken.any fun x => x < 2 + g.baseGranule && g.aimedAt x
/-- A path that a FENCE, a WAIT, a table check or a WFLUSH holds: the whole gang waits with it. -/
def Path.holdsGang (p : Path) : Bool := match p.st with | .held .collective => false | .held _ => true | _ => false
/-- A path that may issue: ready, held on a condition that is now met, or at an ERET that every path of the handler has reached (R341). -/
def State.canRun (s : State) (k : GangKey) (p : Path) : Bool :=
  match p.st with
  | .ready => true
  | .held .collective => s.gathered k p
  | .held (.fence n) => s.fenceMet k n
  | .held (.wait res thr mask) => (s.gang k).waitMet res thr mask
  | .held .flush => !(s.gang k).flushBlocked
  | .atEret => (s.gang k).paths.all fun q => q.atEretOf p
  | .badTarget _ => true
  | _ => false
/-- The first runnable path in the path order (R55), none while a path holds its gang: then no other path of it issues either (R171, R212, R417, R418). -/
def State.running (s : State) (k : GangKey) : Option Path :=
  match (s.gang k).paths.find? Path.holdsGang with
  | some p => if s.canRun k p then some p else none
  | none => (s.gang k).paths.find? (s.canRun k)

/-- The issue of the gang that the step has chosen, none when no gang issues. -/
def State.issuing (s : State) (gd : Guard) : Option Issue :=
  match s.cur with
  | none => none
  | some k =>
    match tget s.gangs k, s.running k with
    | some g, some p =>
      let live := p.mask &&& ~~~g.exited
      some ⟨k, g, p, s.team k.team, s.gridOf k, s.launchOf k, live, live &&& g.guardMask gd⟩
    | _, _ => none

end Sys2Proof.Machine
end

