-- ==== Sys2Proof/Machine/Legal.lean ====
section
/-! DEFINITION. The decode checks that the launch record, the role and the mode decide (spec/05_encoding.md R123, R124; spec/06_numbers.md R147; spec/02_execution_model.md R48;
spec/12_faults.md R268). -/
namespace Sys2Proof

/-- Format codes (R144). -/
def fmtPlain (f : Nat) : Bool := f = 1 || f = 2 || f = 3 || f = 4 || f = 5 || f = 0x10
def fmtDbf (f : Nat) : Bool := f = 8 || f = 9 || f = 10
def fmtLookup (f : Nat) : Bool := f = 0x20 || f = 0x22 || f = 0x23
/-- MMAD's classes (R158): 1 the 8-bit class, 2 the 4-bit class, 3 the 16-bit class. -/
def matClass (f : Nat) : Nat :=
  if f = 8 || f = 9 || f = 0x10 || f = 4 || f = 5 then 1 else if f = 10 then 2 else if f = 2 || f = 3 then 3 else 0

/-- The formats that a converting copy accepts for its slot (R219). -/
def fmtCopyDst (f : Nat) : Bool := fmtPlain f || fmtDbf f || f = 0x11

/-- The K offsets a TBUILD may carry (R165). -/
def kqOk (f kq : Nat) : Bool := if f = 0x20 then kq = 0 else if f = 0x23 then kq = 0 || kq = 2 else true

/-- Slots and geometry that the launch record decides: a broken rule is ILLEGAL_FIELD. -/
def Instr.launchFieldOk (i : Instr) (l : Machine.Launch) (pair : Bool) : Bool :=
  let fmt (n : BitVec 3) : Nat := (Machine.Launch.slot l n.toNat).fmt
  match i with
  | .accrd _ a | .accwr _ a => 16 * a.cb.toNat + l.width ≤ 64 && fmtPlain (fmt a.fa)
  | .cvt _ a =>
    match a.form with
    | .plain .. => true
    | .toSlot ty fs => fmtPlain (fmt fs) || fmt fs = 0x11 || (fmtDbf (fmt fs) && ty = .f32 && l.width ≥ 32)
    | .fromSlot _ _ fs => fmtPlain (fmt fs) || fmt fs = 0x11
  | .dbfpk _ a => fmtDbf (fmt a.fs) && l.width ≥ 32
  | .dbfunpk _ a => fmtDbf (fmt a.fs) && l.width ≥ 32
  | .cpy _ a => a.srcf = .raw || fmtCopyDst (fmt a.fs)
  | .tload _ a | .tstore _ a => a.srcf = .raw || fmtCopyDst (fmt a.fs)
  | .mmad _ a => matClass (fmt a.fa) ≠ 0 && matClass (fmt a.fa) = matClass (fmt a.fb)
  | .lutmm _ a => (fmt a.fa = 3 || fmt a.fa = 8) && fmtLookup (fmt a.fb)
  | .tbuild _ a => (fmt a.fa = 3 || fmt a.fa = 8) && fmtLookup (fmt a.fb) && kqOk (fmt a.fb) a.kq.toNat
  | .tbqry _ a => pair || a.bench.toNat < 4
  | .trd _ a | .twr _ a => !(l.width = 64 && a.row.toNat = 63)
  | _ => true

/-- Tile, accumulator and table names below the team's counts (R77). -/
def Instr.benchNamesOk (i : Instr) (l : Machine.Launch) : Bool :=
  match i with
  | .mmad _ a => a.ta.toNat < l.tiles && (a.hb || a.tb.toNat < l.tiles) && a.ac.toNat < l.accs
  | .lutmm _ a => (a.hb || a.tb.toNat < l.tiles) && a.ac.toNat < l.accs && a.kt.toNat < l.tables
  | .tbuild _ a => a.ta.toNat < l.tiles && a.kt.toNat < l.tables
  | .azero _ _ ac => ac.toNat < l.accs
  | .tbinv _ _ kt => kt.toNat < l.tables
  | .tbqry _ a => a.kt.toNat < l.tables
  | .accrd _ a | .accwr _ a => a.ac.toNat < l.accs
  | .trd _ a | .twr _ a => a.ta.toNat < l.tiles
  | _ => true

/-- The register operands at a gang width: a ballot of 64 lanes takes a pair (R415) (log 26). -/
def Instr.usesAt (i : Instr) (w : Nat) : List Use :=
  match i with
  | .vote _ a => if a.mode = .ballot && w = 64 then [dUse a.d 2 .vec, sUse a.s1 1 .vsp] else i.uses
  | _ => i.uses

/-- Registers that the launch gives the gang (R73), and names of R77: a broken rule is ILLEGAL_OPERAND. -/
def Instr.launchOperandsOk (i : Instr) (l : Machine.Launch) : Bool := ((i.usesAt l.width).all fun u => u.o.aligned u.n && l.names u.o u.n) && i.benchNamesOk l

/-- The class of a word (R104). -/
def Instr.cls (i : Instr) : Nat := opcClass i.opcode

def Operand.isVec : Operand → Bool | .v _ => true | _ => false
/-- Scalar work (R48). -/
def Instr.scalarWork (i : Instr) : Bool :=
  match i with
  | .ldc _ a => !a.d.isVec
  | _ => i.cls = 0 && !(i.uses.any fun u => u.o.isVec)

/-- The role test of R48. -/
def Instr.roleOk (i : Instr) (r : Machine.Role) : Bool :=
  match r with
  | .any => true
  | r =>
    match i with
    | .nop | .tbqry .. | .mengq .. => true
    | .mmad .. | .lutmm .. | .tbuild .. | .azero .. | .tbinv .. => r = .matrix
    | i =>
      if i.cls = 4 || i.cls = 6 || i.scalarWork then true
      else if i.cls = 3 then r = .copy
      else r = .vector

/-- Registers that only HANDLER mode reads (R358). -/
def SysReg.handlerRead : SysReg → Bool
  | .tcause | .tpc | .tnext | .tmask | .taddr | .tladdr | .famkill => true
  | _ => false

/-- The mode test of R268 and R358. -/
def Instr.modeOk (i : Instr) (g : Machine.Gang) : Bool :=
  g.handlerMode ||
  match i with
  | .gsr _ _ r => !r.handlerRead
  | .ssr _ _ r => r = .nstat
  | .famkillWrite .. | .eret _ | .eretSkip _ => false
  | .exit _ => !((g.frames.getLast?.map Machine.Frame.trapFrame).getD false)
  | _ => true

end Sys2Proof

namespace Sys2Proof.Machine

/-- The first decode cause of a word in the order of R124, none when it may issue. -/
def Issue.illegal (x : Issue) (i : Instr) : Option Nat :=
  if !(i.shapeOk && i.launchFieldOk x.launch x.team.pair) then some 0x02
  else if !(i.operandsOk && i.launchOperandsOk x.launch) then some 0x04
  else if !i.roleOk x.gang.role then some 0x05
  else if !i.modeOk x.gang then some 0x06
  else none

end Sys2Proof.Machine
end

