-- ==== Sys2Proof/Machine/Tasks.lean ====
section
/-! DEFINITION. The foreman's records and the retirement of work: task records (spec/10_async.md R242 to R244, R441), jobs' ends (R225, R226), gangs', teams' and grids'
ends (spec/02_execution_model.md R29, R54) and the teardown of a context (spec/12_faults.md R272). -/
namespace Sys2Proof.Machine

-- Accesses by virtual address, byte by byte

/-- The locations of n bytes from va on; the first fault stops. A job's read of a poisoned sector is none: it goes on and records DATA_ECC (R226). -/
def State.locsFrom (s : State) (c : CtxKey) (core : Option Nat) (kind : AccessKind) (host : Option Bool) : Nat → Nat → Option Loc → Except (Nat × MFault) (List Loc)
  | _, 0, _ => .ok []
  | va, n + 1, prev =>
    let here : Except MFault Loc :=
      match (if va % 65536 = 0 then none else prev) with
      | some (.mem pa kd coh ra) => .ok (.mem (pa + 1) kd coh ra)
      | _ => s.translate c core kind host va
    match here with
    | .error e => .error (va, e)
    | .ok loc =>
      if s.uncorrectable loc (if kind = .jobRead then .jobWrite else kind) then .error (va, ⟨0x60, none⟩)
      else
        match State.locsFrom s c core kind host (va + 1) n (some loc) with
        | .error e => .error e
        | .ok ls => .ok (loc :: ls)
def State.locs (s : State) (c : CtxKey) (core : Option Nat) (kind : AccessKind) (host : Option Bool) (va n : Nat) : Except (Nat × MFault) (List Loc) :=
  s.locsFrom c core kind host va n none
def State.locByte (s : State) (loc : Loc) : Byte := BitVec.ofNat 8 (s.homeRead loc 1)
def State.setLocByte (s : State) (loc : Loc) (b : Byte) : State := s.rawWrite loc 1 b.toNat
/-- Bytes written one by one; what another package holds is written there too, by a packet (R294). -/
def State.setLocBytes (s : State) : List Loc → List Byte → State
  | l :: ls, b :: bs => State.setLocBytes ((s.setLocByte l b).sendAt l fun pa kd => .write pa kd [b]) ls bs
  | _, _ => s
/-- Lines written by an agent that keeps no program time take the partition's latest time (R214, R441) (log 15). -/
def State.stampLocs (s : State) (part : Nat) (ls : List Loc) : State :=
  ((ls.map Loc.timeKey).eraseDups).foldl (fun s key => (s.timeStore part (s.part part).horizon key).1) s
/-- Copies of the written sectors in the remote-data cache go (R197). -/
def State.dropRemote (s : State) (part : Nat) (ls : List Loc) : State :=
  s.modPart part fun p => { p with rdc := p.rdc.filter fun e => !(ls.any fun l => match l with | .mem pa _ _ _ => sectorOf pa = e.1 | .scratch .. => false) }
/-- A store of bytes by a job or the foreman: a REPLICATED RA = 0 page's replicas lag behind it (R211). -/
def State.agentStore (s : State) (part : Nat) (ls : List Loc) (bs : List Byte) : State :=
  let s := ls.foldl (fun s l => match l with | .mem pa kd coh ra => if coh = 3 && !ra && !isHost pa then s.addLag none [] part kd pa 1 else s | .scratch .. => s) s
  ((s.setLocBytes ls bs).stampLocs part ls).dropRemote part ls
/-- Bytes that stand in another package are asked for there (R294) (log 13). -/
def State.askRemote (s : State) (ls : List Loc) : State := ls.foldl (fun s l => s.sendRead l 1) s
/-- A read of some bytes by an agent at a program time: it takes its place in T on every line (R203, R214) (log 15). -/
def State.agentReads (s : State) (part pt : Nat) (ls : List Loc) : State := ((ls.map Loc.timeKey).eraseDups).foldl (fun s key => s.agentRead part pt key) s

/-- The die whose foreman shard holds task i (R252). -/
def State.shardDie (s : State) (c : CtxKey) (i : Nat) : Nat :=
  let ds := (s.part c.part).dies
  ds.getD (i % ds.length) 0
/-- The error record of a failed foreman access (R441). -/
def State.foremanError (s : State) (c : CtxKey) (i : Nat) : State := s.logTo c.part 0 0x02 0x0D (s.shardDie c i) (some c.ctx) i
/-- Bytes read by the foreman through the context's tables. -/
def State.foremanRead (s : State) (c : CtxKey) (va n : Nat) : Except (Nat × MFault) (List Byte) :=
  match s.locs c none .load none va n with
  | .error e => .error e
  | .ok ls => .ok (ls.map s.locByte)
/-- What a read by the foreman leaves: it is an ordinary access at the partition's latest time, and another package is asked for its bytes (R441, R294). -/
def State.foremanAsk (s : State) (c : CtxKey) (va n : Nat) : State :=
  match s.locs c none .load none va n with
  | .error _ => s
  | .ok ls => ((s.askTables c va).askRemote ls).agentReads c.part (s.part c.part).horizon ls
/-- Bytes written by the foreman, an ordinary access at the partition's latest time. -/
def State.foremanWrite (s : State) (c : CtxKey) (va : Nat) (bs : List Byte) : Except (Nat × MFault) State :=
  match s.locs c none .store none va bs.length with
  | .error e => .error e
  | .ok ls =>
    .ok (s.agentStore c.part ls bs)

/-- A task record's address; a task area in a key domain outside KDMASK is refused (R295). -/
def State.taskVa (s : State) (c : CtxKey) (i : Nat) : Nat := (s.ctx c).taskarea + 64 * i
def State.taskForeign (s : State) (c : CtxKey) (i : Nat) : Bool :=
  match s.translate c none .load none (s.taskVa c i) with
  | .ok (.mem _ kd _ _) => !(s.part c.part).kdmask.getLsbD kd
  | _ => false
/-- Write back a change to a task record; a failed write leaves the record's older contents. -/
def State.recordWrite (s : State) (c : CtxKey) (i off : Nat) (bs : List Byte) : State :=
  if s.taskForeign c i then s.foremanError c i
  else
    match s.foremanWrite c (s.taskVa c i + off) bs with
    | .ok s => s
    | .error _ => s.foremanError c i

def TaskStatus.code : TaskStatus → Nat | .pending => 0 | .ready => 1 | .running => 2 | .done => 3 | .failed => 4 | .cancelled => 5

/-- See log 33. -/
def State.setStatus (s : State) (c : CtxKey) (i : Nat) (st : TaskStatus) : State :=
  match tget s.tasks (c, i) with
  | none => s
  | some t => (s.setTask c i { t with status := st }).recordWrite c i 1 (bytesOfNat 1 st.code)
/-- See log 33. -/
def State.setProgress (s : State) (c : CtxKey) (i n : Nat) : State :=
  match tget s.tasks (c, i) with
  | none => s
  | some t => (s.setTask c i { t with progress := n }).recordWrite c i 28 (bytesOfNat 4 n)

/-- Mark a task READY when its counter and every edge are clear (R243). -/
def State.markReady (s : State) (c : CtxKey) (i : Nat) : State :=
  match tget s.tasks (c, i) with
  | none => s
  | some t =>
    if t.status = .pending && t.counter = 0 && t.edges = [] then
      (((s.setTask c i { t with order := s.seq }).bump).setStatus c i .ready)
    else s

/-- Decrement a task's dependence counter: in the foreman's copy, else in the record in memory (R243, R410). -/
def State.decrement (s : State) (c : CtxKey) (i : Nat) : State :=
  match tget s.tasks (c, i) with
  | some t =>
    if t.status = .pending && t.counter > 0 then
      ((s.setTask c i { t with counter := t.counter - 1 }).recordWrite c i 4 (bytesOfNat 4 (t.counter - 1))).markReady c i
    else s
  | none =>
    if i ≥ 65536 then s
    else if s.taskForeign c i then s.foremanError c i
    else
      match s.foremanRead c (s.taskVa c i) 8 with
      | .error _ => s.foremanError c i
      | .ok bs =>
        let n := leField bs 4 4
        let s := s.foremanAsk c (s.taskVa c i) 8
        if leField bs 1 1 = 0 && n > 0 then s.recordWrite c i 4 (bytesOfNat 4 (n - 1)) else s

/-- The successor list of a task; a list that cannot be read is empty (R441). -/
def State.successors (s : State) (c : CtxKey) (i : Nat) (t : Task) : State × List Nat :=
  if t.succCount = 0 then (s, [])
  else
    match s.foremanRead c t.succAddr (4 * t.succCount) with
    | .error _ => (s.foremanError c i, [])
    | .ok bs => (s.foremanAsk c t.succAddr (4 * t.succCount), (List.range t.succCount).map fun j => leField bs (4 * j) 4)

/-- A task finishes: its status is written, every edge from it clears, its successors' counters fall in list order, its index is free again (R243, R216, R244). -/
def State.finishTask (s : State) (c : CtxKey) (i : Nat) (st : TaskStatus) : State :=
  match tget s.tasks (c, i) with
  | none => s
  | some t =>
    let s := s.setStatus c i st
    let (s, succ) := s.successors c i t
    let s := { s with tasks := terase s.tasks (c, i) }
    let waiting := (s.tasks.filter fun e => e.1.1 = c && e.2.edges.contains i).map fun e => e.1.2
    let s := { s with tasks := tmap s.tasks (fun k _ => k.1 = c) fun (t : Task) => { t with edges := t.edges.filter fun x => x ≠ i } }
    let s := succ.foldl (fun s j => s.decrement c j) s
    let s := waiting.foldl (fun s j => s.markReady c j) s
    s.modCtx c fun x => { x with devUsed := x.devUsed.filter fun y => y ≠ i }

-- Grids (R29)

def Grid.total (g : Grid) : Nat := g.x * g.launch.y * g.launch.z
/-- The grid has retired every team and no child of it lives. -/
def State.gridOver (s : State) (n : Nat) (g : Grid) : Bool :=
  let st := (tget s.tasks (g.ctx, g.task)).map Task.status
  (st = some .running || (st = some .ready && (g.total = 0 || g.failing)))
  && (g.failing || (g.next = g.total && g.retired = g.total))
  && !(s.teams.any fun e => e.2.grid = n) && !(s.grids.any fun e => e.2.parent = some n)
/-- Retire every grid that is over, its own task finishing DONE, or FAILED after a fence (R280). -/
def State.settle (s : State) : Nat → State
  | 0 => s
  | fuel + 1 =>
    match s.grids.find? fun e => s.gridOver e.1 e.2 with
    | none => s
    | some (n, g) =>
      let s := { s with grids := terase s.grids n }
      State.settle (s.finishTask g.ctx g.task (if g.failing then .failed else .done)) fuel
def State.settleGrids (s : State) : State := s.settle (s.grids.length + 1)

-- Messages (R239)

/-- Undo the bindings that f selects; the unbind follows the producer's last flit (R240). -/
def State.unbind (s : State) (f : GangKey → Bool) : State :=
  let flits := s.cores.flatMap fun e => (e.2.mo.filter fun b => f b.2.owner).map fun b => (⟨e.1, b.1, b.2.core, b.2.mi, none, b.2.id⟩ : Flit)
  { s with cores := s.cores.map fun e => (e.1, { e.2 with mo := e.2.mo.filter fun b => !f b.2.owner }), transit := s.transit ++ flits }

-- Jobs (R224 to R226)

def Job.firstWord (j : Job) : Nat := match j.errs with | e :: _ => e.jobWord | [] => 0
def Job.errCount (j : Job) : Nat := ((j.errs.map Err.code).eraseDups).length
/-- Merge a job's errors into its barrier, or into the status word of its task's payload block (R226, R245). -/
def State.mergeJob (s : State) (n : Nat) : State :=
  match tget s.jobs n with
  | none => s
  | some j =>
    if j.merged then s
    else
      let s := s.setJob n { j with merged := true }
      match j.bar, j.own with
      | some (core, off), _ => s.mergeStatus core off j.firstWord j.errCount
      | none, some i =>
        if j.errs.isEmpty then s
        else
          match tget s.tasks (j.ctx, i) with
          | none => s
          | some t =>
            match s.foremanRead j.ctx (t.payload + 40) 4 with
            | .error _ => s.foremanError j.ctx i
            | .ok bs =>
              match (s.foremanAsk j.ctx (t.payload + 40) 4).foremanWrite j.ctx (t.payload + 40) (bytesOfNat 4 (mergeWord (natOfBytes bs) j.firstWord j.errCount)) with
              | .ok s => s
              | .error _ => s.foremanError j.ctx i
      | none, none => s

/-- A job completes: status merge, its remaining bytes, its task's decrement, and the end of its own task (R225, R245). -/
def State.finishJob (s : State) (n : Nat) : State :=
  let s := s.mergeJob n
  match tget s.jobs n with
  | none => s
  | some j =>
    let s := ({ s with jobs := terase s.jobs n }).modPart j.ctx.part fun p => { p with horizon := max p.horizon j.pt, top := max p.top j.pt }
    let s := match j.bar with | some (core, off) => s.takeBytes core off j.left | none => s
    let s := match j.task with | some i => (s.decrement j.ctx i).settleGrids | none => s
    match j.own with
    | none => s
    | some i =>
      let st : TaskStatus :=
        if j.errs.any fun e => e.code = 0x12 then .cancelled else if j.errs.any fun e => e.code = 0x10 then .failed else .done
      (s.finishTask j.ctx i st).settleGrids
/-- Returned instructions leave the list, each counter strictly in issue order (R121). -/
def popReturned : List Flight → List Counter → List Flight
  | [], _ => []
  | f :: fs, held =>
    match f.counter with
    | none => if f.returned then popReturned fs held else f :: popReturned fs held
    | some c => if f.returned && !held.contains c then popReturned fs held else f :: popReturned fs (c :: held)
def Gang.retire (g : Gang) : Gang := { g with flights := popReturned g.flights [] }
/-- The counter entry of a job's instruction returns, at its acceptance or when it is cancelled before (R120, R225). -/
def State.returnFlight (s : State) (j : Job) : State :=
  match j.gang, j.flight with
  | some k, some id =>
    match tget s.gangs k with
    | some g => s.setGang k { g with flights := g.flights.map fun (f : Flight) => if f.id = id then { f with returned := true } else f } |>.modGang k Gang.retire
    | none => s
  | _, _ => s
/-- A job stops at once with an error code, then completes; one whose last byte is written and whose errors have merged has completed, and no error reaches it (R225). -/
def State.stopJob (s : State) (n code row : Nat) : State :=
  match tget s.jobs n with
  | none => s
  | some j => ((s.setJob n { j with errs := if j.merged then j.errs else j.errs ++ [⟨code, 0, row, 0⟩], stopped := true }).returnFlight j).finishJob n

-- Gangs and teams (R54)

/-- The operation for which a core's engine slaves its follower, if it does: the one that runs, else the one at the head (R156). -/
def Engine.slaver (e : Engine) : Option EngineOp :=
  match (match e.running with | some o => some o | none => e.queue.head?) with
  | some o => if o.pair then some o else none
  | none => none
/-- Engine operations that outlive their team: they keep their places and their time, and their effects on the team, its barriers' words too, are discarded (R157, R344) (log 89). -/
def State.orphanEngine (s : State) (f : GangKey → Bool) : State :=
  let lose (o : EngineOp) : EngineOp := if f o.gang then { o with bar := none, fault := true, left := 0, paused := none } else o
  { s with cores := s.cores.map fun e => (e.1, { e.2 with engine := { e.2.engine with queue := e.2.engine.queue.map lose, running := e.2.engine.running.map lose } }) }

/-- A core's codebook bank of a grid is free once the core holds no team of it (R148). -/
def State.freeBanks (s : State) (cores : List Nat) (grid : Nat) : State :=
  cores.foldl (fun s c =>
    if s.teams.any fun e => e.2.grid = grid && (e.2.core = c || (e.2.pair && e.2.core + 1 = c)) then s
    else s.modCore c fun k => { k with banks := k.banks.filter fun b => b ≠ grid }) s
def Team.cores (t : Team) : List Nat := if t.pair then [t.core, t.core + 1] else [t.core]

/-- A team leaves: its gangs, bindings, engine operations, registers, barriers and rings go together. Jobs that named its barriers name none any more. -/
def State.removeTeam (s : State) (n : Nat) : State :=
  match tget s.teams n with
  | none => s
  | some t =>
    let s := (s.unbind fun k => k.team = n).orphanEngine fun k => k.team = n
    let s := (s.gangsOf n).foldl (fun s k => s.leaveSlot k) s
    let s := { s with
      gangs := s.gangs.filter (fun e => e.1.team ≠ n), teams := terase s.teams n,
      jobs := tmap s.jobs (fun _ j => j.team = some n) fun (j : Job) => { j with team := none, bar := none, gang := none, released := some (t.core, t.scratchBase, (s.grid t.grid).launch.alloc) } }
    let s := s.modPart t.ctx.part fun p =>
      { p with
        shadow := p.shadow.map fun x => { x with
          gangs := x.gangs.filter (fun e => e.1.team ≠ n),
          units := x.units.map fun u => (u.1, { u.2 with mo := u.2.mo.filter fun b => b.2.owner.team ≠ n }) },
        saved := p.saved.filter (fun e => e.1.team ≠ n), units := p.units.filter fun u => u.1.1 ≠ n }
    s.freeBanks t.cores t.grid
/-- A team leaves, whether its gangs have ended or a fault tears it down: its grid counts it as retired, and its task's progress rises by one (R54, R253, R280). -/
def State.leaveTeam (s : State) (n : Nat) : State :=
  match tget s.teams n with
  | none => s
  | some t =>
    let s := s.removeTeam n
    match tget s.grids t.grid with
    | none => s
    | some g =>
      let s := s.setGrid t.grid { g with retired := g.retired + 1 }
      let p := match tget s.tasks (g.ctx, g.task) with | some k => k.progress | none => 0
      s.setProgress g.ctx g.task ((p + 1) % 2 ^ 32)
/-- A team retires: it leaves, and its grid may retire (R253) (log 89). -/
def State.retireTeam (s : State) (n : Nat) : State := (s.leaveTeam n).settleGrids

/-- Threads of the gang that have neither exited nor returned. -/
def Gang.remaining (g : Gang) : Mask := g.live &&& ~~~g.exited
/-- The gang has ended: no thread remains and LD, ST and SP are zero (R343). -/
def Gang.over (g : Gang) : Bool := g.remaining = 0 && g.counter .ld = 0 && g.counter .st = 0 && g.counter .sp = 0
/-- A gang ends: its ring, path state, bindings and reservation go; the team retires with its last gang. -/
def State.endGang (s : State) (k : GangKey) : State :=
  let s := (s.unbind fun x => x = k).leaveSlot k
  let s := { s with gangs := terase s.gangs k }
  if (s.gangsOf k.team).isEmpty && (s.team k.team).spawn.isEmpty then s.retireTeam k.team else s

-- Teardown (R272)

/-- A job of a context that is torn down stops with COPY_CANCELLED; its own task's status is the teardown's (log 32). -/
def State.cancelJob (s : State) (n : Nat) : State :=
  match tget s.jobs n with
  | none => s
  | some j =>
    let s := (s.setJob n { j with errs := j.errs ++ [⟨0x12, 0, 0, 0⟩], stopped := true }).mergeJob n
    ({ s with jobs := tmap s.jobs (fun k _ => k = n) fun (x : Job) => { x with own := none } }).finishJob n

/-- Tear a context down: gangs stop, teams retire, jobs stop with COPY_CANCELLED, tasks fail or are cancelled, one record is written, which
names the context's team of the lowest number and its core (log 32). -/
def State.teardown (s : State) (c : CtxKey) : State :=
  let mine := s.teamsOf c
  let first := s.team (mine.foldl min (mine.headD 0))
  let s := (tkeys s.jobs fun _ j => j.ctx = c).foldl State.cancelJob s
  let s := mine.foldl (fun s t => s.leaveTeam t) s
  let grids := s.grids.filter fun e => e.2.ctx = c
  let s := { s with grids := s.grids.filter fun e => e.2.ctx ≠ c }
  let tasks := (s.tasks.filter fun e => e.1.1 = c).map fun e => (e.1.2, e.2.status)
  let s := (tasks.filter fun e => e.2 = .pending).foldl (fun s e => s.setStatus c e.1 .cancelled) s
  let s := (tasks.filter fun e => e.2 ≠ .pending).foldl (fun s e => s.setStatus c e.1 .failed) s
  let s := tasks.foldl (fun s e => s.finishTask c e.1 (if e.2 = .pending then .cancelled else .failed)) s
  let s := s.modCtx c fun x => { x with slotsUsed := [] }
  let s := grids.foldl (fun s g => s.freeBanks (tkeys s.cores fun _ k => k.banks.contains g.1) g.1) s
  s.logTo c.part 0 0x04 0x0C first.core (some c.ctx) first.x

end Sys2Proof.Machine
end

