-- ==== Sys2Proof/Machine/Ops.lean ====
section
/-! DEFINITION. What instructions share: paths' division and merging (spec/03_divergence.md R55 to R71), taking a trap and leaving one (spec/12_faults.md R265 to R271), results in
flight (spec/05_encoding.md R118 to R121), and the issue of one word (R108 to R110, R123 to R125). -/
namespace Sys2Proof.Machine

-- Clause headers (R103)

/-- The word bears the mark of a clause header; what else a legal header needs is checked when the clause starts (R107). -/
def headerMagic (w : Nat) : Bool := bitsAt w 60 4 = 0xC
def headerOk (w : Nat) : Bool := headerMagic w && bitsAt w 57 3 ≠ 7 && bitsAt w 0 42 = 0
def headerLand (w : Nat) : Bool := bitsAt w 52 1 = 1
def headerCnt (w : Nat) : Nat := bitsAt w 53 4
def headerEng (w : Nat) : Nat := bitsAt w 57 3
/-- Eight bytes fetched as code (R107). -/
def State.fetchWord (s : State) (k : GangKey) (va : Nat) : Except (Nat × MFault) Nat :=
  match s.locs (s.team k.team).ctx (some (s.gang k).core) .fetch none va 8 with
  | .error e => .error e
  | .ok ls => .ok (natOfBytes (ls.map s.locByte))
/-- The virtual address of an offset from the code base. -/
def Launch.va (l : Launch) (off : Nat) : Nat := (l.codeBase + off) % 2 ^ 64
/-- The offset is a clause header with LAND = 1 that can be fetched (R70, R81, R271) (log 22). -/
def State.landing (s : State) (k : GangKey) (off : Nat) : Bool :=
  off % 8 = 0 &&
  match s.fetchWord k ((s.launchOf k).va off) with
  | .ok w => headerMagic w && headerLand w
  | .error _ => false
/-- The offset can be fetched as code at all (R318, R322). -/
def State.fetchable (s : State) (k : GangKey) (off : Nat) : Bool :=
  off % 8 = 0 && match s.fetchWord k ((s.launchOf k).va off) with | .ok _ => true | .error _ => false

-- Frames (R79 to R83)

/-- The top frame slides out: its fresh granules are freed and lose their values (R81) (log 75). A changed slide word leaves the window's place and the reserve open, the latter within the gang's spill stack
(R96) (log 52). A spill ahead of need that a fault stopped starts afresh (R94). -/
def Gang.popFrame (g : Gang) (winMin : Nat) : Gang :=
  match g.frames.getLast? with
  | none => g
  | some f =>
    let (shift, reserve) : Nat × Nat := match f.loose with
      | none => (g.shift, g.reserve - (8 * f.slide + 2))
      | some i => (Config.freeSlide i, Config.freeSlide (i + 1) % (g.reserve + 1))
    let g := { g with frames := g.frames.dropLast, shift := shift, reserve := reserve, refillOff := false, spillOpen := false, spillStopped := none }
    g.free winMin (fun x => decide (x ≥ 2 + g.baseGranule + 14)) []
/-- A call or trap entry pushes its record (R80). -/
def Gang.pushFrame (g : Gang) (ret slide : Nat) (trapFrame : Bool) (node : Nat) : Gang :=
  { g with
    frames := g.frames ++ [⟨ret, slide, trapFrame, g.counter .ld, g.counter .sp, node, [], false, none⟩],
    reserve := g.reserve + (8 * slide + 2), refillOff := false, spillOpen := false }
/-- A result aimed at a vector register, issued at the frame's depth or above, is outstanding (R81). -/
def Gang.vectorPending (g : Gang) (depth : Nat) : Bool :=
  g.flights.any fun f => !f.returned && !f.replaying && f.depth ≥ depth && f.dest.any fun d => match d with | .vec .. => true | _ => false

/-- A RET or ERET of the frame at a depth waits for such a result, unless a changed slide word has left its wait open (R81, R96). -/
def Gang.returnBlocked (g : Gang) (depth : Nat) : Bool :=
  g.vectorPending depth && !((g.frames.getLast?.bind Frame.loose).any Config.freeFlag)

-- Division and merging of paths (R57, R66, R70, R71, R440)

/-- Other paths take a path's place in the path order. -/
def Gang.replacePath (g : Gang) (id : Nat) (ps : List Path) : Gang := { g with paths := g.paths.flatMap fun p => if p.id = id then ps else [p] }
/-- Every path linked to the node has arrived or returned, and no thread departed at it is away. -/
def Gang.nodeArrived (g : Gang) (n : Node) : Bool :=
  n.away = 0 && !(g.nodes.any fun m => m.link = n.id) && g.paths.all fun p => p.link ≠ n.id || p.st = .waiting
/-- The node's paths may merge now; a call's frame must be on top, its caller's frame resident and no result of its own outstanding (R71, R81). -/
def Gang.nodeDone (g : Gang) (n : Node) : Bool :=
  g.nodeArrived n &&
  match n.kind with
  | .call d => d = g.depth && !(d ≥ 1 && g.frameSpilled (d - 1)) && !g.returnBlocked d
  | _ => true
/-- The node divides a path at a call. -/
def Node.ofCall (n : Node) : Bool := match n.kind with | .call _ => true | _ => false
/-- A link leads to a call, whose paths meet at their return alone (R71). -/
def Gang.callLink (g : Gang) (link : Nat) : Bool := g.nodes.any fun n => n.id = link && n.ofCall
/-- The merged path in the place of the path that was divided: past its JOIN, or waiting there once more for an outer merge at the same PC, but for one that waits at a call's return (inCall);
at the return point of a call. -/
def Node.merged (n : Node) (inCall : Bool) (q : Path) (mask : Mask) : Path :=
  match n.kind with
  | .call _ => { q with id := n.path, mask := mask, rpc := n.rpc, link := n.link, st := .ready }
  | _ =>
    let p := { q with id := n.path, mask := mask, rpc := n.rpc, link := n.link, st := .waiting }
    if n.rpc = some q.hdr && !inCall then p else p.next
/-- Merge at one node; with no path left the node goes and counts as exited. A call's merged path stands at the return PC that its frame record now holds (log 30). -/
def Gang.mergeNode (g : Gang) (winMin : Nat) (n : Node) : Gang :=
  let ret := match n.kind, g.frames.getLast? with | .call _, some f => some f.ret | _, _ => none
  let kids := (g.paths.filter fun p => p.link = n.id).map fun p => match ret with | some r => p.goto r | none => p
  let g := match n.kind with | .call _ => g.popFrame winMin | _ => g
  let g := { g with nodes := g.nodes.filter fun m => m.id ≠ n.id }
  match kids with
  | [] => g
  | q :: _ =>
    let m := { n.merged (g.callLink n.link) q (kids.foldl (fun a p => a ||| p.mask) 0) with ret := kids.findSome? Path.ret }
    { g with paths := g.paths.flatMap fun p => if p.id = q.id then [m] else if p.link = n.id then [] else [p] }
/-- A division whose paths have all gone counts as exited: it goes without a merge (R57, R440). -/
def Gang.prune (g : Gang) : Nat → Gang
  | 0 => g
  | fuel + 1 =>
    let gone (n : Node) : Bool := !n.ofCall && n.away = 0 && !(g.nodes.any fun m => m.link = n.id) && !(g.paths.any fun p => p.link = n.id)
    if g.nodes.any gone then Gang.prune { g with nodes := g.nodes.filter fun n => !gone n } fuel else g
/-- Make every merge that is due. -/
def Gang.mergeAll (g : Gang) (winMin : Nat) : Nat → Gang
  | 0 => g
  | fuel + 1 =>
    match g.nodes.find? g.nodeDone with
    | none => g
    | some n => Gang.mergeAll (g.mergeNode winMin n) winMin fuel
def State.mergePaths (s : State) (k : GangKey) : State :=
  s.modGang k fun g => g.mergeAll (s.launchOf k).winMin (g.nodes.length + 1)

-- Exits (R54, R343)

/-- Lanes of a gang exit: they leave every path, suspended ones too; an empty path leaves the path order. -/
def Gang.exitLanes (g : Gang) (m : Mask) : Gang :=
  let cut (ps : List Path) : List Path := (ps.map fun p => { p with mask := p.mask &&& ~~~m }).filter fun p => p.mask ≠ 0
  { g with exited := g.exited ||| m, away := g.away &&& ~~~m, paths := cut g.paths, traps := g.traps.map fun t => { t with paths := cut t.paths } }
/-- One thread fewer is away at a node, wherever a trap has put it. -/
def Gang.nodeBack (g : Gang) (id : Nat) : Gang :=
  let f (ns : List Node) : List Node := ns.map fun n => if n.id = id then { n with away := n.away - 1 } else n
  { g with nodes := f g.nodes, traps := g.traps.map fun t => { t with nodes := f t.nodes } }
/-- A departed thread that exits counts as exited in every gang it left; its departure stack is discarded (R66, R343). -/
def State.exitDeparted (s : State) (team : Nat) (home : Nat × Nat) : State :=
  let ds := tgetD (s.team team).departs home []
  let s := s.modTeam team fun t => { t with departs := terase t.departs home }
  ds.foldl (fun s d =>
    let k : GangKey := ⟨team, d.gangLeft⟩
    (s.modGang k fun g => (g.nodeBack d.node).exitLanes (laneBit d.laneLeft)).mergePaths k) s
/-- The faulting instruction's counter entry goes, as though it had returned: the counter falls in issue order (R121, R267). -/
def Gang.dropFlight (g : Gang) (id : Option Nat) : Gang :=
  { g with flights := popReturned (g.flights.map fun (f : Flight) => if some f.id = id then { f with returned := true, replaying := false, todo := [], results := [] } else f) [] }
/-- Frames slide out until the trap frame of the top trap state is the top one. -/
def Gang.popToTrap (g : Gang) (winMin : Nat) : Nat → Gang
  | 0 => g
  | fuel + 1 =>
    match g.frames.getLast? with
    | none => g
    | some f => if f.trapFrame && !g.closing then g else Gang.popToTrap (g.popFrame winMin) winMin fuel
/-- A handler whose threads have all exited ends: its trap state is removed and the suspended paths are the gang's again (R271) (log 66). -/
def Gang.endHandlers (g : Gang) (winMin : Nat) : Nat → Gang
  | 0 => g
  | fuel + 1 =>
    match g.traps with
    | [] => g
    | t :: ts =>
      if g.paths ≠ [] then g
      else
        let g := ({ g.popToTrap winMin (g.frames.length + 1) with refillOff := false }).dropFlight (t.replay.bind Replay.flight)
        Gang.endHandlers { g with traps := ts, handlerMode := t.handlerMode, paths := t.paths, nodes := t.nodes, pendingTrap := t.pending } winMin fuel
/-- The trap frame of an ended handler slides out once the porter has refilled what it had spilled of the trapped frame (R81, R86); the paths resume then. -/
def Gang.closeFrame (g : Gang) (winMin : Nat) : Gang := if g.closing && !g.frameSpilled (g.depth - 1) then g.popFrame winMin else g
/-- Both: handlers that have ended by EXIT are left. -/
def Gang.closeHandlers (g : Gang) (winMin : Nat) : Gang := (g.endHandlers winMin 5).closeFrame winMin
/-- Threads in some lanes of a gang exit; one progress event. -/
def State.exitThreads (s : State) (k : GangKey) (m : Mask) : State :=
  let s := s.progress k
  let g := s.gang k
  let homes := (lanesOf m g.width).map fun l => g.homeOf k l
  let s := s.setGang k ((g.exitLanes m).closeHandlers (s.launchOf k).winMin)
  (homes.foldl (fun s h => s.exitDeparted k.team h) s).mergePaths k

-- Taking a trap (R269) and leaving one (R271)

/-- TCAUSE (R270). -/
def TrapInfo.tcause (t : TrapInfo) (handlerMode : Bool) : BitVec 32 :=
  t.detail ++ (0#5 ++ BitVec.ofBool t.pathf ++ BitVec.ofBool handlerMode ++ BitVec.ofBool t.replay.isSome ++ t.cause)

/-- The per-lane faulting addresses in v126:v127 of the trap frame; every other lane's are 0. -/
def Gang.writeTrapAddrs (g : Gang) (addrs : Tbl Nat Nat) : Gang :=
  g.writeRegs ((List.range g.width).flatMap fun l =>
    let a := tgetD addrs l 0
    [.vec (g.place 126) l (wordAt a 0), .vec (g.place 127) l (wordAt a 1)])

/-- The gang in its handler: the trap state pushed, the slide-4 trap frame, HANDLER mode, one handler path on the faulting path's unexited lanes (log 65). -/
def Gang.enterHandler (g : Gang) (t : TrapInfo) (pathId hdr : Nat) : Gang :=
  let ts : TrapState := ⟨t.tcause g.handlerMode, BitVec.ofNat 32 t.tpc, BitVec.ofNat 32 t.tnext, false, t.tmask, BitVec.ofNat 64 t.taddr, t.addrs, t.replay,
    g.handlerMode, t.path, g.paths, g.nodes, if g.pendingTrap = some t then none else g.pendingTrap⟩
  let p : Path := ⟨pathId, hdr, 0, (g.path t.path).mask &&& ~~~g.exited, none, 0, .ready, 0, false, 1, 0, none⟩
  { g.pushFrame t.tnext 4 true 0 with traps := ts :: g.traps, handlerMode := true, paths := [p], nodes := [], pendingTrap := none }

/-- The trap can be entered: trap depth, WDEPTH, the spill stack and the handler's landing (R269). The spec does not say what becomes of a handler header whose page has V = 0 or cannot
be fetched: the model makes that a double fault at once, and nothing goes to the fault queue (log 123). -/
def State.canEnter (s : State) (k : GangKey) (hdr : Nat) : Bool :=
  let g := s.gang k
  g.traps.length < 4 && g.depth < 65535 && s.reserveOk k 34 && s.landing k hdr

/-- Enter the handler, or tear the context down on a double fault (R269, R271); WATCHDOG's grace begins (R276) (log 65). -/
def State.enterTrap (s : State) (k : GangKey) (t : TrapInfo) : State :=
  let l := s.launchOf k
  let c := (s.team k.team).ctx
  let hdr := ((s.ctx c).handler + 2 ^ 64 - l.codeBase) % 2 ^ 64
  if !s.canEnter k hdr then s.teardown c
  else
    let s' := ((s.modGang k fun g => g.enterHandler t s.seq hdr).bump).leaveSlot k
    let s' := if t.cause = 0x48 then s'.modGang k fun g => { g with watch := .grace (s.ctx c).wdgrace.toNat } else s'
    if l.vtop ≠ 127 then s'
    else
      match s'.take k (granuleOf ((s'.gang k).place 126)) with
      | .ok s' => s'.modGang k fun g => g.writeTrapAddrs t.addrs
      | _ => s.teardown c

/-- The outstanding results are written, and no LUTMM's table check is still to come (R119, R171) (log 68). -/
def Gang.trapReady (g : Gang) : Bool := g.drained && !(g.paths.any fun p => p.st = .held .check)
/-- The porter met a word that it could not reach or correct at an address (R281, R294). -/
def State.porterMet (s : State) (core : Option Nat) (c : CtxKey) (va : Nat) : Bool :=
  match s.translate c core .refill none va with
  | .ok loc => s.uncorrectable loc .refill
  | .error e => e.cause = 0x60
/-- The record of a word that could not be reached or corrected, by its virtual address: of the word, or of the table entry that could not be read (R273, R282). -/
def State.recordVa (s : State) (c : CtxKey) (core : Option Nat) (va detail : Nat) : State :=
  match s.lookup core c va with
  | .ok l => s.recordBad c l.pdie (l.pa + (va - l.va)) detail
  | .error _ => s.recordBad c 31 ((s.badEntry (s.part c.part) va walkLevels (s.ctx c).tbase).getD 0) detail
/-- A trap of a CPYQ whose record could not be read leaves the foreman's record too (R441). -/
def State.recordQuery (s : State) (c : CtxKey) (t : TrapInfo) : State :=
  match t.replay with
  | some r => if bitsAt r.word.toNat 56 8 = 0x64 then s.foremanError c ((r.data.map Prod.snd).headD 0) else s
  | none => s
/-- DATA_UNCORRECTABLE leaves an error record (R282, R293, R294). -/
def State.recordTrap (s : State) (k : GangKey) (t : TrapInfo) : State :=
  let c := (s.team k.team).ctx
  let core := some (s.gang k).core
  let s := s.recordQuery c t
  if t.cause = 0x60 || (t.cause = 0x21 && s.porterMet core c t.taddr) then s.recordVa c core t.taddr t.cause.toNat else s
/-- A trap is raised: it enters at once, or when the outstanding results are written (R119). -/
def State.takeTrap (s : State) (k : GangKey) (t : TrapInfo) : State :=
  let s := (s.leaveSlot k).recordTrap k t
  if (s.gang k).trapReady then s.enterTrap k t else s.modGang k fun g => { g with pendingTrap := some t }

/-- The trap state pops: frame, mode and paths are restored, the PC is TNEXT (R271). -/
def Gang.leaveHandler (g : Gang) (winMin : Nat) : Gang :=
  match g.traps with
  | [] => g
  | t :: ts =>
    let back (p : Path) : Path := if t.tnextWritten then { p.goto t.tnext.toNat with resumed := true } else { p with resumed := true }
    let g := g.popFrame winMin
    { g with
      traps := ts, handlerMode := t.handlerMode, paths := t.paths.map (fun p => if p.id = t.path then back p else p), nodes := t.nodes,
      pendingTrap := t.pending }
def State.leaveTrap (s : State) (k : GangKey) : State := (s.modGang k fun g => g.leaveHandler (s.launchOf k).winMin).mergePaths k

-- Causes raised by an instruction

/-- A precise cause: code, DETAIL, lanes (none: the active lanes), TADDR, PATHF. -/
structure Trap where
  cause : Nat
  detail : Nat
  mask : Option Mask
  taddr : Nat
  pathf : Bool
  deriving DecidableEq, Repr
def Trap.of (cause : Nat) : Trap := ⟨cause, 0, none, 0, false⟩

/-- A trap's record at a word. It holds no per-lane addresses, so TLADDR and v126:v127 read 0: the spec takes them from the replay slot, which a trap of class P has not, and does not say
what a CALLX's BAD_TARGET shows there, whose TADDR holds the lowest bad lane's target; the 0 is the model's choice (log 124). State.raiseLanes gives DIE_FENCED's addresses. -/
def Issue.info (x : Issue) (t : Trap) (tnext : Nat) : TrapInfo :=
  ⟨BitVec.ofNat 8 t.cause, BitVec.ofNat 16 t.detail, t.pathf, x.path.pc, tnext, t.mask.getD x.active, t.taddr, [], none, x.path.id⟩
/-- A precise trap at the word (R265): TPC and TNEXT are the word, which has had no effect. -/
def State.raise (s : State) (x : Issue) (t : Trap) : State := s.takeTrap x.key (x.info t x.path.pc)

/-- A page fault with V = 0: the gang parks on the fault queue; without a queue the fault is refused at once (R274). A path that waits goes on waiting. -/
def State.pageFault (s : State) (k : GangKey) (w : PageWait) : State :=
  let tm := s.team k.team
  if (s.queueBase tm.ctx.part).isNone then s.takeTrap k w.info
  else
    let (s, seq) := s.queueFault (.gang k) tm.ctx w.va w.cause w.kind w.level (s.gang k).core tm.grid
    (s.modGang k fun g => { (g.modPath w.info.path fun p => if p.isWaiting then p else { p with st := .parked .service }) with faultWait := some { w with seq := seq } }).leaveSlot k
/-- A memory fault of class M with its replay slot (R267), or a page fault. -/
def State.memTrap (s : State) (k : GangKey) (t : TrapInfo) (miss : Option Nat) (kind : AccessKind) : State :=
  match miss with
  | some level => s.pageFault k ⟨t, t.taddr, 0x10, kind, level, none, none⟩
  | none => s.takeTrap k t
/-- A table read's fault: with V = 0 it is parked in the fault queue, any other raises its cause; the instruction issues again after service (R287). -/
def State.restartTrap (s : State) (x : Issue) (t : Trap) (miss : Option Nat) : State :=
  match miss with
  | some level => s.pageFault x.key ⟨x.info t x.path.pc, t.taddr, t.cause, .load, level, none, none⟩
  | none => s.raise x t
/-- A porter fault against the instruction that needed the space (R94); TADDR gives the porter's faulting address (R270) (log 67). -/
def State.spillFault (s : State) (x : Issue) (va : Nat) (f : MFault) (kind : AccessKind) : State :=
  let t := { x.info (.of 0x21) x.path.pc with taddr := va }
  match f.missing with
  | some level => s.pageFault x.key ⟨t, va, 0x21, kind, level, none, none⟩
  | none => s.takeTrap x.key t

/-- A fault of the porter at work for no issuing word: a refill for a call or a handler that is over, or a spill for a save. With V = 0 the gang parks on the fault queue; else, or at a refusal,
it takes SPILL_FAULT, which stands at its first path with threads (R94, R274) (log 67). -/
def State.porterFault (s : State) (k : GangKey) (va : Nat) (f : MFault) (kind : AccessKind) : State :=
  let g := s.gang k
  match g.paths.find? fun p => p.mask &&& ~~~g.exited ≠ 0 with
  | none => s
  | some p =>
    if g.faultWait.isSome || g.pendingTrap.isSome then s
    else
      let t : TrapInfo := ⟨0x21, 0, false, p.pc, p.pc, p.mask &&& ~~~g.exited, va, [], none, p.id⟩
      match f.missing with
      | some level => s.pageFault k ⟨t, va, 0x21, kind, level, none, none⟩
      | none => s.takeTrap k t

-- Results in flight (R118 to R121)

/-- One more instruction of the path has issued: open windows shorten by one (log 29). -/
def Gang.countdown (g : Gang) : Gang :=
  { g with flights := g.flights.map fun f => match f.window with | some (n + 1) => { f with window := some n } | _ => f }
/-- A lookahead field as a window: 15 sets no implicit wait (R118) (log 29). -/
def windowOf (la : BitVec 4) : Option Nat := if la = 15 then none else some la.toNat

/-- A new flight of the issuing instruction. -/
def Issue.flight (x : Issue) (id : Nat) (c : Option Counter) (la : BitVec 4) (dest : List Dest) : Flight :=
  ⟨id, c, [], dest, [], if dest.isEmpty then none else windowOf la, x.path.id, x.gang.depth, false, false, false, false, 0, x.path.pc, none⟩
def State.addFlight (s : State) (k : GangKey) (f : Flight) : State := (s.modGang k fun g => { g with flights := g.flights ++ [f] }).bump
/-- A result computed at issue and written at the end of the instruction's latency. -/
def State.addResult (s : State) (x : Issue) (c : Option Counter) (la : BitVec 4) (dest : List Dest) (ws : List RegWrite) (sat : Bool) : State :=
  s.addFlight x.key { x.flight s.seq c la dest with results := ws, sat := sat }

/-- A result of a lane that has exited meanwhile is discarded (R343) (log 19). -/
def Gang.wanted (g : Gang) (w : RegWrite) : Bool :=
  match w with
  | .vec _ l _ | .pred _ l _ => !g.exited.getLsbD l
  | .scal .. => true
/-- Write a flight's results, in every lane at once; the instruction has returned. A saturating conversion sets SAT with them: the spec does not say when SAT becomes visible, so that a
GSR may read the older bit before and a conversion older than an SSR may set the bit after it is the model's choice (log 28). -/
def Gang.writeback (g : Gang) (id : Nat) : Gang :=
  match g.flights.find? fun f => f.id = id with
  | none => g
  | some f =>
    let g := { (g.writeRegs (f.results.filter g.wanted)).saturate f.sat with flights := g.flights.map fun (e : Flight) => if e.id = id then { e with returned := true } else e }
    g.retire

-- Issue of one word

/-- A restartable memory fault (R266, R267): its cause, the lanes that met it, the faulting address, every lane's address and data for the replay slot, the walk level of
an absent entry, what the instruction leaves in flight, and the faulting address of each lane in TMASK (R270). -/
structure MTrap where
  cause : Nat
  mask : Mask
  taddr : Nat
  addrs : Tbl Nat Nat
  data : Tbl Nat Nat
  miss : Option Nat
  kind : AccessKind
  counter : Option Counter
  dest : List Dest
  faulting : Tbl Nat Nat
  deriving DecidableEq, Repr

/-- What an instruction's effect answers: it is made and the path goes on; it is made and has placed the path itself; the word waits in the clause slot; the path parks
on an object or is held; the word waits in the clause slot from its first attempt on, holding the leave given (R176, R154); the gang asks the weighbridge for leave and waits; a precise trap; a restartable memory
fault; a fault of a table read, at which the instruction restarts (R287); a porter fault (R94). -/
inductive Act where
  | done (s : State)
  | moved (s : State)
  | stall
  | park (on : ParkOn)
  | hold (on : HeldOn)
  | waits (leave : Option Nat)
  | asks (units : Nat)
  | trap (t : Trap)
  | mfault (t : MTrap)
  | restart (t : Trap) (miss : Option Nat)
  | spill (s : State) (va : Nat) (f : MFault) (kind : AccessKind)
  deriving DecidableEq, Repr

end Sys2Proof.Machine

namespace Sys2Proof

/-- The gang-collective instructions (R68). -/
def Instr.isCollective : Instr → Bool
  | .vote .. | .shfl .. | .redg .. | .perm .. | .elect .. | .tsync .. | .mmad .. | .lutmm .. | .tbuild .. => true
  | _ => false

/-- The lookahead field of an instruction, 0 where it has none (R118). -/
def Instr.lookahead : Instr → BitVec 4
  | .ld _ a | .ldPoll _ a | .ldc _ a | .lds _ a | .ldp _ a => a.la
  | .atom _ a | .atoms _ a | .atomp _ a => a.la
  | .cas _ a | .cass _ a => a.la
  | .qpush _ a | .qpop _ a | .qpopWait _ a => a.la
  | .cpyq _ a => a.la
  | _ => 0

/-- The in-flight counter that an instruction raises (R120, R309, R386, R406, R410). -/
def Instr.counter : Instr → Option Machine.Counter
  | .ld .. | .ldPoll .. | .ldc .. | .atom .. | .cas .. | .qpush .. | .qpop .. | .qpopWait .. => some .ld
  | .st .. | .red .. | .cmntWb .. | .cmntDrop .. => some .st
  | .lds .. | .sts .. | .ldp .. | .stp .. | .atoms .. | .atomp .. | .cass .. => some .sp
  | .accrd .. | .accwr .. | .twr .. | .trd .. | .tbqry .. | .mengq .. => some .sp
  | .barrive .. | .btry .. | .bstat .. | .bstatClr .. | .gbarrive .. | .racq .. | .rwait .. | .msgrecv .. | .pwrreq .. | .pwrrel .. => some .sp
  | .cpy .. | .tload .. | .tstore .. | .tdesc .. | .cpyq .. | .cpycan .. | .coll .. | .tpost .. | .tsig .. => some .cp
  | _ => none

/-- The instructions that issue only after every earlier memory instruction of the gang has passed its checks (R204). -/
def Instr.passesNone (i : Instr) : Bool :=
  match i with
  | .wait .. | .tsync .. | .pwrreq .. | .pwrrel .. | .perflvl .. => false
  | .launch .. | .grow .. => true
  | .mov _ a => (match a.d with | .mo _ => true | _ => false) || match a.s1 with | .reg (.mi _) => true | _ => false
  | _ => 1 ≤ opcClass i.opcode && opcClass i.opcode ≤ 4
/-- The instructions that act once for the gang (R110). -/
def Instr.actsOnce (i : Instr) : Bool :=
  match i with
  | .ldc .. | .fenceRepl _ | .fenceHost _ | .fenceEng _ | .fenceAll _ => true
  | .accrd .. | .accwr .. | .twr .. | .trd .. => false
  | _ => let c := opcClass i.opcode; c = 2 || c = 3 || c = 4 || c = 6

end Sys2Proof

namespace Sys2Proof.Machine

/-- The destinations of an instruction's register operands. -/
def Issue.dests (x : Issue) (i : Instr) : List Dest := ((i.usesAt x.gang.width).filter Use.dst).map fun u => x.gang.dest u.o u.n
def rangesMeet (a n b m : Nat) : Bool := a < b + m && b < a + n
def Dest.meets : Dest → Dest → Bool
  | .vec a n, .vec b m => rangesMeet a n b m
  | .scal a n, .scal b m => rangesMeet a n b m
  | .pred a, .pred b => a = b
  | _, _ => false

/-- The word must wait (R118, R119, R121): a window has closed, a result is outstanding and another path issued last, a destination still has a result outstanding, or its counter
stands at 63. -/
def Issue.stalled (x : Issue) (i : Instr) : Bool :=
  (x.gang.flights.any fun f => !f.returned && !f.replaying &&
    (f.window = some 0 || (!f.dest.isEmpty && x.gang.lastPath ≠ x.path.id) || f.dest.any fun d => (x.dests i).any d.meets))
  || (match i.counter with | some c => x.gang.counter c ≥ 63 | none => false)

/-- The path goes on to the next word; after a clause's last word the gang leaves the clause slot. -/
def State.advance (s : State) (k : GangKey) (id : Nat) : State :=
  let ended := let p := (s.gang k).path id; p.pos ≥ p.cnt
  let s := s.modPath k id Path.next
  if ended then s.leaveSlot k else s
/-- The core has used the translation of an offset of the program (R273). -/
def State.useCode (s : State) (k : GangKey) (off : Nat) : State :=
  let c := (s.team k.team).ctx
  let va := (s.launchOf k).va off
  let s := s.fillTlb (s.gang k).core c va
  match s.locs c (some (s.gang k).core) .fetch none va 8 with
  | .ok ls => s.askRemote ls
  | .error _ => s
/-- The path goes to another clause; the gang leaves the clause slot. -/
def State.jump (s : State) (k : GangKey) (id off : Nat) : State := ((s.useCode k off).modPath k id fun p => p.goto off).leaveSlot k

/-- The weighbridge's charge for one instruction (R258). -/
def State.charge (s : State) (core : Nat) (i : Instr) (active : Mask) : State :=
  let c := s.cluster (clusterOf core)
  s.setCluster (clusterOf core) { c with charge := c.charge + Config.opcodeWeight s.pkg.firmware i.opcode.toNat % 16 * popcount active }
/-- Host accesses that wait for their completion have had it once a later instruction of R204's kinds issues: no fault of theirs is to come, and they need no replay slot (R266). -/
def Gang.completed (g : Gang) (i : Instr) : Gang := if i.passesNone then { g with flights := g.flights.map fun f => { f with slot := none } } else g
/-- What every issued word does: windows shorten, the path is the last to have issued, no instruction that R204 lets it pass can fault any more, and the weighbridge is charged for the
active lanes, for the path's where the instruction acts once for the gang (R258). -/
def State.begin (s : State) (x : Issue) (i : Instr) : State :=
  (s.modGang x.key fun g => { (g.countdown.completed i) with lastPath := x.path.id }).charge x.gang.core i (if i.actsOnce then x.live else x.active)

/-- The paths at one collective instruction merge into the issuing path (R68). -/
def State.gather (s : State) (x : Issue) : State :=
  let here (p : Path) : Bool := p.hdr = x.path.hdr && p.pos = x.path.pos && !p.isParked && !p.isWaiting
  (s.modGang x.key fun g =>
    let m := (g.paths.filter here).foldl (fun a p => a ||| p.mask) 0
    { g with paths := (g.paths.map fun p => if p.id = x.path.id then { p with mask := p.mask ||| m, st := .ready } else p).filter fun p =>
        p.id = x.path.id || !here p }).mergePaths x.key

/-- Hold a path until its gang's condition is met; the clause slot ends. -/
def State.hold (s : State) (k : GangKey) (id : Nat) (on : HeldOn) : State := (s.modPath k id fun p => { p with st := .held on }).leaveSlot k

-- Leave (R178, R259)

/-- What a request has still to draw from the window after the gang's reservation. -/
def Gang.leaveRest (g : Gang) (units : Nat) : Nat := units - g.resLeft
def State.clusterOfGang (s : State) (k : GangKey) : Nat := clusterOf (s.gang k).core
/-- The cluster's standing reservations, which stand in the record from the start of each window (R260) (log 92). -/
def State.reserved (s : State) (cluster : Nat) : Nat :=
  ((s.gangs.filter fun e => clusterOf e.2.core = cluster).map fun e => e.2.reservation).foldl (· + ·) 0
/-- What the word that asks for leave charges as it issues (R258). -/
def Issue.ownCharge (x : Issue) (s : State) (op : Nat) : Nat := Config.opcodeWeight s.pkg.firmware op % 16 * popcount x.live
/-- A request's remainder fits the window, whose record the word's own charge, made as it issues, is no part of; one above ILIM is granted at a window's start alone (R259). -/
def State.leaveFits (s : State) (own : Nat) (k : GangKey) (units : Nat) : Bool :=
  (s.cluster (s.clusterOfGang k)).charge - own + (s.gang k).leaveRest units ≤ Config.ilim s.pkg.firmware
/-- Grant leave: it comes from the gang's reservation, then from the window. -/
def State.takeLeave (s : State) (k : GangKey) (units : Nat) : State :=
  let c := s.clusterOfGang k
  let s := s.setCluster c { s.cluster c with charge := (s.cluster c).charge + (s.gang k).leaveRest units }
  s.modGang k fun g => { g with resLeft := g.resLeft - units }
/-- Ask for leave and wait for a grant; a gang that waits already keeps its place. -/
def State.askLeave (s : State) (k : GangKey) (units : Nat) : State :=
  match (s.gang k).leave with
  | .idle => (s.modGang k fun g => { g with leave := .waiting units s.seq (s.core g.core).cycle }) |>.bump
  | _ => s
/-- Leave at issue: granted earlier, or granted now where its remainder fits; none says that the gang must ask, or waits (log 83). -/
def State.leaveNow (s : State) (k : GangKey) (units own : Nat) : Option State :=
  match (s.gang k).leave with
  | .granted => some (s.modGang k fun g => { g with leave := .idle })
  | .waiting .. => none
  | .idle => if s.leaveFits own k units then some (s.takeLeave k units) else none

/-- A word waits in the clause slot: the path notes when its wait began, and leave given meanwhile is kept (log 83). -/
def State.waitWord (s : State) (x : Issue) (leave : Option Nat) : State :=
  let s := (s.modPath x.key x.path.id fun p => if p.since = 0 then { p with since := s.seq } else p).bump
  match leave with
  | some n => (s.takeLeave x.key n).modGang x.key fun g => { g with leave := .granted }
  | none => s

/-- The replay slot of a fault (R267). -/
def MTrap.slot (t : MTrap) (word : BitVec 64) (mask : Mask) (flight : Nat) : Replay := ⟨word, mask, t.addrs, t.data, some flight⟩
/-- A restartable memory fault at issue: the instruction stands in flight until its replay, its path stands at the next word, and the gang traps or parks. -/
def State.memFault (s : State) (x : Issue) (la : BitVec 4) (t : MTrap) : State :=
  let id := s.seq
  let s := s.addFlight x.key { x.flight id t.counter la t.dest with replaying := true }
  let s := (s.modPath x.key x.path.id Path.next).leaveSlot x.key
  let info := x.info ⟨t.cause, 0, some t.mask, t.taddr, false⟩ x.path.next.pc
  s.memTrap x.key { info with addrs := t.faulting, replay := some (t.slot s.word x.active id) } t.miss t.kind

/-- DIE_FENCED at a PEER access is precise at the word, which has no effect (R264, R265); the lanes' addresses stand in the trap (R269, R270). -/
def State.raiseLanes (s : State) (x : Issue) (t : MTrap) : State :=
  s.takeTrap x.key { x.info ⟨t.cause, 0, some t.mask, t.taddr, false⟩ x.path.pc with addrs := t.faulting }

/-- Issue a word that may issue: take its destinations' granules (R84, R436), then make its effect. Without an active lane only the path moves on (R125),
unless the entry acts always. -/
def State.act (s : State) (x : Issue) (i : Instr) (always : Bool) (eff : Issue → State → Act) : State :=
  if !always && x.active = 0 then (s.begin x i).advance x.key x.path.id
  else
    match s.takeAll x.key ((x.dests i).flatMap Dest.granules) with
    | .stall => s
    | .overflow => s.raise x (.of 0x20)
    | .fault s va f kind => s.spillFault x va f kind
    | .ok s1 =>
      match eff x (s1.begin x i) with
      | .done s2 => s2.advance x.key x.path.id
      | .moved s2 => s2
      | .stall => s
      | .park on => s.park x.key x.path.id on
      | .hold on => s.hold x.key x.path.id on
      | .waits l => s.waitWord x l
      | .asks n => s.askLeave x.key n
      | .trap t => s.raise x t
      | .mfault t => if t.cause = 0x61 then s.raiseLanes x t else (s1.begin x i).memFault x i.lookahead t
      | .restart t miss => s.restartTrap x t miss
      | .spill s2 va f kind => s2.spillFault x va f kind

/-- A pair operation outside a pair team's leader core (R155). -/
def Issue.pairRole (x : Issue) (pr : Bool) : Bool := pr && (!x.team.pair || x.gang.core ≠ x.team.core)
/-- The barrier and task that a CPY- or MAT-class instruction names, with their causes: BARRIER_ALIGN, then PROTECTION. -/
def Issue.jobNames (x : Issue) (s : State) (bs tk : Option Operand) : Except Trap (Option (Nat × Nat) × Option Nat) :=
  let bar : Option Nat := bs.map fun o => x.once s o 1
  let task : Option Nat := tk.map fun o => x.once s o 1
  match bar with
  | some b =>
    if b % 16 ≠ 0 then .error (.of 0x39)
    else if !x.team.holds x.launch b || task.any (fun i => i ≥ 65536) then .error (.of 0x11)
    else .ok (some (x.team.core, b), task)
  | none => if task.any fun i => i ≥ 65536 then .error (.of 0x11) else .ok (none, task)
/-- PAIR_ROLE, BARRIER_ALIGN and PROTECTION of an engine operation (R371). -/
def Issue.engineTrap (x : Issue) (s : State) (pr : Bool) (bs : Operand) : Option Trap :=
  if x.pairRole pr then some (.of 0x31) else match x.jobNames s (some bs) none with | .error t => some t | .ok _ => none
/-- The causes that a collective raises before it waits for its gang's paths (R371, R374, R405). -/
def Issue.gatherTrap (x : Issue) (s : State) (i : Instr) : Option Trap :=
  if x.active = 0 then none
  else match i with
    | .mmad _ a => x.engineTrap s a.pr a.bs
    | .lutmm _ a => x.engineTrap s a.pr a.bs
    | .tbuild _ a => x.engineTrap s a.pr a.bs
    | _ => none

/-- One instruction word issues on the chosen gang: decode causes that the launch, role and mode decide, the waits, the gathering of a collective, then its effect. -/
def State.issueNext (s : State) (i : Instr) (always : Bool) (eff : Issue → State → Act) : State :=
  match s.issuing i.guard with
  | none => s
  | some x =>
    match x.illegal i with
    | some c => s.raise x ⟨c, x.path.pos - 1, none, 0, false⟩
    | none =>
      if x.stalled i then s
      else if !i.isCollective then s.act x i always eff
      else
        match x.gatherTrap s i with
        | some t => s.raise x t
        | none =>
          if s.gathered x.key x.path then
            let s := s.gather x
            match s.issuing i.guard with
            | none => s
            | some y => s.act y i always eff
          else s.hold x.key x.path.id .collective
def State.issueWord (s : State) (i : Instr) (always : Bool) (eff : Issue → State → Act) : Host.Outcome State Fault Refusal := .next (s.issueNext i always eff)

end Sys2Proof.Machine
end

