-- ==== Sys2Proof/Machine/Slots.lean ====
section
/-! DEFINITION. Conversions through format slots (spec/06_numbers.md R136 to R149). -/
namespace Sys2Proof.Machine

/-- The float format of a slot's format code (R144). -/
def slotFloat (fmt : Nat) : FloatFmt :=
  match fmt with
  | 2 => .fp16
  | 3 => .bf16
  | 4 => .e4m3fmt
  | 5 => .e5m2
  | _ => .fp32
def slotDbf (fmt : Nat) : DbfFmt := match fmt with | 8 => .dbf8 | 9 => .dbf6 | _ => .dbf4
def Slot.scaleOf (sl : Slot) : Exact := FloatFmt.fp32.decode sl.scale
/-- Width in bits of an integer format code, 0 for the others. -/
def fmtIntBits (fmt : Nat) : Nat := if fmt = 0x10 then 8 else if fmt = 0x11 then 4 else 0

/-- Round(x / scale, format, RND), saturating by SAT (R149): INT8 and INT4 as w-bit patterns. -/
def Slot.encode (sl : Slot) (x : Exact) : Rounded :=
  let q := x.div sl.scaleOf
  match fmtIntBits sl.fmt with
  | 0 => (slotFloat sl.fmt).round sl.rnd sl.sat q
  | w =>
    let (n, s) := q.toInt sl.rnd (-(2 ^ (w - 1))) (2 ^ (w - 1) - 1)
    ⟨bitsOf w n, s⟩
/-- The same as a register: INT8 and INT4 sign-extended (R334). -/
def Slot.encodeReg (sl : Slot) (x : Exact) : Rounded :=
  let r := sl.encode x
  match fmtIntBits sl.fmt with
  | 0 => r
  | w => ⟨bitsOf 32 (signedOf w r.bits), r.sat⟩
/-- The stored value in a register's low bits. -/
def Slot.stored (sl : Slot) (x : Nat) : Exact :=
  match fmtIntBits sl.fmt with
  | 0 => let f := slotFloat sl.fmt; f.decode (x % (2 * f.signBit))
  | w => Exact.ofInt (signedOf w x)
/-- Stored x scale, exact. -/
def Slot.real (sl : Slot) (x : Nat) : Exact := (sl.stored x).mul sl.scaleOf

/-- One DBF block of 32 real values through a slot (R141, R149). -/
def Slot.dbfBlock (sl : Slot) (xs : List Exact) : DbfBlock := (slotDbf sl.fmt).encode sl.gap (xs.map fun x => x.div sl.scaleOf)

end Sys2Proof.Machine
end

