-- ==== Sys2Proof/Machine/Vector.lean ====
section
/-! DEFINITION. The arithmetic and logic instructions of class VEC (spec/15_ref_a_d.md R306, R314 to R316; spec/16_ref_e_m.md R347 to R351, R359 to R361, R369;
spec/17_ref_n_z.md R379, R380, R384, R395, R396). A VEC result is visible to the next instruction (R118). -/
namespace Sys2Proof

/-- An integer operand's value under its type (R360). -/
def ITy.bits (ty : ITy) : Nat := if ty.is64 then 64 else 32
def ITy.val (ty : ITy) (x : Nat) : Int := if ty.signed then signedOf ty.bits x else (x % 2 ^ ty.bits : Nat)
def ITy.lo (ty : ITy) : Int := if ty.signed then -(2 ^ (ty.bits - 1)) else 0
def ITy.hi (ty : ITy) : Int := if ty.signed then 2 ^ (ty.bits - 1) - 1 else 2 ^ ty.bits - 1
/-- The result pattern: saturated to the type, or modulo its width (R360). -/
def ITy.result (ty : ITy) (sat : Bool) (x : Int) : Nat :=
  if sat then bitsOf ty.bits (max ty.lo (min ty.hi x)) else bitsOf ty.bits x
def BTy.bits (ty : BTy) : Nat := if ty = .b64 then 64 else 32
/-- Bitwise complement in the type's width. -/
def BTy.inv (ty : BTy) (x : Nat) : Nat := 2 ^ ty.bits - 1 - x % 2 ^ ty.bits

/-- IMUL's three results (R360). -/
def mulResult (ty : ITy) (var : MulVar) (a b : Nat) : Nat :=
  let p := ty.val a * ty.val b
  match var with
  | .lo => bitsOf ty.bits p
  | .hi => bitsOf ty.bits (p / 2 ^ ty.bits)
  | .wide => bitsOf (2 * ty.bits) p

def shiftLeft (ty : BTy) (x n : Nat) : Nat := if n ≥ ty.bits then 0 else x * 2 ^ n % 2 ^ ty.bits
def shiftRight (ty : BTy) (x n : Nat) : Nat := if n ≥ ty.bits then 0 else x / 2 ^ n
/-- Floor of the signed value by 2^n (R395); from the width on, all bits are the sign. -/
def shiftArith (ty : BTy) (x n : Nat) : Nat := bitsOf ty.bits (signedOf ty.bits x / 2 ^ (min n ty.bits))

/-- BCNT's counts over the low w bits (R314). -/
def countBits (op : BcntOp) (w x : Nat) : Nat :=
  let bit (i : Nat) : Bool := x.testBit i
  match op with
  | .pop => ((List.range w).filter bit).length
  | .lzc => ((List.range w).reverse.takeWhile fun i => !bit i).length
  | .tzc => ((List.range w).takeWhile fun i => !bit i).length

/-- BFX (R316). -/
def extractField (ty : ITy) (x pos len : Nat) : Nat :=
  let w := ty.bits
  let n := min (len % 256) w
  let v : Int := if ty.signed then signedOf w x else (x % 2 ^ w : Nat)
  let b := bitsOf n (v / 2 ^ (pos % 256))
  if n = 0 then 0 else if ty.signed then bitsOf w (signedOf n b) else b
/-- BFI (R316). -/
def insertField (ty : BTy) (x y pl : Nat) : Nat :=
  let w := ty.bits
  let pos := pl % 256
  let n := min (pl / 256 % 256) w
  (List.range w).foldl (fun acc i =>
    let b := if pos ≤ i && i < pos + n then y.testBit (i - pos) else x.testBit i
    if b then acc + 2 ^ i else acc) 0

end Sys2Proof

namespace Sys2Proof.Machine

/-- The effect of a per-lane instruction of class VEC: every active lane's result, read from the state at issue, written at once. -/
def laneEffect (d : Operand) (n : Nat) (f : Issue → State → Nat → Nat) (x : Issue) (s : State) : Act :=
  .done (s.modGang x.key fun g => g.writeRegs ((x.gang.dest d n).laneWrites x.lanes (f x s)))
/-- A per-lane instruction of class VEC. -/
def State.perLane (s : State) (i : Instr) (d : Operand) (n : Nat) (f : Issue → State → Nat → Nat) : Host.Outcome State Fault Refusal :=
  s.issueWord i false (laneEffect d n f)

def execNop (s : State) : Host.Outcome State Fault Refusal := s.issueWord .nop false fun _ s => .done s

-- Integer arithmetic (R359, R360)

def execIadd (g : Guard) (a : IntArgs) (s : State) : Host.Outcome State Fault Refusal :=
  s.perLane (.iadd g a) a.d a.ty.regs fun x s l => a.ty.result a.sat (a.ty.val (x.read s a.s1 a.ty.regs .int l) + a.ty.val (x.readInt s a.s2 a.ty l))
def execIsub (g : Guard) (a : IntArgs) (s : State) : Host.Outcome State Fault Refusal :=
  s.perLane (.isub g a) a.d a.ty.regs fun x s l => a.ty.result a.sat (a.ty.val (x.read s a.s1 a.ty.regs .int l) - a.ty.val (x.readInt s a.s2 a.ty l))
def execImul (g : Guard) (a : IMulArgs) (s : State) : Host.Outcome State Fault Refusal :=
  s.perLane (.imul g a) a.d (if a.var = .wide then 2 else a.ty.regs) fun x s l => mulResult a.ty a.var (x.read s a.s1 a.ty.regs .int l) (x.readInt s a.s2 a.ty l)
def execImad (g : Guard) (a : IMadArgs) (s : State) : Host.Outcome State Fault Refusal :=
  s.perLane (.imad g a) a.d a.ty.regs fun x s l =>
    a.ty.result a.sat (a.ty.val (x.read s a.s1 a.ty.regs .int l) * a.ty.val (x.readInt s a.s2 a.ty l) + a.ty.val (x.read s a.s3 a.ty.regs .int l))
def execImin (g : Guard) (a : IMinArgs) (s : State) : Host.Outcome State Fault Refusal :=
  s.perLane (.imin g a) a.d a.ty.regs fun x s l => a.ty.result false (min (a.ty.val (x.read s a.s1 a.ty.regs .int l)) (a.ty.val (x.readInt s a.s2 a.ty l)))
def execImax (g : Guard) (a : IMinArgs) (s : State) : Host.Outcome State Fault Refusal :=
  s.perLane (.imax g a) a.d a.ty.regs fun x s l => a.ty.result false (max (a.ty.val (x.read s a.s1 a.ty.regs .int l)) (a.ty.val (x.readInt s a.s2 a.ty l)))

-- Logic (R306, R380), shifts (R395), bit counts and fields (R314 to R316)

def execAnd (g : Guard) (a : LogicArgs) (s : State) : Host.Outcome State Fault Refusal :=
  s.perLane (.and g a) a.d a.ty.regs fun x s l => x.read s a.s1 a.ty.regs .int l &&& x.readB s a.s2 a.ty l
def execAndn (g : Guard) (a : LogicArgs) (s : State) : Host.Outcome State Fault Refusal :=
  s.perLane (.andn g a) a.d a.ty.regs fun x s l => x.read s a.s1 a.ty.regs .int l &&& a.ty.inv (x.readB s a.s2 a.ty l)
def execOr (g : Guard) (a : LogicArgs) (s : State) : Host.Outcome State Fault Refusal :=
  s.perLane (.or g a) a.d a.ty.regs fun x s l => x.read s a.s1 a.ty.regs .int l ||| x.readB s a.s2 a.ty l
def execXor (g : Guard) (a : LogicArgs) (s : State) : Host.Outcome State Fault Refusal :=
  s.perLane (.xor g a) a.d a.ty.regs fun x s l => x.read s a.s1 a.ty.regs .int l ^^^ x.readB s a.s2 a.ty l
def execShl (g : Guard) (a : ShiftArgs) (s : State) : Host.Outcome State Fault Refusal :=
  s.perLane (.shl g a) a.d a.ty.regs fun x s l => shiftLeft a.ty (x.read s a.s1 a.ty.regs .int l) (x.readSrc s a.s2 1 .int l)
def execShr (g : Guard) (a : ShiftArgs) (s : State) : Host.Outcome State Fault Refusal :=
  s.perLane (.shr g a) a.d a.ty.regs fun x s l => shiftRight a.ty (x.read s a.s1 a.ty.regs .int l) (x.readSrc s a.s2 1 .int l)
def execSar (g : Guard) (a : ShiftArgs) (s : State) : Host.Outcome State Fault Refusal :=
  s.perLane (.sar g a) a.d a.ty.regs fun x s l => shiftArith a.ty (x.read s a.s1 a.ty.regs .int l) (x.readSrc s a.s2 1 .int l)
def execBcnt (g : Guard) (a : BcntArgs) (s : State) : Host.Outcome State Fault Refusal :=
  s.perLane (.bcnt g a) a.d 1 fun x s l => countBits a.op a.ty.bits (x.read s a.s1 a.ty.regs .int l)
/-- BFX's position and length, one lane. -/
def BfxPos.at (p : BfxPos) (x : Issue) (s : State) (l : Nat) : Nat × Nat :=
  match p with
  | .regs a b => (x.read s a 1 .int l, x.read s b 1 .int l)
  | .imm a b => (a.toNat, b.toNat)
def execBfx (g : Guard) (a : BfxArgs) (s : State) : Host.Outcome State Fault Refusal :=
  s.perLane (.bfx g a) a.d a.ty.regs fun x s l => extractField a.ty (x.read s a.s1 a.ty.regs .int l) (BfxPos.at a.pl x s l).1 (BfxPos.at a.pl x s l).2
def execBfi (g : Guard) (a : BfiArgs) (s : State) : Host.Outcome State Fault Refusal :=
  s.perLane (.bfi g a) a.d a.ty.regs fun x s l =>
    insertField a.ty (x.read s a.s1 a.ty.regs .int l) (x.read s a.s2 a.ty.regs .int l) (x.read s a.s3 1 .int l)

-- Floating point (R347 to R351)

def execFadd (g : Guard) (a : FArgs) (s : State) : Host.Outcome State Fault Refusal :=
  s.perLane (.fadd g a) a.d 1 fun x s l =>
    a.ty.lift2 (floatAdd a.ty.fmt a.rnd a.n1 a.n2) (x.read s a.s1 1 (readAsF a.ty) l) (x.readSrc s a.s2 1 (readAsF a.ty) l)
def execFmul (g : Guard) (a : FArgs) (s : State) : Host.Outcome State Fault Refusal :=
  s.perLane (.fmul g a) a.d 1 fun x s l =>
    a.ty.lift2 (floatMul a.ty.fmt a.rnd a.n1 a.n2) (x.read s a.s1 1 (readAsF a.ty) l) (x.readSrc s a.s2 1 (readAsF a.ty) l)
def execFfma (g : Guard) (a : FmaArgs) (s : State) : Host.Outcome State Fault Refusal :=
  s.perLane (.ffma g a) a.d 1 fun x s l =>
    a.ty.lift3 (floatFma a.ty.fmt a.rnd a.n1 a.n2 a.n3) (x.read s a.s1 1 (readAsF a.ty) l) (x.readSrc s a.s2 1 (readAsF a.ty) l) (x.read s a.s3 1 (readAsF a.ty) l)
def execFmin (g : Guard) (a : FMinArgs) (s : State) : Host.Outcome State Fault Refusal :=
  s.perLane (.fmin g a) a.d 1 fun x s l => a.ty.lift2 a.ty.fmt.min (x.read s a.s1 1 (readAsF a.ty) l) (x.readSrc s a.s2 1 (readAsF a.ty) l)
def execFmax (g : Guard) (a : FMinArgs) (s : State) : Host.Outcome State Fault Refusal :=
  s.perLane (.fmax g a) a.d 1 fun x s l => a.ty.lift2 a.ty.fmt.max (x.read s a.s1 1 (readAsF a.ty) l) (x.readSrc s a.s2 1 (readAsF a.ty) l)

-- Comparison and choice (R349, R350, R361, R384, R396)

def boolNat (b : Bool) : Nat := if b then 1 else 0
def execIcmp (g : Guard) (a : ICmpArgs) (s : State) : Host.Outcome State Fault Refusal :=
  s.perLane (.icmp g a) a.d 1 fun x s l =>
    boolNat (a.cond.holds (a.ty.val (x.read s a.s1 a.ty.regs .int l)) (a.ty.val (x.read s a.s2 a.ty.regs .int l)))
/-- A scalar float operand's exact value. -/
def f3Value (t : F3) (x : Nat) : Exact := t.fmt.decode (x % (2 * t.fmt.signBit))
def execFcmp (g : Guard) (a : FCmpArgs) (s : State) : Host.Outcome State Fault Refusal :=
  s.perLane (.fcmp g a) a.d 1 fun x s l =>
    boolNat (a.cond.holds (f3Value a.ty (x.read s a.s1 1 (readAs3 a.ty) l)) (f3Value a.ty (x.read s a.s2 1 (readAs3 a.ty) l)))
def execSel (g : Guard) (a : SelArgs) (s : State) : Host.Outcome State Fault Refusal :=
  s.perLane (.sel g a) a.d a.ty.regs fun x s l => if x.read s a.s3 1 .int l = 1 then x.read s a.s1 a.ty.regs .int l else x.read s a.s2 a.ty.regs .int l
def execPlop (g : Guard) (a : PlopArgs) (s : State) : Host.Outcome State Fault Refusal :=
  s.perLane (.plop g a) a.d 1 fun x s l =>
    boolNat (a.lut.getLsbD (4 * x.read s a.s1 1 .int l + 2 * x.read s a.s2 1 .int l + x.read s a.s3 1 .int l))

/-- LEA (R369): the index is extended by SX and shifted. -/
def leaResult (n32 sx : Bool) (sh base index : Nat) : Nat :=
  let i : Int := if sx then signedOf 32 index else (index % 2 ^ 32 : Nat)
  bitsOf (if n32 then 32 else 64) ((base : Int) + i * 2 ^ sh)
def execLea (g : Guard) (a : LeaArgs) (s : State) : Host.Outcome State Fault Refusal :=
  s.perLane (.lea g a) a.d (if a.n32 then 1 else 2) fun x s l =>
    leaResult a.n32 a.sx a.sh.toNat (x.read s a.s1 (if a.n32 then 1 else 2) .int l) (x.readSrc s a.s2 1 .int l)

end Sys2Proof.Machine
end

