-- ==== Sys2Proof/Machine/Access.lean ====
section
/-! DEFINITION. Addresses of the memory instructions and their checks (spec/08_memory.md R181 to R184, R189, R198, R200; spec/04_registers.md R95; spec/12_faults.md R264,
R266, R267, R270), accesses in flight and their performance (spec/05_encoding.md R118 to R121, spec/03_divergence.md R69). -/
namespace Sys2Proof.Machine

/-- A memory instruction of R184: the space it reaches, how it counts as an access, its width in bytes, its address, its data operand, whether a host page takes it as an
atomic (none: no atomic), whether one lane acts for all (R366), and whether permissions count (R326). -/
structure MemOp where
  space : Space
  kind : AccessKind
  w : Nat
  ab : Operand
  off : BitVec 11
  data : Option (Operand × Nat × ReadAs)
  host : Option Bool
  once : Bool
  align : Bool
  deriving DecidableEq, Repr

/-- The class under which an atomic's operand reads a constant (R114). -/
def readAsA : ATy → ReadAs | .f32 => .f32 | .bf16x2 => .bf16x2 | .f16x2 => .f16x2 | _ => .int
def atomBytes (t : ATy) : Nat := if t.regs = 2 then 8 else 4
/-- The atomics that the host adapter takes (R200). -/
def hostAtomOk (op : AOp) (ty : ATy) : Bool := !ty.isFloat && (op = .add || op = .xchg)

end Sys2Proof.Machine

namespace Sys2Proof
open Machine

def LoadArgs.memOp (a : LoadArgs) (sp : Space) (once : Bool) : MemOp := ⟨sp, .load, a.w.bytes, a.ab, a.off, none, none, once, true⟩
def StoreArgs.memOp (a : StoreArgs) (sp : Space) : MemOp := ⟨sp, .store, a.w.bytes, a.ab, a.off, some (a.s2, a.w.regs, .int), none, false, true⟩
def AtomArgs.memOp (a : AtomArgs) (sp : Space) : MemOp :=
  ⟨sp, .atomic, atomBytes a.ty, a.ab, a.off, some (a.s2, a.ty.regs, readAsA a.ty), some (hostAtomOk a.op a.ty), false, true⟩
def CasArgs.memOp (a : CasArgs) (sp : Space) : MemOp :=
  ⟨sp, .atomic, 4 * a.ty.regs, a.ab, a.off, some (a.s2, 2 * a.ty.regs, .int), some true, false, true⟩
def LineArgs.memOp (a : LineArgs) : MemOp := ⟨.global, .load, 1, a.ab, a.off, none, none, false, false⟩

/-- The memory instructions whose lanes access memory one by one, and CMNT. -/
def Instr.memOp : Instr → Option MemOp
  | .ld _ a | .ldPoll _ a => some (a.memOp .global false)
  | .ldc _ a => some (a.memOp .global true)
  | .lds _ a => some (a.memOp .local false)
  | .ldp _ a => some (a.memOp .peer false)
  | .st _ a => some (a.memOp .global)
  | .sts _ a => some (a.memOp .local)
  | .stp _ a => some (a.memOp .peer)
  | .atom _ a => some (a.memOp .global)
  | .atoms _ a => some (a.memOp .local)
  | .atomp _ a => some (a.memOp .peer)
  | .red _ a => some ⟨.global, .atomic, atomBytes a.ty, a.ab, a.off, some (a.s2, a.ty.regs, readAsA a.ty), some (hostAtomOk a.op a.ty), false, true⟩
  | .cas _ a => some (a.memOp .global)
  | .cass _ a => some (a.memOp .local)
  | .cmntWb _ a | .cmntDrop _ a => some a.memOp
  | _ => none

/-- What one lane's access does, given its data. -/
def Instr.accessOp (i : Instr) (x : Nat) : AccessOp :=
  match i with
  | .ld _ a | .ldc _ a => .load a.w.bytes a.sx false a.ch.toNat
  | .ldPoll _ a => .load a.w.bytes a.sx true a.ch.toNat
  | .lds _ a | .ldp _ a => .load a.w.bytes a.sx false 0
  | .st _ a => .store a.w.bytes (x % 2 ^ (8 * a.w.bytes)) a.ch.toNat
  | .sts _ a | .stp _ a => .store a.w.bytes (x % 2 ^ (8 * a.w.bytes)) 0
  | .atom _ a | .atoms _ a | .atomp _ a => .atom a.op a.ty x
  | .red _ a => .atom a.op a.ty x
  | .cas _ a | .cass _ a => .cas (4 * a.ty.regs) (x % 2 ^ (32 * a.ty.regs)) (x / 2 ^ (32 * a.ty.regs))
  | .cmntDrop .. => .maint true
  | _ => .maint false

end Sys2Proof

namespace Sys2Proof.Machine

-- Addresses

/-- Base plus scaled offset: 64 bits, 32 for LOCAL (R366, R308). -/
def Issue.address (x : Issue) (s : State) (m : MemOp) (lane : Nat) : Nat :=
  let bits := if m.space = .local then 32 else 64
  let base := x.read s m.ab (bits / 32) .int lane
  bitsOf bits ((base : Int) + signedOf 11 m.off.toNat * m.w)
def Issue.dataAt (x : Issue) (s : State) (m : MemOp) (lane : Nat) : Nat :=
  match m.data with
  | some (o, n, c) => x.read s o n c lane
  | none => 0

-- Checks

/-- A LOCAL offset to its scratchpad byte, inside the team's allocation (R182) (log 42, log 46). -/
def State.localLoc (s : State) (team off : Nat) : Except MFault Loc :=
  let t := s.team team
  if t.holds (s.grid t.grid).launch off then .ok (.scratch t.core off) else .error ⟨0x11, none⟩
/-- A PEER value to its scratchpad byte: zero bits, a core of the partition, an allocation there of a team of the context (R182), one that the die's fence tore
down too; then a core on a fenced die (R281, R309) (log 46, log 47). -/
def State.peerLoc (s : State) (c : CtxKey) (v : Nat) : Except MFault Loc :=
  let off := v % 2 ^ 19
  let core := bitsAt v 32 11
  let held := (s.teams.any fun e => e.2.ctx = c && e.2.core = core && e.2.res = .placed && e.2.holds (s.grid e.2.grid).launch off)
    || s.pkg.fencedTeams.any fun e => e.ctx = c && e.core = core && e.base ≤ off && off < e.base + e.size
  if bitsAt v 19 13 ≠ 0 || bitsAt v 43 21 ≠ 0 || !(s.part c.part).ownsCore core || !held then .error ⟨0x11, none⟩
  else if s.pkg.fenced.contains (dieOf core) then .error ⟨0x61, none⟩
  else .ok (.scratch core off)

/-- The active spill range is barred to USER mode, and to HANDLER mode until WFLUSH (R95) (log 74). -/
def State.spillBarred (s : State) (k : GangKey) (va w : Nat) : Bool :=
  (!(s.gang k).handlerMode || !(s.gang k).spillOpen) && s.inSpillRange k va w

/-- One lane's causes in the order of its entry (R368, R401, R309, R326). -/
def State.checkLane (s : State) (k : GangKey) (m : MemOp) (va : Nat) : Except MFault Loc :=
  let c := (s.team k.team).ctx
  match m.space with
  | .local =>
    match s.localLoc k.team va with
    | .error e => .error e
    | .ok l => if va % m.w ≠ 0 then .error ⟨0x14, none⟩ else .ok l
  | .peer =>
    match s.peerLoc c va with
    | .error e => .error e
    | .ok l => if va % m.w ≠ 0 then .error ⟨0x14, none⟩ else .ok l
  | _ =>
    match s.translate c (some (s.gang k).core) m.kind none va with
    | .error e => .error e
    | .ok l =>
      if !m.align then .ok l
      else if va % m.w ≠ 0 then .error ⟨0x14, none⟩
      else if s.spillBarred k va m.w then .error ⟨0x15, none⟩
      else
        let host := match l with | .mem pa _ _ _ => isHost pa | _ => false
        if host && (m.host = some false || (m.host.isSome && !s.pkg.hatom)) then .error ⟨0x17, none⟩
        else if s.uncorrectable l m.kind then .error ⟨0x60, none⟩
        else .ok l

/-- The place of a cause in the entries' orders (log 45). -/
def causeRank (c : Nat) : Nat := ([0x10, 0x11, 0x12, 0x13, 0x16, 0x61, 0x14, 0x15, 0x17, 0x60].findIdx fun x => x = c)

/-- What the lanes of one instruction meet (R270): the first cause in the entry's order, its lanes, the lowest one's faulting address and walk level, and every such lane's faulting address. -/
structure LaneFault where
  cause : Nat
  mask : Mask
  taddr : Nat
  miss : Option Nat
  faulting : Tbl Nat Nat
  deriving DecidableEq, Repr
/-- One lane's fault: the lane, its faulting address, the place of the fault in the entry's order, the cause. -/
structure Bad where
  lane : Nat
  va : Nat
  rank : Nat
  f : MFault
  deriving DecidableEq, Repr
/-- The cause raised is that of the first place in the order, at every lane that met it (log 45). -/
def worstBad (bad : List Bad) : Option LaneFault :=
  match bad.foldl (fun (b : Option Bad) e => match b with | none => some e | some c => if e.rank < c.rank then some e else some c) none with
  | none => none
  | some b =>
    let those := bad.filter fun e => e.f.cause = b.f.cause
    match those with
    | [] => none
    | e :: _ => some ⟨b.f.cause, maskOf (those.map Bad.lane), e.va, e.f.missing, those.map fun e => (e.lane, e.va)⟩
/-- See log 45. -/
def worstCause (bad : List (Nat × Nat × MFault)) : Option LaneFault := worstBad (bad.map fun e => ⟨e.1, e.2.1, causeRank e.2.2.cause, e.2.2⟩)
def State.checkLanes (s : State) (k : GangKey) (m : MemOp) (addrs : Tbl Nat Nat) : Except LaneFault (List (Nat × Nat × Loc)) :=
  let rs := addrs.map fun e => (e.1, e.2, s.checkLane k m e.2)
  match worstCause (rs.filterMap fun r => match r.2.2 with | .error e => some (r.1, r.2.1, e) | .ok _ => none) with
  | some f => .error f
  | none => .ok (rs.filterMap fun r => match r.2.2 with | .error _ => none | .ok l => some (r.1, r.2.1, l))

/-- Keep the translations that an instruction has used (R273). -/
def State.fillTlbs (s : State) (k : GangKey) (vas : List Nat) : State := vas.foldl (fun s va => s.fillTlb (s.gang k).core (s.team k.team).ctx va) s
def MemOp.translated (m : MemOp) : Bool := m.space = .global || m.space = .host

def LaneFault.trap (f : LaneFault) (addrs data : Tbl Nat Nat) (kind : AccessKind) (c : Option Counter) (dest : List Dest) : MTrap :=
  ⟨f.cause, f.mask, f.taddr, addrs, data, f.miss, kind, c, dest, f.faulting⟩

-- Issue of a memory instruction

/-- The accesses of lanes whose checks have passed. -/
def laneAccesses (i : Instr) (data : Tbl Nat Nat) (ls : List (Nat × Nat × Loc)) : List LaneAccess :=
  ls.map fun e => ⟨e.1, e.2.1, e.2.2, i.accessOp (tgetD data e.1 0)⟩

/-- The effect of a memory instruction: its addresses and data are read, every lane is checked, and its accesses stand in flight; DIE_FENCED is precise (R264) (R366, R308, R401, R324, R391, R326). -/
def memEffect (i : Instr) (m : MemOp) (x : Issue) (s : State) : Act :=
  let addrs := (if m.once then x.lanes.take 1 else x.lanes).map fun l => (l, x.address s m l)
  let data := x.lanes.map fun l => (l, x.dataAt s m l)
  match s.checkLanes x.key m addrs with
  | .error f => .mfault (f.trap addrs data m.kind i.counter (x.dests i))
  | .ok ls =>
    let s := if m.translated then s.fillTlbs x.key (addrs.map Prod.snd) else s
    .done (s.addFlight x.key { x.flight s.seq i.counter i.lookahead (x.dests i) with
      todo := laneAccesses i data ls, lanes := if m.once then x.active else 0, slot := some ⟨s.word, x.active, addrs, data, some s.seq⟩ })
def State.memInstr (s : State) (i : Instr) : Host.Outcome State Fault Refusal :=
  match i.memOp with
  | some m => s.issueWord i false (memEffect i m)
  | none => .next s

-- Demotion (R69)

/-- The path that issued an instruction: the one of its number, else the one that now holds its lanes (log 17). -/
def Gang.issuerOf (g : Gang) (id : Nat) (m : Mask) : Nat :=
  if g.paths.any fun p => p.id = id then id else ((g.paths.find? fun p => (p.mask &&& m) ≠ 0).map Path.id).getD id
/-- A path goes behind the gang's other paths when one of them may run; else the gang is demoted. -/
def State.demote (s : State) (k : GangKey) (id : Nat) : State :=
  let g := s.gang k
  let mine := g.paths.filter fun p => p.id = id
  let others := g.paths.filter fun p => p.id ≠ id
  if !mine.isEmpty && others.any (s.canRun k) then s.setGang k { g with paths := others ++ mine }
  else s.setGang k { g with demoted := true }

-- Flits that arrive (R240)

/-- Paths parked on a receive register of a core issue again. -/
def State.wakeReceivers (s : State) (core mi : Nat) : State :=
  let here := tkeys s.gangs fun _ g => g.core = core
  s.retry fun k on => here.contains k && match on with | .receive m => m = mi | _ => false
/-- A saved message unit that a flit's binding belongs to: the flit is bound for its core, and the binding stood when the unit was saved (log 100). -/
def MsgUnit.takes (u : (Nat × Nat) × MsgUnit) (f : Flit) : Bool := u.1.2 = f.core && f.id < u.2.seq
/-- The first of a partition's saved units, the oldest, to which a flit belongs. -/
def State.savedUnit (s : State) (f : Flit) : Option (Nat × Nat × Nat) :=
  s.parts.findSome? fun e => (e.2.units.find? fun u => MsgUnit.takes u f).map fun u => (e.1, u.1)
/-- Nothing at its receive register holds the flit back: it is an unbind, its die is fenced, its receiver is saved, or the register is free. -/
def State.mayLand (s : State) (f : Flit) : Bool :=
  f.data.isNone || s.pkg.fenced.contains (dieOf f.core) || (s.savedUnit f).isSome || (tget (s.core f.core).flits f.mi).isNone
/-- A flit may arrive now: what one core has sent to another arrives in the order sent (R13), so that no earlier flit of the two cores is still on its way, but for one that has reached the
core and waits there for another receive register (log 79). -/
def State.deliverable (s : State) (f : Flit) (earlier : List Flit) : Bool :=
  !(earlier.any fun e => e.core = f.core && e.fromCore = f.fromCore && (e.mi = f.mi || s.mayLand e)) && s.mayLand f
/-- Apply an arrived flit or unbind; flits bound for a fenced die are discarded (R281), and those bound for a saved message unit wait for its return (log 100). -/
def State.receiveFlit (s : State) (f : Flit) : State :=
  if s.pkg.fenced.contains (dieOf f.core) then s
  else
    match s.savedUnit f with
    | some (part, key) => s.modPart part fun p => { p with units := tmap p.units (fun u _ => u = key) fun (u : MsgUnit) => { u with late := u.late ++ [f] } }
    | none =>
      match f.data with
      | some _ => (s.modCore f.core fun c => { c with flits := tset c.flits f.mi f }).wakeReceivers f.core f.mi
      | none => (s.modCore f.core fun c => { c with producers := tset c.producers f.mi (tgetD c.producers f.mi 0 - 1) }).wakeReceivers f.core f.mi
/-- The first flit on its way from one core to another that may arrive now. -/
def State.routeFlit (s : State) (src dst : Nat) : List Flit → List Flit → Option (Flit × List Flit)
  | _, [] => none
  | before, f :: rest => if f.fromCore = src && f.core = dst && s.deliverable f before then some (f, before ++ rest) else State.routeFlit s src dst (before ++ [f]) rest
/-- Every flit of one route that has still to arrive does so before what was sent after it (R13) (log 79). -/
def State.arriveRoute (s : State) (src dst : Nat) : Nat → State
  | 0 => s
  | n + 1 =>
    match s.routeFlit src dst [] s.transit with
    | none => s
    | some (f, rest) => State.arriveRoute (State.receiveFlit { s with transit := rest } f) src dst n
/-- Before a core's access lands in another core's scratchpad. -/
def State.beforeLanding (s : State) (core : Nat) (loc : Loc) : State :=
  match loc with
  | .scratch c _ => if c = core then s else s.arriveRoute core c s.transit.length
  | .mem .. => s

-- Performing accesses (R203)

/-- The flight whose next access comes first in program order. -/
def Gang.nextAccess (g : Gang) : Option Flight := g.flights.find? fun f => !f.todo.isEmpty && !f.replaying
/-- Whether an access saw something new: a poll against the lane's record (R367), a CAS by its success. -/
def accessNews (g : Gang) (a : LaneAccess) (v : Nat) (won : Bool) : Bool :=
  match a.op with
  | .load _ _ true _ => tget g.polls a.lane ≠ some (a.va, v)
  | _ => won
def accessDemotes (a : LaneAccess) : Bool :=
  match a.op with
  | .load _ _ true _ => true
  | .cas .. => true
  | _ => false
/-- The value that an access gives its destination. -/
def accessValue (a : LaneAccess) (v : Nat) : Nat :=
  match a.op with
  | .load w sx _ _ => extendLoad w sx v
  | _ => v
/-- The register writes of one performed access. -/
def Flight.resultsOf (f : Flight) (g : Gang) (a : LaneAccess) (v : Nat) : List RegWrite :=
  f.dest.flatMap fun d =>
    match d with
    | .scal .. => if f.results.isEmpty then d.writes a.lane (accessValue a v) else []
    | _ => (if f.lanes = 0 then [a.lane] else lanesOf f.lanes g.width).flatMap fun l => d.writes l (accessValue a v)
/-- Record a performed access in its flight and, for a poll, in the lane's poll record. -/
def Gang.accessDone (g : Gang) (f : Flight) (a : LaneAccess) (rest : List LaneAccess) (v : Nat) (news : Bool) : Gang :=
  let f2 : Flight :=
    { f with
      todo := rest, results := f.results ++ f.resultsOf g a v, won := f.won || news, slot := none, returned := rest.isEmpty && f.dest.isEmpty }
  let g := { g with
    flights := g.flights.map (fun (e : Flight) => if e.id = f.id then f2 else e),
    polls := match a.op with | .load _ _ true _ => tset g.polls a.lane (a.va, v) | _ => g.polls }
  g.retire
/-- The threads for which a lane's access is made: its own, or every lane that receives an LDC's (R366). -/
def Gang.threadsOf (g : Gang) (k : GangKey) (f : Flight) (a : LaneAccess) : List ThreadKey :=
  (if f.lanes = 0 then [a.lane] else lanesOf f.lanes g.width).map (g.threadAt k)
/-- The next access of one lane is performed. -/
def State.performLane (s : State) (k : GangKey) : State :=
  let g := s.gang k
  match g.nextAccess with
  | none => s
  | some f =>
    match f.todo with
    | [] => s
    | a :: rest =>
      let (s, v, won) := (s.beforeLanding g.core a.loc).perform k g.core a (g.threadsOf k f a)
      let news := accessNews (s.gang k) a v won
      let s := s.modGang k fun g => g.accessDone f a rest v news
      if rest.isEmpty && accessDemotes a && !(f.won || news) then s.demote k ((s.gang k).issuerOf f.path (laneBit a.lane)) else s

/-- The point that performs a location's accesses: its home slice, the hashed one, another package's slice by its line, or a scratchpad (R13, R193). -/
def State.servedAt (s : State) (k : GangKey) (loc : Loc) : Nat :=
  match loc with
  | .mem pa _ _ _ => if packageOf pa = s.pkg.pkgid then (s.part (s.partOf k)).homeSlice 31 pa else 2 ^ 12 + lineOf pa
  | .scratch core _ => 2 ^ 51 + core
/-- How many lanes the next access takes with it: a RED reaches a slice as one request, whose lanes are applied there together (R391, R430) (log 17). -/
def State.requestLanes (s : State) (k : GangKey) : Nat :=
  match (s.gang k).nextAccess with
  | none => 0
  | some f =>
    match f.todo with
    | [] => 0
    | a :: _ =>
      match a.op with
      | .atom .. => if f.dest.isEmpty then (f.todo.takeWhile fun b => s.servedAt k b.loc = s.servedAt k a.loc).length else 1
      | _ => 1
/-- Some accesses of a gang, one after the other. -/
def State.performLanes (s : State) (k : GangKey) : Nat → State
  | 0 => s
  | n + 1 => State.performLanes (s.performLane k) k n
/-- ACCESS_PERFORMED: the next access of a gang is performed (log 17). -/
def State.performNext (s : State) (k : GangKey) : State := s.performLanes k (s.requestLanes k)

/-- Accesses of a gang not yet performed. -/
def Gang.accessesLeft (g : Gang) : Nat := ((g.flights.filter fun f => !f.replaying).map fun f => f.todo.length).foldl (· + ·) 0
/-- See log 16. -/
def State.performN (s : State) (k : GangKey) : Nat → State
  | 0 => s
  | n + 1 => State.performN (s.performNext k) k n
/-- Perform every access of the gang that precedes a synchronising operation in program order (R203, R205) (log 16). -/
def State.catchUp (s : State) (k : GangKey) : State := s.performN k (s.gang k).accessesLeft

end Sys2Proof.Machine
end

