-- ==== Sys2Proof/Machine/Barrier.lean ====
section
/-! DEFINITION. Class SYN but for messages: waits, barrier objects, global barriers, stage rings, power requests (spec/17_ref_n_z.md R381, R388, R389, R414, R417;
spec/15_ref_a_d.md R311 to R313; spec/16_ref_e_m.md R354, R355; spec/10_async.md R228 to R235; spec/11_scheduling.md R260, R261). -/
namespace Sys2Proof.Machine

-- WAIT (R417), TSYNC (R414)

def waitEffect (a : WaitArgs) (x : Issue) (s : State) : Act :=
  if (s.gang x.key).waitMet a.res a.thr.toNat a.mask.toNat then .done s else .hold (.wait a.res a.thr.toNat a.mask.toNat)
def execWait (g : Guard) (a : WaitArgs) (s : State) : Host.Outcome State Fault Refusal := s.issueWord (.wait g a) false (waitEffect a)
def tsyncEffect (x : Issue) (s : State) : Act := if (s.gang x.key).drained then .done s else .stall
def execTsync (g : Guard) (s : State) : Host.Outcome State Fault Refusal := s.issueWord (.tsync g) false tsyncEffect

-- Barrier objects (R311 to R313)

/-- The object's LOCAL offset, and its causes: BARRIER_ALIGN, then PROTECTION. -/
def Issue.barrierAt (x : Issue) (b : Nat) : Except Trap (Nat × Nat) :=
  if b % 16 ≠ 0 then .error (.of 0x39)
  else if !x.team.holds x.launch b then .error (.of 0x11)
  else .ok (x.team.core, b)
def Issue.barrierOf (x : Issue) (s : State) (s1 : Operand) (off : BitVec 16) : Except Trap (Nat × Nat) :=
  x.barrierAt (x.once s s1 1 % 2 ^ 32 + off.toNat)
/-- One atomic access of the object: every earlier access of the gang is performed, and what precedes the object's last change is observed. -/
def State.syncPoint (s : State) (k : GangKey) : State := (s.catchUp k).observe k
/-- A SYN result given to every active lane, or to a scalar. -/
def State.giveAll (s : State) (x : Issue) (la : BitVec 4) (d : Operand) (v : Nat) : State :=
  let d := x.gang.dest d 1
  s.addResult x (some .sp) la [d] (d.laneWrites x.lanes fun _ => v) false

/-- BINIT's write (R229, R230). Word 3, which R228 calls reserved and written 0 and R229 does not list, keeps what stands there: that is the model's choice (log 125). -/
def State.initBarrier (s : State) (core off n : Nat) : State :=
  (((s.setObjWord core off 0 (barWord false n n)).setObjWord core off 1 0).setObjWord core off 2 0) |> fun s => if n = 0 then s.flipIfDone core off else s
def binitEffect (a : BarPhArgs) (x : Issue) (s : State) : Act :=
  let n := x.once s a.s2 1 % 2 ^ 32
  if n > 32767 then .trap ⟨0x04, x.path.pos - 1, none, 0, false⟩
  else
    match x.barrierOf s a.s1 a.off with
    | .error t => .trap t
    | .ok (core, off) =>
      let s := s.syncPoint x.key
      if s.barrierBusy core off then .trap (.of 0x38) else .done ((s.initBarrier core off n).observe x.key)
def execBinit (g : Guard) (a : BarPhArgs) (s : State) : Host.Outcome State Fault Refusal := s.issueWord (.binit g a) false (binitEffect a)

def binvalEffect (a : BarArgs) (x : Issue) (s : State) : Act :=
  match x.barrierOf s a.s1 a.off with
  | .error t => .trap t
  | .ok (core, off) =>
    let s := s.syncPoint x.key
    if s.barrierBusy core off then .trap (.of 0x38) else .done ((s.setObjWord core off 0 invalidWord).observe x.key)
def execBinval (g : Guard) (a : BarArgs) (s : State) : Host.Outcome State Fault Refusal := s.issueWord (.binval g a) false (binvalEffect a)

def barriveEffect (a : BarDstArgs) (x : Issue) (s : State) : Act :=
  match x.barrierOf s a.s1 a.off with
  | .error t => .trap t
  | .ok (core, off) =>
    let s := s.syncPoint x.key
    let w := s.objWord core off 0
    if w = invalidWord then .trap (.of 0x38)
    else .done ((((s.arrive core off).observe x.key).progress x.key).giveAll x a.la a.d (if barPhase w then 1 else 0))
def execBarrive (g : Guard) (a : BarDstArgs) (s : State) : Host.Outcome State Fault Refusal := s.issueWord (.barrive g a) false (barriveEffect a)

/-- The phase operand: bit 0 (R311). -/
def Issue.phase (x : Issue) (s : State) (o : Operand) : Bool := x.once s o 1 % 2 = 1
def bwaitEffect (a : BarPhArgs) (x : Issue) (s : State) : Act :=
  match x.barrierOf s a.s1 a.off with
  | .error t => .trap t
  | .ok (core, off) =>
    let s := s.catchUp x.key
    let w := s.objWord core off 0
    if w = invalidWord then .trap (.of 0x38)
    else if barPhase w ≠ x.phase s a.s2 then .done (s.observe x.key)
    else .park (.barrier core off (x.phase s a.s2))
def execBwait (g : Guard) (a : BarPhArgs) (s : State) : Host.Outcome State Fault Refusal := s.issueWord (.bwait g a) false (bwaitEffect a)

def btryEffect (a : BtryArgs) (x : Issue) (s : State) : Act :=
  match x.barrierOf s a.s1 a.off with
  | .error t => .trap t
  | .ok (core, off) =>
    let s := s.catchUp x.key
    let w := s.objWord core off 0
    if w = invalidWord then .trap (.of 0x38)
    else .done ((s.observe x.key).giveAll x a.la a.d (if barPhase w ≠ x.phase s a.s2 then 1 else 0))
def execBtry (g : Guard) (a : BtryArgs) (s : State) : Host.Outcome State Fault Refusal := s.issueWord (.btry g a) false (btryEffect a)

/-- BSTAT returns word 2, an invalid object's too; with CLR it clears it in the same access. -/
def bstatWith (clr : Bool) (a : BarDstArgs) (x : Issue) (s : State) : Act :=
  match x.barrierOf s a.s1 a.off with
  | .error t => .trap t
  | .ok (core, off) =>
    let s := s.syncPoint x.key
    let v := s.objWord core off 2
    .done ((if clr then (s.setObjWord core off 2 0).observe x.key else s).giveAll x a.la a.d v)
def bstatEffect (a : BarDstArgs) : Issue → State → Act := bstatWith false a
def execBstat (g : Guard) (a : BarDstArgs) (s : State) : Host.Outcome State Fault Refusal := s.issueWord (.bstat g a) false (bstatEffect a)
def bstatClrEffect (a : BarDstArgs) : Issue → State → Act := bstatWith true a
def execBstatClr (g : Guard) (a : BarDstArgs) (s : State) : Host.Outcome State Fault Refusal := s.issueWord (.bstatClr g a) false (bstatClrEffect a)

-- Global barriers (R232, R354, R355)

/-- The barrier's number, when the context owns it and it has an expected count. -/
def Issue.gbarOf (x : Issue) (s : State) (s1 : Operand) (imm : BitVec 12) : Option Nat :=
  let n := (x.once s s1 1 + imm.toNat) % 2 ^ 32
  let b := s.gbar x.team.ctx.part n
  if n > 4095 || b.owner ≠ x.team.ctx.ctx || b.expect = 0 then none else some n
/-- One arrival at a global barrier. -/
def State.gbarArrive (s : State) (part n : Nat) : State :=
  let b := s.gbar part n
  let put (b : GBar) : State := s.modPart part fun p => { p with gbars := tset p.gbars n b }
  if b.pending ≤ 1 then (put { b with ph := !b.ph, pending := b.expect }).wakeGbar part n (!b.ph)
  else put { b with pending := b.pending - 1 }
def gbarriveEffect (a : GbarriveArgs) (x : Issue) (s : State) : Act :=
  match x.gbarOf s a.s1 a.imm with
  | none => .trap (.of 0x11)
  | some n =>
    let part := x.team.ctx.part
    let s := s.syncPoint x.key
    .done (((s.gbarArrive part n).progress x.key).giveAll x a.la a.d (if (s.gbar part n).ph then 1 else 0))
def execGbarrive (g : Guard) (a : GbarriveArgs) (s : State) : Host.Outcome State Fault Refusal := s.issueWord (.gbarrive g a) false (gbarriveEffect a)
def gbwaitEffect (a : GbwaitArgs) (x : Issue) (s : State) : Act :=
  match x.gbarOf s a.s1 a.imm with
  | none => .trap (.of 0x11)
  | some n =>
    if (s.gbar x.team.ctx.part n).ph ≠ x.phase s a.s2 then .done (s.syncPoint x.key) else .park (.gbar n (x.phase s a.s2))
def execGbwait (g : Guard) (a : GbwaitArgs) (s : State) : Host.Outcome State Fault Refusal := s.issueWord (.gbwait g a) false (gbwaitEffect a)

-- Stage rings (R233 to R235, R388, R389)

/-- A ring's block, none where RING_STATE is raised for the ring itself (log 80). -/
def Issue.ringAt (x : Issue) (s : State) (r : BitVec 2) : Option (Nat × Nat) :=
  let off := x.team.scratchBase + x.launch.ringOff r.toNat
  if r.toNat ≥ x.launch.rings.length || s.ringBad x.team.core off then none else some (x.team.core, off)
/-- Paths parked on a ring whose stage is ready issue again. -/
def State.wakeRing (s : State) (core off : Nat) : State :=
  let w0 := s.objWord core off 0
  let w1 := s.objWord core off 1
  s.retry fun _ on =>
    match on with
    | .ringAcquire c o => c = core && o = off && ringStage w1 (bitsAt w0 6 3) = 0
    | .ringWait c o => c = core && o = off && ringStage w1 (bitsAt w0 3 3) = 2
    | _ => false
/-- Write a ring block's two words. -/
def State.setRing (s : State) (core off pidx cidx dm1 w1 : Nat) : State :=
  ((s.setObjWord core off 0 (ringWord pidx cidx dm1)).setObjWord core off 1 w1).wakeRing core off

def racqEffect (a : RingDstArgs) (x : Issue) (s : State) : Act :=
  let s := s.syncPoint x.key
  match x.ringAt s a.ring with
  | none => .trap (.of 0x3B)
  | some (core, off) =>
    let w0 := s.objWord core off 0
    let w1 := s.objWord core off 1
    let p := bitsAt w0 6 3
    if ringStage w1 p ≠ 0 then .park (.ringAcquire core off)
    else .done ((s.setRing core off ((p + 1) % (w0 % 8 + 1)) (bitsAt w0 3 3) (w0 % 8) (setRingStage w1 p 1)).observe x.key |>.giveAll x a.la a.d p)
def execRacq (g : Guard) (a : RingDstArgs) (s : State) : Host.Outcome State Fault Refusal := s.issueWord (.racq g a) false (racqEffect a)
def rwaitEffect (a : RingDstArgs) (x : Issue) (s : State) : Act :=
  let s := s.syncPoint x.key
  match x.ringAt s a.ring with
  | none => .trap (.of 0x3B)
  | some (core, off) =>
    let w0 := s.objWord core off 0
    let w1 := s.objWord core off 1
    let c := bitsAt w0 3 3
    if ringStage w1 c ≠ 2 then .park (.ringWait core off)
    else .done ((s.setRing core off (bitsAt w0 6 3) ((c + 1) % (w0 % 8 + 1)) (w0 % 8) (setRingStage w1 c 3)).observe x.key |>.giveAll x a.la a.d c)
def execRwait (g : Guard) (a : RingDstArgs) (s : State) : Host.Outcome State Fault Refusal := s.issueWord (.rwait g a) false (rwaitEffect a)

/-- RCOMMIT and RFREE: the named stage passes from one state to another. -/
def ringPass (a : RingStageArgs) (old new : Nat) (x : Issue) (s : State) : Act :=
  let s := s.syncPoint x.key
  match x.ringAt s a.ring with
  | none => .trap (.of 0x3B)
  | some (core, off) =>
    let w0 := s.objWord core off 0
    let w1 := s.objWord core off 1
    let st := x.once s a.s1 1
    if st ≥ w0 % 8 + 1 || ringStage w1 st ≠ old then .trap (.of 0x3B)
    else .done (s.setRing core off (bitsAt w0 6 3) (bitsAt w0 3 3) (w0 % 8) (setRingStage w1 st new) |>.observe x.key)
def rcommitEffect (a : RingStageArgs) : Issue → State → Act := ringPass a 1 2
def execRcommit (g : Guard) (a : RingStageArgs) (s : State) : Host.Outcome State Fault Refusal := s.issueWord (.rcommit g a) false (rcommitEffect a)
def rfreeEffect (a : RingStageArgs) : Issue → State → Act := ringPass a 3 0
def execRfree (g : Guard) (a : RingStageArgs) (s : State) : Host.Outcome State Fault Refusal := s.issueWord (.rfree g a) false (rfreeEffect a)

-- Power requests (R260, R381)

/-- See log 92. -/
def pwrreqEffect (a : PwrreqArgs) (x : Issue) (s : State) : Act :=
  let n := x.once s a.s1 1
  if n = 0 || n > 65535 || 2 * (s.reserved (clusterOf x.gang.core) + n) > Config.ilim s.pkg.firmware then .done (s.giveAll x a.la a.d 0)
  else .done ((s.modGang x.key fun g => { g with reservation := g.reservation + n }).giveAll x a.la a.d n)
def execPwrreq (g : Guard) (a : PwrreqArgs) (s : State) : Host.Outcome State Fault Refusal := s.issueWord (.pwrreq g a) false (pwrreqEffect a)
def pwrrelEffect (la : BitVec 4) (d : Operand) (x : Issue) (s : State) : Act :=
  .done ((s.modGang x.key fun g => { g with reservation := 0, resLeft := 0 }).giveAll x la d x.gang.reservation)
def execPwrrel (g : Guard) (la : BitVec 4) (d : Operand) (s : State) : Host.Outcome State Fault Refusal := s.issueWord (.pwrrel g la d) false (pwrrelEffect la d)
def perflvlEffect (s1 : Operand) (x : Issue) (s : State) : Act :=
  let n := x.once s s1 1
  .done (s.modTeam x.key.team fun t => { t with level := if n > 7 then 7 else n })
def execPerflvl (g : Guard) (s1 : Operand) (s : State) : Host.Outcome State Fault Refusal := s.issueWord (.perflvl g s1) false (perflvlEffect s1)

end Sys2Proof.Machine
end

