-- ==== Sys2Proof/Machine/Copy.lean ====
section
/-! DEFINITION. Class CPY: copies and their jobs (spec/10_async.md R214, R218 to R227; spec/15_ref_a_d.md R329 to R332; spec/17_ref_n_z.md R406 to R410; spec/08_memory.md R181 to
R183). -/
namespace Sys2Proof.Machine

-- Formats of a copy (R144, R219)

def SrcF.code : SrcF → Nat
  | .raw => 0 | .fp32 => 1 | .fp16 => 2 | .bf16 => 3 | .e4m3 => 4 | .e5m2 => 5 | .dbf8 => 8 | .dbf6 => 9 | .dbf4 => 10 | .int8 => 0x10
/-- Bits of one element of a format code, none of the DBF formats. -/
def fmtBits (f : Nat) : Nat := if f = 1 then 32 else if f = 2 || f = 3 then 16 else if f = 0x11 then 4 else 8
/-- Byte offset of column j in a row: format code f, or 0 for a raw copy of 2^esz-byte elements. -/
def copyOff (f esz j : Nat) : Nat := if f = 0 then j * 2 ^ esz else if fmtDbf f then j / 32 * (slotDbf f).blockBytes else j * fmtBits f / 8
/-- The alignment that R222 asks of a side. -/
def copyAlign (f esz : Nat) : Nat := if f = 0 then 2 ^ esz else if fmtDbf f then 1 else max 1 (fmtBits f / 8)

/-- The sides' formats: source and destination codes, 0 for a raw copy. -/
structure CopyFmt where
  src : Nat
  dst : Nat
  slot : Slot
  deriving DecidableEq, Repr
def copyFmt (srcf : SrcF) (slot : Slot) : CopyFmt := ⟨SrcF.code srcf, if srcf = .raw then 0 else slot.fmt, slot⟩
/-- Elements that move together: a DBF block, the two halves of an INT4 byte, or one. -/
def CopyFmt.unit (f : CopyFmt) : Nat := if fmtDbf f.src || fmtDbf f.dst then 32 else if f.dst = 0x11 then 2 else 1

-- The descriptor (R218, R222)

def wordOf (w : List Nat) (i : Nat) : Nat := w.getD i 0
def parseDesc (w : List Nat) : Desc :=
  ⟨wordOf w 0 + 2 ^ 32 * wordOf w 1, wordOf w 2 + 2 ^ 32 * wordOf w 3, wordOf w 4 / 65536, wordOf w 4 % 65536, wordOf w 5, wordOf w 6,
    bitsAt (wordOf w 7) 19 13, bitsAt (wordOf w 7) 6 13, bitsAt (wordOf w 7) 3 3, (wordOf w 7).testBit 2, (wordOf w 7).testBit 1⟩
def space32 : Space → Bool | .local | .accum | .tile => true | _ => false
/-- R222's ILLEGAL_FIELD conditions, with R219's. -/
def descOk (dsp ssp : Space) (f : CopyFmt) (w : List Nat) : Bool :=
  let d := parseDesc w
  d.esz ≤ 4 && wordOf w 7 % 2 = 0 && d.rows ≤ 4096 && d.cols ≤ 4096 && spacePairOk dsp ssp
  && !(space32 ssp && wordOf w 1 ≠ 0) && !(space32 dsp && wordOf w 3 ≠ 0)
  && (f.src = 0 || (d.esz = 0 && fmtCopyDst f.dst))
  && !((fmtDbf f.src || fmtDbf f.dst) && (d.cols % 32 ≠ 0 || d.tr)) && !(f.dst = 0x11 && (d.cols % 2 ≠ 0 || d.tr))
def descAligned (f : CopyFmt) (d : Desc) : Bool :=
  d.src % copyAlign f.src d.esz = 0 && d.sstr % copyAlign f.src d.esz = 0 && d.dst % copyAlign f.dst d.esz = 0 && d.dstr % copyAlign f.dst d.esz = 0
/-- The destination byte count (R221). -/
def destBytes (f : CopyFmt) (d : Desc) : Nat := d.rows * copyOff f.dst d.esz d.cols

-- Units

def Desc.valid (d : Desc) (i j : Nat) : Bool := i < min d.vrows d.rows && j < min d.vcols d.cols
/-- Row and first column of unit n. -/
def unitPos (f : CopyFmt) (d : Desc) (n : Nat) : Nat × Nat := let w := d.cols / f.unit; (n / w, n % w * f.unit)
def unitCount (f : CopyFmt) (d : Desc) : Nat := d.rows * (d.cols / f.unit)
/-- Only the TILE side of a split job is divided (R409). -/
def tileParts (sp : Space) (parts : Nat) : Nat := if sp = .tile then parts else 0
/-- The TILE side of a split job: row i's part and its row within the part (R409). -/
def splitRow (d : Desc) (parts i : Nat) : Nat × Nat := if parts = 0 then (0, i) else let h := d.rows / parts; (if h = 0 then 0 else i / h, if h = 0 then i else i % h)
/-- Source address of element (i, j). -/
def srcAddr (f : CopyFmt) (d : Desc) (parts i j : Nat) : Nat :=
  let (p, r) := splitRow d parts i
  d.src + p * 2 ^ 16 + r * d.sstr + copyOff f.src d.esz j
/-- Destination address of element (i, j). -/
def dstAddr (f : CopyFmt) (d : Desc) (parts i j : Nat) : Nat :=
  let (p, r) := splitRow d parts i
  if d.tr then d.dst + j * d.dstr + i * copyOff f.dst d.esz 1 else d.dst + p * 2 ^ 16 + r * d.dstr + copyOff f.dst d.esz j
/-- The source byte ranges of a unit (R220). -/
def unitReads (f : CopyFmt) (d : Desc) (parts n : Nat) : List (Nat × Nat) :=
  let (i, j) := unitPos f d n
  let vs := (List.range f.unit).filter fun t => d.valid i (j + t)
  if vs.isEmpty then []
  else if fmtDbf f.src then [(srcAddr f d parts i j, copyOff f.src d.esz 32)]
  else vs.map fun t => (srcAddr f d parts i (j + t), copyOff f.src d.esz 1)
/-- Columns of a unit that are written (R220). -/
def unitTouched (f : CopyFmt) (d : Desc) (n : Nat) : List Nat :=
  let (i, j) := unitPos f d n
  let ts := List.range f.unit
  if d.zf || (fmtDbf f.dst && ts.any fun t => d.valid i (j + t)) then ts else ts.filter fun t => d.valid i (j + t)
/-- Destination bytes of a unit, and those of them that are written. -/
def unitBytes (f : CopyFmt) (d : Desc) : Nat := copyOff f.dst d.esz f.unit
def unitWritten (f : CopyFmt) (d : Desc) (n : Nat) : Nat :=
  let ts := unitTouched f d n
  if ts.isEmpty then 0 else if fmtDbf f.dst then unitBytes f d else if f.dst = 0x11 then (ts.length + 1) / 2 else ts.length * copyOff f.dst d.esz 1
/-- Destination bytes that no unit writes (R221). -/
def unchangedBytes (f : CopyFmt) (d : Desc) : Nat :=
  destBytes f d - ((List.range (unitCount f d)).map (unitWritten f d)).foldl (· + ·) 0

-- Places of a byte

/-- Where a byte of a copy stands: memory or a scratchpad, a team's tiles or accumulators, or storage that its team has released (R344). -/
inductive Place where
  | loc (l : Loc)
  | tile (team addr : Nat)
  | acc (team addr : Nat)
  | gone (addr : Nat)
  deriving DecidableEq, Repr

/-- A PEER address within the allocation that the job's team has released (R344). -/
def Job.releasedPeer (j : Job) (v : Nat) : Bool :=
  match j.released with
  | some (core, base, size) => bitsAt v 19 13 = 0 && bitsAt v 43 21 = 0 && bitsAt v 32 11 = core && base ≤ v % 2 ^ 19 && v % 2 ^ 19 < base + size
  | none => false
/-- The byte that a PEER address names, while R182 still allows it; in its own team's released allocation a job finds nothing and leaves nothing (R344). -/
def State.peerPlaces (s : State) (j : Job) (addr : Nat) : Nat → Except (Nat × MFault) (List Place)
  | 0 => .ok []
  | n + 1 =>
    let here : Except MFault Place := if j.releasedPeer addr then .ok (.gone addr) else match s.peerLoc j.ctx addr with | .ok l => .ok (.loc l) | .error e => .error e
    match here, s.peerPlaces j (addr + 1) n with
    | .error e, _ => .error (addr, e)
    | .ok _, .error e => .error e
    | .ok p, .ok ps => .ok (p :: ps)
/-- The places of n bytes of one side of a job (R181, R182, R224). -/
def State.places (s : State) (j : Job) (sp : Space) (kind : AccessKind) (addr n : Nat) : Except (Nat × MFault) (List Place) :=
  match sp with
  | .global | .host =>
    match s.locs j.ctx j.core kind (some (sp = .host)) addr n with
    | .error e => .error e
    | .ok ls => .ok (ls.map .loc)
  | .peer => s.peerPlaces j addr n
  | .local => .ok ((List.range n).map fun i => match j.team with | some _ => .loc (.scratch j.home (addr + i)) | none => .gone (addr + i))
  | .tile => .ok ((List.range n).map fun i => match j.team with | some t => .tile t (addr + i) | none => .gone (addr + i))
  | .accum => .ok ((List.range n).map fun i => match j.team with | some t => .acc t (addr + i) | none => .gone (addr + i))
def State.placeByte (s : State) (p : Place) : Byte :=
  match p with
  | .loc l => s.locByte l
  | .tile t a => (s.team t).tiles.read a
  | .acc t a => (s.team t).accs.read a
  | .gone a => Config.releasedByte s.freeNext a

/-- A tile of a bench is written: tables built from it are STALE, and a TBUILD that reads it is touched (R169, R170). -/
def State.tileWritten (s : State) (team span t : Nat) : State :=
  let s := s.modTeam team fun x =>
    { x with records := x.records.map fun e => if e.1.1 = span && e.2.st ≠ .empty && e.2.src = t then (e.1, { e.2 with st := .stale }) else e }
  { s with cores := s.cores.map fun e =>
      match e.2.engine.running with
      | some o =>
        match o.kind with
        | .tbuild _ ta _ _ _ =>
          if o.gang.team = team && ta = t then (e.1, { e.2 with engine := { e.2.engine with running := some { o with touched := span :: o.touched } } }) else e
        | _ => e
      | none => e }
/-- A byte of a tile or an accumulator, as it stands before a copy's landing, kept for the team's running operation (R170, R177). -/
def State.keepOld (s : State) (team : Nat) (acc : Bool) (addr : Nat) (b : Byte) : State :=
  { s with cores := s.cores.map fun e =>
      match e.2.engine.running with
      | some o => if o.gang.team = team then (e.1, { e.2 with engine := { e.2.engine with running := some { o with olds := o.olds ++ [(acc, addr, b)] } } }) else e
      | none => e }
/-- A byte lands in a bench; storage that the team has released takes none (R344). -/
def State.landByte (s : State) (p : Place) (b : Byte) : State :=
  match p with
  | .tile t a => (((s.keepOld t false a ((s.team t).tiles.read a)).modTeam t fun x => { x with tiles := x.tiles.write a b })).tileWritten t (a / 2 ^ 16) (bitsAt a 13 3)
  | .acc t a => (s.keepOld t true a ((s.team t).accs.read a)).modTeam t fun x => { x with accs := x.accs.write a b }
  | _ => s
def Place.loc? : Place → Option Loc | .loc l => some l | _ => none
/-- A job's bytes land: in memory and scratchpads as a store of the job, in benches byte by byte. -/
def State.setPlaces (s : State) (part : Nat) (ps : List Place) (bs : List Byte) : State :=
  let mem := (ps.zip bs).filterMap fun e => e.1.loc?.map fun l => (l, e.2)
  let s := if mem.isEmpty then s else s.agentStore part (mem.map Prod.fst) (mem.map Prod.snd)
  (ps.zip bs).foldl (fun s e => s.landByte e.1 e.2) s

-- Issue of a copy (R222, R223, R330, R408, R409)

/-- One byte of a side in a bench or scratchpad space lies where R182 allows. -/
def State.byteAllowed (s : State) (x : Issue) (sp : Space) (a : Nat) : Bool :=
  match sp with
  | .local => x.team.holds x.launch a
  | .peer => match s.peerLoc x.team.ctx a with | .ok _ => true | .error e => e.cause ≠ 0x11
  | .tile => a < 2 ^ 19 && a / 2 ^ 16 < x.team.spanSize && bitsAt a 13 3 < x.launch.tiles
  | .accum => a < 2 ^ 17 && a / 2 ^ 14 < x.team.spanSize && bitsAt a 12 2 < x.launch.accs
  | _ => true
def State.rangesAllowed (s : State) (x : Issue) (sp : Space) (rs : List (Nat × Nat)) : Bool :=
  rs.all fun r => (List.range r.2).all fun i => s.byteAllowed x sp (r.1 + i)
/-- Source and destination ranges of every unit (log 88). -/
def allReads (f : CopyFmt) (d : Desc) (parts : Nat) : List (Nat × Nat) := (List.range (unitCount f d)).flatMap (unitReads f d parts)
/-- See log 88. -/
def allWrites (f : CopyFmt) (d : Desc) (parts : Nat) : List (Nat × Nat) :=
  (List.range (unitCount f d)).map fun n => let (i, j) := unitPos f d n; (dstAddr f d parts i j, unitBytes f d)
/-- A split part's tile extent ends within 8 KiB (R409). -/
def splitFits (f : CopyFmt) (d : Desc) (parts : Nat) (load : Bool) : Bool :=
  let h := d.rows / parts
  let addr := if load then d.dst else d.src
  let stride := if load then d.dstr else d.sstr
  let w := if load then copyOff f.dst d.esz d.cols else copyOff f.src d.esz d.cols
  h = 0 || w = 0 || addr % 2 ^ 13 + (h - 1) * stride + w ≤ 2 ^ 13

/-- The engine of a job (R223): copy engine 2 x region + e, or the local transfer unit of a core. -/
def jobEngine (dsp ssp : Space) (gang : Gang) (team : Team) : Nat :=
  if dsp = .global || dsp = .host || ssp = .global || ssp = .host then 2 * dieOf gang.core + gang.core % 64 / 32 else 2 ^ 16 + team.core
/-- The unit that takes requests to the foreman (R331, R410). -/
def foremanEngine : Nat := 2 ^ 17

/-- A new job of the issuing gang. -/
def Issue.job (x : Issue) (kind : JobKind) (d : Desc) (engine : Nat) (bar : Option (Nat × Nat)) (task : Option Nat) (left flight pt : Nat) : Job :=
  ⟨kind, d, some x.key, some x.key.team, x.team.ctx, some x.gang.core, engine, bar, task, none, flight, x.team.core, some flight, false, 0, [], left, 0,
    [], none, false, false, pt, [], none⟩
/-- Hand a job to its engine: CP rises until its acceptance (R120) (log 91). -/
def State.submit (s : State) (x : Issue) (kind : JobKind) (d : Desc) (engine : Nat) (bar : Option (Nat × Nat)) (task : Option Nat) (left : Nat) : State :=
  let s := s.catchUp x.key
  let s := match bar with | some (core, off) => s.addBytes core off left | none => s
  let id := s.seq
  let s := s.addFlight x.key (x.flight id (some .cp) 0 [])
  s.setJob id (x.job kind d engine bar task left id (s.part x.team.ctx.part).horizon)
/-- A barrier has no room for the bytes: the instruction stalls (R221). -/
def State.bytesFull (s : State) (bar : Option (Nat × Nat)) (n : Nat) : Bool :=
  match bar with
  | some (core, off) => s.objWord core off 0 ≠ invalidWord && s.objWord core off 1 + n > 2 ^ 32 - 1
  | none => false

/-- The eight descriptor registers. -/
def Issue.descWords (x : Issue) (ds : Operand) : List Nat :=
  match ds with
  | .s r => (List.range 8).map fun i => (x.gang.readS (r.toNat + i)).toNat
  | _ => []
/-- ILLEGAL_FIELD met in a descriptor. -/
def Issue.fieldTrap (x : Issue) : Act := .trap ⟨0x02, x.path.pos - 1, none, 0, false⟩

/-- CPY, TLOAD and TSTORE share one issue; parts is 0 without a split. -/
def copyIssue (kind : JobKind) (dsp ssp : Space) (f : CopyFmt) (parts : Nat) (ds : Operand) (bs tk : Option Operand) (x : Issue) (s : State) : Act :=
  let w := x.descWords ds
  let d := parseDesc w
  let load := dsp = .tile
  if !descOk dsp ssp f w || (parts ≠ 0 && (d.rows % parts ≠ 0 || d.tr || bitsAt (if load then d.dst else d.src) 16 3 ≠ 0)) then x.fieldTrap
  else
    match x.jobNames s bs tk with
    | .error t => .trap t
    | .ok (bar, task) =>
      if !descAligned f d then .trap (.of 0x14)
      else if (parts ≠ 0 && !splitFits f d parts load) || !s.rangesAllowed x ssp (allReads f d (tileParts ssp parts)) || !s.rangesAllowed x dsp (allWrites f d (tileParts dsp parts)) then .trap (.of 0x11)
      else
        let n := destBytes f d
        if s.bytesFull bar n then .stall else .done (s.submit x kind d (jobEngine dsp ssp x.gang x.team) bar task n)

/-- The slot that a converting copy names. -/
def Issue.fmtOf (x : Issue) (srcf : SrcF) (fs : BitVec 3) : CopyFmt := copyFmt srcf (x.launch.slot fs.toNat)
def cpyEffect (a : CpyArgs) (x : Issue) : State → Act :=
  let f := x.fmtOf a.srcf a.fs
  copyIssue (.copy a.dsp a.ssp a.srcf f.slot) a.dsp a.ssp f 0 a.ds a.bs a.tk x
def execCpy (g : Guard) (a : CpyArgs) (s : State) : Host.Outcome State Fault Refusal := s.issueWord (.cpy g a) false (cpyEffect a)
def splitParts (sp : Split) (t : Team) : Nat := match sp with | .one => 0 | .q4 => 4 | .span => t.spanSize
def tloadEffect (a : TileCpyArgs) (x : Issue) : State → Act :=
  let f := x.fmtOf a.srcf a.fs
  let parts := splitParts a.split x.team
  copyIssue (.tiles true a.sp a.srcf f.slot parts) .tile a.sp f parts a.ds a.bs a.tk x
def execTload (g : Guard) (a : TileCpyArgs) (s : State) : Host.Outcome State Fault Refusal := s.issueWord (.tload g a) false (tloadEffect a)
def tstoreEffect (a : TileCpyArgs) (x : Issue) : State → Act :=
  let f := x.fmtOf a.srcf a.fs
  let parts := splitParts a.split x.team
  copyIssue (.tiles false a.sp a.srcf f.slot parts) a.sp .tile f parts a.ds a.bs a.tk x
def execTstore (g : Guard) (a : TileCpyArgs) (s : State) : Host.Outcome State Fault Refusal := s.issueWord (.tstore g a) false (tstoreEffect a)

-- TDESC (R227, R406, R407)

/-- The conditions on a handle descriptor (log 84). -/
def handleOk (sp : Space) (w : List Nat) : Bool :=
  let d := parseDesc w
  d.esz = 0 && !d.tr && d.rows % 4 = 0 && wordOf w 7 % 2 = 0 && d.rows ≤ 4096 && d.cols ≤ 4096 && !(space32 sp && wordOf w 1 ≠ 0)
def tdescEffect (a : TdescArgs) (x : Issue) (s : State) : Act :=
  let w := x.descWords a.ds
  if !handleOk a.ssp w then x.fieldTrap
  else
    let gen := match tget x.team.handles a.slot.toNat with | some h => (h.gen + 1) % 2 ^ 32 | none => 1
    let s := s.modTeam x.key.team fun t => { t with handles := tset t.handles a.slot.toNat ⟨gen, a.ssp, parseDesc w⟩ }
    let d := x.gang.dest a.hd 2
    .done (s.addResult x (some .cp) a.la [d] (d.writes x.low (a.slot.toNat + 2 ^ 32 * gen)) false)
def execTdesc (g : Guard) (a : TdescArgs) (s : State) : Host.Outcome State Fault Refusal := s.issueWord (.tdesc g a) false (tdescEffect a)

-- CPYQ (R332)

/-- The first eight words of a record as the foreman holds them: its copy with status, counter and progress in place. -/
def Task.image (t : Task) : List Byte :=
  ((t.raw.take 1) ++ bytesOfNat 1 t.status.code ++ ((t.raw.drop 2).take 2) ++ bytesOfNat 4 t.counter ++ ((t.raw.drop 8).take 20) ++ bytesOfNat 4 t.progress).take 32
/-- The record that CPYQ reads: the foreman's copy, else memory through the context's tables (R332). -/
def State.queryTask (s : State) (c : CtxKey) (i : Nat) : Except (Nat × MFault) (List Byte) :=
  match tget s.tasks (c, i) with
  | some t => .ok t.image
  | none => if s.taskForeign c i then .error (s.taskVa c i, ⟨0x16, none⟩) else s.foremanRead c (s.taskVa c i) 32
/-- What that read leaves. -/
def State.askQuery (s : State) (c : CtxKey) (i : Nat) : State := if (tget s.tasks (c, i)).isSome then s else s.foremanAsk c (s.taskVa c i) 32
/-- CPYQ's restartable fault: the record's address, at the lowest active lane (log 70). -/
def cpyqFault (x : Issue) (e : Nat × MFault) (va : Nat) (task : Nat) (d : Dest) : MTrap :=
  ⟨e.2.cause, laneBit x.low, va, [(x.low, va)], [(x.low, task)], e.2.missing, .load, some .cp, [d], [(x.low, va)]⟩
def cpyqEffect (a : CpyqArgs) (x : Issue) (s : State) : Act :=
  let i := x.once s a.tk 1
  let d := x.gang.dest a.ds 8
  if i ≥ 65536 then .trap (.of 0x11)
  else
    let s := s.catchUp x.key
    match s.queryTask x.team.ctx i with
    | .error e => .mfault (cpyqFault x e (s.taskVa x.team.ctx i) i d)
    | .ok bs => .done ((s.askQuery x.team.ctx i).addResult x (some .cp) a.la [d] (d.writes x.low (natOfBytes bs)) false)
def execCpyq (g : Guard) (a : CpyqArgs) (s : State) : Host.Outcome State Fault Refusal := s.issueWord (.cpyq g a) false (cpyqEffect a)

-- CPYCAN (R331), TPOST and TSIG (R410)

def Desc.none : Desc := ⟨0, 0, 0, 0, 0, 0, 0, 0, 0, false, false⟩
/-- A request to the foreman, which stands in the gang's issue order until it is received (log 70). -/
def requestEffect (tk : Operand) (kind : Nat → JobKind) (x : Issue) (s : State) : Act :=
  let i := x.once s tk 1
  if i ≥ 65536 then .trap (.of 0x11) else .done (s.submit x (kind i) .none foremanEngine none none 0)
def cpycanEffect (tk : Operand) : Issue → State → Act := requestEffect tk .cancel
def execCpycan (g : Guard) (tk : Operand) (s : State) : Host.Outcome State Fault Refusal := s.issueWord (.cpycan g tk) false (cpycanEffect tk)
def tpostEffect (tk : Operand) : Issue → State → Act := requestEffect tk .post
def execTpost (g : Guard) (tk : Operand) (s : State) : Host.Outcome State Fault Refusal := s.issueWord (.tpost g tk) false (tpostEffect tk)
def tsigEffect (tk : Operand) : Issue → State → Act := requestEffect tk .signal
def execTsig (g : Guard) (tk : Operand) (s : State) : Host.Outcome State Fault Refusal := s.issueWord (.tsig g tk) false (tsigEffect tk)

end Sys2Proof.Machine
end

