-- ==== Sys2Proof/Machine/Collective.lean ====
section
/-! DEFINITION. Collectives (spec/10_async.md R247, R248; spec/15_ref_a_d.md R327): COLL, the reduction tree and its packets. -/
namespace Sys2Proof.Machine

/-- A collective's parameters (R247): element count, operation, type, the group table's address, its place among the COLLs on the table (JobKind). -/
structure Coll where
  count : Nat
  op : Nat
  ty : Nat
  table : Nat
  place : Option (Nat × Nat)
  deriving DecidableEq, Repr
/-- The group as packets name it, and the COLL's number on it (log 90). -/
def Coll.group (c : Coll) : Nat := (c.place.map Prod.fst).getD 0
def Coll.seq (c : Coll) : Nat := (c.place.map Prod.snd).getD 0

def collSize (ty : Nat) : Nat := if ty = 1 then 2 else 4
/-- R247's ILLEGAL_FIELD conditions on the descriptor words. -/
def collFieldsOk (w : List Nat) : Bool :=
  1 ≤ wordOf w 4 && wordOf w 4 ≤ 2 ^ 28 && wordOf w 7 % 16 ≤ 4 && bitsAt (wordOf w 7) 4 4 ≤ 3 && wordOf w 7 < 256
def parseColl (w : List Nat) : Coll := ⟨wordOf w 4, wordOf w 7 % 16, bitsAt (wordOf w 7) 4 4, wordOf w 5 + 2 ^ 32 * wordOf w 6, none⟩
/-- The copy descriptor that holds a collective's addresses. -/
def collDesc (w : List Nat) : Desc := { Desc.none with src := wordOf w 0 + 2 ^ 32 * wordOf w 1, dst := wordOf w 2 + 2 ^ 32 * wordOf w 3 }

/-- Bytes of package memory as a job reads them. -/
def State.jobRead (s : State) (c : CtxKey) (core : Option Nat) (va n : Nat) : Except (Nat × MFault) (List Byte) :=
  match s.locs c core .jobRead (some false) va n with
  | .error e => .error e
  | .ok ls => .ok (ls.map s.locByte)
/-- The members of a group table in rank order (log 90). -/
def State.groupTable (s : State) (c : CtxKey) (core : Option Nat) (group : Nat) : Except (Nat × MFault) (List Nat) :=
  match s.jobRead c core group 2 with
  | .error e => .error e
  | .ok b =>
    match s.jobRead c core (group + 2) (2 * natOfBytes b) with
    | .error e => .error e
    | .ok bs => .ok ((List.range (natOfBytes b)).map fun i => leField bs (2 * i) 2)
/-- The physical address and the member count of a group table, none while they cannot be read (log 90). -/
def State.tableHead (s : State) (c : CtxKey) (core : Option Nat) (group : Nat) : Option (Nat × Nat) :=
  match s.locs c core .jobRead (some false) group 2 with
  | .ok (.mem pa kd coh ra :: ls) => some (pa, natOfBytes ((.mem pa kd coh ra :: ls).map s.locByte))
  | _ => none
def membersOk (n : Nat) : Bool := 1 ≤ n && n ≤ 1152
/-- Destination elements: one set, or one for each member (R248). -/
def Coll.total (c : Coll) (n : Nat) : Nat := if c.op = 3 then n * c.count else c.count
/-- The bytes of a COLL's destination (R248). -/
def Coll.bytes (c : Coll) (n : Nat) : Nat := c.total n * collSize c.ty
/-- The number of COLLs issued on a group table so far is this one's place (R247). -/
def State.nextColl (s : State) (pa : Nat) : State × Nat :=
  let k := tgetD s.pkg.collSeq pa 0
  (s.modPkg fun p => { p with collSeq := tset p.collSeq pa (k + 1) }, k)
def Coll.kind (c : Coll) : JobKind := .coll c.count c.op c.ty c.table c.place
def Job.coll (j : Job) : Option Coll :=
  match j.kind with
  | .coll count op ty table place => some ⟨count, op, ty, table, place⟩
  | _ => none
/-- The COLL of a job that could not read its table at its issue has its place, on a table of n members at an address; a GATHER adds its bytes. -/
def State.takePlace (s : State) (id : Nat) (place : Nat × Nat) (n : Nat) : State :=
  match tget s.jobs id with
  | none => s
  | some j =>
    match j.coll with
    | none => s
    | some c =>
      let more := if c.op = 3 then c.bytes n else 0
      let s := s.setJob id { j with kind := { c with place := some place }.kind, left := j.left + more }
      match j.bar with | some (core, off) => s.addBytes core off more | none => s
/-- A COLL issued, by a context on an address at which its table could not be read, whose table is the one at pa: it named the same address, or its address is now mapped there. -/
def State.waitsFor (s : State) (ctx : CtxKey) (table pa : Nat) (w : CtxKey × Nat × Nat) : Bool :=
  (w.1 = ctx && w.2.1 = table) || (s.tableHead w.1 none w.2.1).any fun h => h.1 = pa
/-- The COLLs that were issued while the table could not be read take their numbers in issue order, before any later one; those that have ended since keep theirs (R247) (log 90). -/
def State.placeWaiting (s : State) (ctx : CtxKey) (table pa n : Nat) : State :=
  let (mine, rest) := s.pkg.collWaiting.partition (s.waitsFor ctx table pa)
  mine.foldl (fun s w => let (s, k) := s.nextColl pa; s.takePlace w.2.2 (pa, k) n) (s.modPkg fun p => { p with collWaiting := rest })
/-- A COLL takes its place among those of its group table, by issue, once the table can be read (R247) (log 90). -/
def State.numberColl (s : State) (ctx : CtxKey) (core : Option Nat) (c : Coll) : State × Coll :=
  match c.place, s.tableHead ctx core c.table with
  | none, some (pa, n) =>
    let (s, k) := (s.placeWaiting ctx c.table pa n).nextColl pa
    (s, { c with place := some (pa, k) })
  | _, _ => (s, c)
/-- A COLL issued on a table that cannot be read waits for its number, in issue order. -/
def State.noteWaiting (s : State) (ctx : CtxKey) (c : Coll) (id : Nat) : State :=
  if c.place.isSome then s else s.modPkg fun p => { p with collWaiting := p.collWaiting ++ [(ctx, c.table, id)] }

/-- COLL (R327): field values, barrier and task names, leave, then the job; the byte count of a GATHER needs the member count, 0 while the table cannot be read (log 90). -/
def collEffect (a : CollArgs) (x : Issue) (s : State) : Act :=
  let w := x.descWords a.ds
  let c := parseColl w
  let s := s.catchUp x.key
  let members := (s.tableHead x.team.ctx (some x.gang.core) c.table).map Prod.snd
  if !collFieldsOk w || members.any fun n => !membersOk n then x.fieldTrap
  else
    match x.jobNames s a.bs a.tk with
    | .error t => .trap t
    | .ok (bar, task) =>
      let n := c.bytes (members.getD 0)
      if s.bytesFull bar n then .stall
      else
        match s.leaveNow x.key 64 (x.ownCharge s 0x66) with
        | none => .asks 64
        | some s =>
          let (s, c) := s.numberColl x.team.ctx (some x.gang.core) c
          .done ((s.submit x c.kind (collDesc w) (jobEngine .global .global x.gang x.team) bar task n).noteWaiting x.team.ctx c s.seq)
def execColl (g : Guard) (a : CollArgs) (s : State) : Host.Outcome State Fault Refusal := s.issueWord (.coll g a) false (collEffect a)

-- Elements travel as 32-bit values, BF16 as its FP32 value (R248)

def elemIn (ty : Nat) (bs : List Byte) : BitVec 32 := BitVec.ofNat 32 (if ty = 1 then natOfBytes bs * 65536 else natOfBytes bs)
def elemOut (ty : Nat) (x : BitVec 32) : List Byte := bytesOfNat (collSize ty) (if ty = 1 then x.toNat / 65536 else x.toNat)
def elemsIn (ty : Nat) (bs : List Byte) (n : Nat) : List (BitVec 32) :=
  (List.range n).map fun i => elemIn ty ((bs.drop (collSize ty * i)).take (collSize ty))
/-- One combination step, own operand first (R248). -/
def combine (op ty : Nat) (a b : BitVec 32) : BitVec 32 :=
  let f := FloatFmt.fp32
  if ty ≤ 1 then
    BitVec.ofNat 32 (match op with
      | 0 => floatAdd f .rn false false a.toNat b.toNat
      | 1 => f.min a.toNat b.toNat
      | _ => f.max a.toNat b.toNat)
  else
    let less := if ty = 2 then decide (a.toInt < b.toInt) else decide (a.toNat < b.toNat)
    match op with
    | 0 => a + b
    | 1 => if less then a else b
    | _ => if less then b else a
/-- Rank 0 rounds BF16 results to BF16. -/
def rootRound (ty : Nat) (x : BitVec 32) : BitVec 32 :=
  if ty = 1 then BitVec.ofNat 32 (FloatFmt.bf16.rne (FloatFmt.fp32.decode x.toNat) * 65536) else x

/-- The part of a descriptor that must match on every member. -/
def Coll.marker (c : Coll) : List (BitVec 32) := [BitVec.ofNat 32 c.count, BitVec.ofNat 32 c.op, BitVec.ofNat 32 c.ty]
def Coll.children (r n : Nat) : List Nat := [2 * r + 1, 2 * r + 2].filter fun k => k < n
/-- A child's packet of this collective, if it has arrived. -/
def State.upFrom (s : State) (c : Coll) (r : Nat) : Option (List (BitVec 32) × List (BitVec 32)) :=
  s.pkg.inbox.findSome? fun p => match p with | .collUp g q k d e => if g = c.group && q = c.seq && k = r then some (d, e) else none | _ => none
def State.downFor (s : State) (c : Coll) : Option (List (BitVec 32) × List (BitVec 32)) :=
  s.pkg.inbox.findSome? fun p => match p with | .collDown g q d e => if g = c.group && q = c.seq then some (d, e) else none | _ => none
def State.dropPackets (s : State) (c : Coll) : State :=
  s.modPkg fun p => { p with inbox := p.inbox.filter fun x =>
    match x with | .collUp g q _ _ _ => !(g = c.group && q = c.seq) | .collDown g q _ _ => !(g = c.group && q = c.seq) | _ => true }
def State.emit (s : State) (p : RemotePacket) : State := s.modPkg fun k => { k with out := k.out ++ [p] }

/-- What a node passes up: its own elements combined with each child's in order, a minimum or maximum of a single NaN being the canonical one (R134); for GATHER every rank's elements
behind its rank; for BROADCAST nothing but rank 0's. -/
def Coll.upward (c : Coll) (r : Nat) (own : List (BitVec 32)) (kids : List (List (BitVec 32))) : List (BitVec 32) :=
  if c.op = 3 then (BitVec.ofNat 32 r :: own) ++ kids.flatten
  else if c.op = 4 then (if r = 0 then own else [])
  else kids.foldl (fun acc k => List.zipWith (combine c.op c.ty) acc k) (if c.op = 0 then own else own.map fun x => combine c.op c.ty x x)
/-- Element i of the destination. -/
def Coll.element (c : Coll) (elems : List (BitVec 32)) (i : Nat) : BitVec 32 :=
  if c.op = 3 then
    let r := i / c.count
    let chunks := (List.range (elems.length / (c.count + 1))).map fun k => (elems.drop (k * (c.count + 1))).take (c.count + 1)
    match chunks.find? fun ch => ch.headD 0 = BitVec.ofNat 32 r with
    | some ch => ch.getD (1 + i % c.count) 0
    | none => 0
  else elems.getD i 0

/-- The result stands at this member: its elements, or a mismatch (an empty marker). It passes down the same tree. -/
def State.collResult (s : State) (id : Nat) (j : Job) (c : Coll) (kids : List Nat) (marker elems : List (BitVec 32)) : State :=
  let s := if kids.isEmpty then s else s.emit (.collDown c.group c.seq marker elems)
  let errs := if marker = [] then j.errs ++ [⟨0x13, 0, 0, 0⟩] else j.errs
  (s.dropPackets c).setJob id { j with stage := 2, incoming := [marker, elems], errs := errs }

/-- The upward step of a member of rank r among n, once its children's packets are here. -/
def State.collUpStep (s : State) (id : Nat) (j : Job) (c : Coll) (r n : Nat) (own : List (BitVec 32)) : Option State :=
  let kids := Coll.children r n
  let ups := kids.filterMap fun k => s.upFrom c k
  if ups.length < kids.length then none
  else
    let same := ups.all fun u => u.1 = c.marker
    let elems := if same then c.upward r own (ups.map Prod.snd) else []
    let marker := if same then c.marker else []
    if r = 0 then some (s.collResult id j c kids marker (if c.op ≤ 2 then elems.map (rootRound c.ty) else elems))
    else some ((s.emit (.collUp c.group c.seq r marker elems)).setJob id { j with stage := 1 })
/-- The downward step. -/
def State.collDownStep (s : State) (id : Nat) (j : Job) (c : Coll) (r n : Nat) : Option State :=
  match s.downFor c with
  | none => none
  | some (d, e) => some (s.collResult id j c (Coll.children r n) (if d = c.marker then d else []) e)
/-- The bytes that element u receives: the result, or unspecified bytes after a mismatch. -/
def State.collBytes (s : State) (j : Job) (c : Coll) (u : Nat) : List Byte :=
  match j.incoming with
  | [] :: _ => (List.range (collSize c.ty)).map fun i => Config.mismatchByte s.freeNext (u * collSize c.ty + i)
  | [_, e] => elemOut c.ty (c.element e u)
  | _ => elemOut c.ty 0

end Sys2Proof.Machine
end

