-- ==== Sys2Proof/Machine/Jobs.lean ====
section
/-! DEFINITION. The life of a job: acceptance, bytes, faults, completion (spec/10_async.md R214, R219 to R226, R243 to R248; spec/05_encoding.md R120; spec/11_scheduling.md R263). -/
namespace Sys2Proof.Machine

/-- A copy job's formats, spaces and parts. -/
structure CopyShape where
  fmt : CopyFmt
  dsp : Space
  ssp : Space
  parts : Nat
  deriving DecidableEq, Repr
def Job.shape (j : Job) : Option CopyShape :=
  match j.kind with
  | .copy dsp ssp srcf slot => some ⟨copyFmt srcf slot, dsp, ssp, 0⟩
  | .tiles true sp srcf slot parts => some ⟨copyFmt srcf slot, .tile, sp, parts⟩
  | .tiles false sp srcf slot parts => some ⟨copyFmt srcf slot, sp, .tile, parts⟩
  | _ => none

-- Bytes taken from the barrier (R221, R225, R226)

/-- k destination bytes are written or given up: progress, and the barrier's bytes; before the last of them the job's errors merge. -/
def State.jobBytes (s : State) (n k : Nat) : State :=
  match tget s.jobs n with
  | none => s
  | some j =>
    let s := s.setJob n { j with left := j.left - k, written := j.written + k }
    let s := match j.own with | some i => s.setProgress j.ctx i ((j.written + k) % 2 ^ 32) | none => s
    let s := if k ≠ 0 && j.left ≤ k then s.mergeJob n else s
    match j.bar with | some (core, off) => s.takeBytes core off k | none => s

-- One unit of a copy (R219, R220)

/-- A fault of a job: the address, the cause, what the access was, the source row. -/
structure JobFault where
  va : Nat
  f : MFault
  kind : AccessKind
  row : Nat
  deriving DecidableEq, Repr

def State.readPlaces (s : State) (j : Job) (sp : Space) : List (Nat × Nat) → Except (Nat × MFault) (List (List Place))
  | [] => .ok []
  | (a, n) :: rest =>
    match s.places j sp .jobRead a n with
    | .error e => .error e
    | .ok ps =>
      match State.readPlaces s j sp rest with
      | .error e => .error e
      | .ok r => .ok (ps :: r)
/-- The exact source value of element t of a unit, whose ranges hold these bytes (R219). -/
def unitValue (f : CopyFmt) (bs : List (List Byte)) (t : Nat) : Exact :=
  if fmtDbf f.src then (slotDbf f.src).readElement (bs.headD []) t
  else
    let x := natOfBytes (bs.getD t [])
    if f.src = 0x10 then Exact.ofInt (signedOf 8 x) else (slotFloat f.src).decode x
/-- The bytes that a unit writes, and whether a conversion saturated: raw elements, a DBF block, an INT4 byte whose untouched half stays, or converted elements. -/
def unitResult (f : CopyFmt) (d : Desc) (n : Nat) (bs : List (List Byte)) (old : List Byte) : List Byte × Bool :=
  let (i, j) := unitPos f d n
  let ts := unitTouched f d n
  let value (t : Nat) : Exact := if d.valid i (j + t) then unitValue f bs t else Exact.zero
  let code (t : Nat) : Rounded := if d.valid i (j + t) then f.slot.encode (unitValue f bs t) else ⟨0, false⟩
  if f.src = 0 then (ts.flatMap fun t => if d.valid i (j + t) then bs.getD t [] else List.replicate (2 ^ d.esz) 0, false)
  else if fmtDbf f.dst then
    let b := f.slot.dbfBlock ((List.range 32).map value)
    (b.bytes (slotDbf f.dst), b.sat)
  else if f.dst = 0x11 then
    let nib (t : Nat) : Nat := if ts.contains t then (code t).bits % 16 else (old.getD (t / 2) 0).toNat / 16 ^ (t % 2) % 16
    ((List.range (f.unit / 2)).flatMap (fun b => if ts.contains (2 * b) || ts.contains (2 * b + 1) then bytesOfNat 1 (nib (2 * b) + 16 * nib (2 * b + 1)) else []),
      ts.any fun t => (code t).sat)
  else (ts.flatMap fun t => bytesOfNat (fmtBits f.dst / 8) (code t).bits, ts.any fun t => (code t).sat)

/-- Errors that a unit's source bytes carry: a poisoned accumulator, an uncorrectable word (R226). -/
def State.placeErrs (s : State) (row : Nat) (ps : List Place) : List Err :=
  let poison := ps.any fun p => match p with | .acc t a => (s.team t).poison.contains (a / 2 ^ 14, bitsAt a 12 2) | _ => false
  let bad := ps.any fun p => match p with | .loc l => s.uncorrectable l .load | _ => false
  (if poison then [⟨0x05, 0, row, 0⟩] else []) ++ (if bad then [⟨0x01, 0, row, 0⟩] else [])
/-- The record of an uncorrectable word that a job read (R226, R282): contained (log 53). -/
def State.recordBadWord (s : State) (j : Job) (reads : List (Nat × Nat)) (rs : List (List Place)) : State :=
  let bad := (reads.zip rs).findSome? fun e =>
    (e.2.findIdx? fun p => match p with | .loc l => s.uncorrectable l .load | _ => false).map fun i => e.1.1 + i
  match bad with
  | some va => s.recordVa j.ctx j.core va 0
  | none => s
/-- A byte as a job reads it: of a word that cannot be corrected, whatever the memory returned (R226). -/
def State.jobByte (s : State) (p : Place) : Byte :=
  match p with
  | .loc (.mem pa kd coh ra) => if s.uncorrectable (.mem pa kd coh ra) .load then Config.eccByte s.freeNext pa else s.placeByte p
  | _ => s.placeByte p
/-- Source words that other packages hold are asked for there (R294). -/
def State.askPlaces (s : State) (rs : List (List Place)) : State := s.askRemote (rs.flatten.filterMap Place.loc?)

/-- The places that unit n reads and writes, or the fault it meets. -/
def State.unitPlaces (s : State) (j : Job) (sh : CopyShape) (n : Nat) : Except JobFault (List (List Place) × List Place) :=
  let (i, c) := unitPos sh.fmt j.desc n
  match s.readPlaces j sh.ssp (unitReads sh.fmt j.desc (tileParts sh.ssp sh.parts) n) with
  | .error e => .error ⟨e.1, e.2, .jobRead, i⟩
  | .ok rs =>
    match s.places j sh.dsp .jobWrite (dstAddr sh.fmt j.desc (tileParts sh.dsp sh.parts) i c) (unitWritten sh.fmt j.desc n) with
    | .error e => .error ⟨e.1, e.2, .jobWrite, i⟩
    | .ok ws => .ok (rs, ws)
/-- A job's core keeps the translations that the job uses (R273). -/
def State.jobFill (s : State) (j : Job) (sp : Space) (rs : List (Nat × Nat)) : State :=
  if sp = .global || sp = .host then rs.foldl (fun s r => s.fillRange j.core j.ctx r.1 r.2) s else s
/-- The bytes of a local transfer unit that go to another core's scratchpad land behind the packets that its core sent there before (R13) (log 100). -/
def State.jobRoute (s : State) (j : Job) (ws : List Place) : State :=
  if j.engine < 2 ^ 16 then s else (ws.filterMap Place.loc?).foldl (fun s l => s.beforeLanding (j.engine - 2 ^ 16) l) s
/-- Move unit n of a copy job (log 9). -/
def State.moveUnit (s : State) (id : Nat) (j : Job) (sh : CopyShape) (n : Nat) (rs : List (List Place)) (ws : List Place) : State :=
  let row := (unitPos sh.fmt j.desc n).1
  let old := ws.map s.placeByte
  let (bs, sat) := unitResult sh.fmt j.desc n (rs.map fun ps => ps.map s.jobByte) old
  let errs := s.placeErrs row rs.flatten ++ (if sat then [⟨0x11, 0, row, 0⟩] else [])
  let reads := unitReads sh.fmt j.desc (tileParts sh.ssp sh.parts) n
  let dst := (dstAddr sh.fmt j.desc (tileParts sh.dsp sh.parts) row (unitPos sh.fmt j.desc n).2, ws.length)
  let s := (((s.jobFill j sh.ssp reads).jobFill j sh.dsp [dst]).recordBadWord j reads rs).askPlaces rs
  let s := (s.agentReads j.ctx.part j.pt (rs.flatten.filterMap Place.loc?)).jobRoute j ws
  let s := (s.setPlaces j.ctx.part ws bs).useFree
  let fresh := errs.filter fun e => !(j.errs.any fun x => x.code = e.code)
  (s.setJob id { j with moved := n :: j.moved, errs := j.errs ++ fresh }).jobBytes id (unitWritten sh.fmt j.desc n)

-- A collective's steps

/-- The job of a COLL whose table could not be read at its issue takes its place once it can, after those issued before it (log 90). -/
def State.placeColl (s : State) (id : Nat) : State :=
  match tget s.jobs id with
  | none => s
  | some j =>
    match j.coll with
    | none => s
    | some c =>
      match c.place, s.tableHead j.ctx j.core c.table with
      | none, some (pa, n) => s.placeWaiting j.ctx c.table pa n
      | _, _ => s
/-- The package takes part: the table's member count is legal and names it (R247, R327) (log 90). -/
def State.isMember (s : State) (ms : List Nat) : Bool := membersOk ms.length && ms.contains s.pkg.pkgid
/-- What the job's read of its group table of n members leaves (R214, R294). -/
def State.tableRead (s : State) (j : Job) (c : Coll) (n : Nat) : State :=
  match s.locs j.ctx j.core .jobRead (some false) c.table (2 + 2 * n) with
  | .error _ => s
  | .ok ls => ((s.jobFill j .global [(c.table, 2 + 2 * n)]).askRemote ls).agentReads j.ctx.part j.pt ls
/-- One step of a collective job, none while it waits for packets: up the tree, down it, then element u of the destination. -/
def State.collStep (s : State) (id : Nat) (j : Job) (c : Coll) (u : Nat) : Except JobFault (Option State) :=
  match s.groupTable j.ctx j.core c.table with
  | .error e => .error ⟨e.1, e.2, .jobRead, 0⟩
  | .ok ms =>
    let r := ms.findIdx fun (m : Nat) => m = s.pkg.pkgid
    let n := ms.length
    if j.stage < 2 && !s.isMember ms then .ok (some (s.stopJob id 0x13 0))
    else
      match j.stage with
      | 0 =>
        let len := if c.op = 4 && r ≠ 0 then 0 else c.count * collSize c.ty
        match s.locs j.ctx j.core .jobRead (some false) j.desc.src len with
        | .error e => .error ⟨e.1, e.2, .jobRead, 0⟩
        | .ok ls =>
          let errs := s.placeErrs 0 (ls.map Place.loc)
          .ok ((s.collUpStep id { j with errs := j.errs ++ errs } c r n (elemsIn c.ty (ls.map fun l => s.jobByte (.loc l)) (len / collSize c.ty))).map fun s =>
            (((s.jobFill j .global [(j.desc.src, len)]).recordBadWord j [(j.desc.src, len)] [ls.map Place.loc]).askRemote ls).agentReads j.ctx.part j.pt ls |>.tableRead j c n)
      | 1 => .ok (s.collDownStep id j c r n)
      | _ =>
        if u ≥ c.total n || j.moved.contains u then .ok none
        else
          match s.places j .global .jobWrite (j.desc.dst + u * collSize c.ty) (collSize c.ty) with
          | .error e => .error ⟨e.1, e.2, .jobWrite, 0⟩
          | .ok ps =>
            let s := s.jobFill j .global [(j.desc.dst + u * collSize c.ty, collSize c.ty)]
            let s := (s.setPlaces j.ctx.part ps (s.collBytes j c u)).useFree
            .ok (some ((s.setJob id { j with moved := u :: j.moved }).jobBytes id (collSize c.ty)))

-- COPY_BYTE_WRITE

def Job.running (j : Job) : Bool := j.accepted && j.paused.isNone && !j.stopped
/-- A unit of a copy that is still to move. -/
def Job.owes (j : Job) (sh : CopyShape) (n : Nat) : Bool :=
  n < unitCount sh.fmt j.desc && unitWritten sh.fmt j.desc n ≠ 0 && !j.moved.contains n
def Job.unitsLeft (j : Job) (sh : CopyShape) : List Nat := (List.range (unitCount sh.fmt j.desc)).filter (j.owes sh)
/-- See log 9. -/
def execCopyByteWrite (job unit : Nat) (s : State) : Host.Outcome State Fault Refusal :=
  let s := s.placeColl job
  match tget s.jobs job with
  | none => .next s
  | some j =>
    if !j.running then .next s
    else
      match j.shape, j.coll with
      | some sh, _ =>
        if !j.owes sh unit then .next s
        else
          match s.unitPlaces j sh unit with
          | .error _ => .next s
          | .ok (rs, ws) => .next (s.moveUnit job j sh unit rs ws)
      | none, some c =>
        match s.collStep job j c unit with
        | .ok (some s) => .next s
        | _ => .next s
      | none, none => .next s

-- COPY_JOB_ACCEPT (R223)

/-- An earlier job of the engine, or of the gang for a request to the foreman, is still to be accepted. -/
def State.jobBlocked (s : State) (j : Job) : Bool :=
  s.jobs.any fun e => !e.2.accepted && e.2.order < j.order && (e.2.engine = j.engine || (j.engine = foremanEngine && e.2.gang = j.gang))
/-- The copy jobs that a CPYCAN stops: those that name its task, and the job of a COPY task, but none that the gang issued after it (R331) (log 89).
A COPY task that is PENDING or READY, its job not yet handed to an engine, has no job to stop: the spec does not say whether R225's 'pending job' means it too, and the model lets such a
CPYCAN do nothing to it (log 121). -/
def State.boundJobs (s : State) (c : Job) (task : Nat) : List Nat :=
  tkeys s.jobs fun _ j => j.ctx = c.ctx && j.shape.isSome && (j.task = some task || j.own = some task) && !(j.gang = c.gang && j.order > c.order)
/-- Indices of the device task range are the foreman's alone (R244) (log 40). -/
def State.deviceIndex (s : State) (c : CtxKey) (i : Nat) : Bool := i ≥ (s.ctx c).devbase
def State.requestPost (s : State) (c : CtxKey) (i : Nat) : State :=
  if s.deviceIndex c i then s else s.modCtx c fun x => { x with posts := x.posts ++ [i] }
def State.requestSignal (s : State) (c : CtxKey) (i : Nat) : State := if s.deviceIndex c i then s else (s.decrement c i).settleGrids
/-- R182's test of one PEER side, made again at the engine's acceptance; the allocation that the job's own team has released is no foreign place (R344). -/
def State.peersAllowed (s : State) (j : Job) (rs : List (Nat × Nat)) : Bool :=
  rs.all fun r => (List.range r.2).all fun i => j.releasedPeer (r.1 + i) || match s.peerLoc j.ctx (r.1 + i) with | .ok _ => true | .error e => e.cause ≠ 0x11
/-- The source row at which a PEER extent of a copy breaks R182. -/
def State.peerRow (s : State) (j : Job) (sh : CopyShape) : Option Nat :=
  let bad (n : Nat) : Bool :=
    let (i, c) := unitPos sh.fmt j.desc n
    (sh.ssp = .peer && !s.peersAllowed j (unitReads sh.fmt j.desc 0 n))
      || (sh.dsp = .peer && !s.peersAllowed j [(dstAddr sh.fmt j.desc 0 i c, unitBytes sh.fmt j.desc)])
  ((List.range (unitCount sh.fmt j.desc)).find? bad).map fun n => (unitPos sh.fmt j.desc n).1
/-- A job's acceptance: its counter entry returns; bytes that stay unchanged are taken away; an empty copy completes, and a copy whose PEER extent R182 does not allow stops; a
request acts (log 91). -/
def State.acceptJob (s : State) (n : Nat) (j : Job) : State :=
  let s := (s.setJob n { j with accepted := true }).returnFlight j
  match j.kind with
  | .cancel t =>
    let s := { s with jobs := terase s.jobs n }
    (s.boundJobs j t).foldl (fun s b => s.stopJob b 0x12 0) s
  | .post t => ({ s with jobs := terase s.jobs n }).requestPost j.ctx t
  | .signal t => ({ s with jobs := terase s.jobs n }).requestSignal j.ctx t
  | .coll .. =>
    let s := s.placeColl n
    match j.coll with
    | some c =>
      match s.groupTable j.ctx j.core c.table with
      | .ok ms => if s.isMember ms then s else s.stopJob n 0x13 0
      | .error _ => s
    | none => s
  | _ =>
    match j.shape with
    | some sh =>
      if destBytes sh.fmt j.desc = 0 then s.finishJob n
      else
        match s.peerRow j sh with
        | some row => s.stopJob n 0x10 row
        | none => s.jobBytes n (unchangedBytes sh.fmt j.desc)
    | none => s
def execCopyJobAccept (job : Nat) (s : State) : Host.Outcome State Fault Refusal :=
  match tget s.jobs job with
  | none => .next s
  | some j => if j.accepted || s.jobBlocked j then .next s else .next (s.acceptJob job j)

-- COPY_JOB_FAULT (R224)

/-- The first fault that the job's next accesses meet. -/
def State.jobFault (s : State) (id : Nat) (j : Job) : Option JobFault :=
  match j.shape, j.coll with
  | some sh, _ => (j.unitsLeft sh).findSome? fun n => match s.unitPlaces j sh n with | .error e => some e | .ok _ => none
  | none, some c =>
    match s.collStep id j c (((List.range (j.moved.length + 1)).find? fun u => !j.moved.contains u).getD 0) with
    | .error e => some e
    | .ok _ => none
  | none, none => none
/-- A fault with V = 0 pauses the job in the fault queue; any other stops it with COPY_FAULT. A paused job without an entry waits for room. -/
def State.faultJob (s : State) (n : Nat) (j : Job) (e : JobFault) : State :=
  let s := if e.f.cause = 0x60 then s.recordVa j.ctx j.core e.va 0 else s
  match e.f.missing with
  | some level =>
    if (s.queueBase j.ctx.part).isNone then s.stopJob n 0x10 e.row
    else
      let gridid := match j.team with | some t => (s.team t).grid | none => 0
      let unit := if j.engine < 2 ^ 16 then 0x8000 + j.engine else j.engine % 2 ^ 16
      let (s, seq) := s.queueFault (.job n) j.ctx e.va 0x10 e.kind level unit gridid
      s.setJob n { j with paused := some (seq.getD 0) }
  | none => s.stopJob n 0x10 e.row
def execCopyJobFault (job : Nat) (s : State) : Host.Outcome State Fault Refusal :=
  match tget s.jobs job with
  | none => .next s
  | some j =>
    if !j.running then .next s
    else match s.jobFault job j with | some e => .next (s.faultJob job j e) | none => .next s

-- COPY_JOB_COMPLETE (R225, R263)

/-- Every unit of the job is moved. -/
def State.jobDone (s : State) (j : Job) : Bool :=
  match j.shape, j.coll with
  | some sh, _ => (j.unitsLeft sh).isEmpty
  | none, some c =>
    j.stage = 2 && match s.groupTable j.ctx j.core c.table with | .ok ms => j.moved.length = c.total ms.length | .error _ => false
  | none, none => false
/-- R263: above a mean of 20 us the clamp falls, not below 2; below 5 us it rises; at most one change in any 100 us (140,000 interposer cycles). sum: n slacks together, in
units of 0.1 us. -/
def Cluster.slackUpdate (c : Cluster) (now sum n : Nat) : Cluster :=
  let new := if sum > 200 * n then max 2 (c.slack - 1) else if sum < 50 * n then min 7 (c.slack + 1) else c.slack
  if new = c.slack || c.slackAt.any (fun t => now < t + 140000) then c else { c with slack := new, slackAt := some now }
/-- The member's slack joins its last 8 of the group, with the cluster whose team issued the COLL; the clamps of those clusters follow their mean. -/
def State.noteSlack (s : State) (group : Nat) (core : Option Nat) : State :=
  let ms := ((Config.slackOf s.freeNext, core.map clusterOf) :: tgetD s.pkg.slacks group []).take 8
  let s := (s.modPkg fun p => { p with slacks := tset p.slacks group ms }).useFree
  ((ms.filterMap Prod.snd).eraseDups).foldl (fun s n => s.setCluster n ((s.cluster n).slackUpdate s.pkg.time ((ms.map Prod.fst).foldl (· + ·) 0) ms.length)) s
def execCopyJobComplete (job : Nat) (s : State) : Host.Outcome State Fault Refusal :=
  match tget s.jobs job with
  | none => .next s
  | some j =>
    if !j.running || !s.jobDone j then .next s
    else
      let s := match j.coll with | some c => s.noteSlack c.group j.core | none => s
      .next (s.finishJob job)

end Sys2Proof.Machine
end

