-- ==== Sys2Proof/Machine/Foreman.lean ====
section
/-! DEFINITION. The foreman and the dispatcher (spec/11_scheduling.md R249 to R255; spec/10_async.md R242 to R246, R441; spec/02_execution_model.md R27 to R46;
spec/06_numbers.md R143 to R148): launch records, tasks, LAUNCH, GROW, placement. -/
namespace Sys2Proof.Machine

-- The launch record (R249, R251)

/-- The n-byte field at an offset of a record. -/
def rnd2 (x : Nat) : Rnd := match x % 4 with | 0 => .rn | 1 => .rz | 2 => .ru | _ => .rd
def parseSlot (bs : List Byte) (n : Nat) : Slot :=
  let at' (o k : Nat) : Nat := leField bs (0x100 + 32 * n + o) k
  ⟨at' 0 1, (at' 1 1).testBit 7, rnd2 (bitsAt (at' 1 1) 5 2), bitsAt (at' 1 1) 2 3, at' 2 1, at' 3 1, at' 4 4, at' 8 8⟩
def parseRegion (bs : List Byte) (n : Nat) : Option Region :=
  let at' (o k : Nat) : Nat := leField bs (0x60 + 16 * n + o) k
  if at' 8 4 = 0 then none
  else some ⟨at' 0 8 / 1024, (at' 0 8 + at' 8 4 + 1023) / 1024 - at' 0 8 / 1024, (at' 12 4).testBit 0⟩
def parseLaunch (bs : List Byte) : Launch :=
  let f (o k : Nat) : Nat := leField bs o k
  let w20 := f 0x20 4
  { codeBase := f 0 8, entry := f 8 4, pair := (f 0xC 4).testBit 0, roles := (f 0xC 4).testBit 1, growable := (f 0xC 4).testBit 2
    x := f 0x10 4, y := f 0x14 4, z := f 0x18 4, gangs := f 0x1C 4 % 64, width := 8 * 2 ^ bitsAt (f 0x1C 4) 8 2
    copies := w20 % 64, matrices := bitsAt w20 6 6, rings := (List.range (bitsAt w20 12 3)).map fun r => bitsAt w20 (16 + 4 * r) 4
    winMin := f 0x24 2, winMax := f 0x26 2, vtop := f 0x28 1, scalars := f 0x29 1, stk := f 0x2C 4, spillBase := f 0x30 8, scratch := f 0x38 4
    tiles := f 0x3C 2 % 16, accs := bitsAt (f 0x3C 2) 4 3, tables := bitsAt (f 0x3C 2) 7 3, prio := bitsAt (f 0x3C 2) 10 2, barriers := f 0x3E 2
    param := f 0x40 8, safe := f 0x48 8, liveTab := f 0x50 8, liveRecs := Config.liveRecords bs, parent := f 0x58 4
    regions := (List.range 8).filterMap (parseRegion bs), slots := (List.range 8).map (parseSlot bs) }

/-- Bits of a slot that must be zero, its format, and its ranges (R143 to R146). A codebook address with bits 63:56 set is no BAD_RECORD here: the spec does not say which failure
it makes, and the model lets its read fail (log 39). -/
def slotOk (bs : List Byte) (n : Nat) : Bool :=
  let s := parseSlot bs n
  let flags := leField bs (0x100 + 32 * n + 1) 1
  let zeros := leField bs (0x100 + 32 * n + 16) 16 = 0
  if s.fmt = 0 then leField bs (0x100 + 32 * n) 32 = 0
  else
    zeros && flags % 4 = 0
    && (fmtPlain s.fmt || fmtDbf s.fmt || s.fmt = 0x11 || fmtLookup s.fmt)
    && (if fmtDbf s.fmt then s.gap ≤ 15 else s.gap = 0)
    && (if s.fmt = 0x22 || s.fmt = 0x23 then 1 ≤ s.cbSize && s.cbSize ≤ 16 && s.cbAddr % 64 = 0 else s.cbSize = 0 && s.cbAddr = 0)
    && (if s.fmt = 0x20 then 1 ≤ s.planes && s.planes ≤ 4 else s.planes = 0)
    && (match FloatFmt.fp32.decode s.scale with | .fin _ m _ _ => m ≠ 0 | _ => false)

/-- Reserved bits and bytes of the record. -/
def launchReservedZero (bs : List Byte) : Bool :=
  let f (o k : Nat) : Nat := leField bs o k
  bitsAt (f 0xC 4) 3 29 = 0 && bitsAt (f 0x1C 4) 6 2 = 0 && bitsAt (f 0x1C 4) 10 6 = 0 && bitsAt (f 0x1C 4) 20 12 = 0 && !(f 0x20 4).testBit 15
  && f 0x2A 2 = 0 && bitsAt (f 0x3C 2) 12 4 = 0 && ((List.range 8).all fun n => f (0x60 + 16 * n + 12) 4 < 2) && f 0xE0 32 = 0

/-- The most gangs of one team on one bench. -/
def Launch.benchGangs (l : Launch) : Nat := let n := if l.pair then 8 else 4; (l.gangs + n - 1) / n
/-- The largest number of them in one lane quarter, half or bench, and the lane-words of a quarter that each draws for the minimum ring (R37). -/
def Launch.ringPlaceable (l : Launch) : Bool :=
  let groups := if l.width = 8 then 4 else if l.width = 16 then 2 else 1
  let cost := if l.width = 64 then 128 else 64
  (l.benchGangs + groups - 1) / groups * l.winMin * cost ≤ 16384
/-- A core that is present: on a die that is neither fenced nor absent. -/
def State.coreUp (s : State) (core : Nat) : Bool := !s.pkg.fenced.contains (dieOf core) && !s.pkg.absent.contains (dieOf core)
/-- The checks of R251 on a record read from an address. The spec does not say whether a partition all of whose dies are fenced or absent still has an empty core for the last of
them: the model counts no core of such a die, so the record is BAD_RECORD there (log 122). -/
def State.launchOk (s : State) (part : Nat) (bs : List Byte) (addr : Nat) : Bool :=
  let l := parseLaunch bs
  let w20 := leField bs 0x20 4
  addr % 64 = 0 && l.codeBase % 256 = 0 && l.entry % 8 = 0 && launchReservedZero bs
  && !(l.growable && !(l.y = 1 && l.z = 1))
  && 1 ≤ l.gangs && l.gangs ≤ (if l.pair then 32 else 16) && l.copies + l.matrices ≤ l.gangs && (l.roles || l.copies + l.matrices = 0)
  && l.rings.length ≤ 4 && (l.rings.all fun d => 2 ≤ d && d ≤ 8) && ((List.range 4).all fun r => r < l.rings.length || bitsAt w20 (16 + 4 * r) 4 = 0)
  && 14 ≤ l.winMin && l.winMin ≤ 256 && l.winMin ≤ l.winMax && l.winMax ≤ 256
  && 15 ≤ l.vtop && l.vtop ≤ 127 && (l.scalars = 16 || l.scalars = 32 || l.scalars = 48 || l.scalars = 64)
  && l.stk % 64 = 0 && 1024 ≤ l.stk && l.spillBase % 65536 = 0
  && l.tiles ≤ 8 && l.accs ≤ 4 && l.tables ≤ 4 && l.barriers ≤ 4095 && l.alloc ≤ 524288
  && ((List.range 8).all (slotOk bs))
  && l.ringPlaceable && ((s.part part).dies.any fun d => s.coreUp (64 * d))

-- Tasks (R242, R243, R216)

def taskKind (x : Nat) : Option TaskKind := match x with | 1 => some .grid | 2 => some .copy | 3 => some .coll | 4 => some .hostsig | _ => none
/-- An inline region (R242). -/
def inlineRegion (x : Nat) : Region := ⟨bitsAt x 18 46, bitsAt x 2 16 + 1, x.testBit 1⟩
def recordWord (bs : List Byte) (r : Nat) : Nat := leField bs (32 + 8 * r) 8
/-- The reserved fields of a task record are zero. -/
def taskReservedZero (bs : List Byte) : Bool :=
  leField bs 2 1 < 4 && leField bs 3 1 ≤ 4 && leField bs 26 2 = 0 && (List.range (leField bs 3 1)).all fun r => recordWord bs r % 2 = 0
def parseTask (bs : List Byte) (kind : TaskKind) (order depth : Nat) : Task :=
  { raw := bs, kind := kind, status := .pending, prio := leField bs 2 1 % 4, counter := leField bs 4 4, payload := leField bs 8 8, succAddr := leField bs 16 8
    succCount := leField bs 24 2, progress := leField bs 28 4, regions := (List.range (leField bs 3 1)).map fun r => inlineRegion (recordWord bs r)
    edges := [], order := order, depth := depth, grid := none, job := none }
/-- Two regions share a 1 KiB unit and at least one of them is a write (R216). -/
def Region.clashes (a b : Region) : Bool := (a.write || b.write) && a.first < b.first + b.count && b.first < a.first + a.count
def regionsClash (xs ys : List Region) : Bool := xs.any fun a => ys.any fun b => a.clashes b
/-- Footprint edges of a new task: every earlier unfinished task of the context that it clashes with. -/
def State.edgesFor (s : State) (c : CtxKey) (i : Nat) (rs : List Region) : List Nat :=
  (s.tasks.filter fun e => e.1.1 = c && e.1.2 ≠ i && regionsClash e.2.regions rs).map fun e => e.1.2

/-- The payload block of a COPY or COLL task meets R245, R222 or R247. -/
def blockField (bs : List Byte) (o k : Nat) : Nat := leField bs o k
def spaceOf (x : Nat) : Option Space :=
  match x with | 0 => some .global | 1 => some .local | 2 => some .peer | 3 => some .accum | 4 => some .host | 5 => some .tile | _ => none
def srcfOf (x : Nat) : Option SrcF :=
  match x with
  | 0 => some .raw | 1 => some .fp32 | 2 => some .fp16 | 3 => some .bf16 | 4 => some .e4m3 | 5 => some .e5m2 | 8 => some .dbf8 | 9 => some .dbf6 | 10 => some .dbf4 | 0x10 => some .int8
  | _ => none
def blockWords (bs : List Byte) : List Nat := (List.range 8).map fun i => leField bs (4 * i) 4
/-- See log 34. -/
def blockReservedZero (bs : List Byte) : Bool :=
  leField bs 32 1 < 8 && leField bs 33 1 < 8 && leField bs 34 1 < 8 && leField bs 35 1 = 0 && leField bs 36 2 < 2 ^ 14 && leField bs 38 2 = 0 && leField bs 44 20 = 0
/-- The job of a COPY task's block, none when the block is refused. A task has no launch record, so FS names no slot and only a raw copy is accepted (log 34). -/
def copyBlock (bs : List Byte) : Option (JobKind × Desc) :=
  let w := blockWords bs
  match spaceOf (leField bs 32 1), spaceOf (leField bs 33 1) with
  | some dsp, some ssp =>
    let f := copyFmt .raw .none
    let ok := blockReservedZero bs && (dsp = .global || dsp = .host) && (ssp = .global || ssp = .host) && leField bs 34 1 = 0 && leField bs 36 2 = 0
      && descOk dsp ssp f w && descAligned f (parseDesc w)
    if ok then some (.copy dsp ssp .raw .none, parseDesc w) else none
  | _, _ => none
def collBlock (bs : List Byte) : Option (List Nat) :=
  let w := blockWords bs
  if blockReservedZero bs && leField bs 32 3 = 0 && leField bs 36 2 = 0 && collFieldsOk w then some w else none

/-- The member count of a COLL task's group table is legal, as far as it can be read at ingestion (R245, R247) (log 90). -/
def State.groupOk (s : State) (c : CtxKey) (w : List Nat) : Bool := !((s.tableHead c none (parseColl w).table).any fun h => !membersOk h.2)
/-- The task becomes FAILED at ingestion. -/
def State.refuseTask (s : State) (c : CtxKey) (i : Nat) (t : Task) : State := ((s.setTask c i t).finishTask c i .failed).settleGrids
/-- The task is ingested: its edges are drawn, and it is READY when counter and edges are clear. -/
def State.enrolTask (s : State) (c : CtxKey) (i : Nat) (t : Task) : State :=
  ((s.setTask c i { t with edges := s.edgesFor c i t.regions }).markReady c i).settleGrids
/-- A grid's record, its numbers filled by the foreman (R29, R45, R249). -/
def newGrid (c : CtxKey) (i : Nat) (l : Launch) (depth : Nat) (parent : Option Nat) : Grid :=
  { ctx := c, task := i, launch := l, depth := depth, x := l.x, next := 0, retired := 0, parent := parent, codebooks := none, failing := false }
/-- Enrol a GRID task and its grid; GRIDID is the state's next number. -/
def State.enrolGrid (s : State) (c : CtxKey) (i : Nat) (t : Task) (l : Launch) (depth : Nat) (parent : Option Nat) : State :=
  let id := s.seq
  ((s.setGrid id (newGrid c i l depth parent)).bump).enrolTask c i { t with grid := some id, regions := l.regions, depth := depth }

/-- Ingest a post (R243, R245, R251, R441). -/
def State.ingest (s : State) (c : CtxKey) (i : Nat) : State :=
  if (tget s.tasks (c, i)).isSome || s.deviceIndex c i || i ≥ 65536 then s
  else if s.taskForeign c i then s.foremanError c i
  else
    match s.foremanRead c (s.taskVa c i) 64 with
    | .error _ => s.foremanError c i
    | .ok bs =>
      let s := s.foremanAsk c (s.taskVa c i) 64
      match taskKind (leField bs 0 1) with
      | none => s.refuseTask c i (parseTask bs .hostsig s.seq 0)
      | some k =>
        let t := parseTask bs k s.seq 0
        if !taskReservedZero bs then s.refuseTask c i t
        else
          match k with
          | .grid =>
            match s.foremanRead c t.payload 512 with
            | .error _ => (s.foremanError c i).refuseTask c i t
            | .ok r =>
              let s := s.foremanAsk c t.payload 512
              if s.launchOk c.part r t.payload then s.enrolGrid c i t (parseLaunch r) 1 none else s.refuseTask c i t
          | .hostsig => s.enrolTask c i t
          | k =>
            match s.foremanRead c t.payload 64 with
            | .error _ => (s.foremanError c i).refuseTask c i t
            | .ok b =>
              let s := s.foremanAsk c t.payload 64
              let ok := t.payload % 64 = 0 && (if k = .copy then (copyBlock b).isSome else (collBlock b).any (s.groupOk c))
              if ok then s.enrolTask c i { t with raw := t.raw ++ b } else s.refuseTask c i t
/-- TASK_INGEST: the oldest post of a context (R252). -/
def execTaskIngest (c : CtxKey) (s : State) : Host.Outcome State Fault Refusal :=
  match (s.ctx c).posts with
  | [] => .next s
  | i :: rest => .next ((s.modCtx c fun x => { x with posts := rest }).ingest c i)
/-- HOST_POST: a write of POST (R252); an index of the device task range is discarded (R244). A stopped context takes no post, nor does the package during its wipe (R298). -/
def State.hostPost (s : State) (c : CtxKey) (index : Nat) : State := if !(s.ctx c).run || s.pkg.wiping then s else s.requestPost c index
def execHostPost (c : CtxKey) (index : Nat) (s : State) : Host.Outcome State Fault Refusal := .next (s.hostPost c index)

-- TASK_JOB_START (R245, R246)

/-- The copy engine of task i's job (R245). -/
def State.taskEngine (s : State) (c : CtxKey) (i : Nat) : Nat := 2 * s.shardDie c i + i % 2
/-- A posted task's job, to be accepted in its engine's order (R223): it belongs to no gang, team or core. -/
def taskJob (kind : JobKind) (d : Desc) (c : CtxKey) (engine i left order pt : Nat) : Job :=
  ⟨kind, d, none, none, c, none, engine, none, none, some i, order, 0, none, false, 0, [], left, 0, [], none, false, false, pt, [], none⟩
/-- The value of a HOSTSIG task at payload + 8 goes to the host address at payload. Where the payload's read or the host write fails, a case that neither R246 nor R441 lists, the
task becomes FAILED with the foreman's error record (log 31). -/
def State.hostSignal (s : State) (c : CtxKey) (i : Nat) (t : Task) : State :=
  match s.foremanRead c t.payload 16 with
  | .error _ => (s.foremanError c i).finishTask c i .failed
  | .ok bs =>
    let s := s.foremanAsk c t.payload 16
    match s.locs c none .store (some true) (leField bs 0 8) 8 with
    | .error _ => (s.foremanError c i).finishTask c i .failed
    | .ok ls => (s.setLocBytes ls (bs.drop 8)).finishTask c i .done
/-- TASK_JOB_START: the job of a task goes to its copy engine (log 31). -/
def State.startTask (s : State) (c : CtxKey) (i : Nat) (t : Task) : State :=
  let b := t.raw.drop 64
  let run (s : State) (k : JobKind) (d : Desc) (left : Nat) : State :=
    let id := s.seq
    let s := (s.setTask c i { t with job := some id }).setStatus c i .running
    s.bump.setJob id (taskJob k d c (s.taskEngine c i) i left id (s.part c.part).horizon)
  match t.kind with
  | .grid => s
  | .hostsig => (s.hostSignal c i t).settleGrids
  | .copy =>
    match copyBlock b with
    | none => s
    | some (k, d) => run s k d (destBytes (copyFmt .raw .none) d)
  | .coll =>
    match collBlock b with
    | none => s
    | some w =>
      let (s, c0) := s.numberColl c none (parseColl w)
      (run s c0.kind (collDesc w) (c0.bytes (((s.tableHead c none c0.table).map Prod.snd).getD 0))).noteWaiting c c0 s.seq
def execTaskJobStart (c : CtxKey) (index : Nat) (s : State) : Host.Outcome State Fault Refusal :=
  match tget s.tasks (c, index) with
  | none => .next s
  | some t => if t.status = .ready && t.job.isNone then .next (s.startTask c index t) else .next s

-- Codebooks (R148)

/-- The codebook bytes of each slot that has one, as the dispatcher reads them (log 39). -/
def State.readBooks (s : State) (c : CtxKey) : List (Nat × Slot) → Except (Nat × MFault) (Tbl Nat (List Byte))
  | [] => .ok []
  | (n, sl) :: rest =>
    if sl.fmt ≠ 0x22 && sl.fmt ≠ 0x23 then State.readBooks s c rest
    else
      match s.foremanRead c sl.cbAddr (sl.cbSize * (if sl.fmt = 0x22 then 4 else 8)) with
      | .error e => .error e
      | .ok bs =>
        match State.readBooks s c rest with
        | .error e => .error e
        | .ok t => .ok ((n, bs) :: t)
/-- The reads of the codebooks that a grid's slots have (R148, R202). -/
def State.askBooks (s : State) (c : CtxKey) (slots : List Slot) : State :=
  (slots.filter fun sl => sl.fmt = 0x22 || sl.fmt = 0x23).foldl (fun s sl => s.foremanAsk c sl.cbAddr (sl.cbSize * (if sl.fmt = 0x22 then 4 else 8))) s
/-- GRID_CODEBOOK_READ: a READY grid's codebooks are kept with it; a fault refuses the grid (log 39). -/
def execGridCodebookRead (grid : Nat) (s : State) : Host.Outcome State Fault Refusal :=
  match tget s.grids grid with
  | none => .next s
  | some g =>
    let ready := match tget s.tasks (g.ctx, g.task) with | some t => t.status = .ready | none => false
    if g.codebooks.isSome || !ready || g.total = 0 then .next s
    else
      match s.readBooks g.ctx ((List.range 8).map fun n => (n, g.launch.slot n)) with
      | .ok t => .next ((s.askBooks g.ctx ((List.range 8).map g.launch.slot)).setGrid grid { g with codebooks := some t })
      | .error _ =>
        let s := (s.foremanError g.ctx g.task)
        .next ((State.finishTask { s with grids := terase s.grids grid } g.ctx g.task .failed).settleGrids)

-- LAUNCH (R41 to R43, R244, R364)

/-- The copy of the record that the foreman writes for a child: depth, parent task, own task (R249). -/
def childRecord (bs : List Byte) (depth parent own : Nat) : List Byte :=
  let w := leField bs 0x1C 4
  let w := w - bitsAt w 16 4 * 65536 + depth * 65536
  bs.take 0x1C ++ bytesOfNat 4 w ++ (bs.drop 0x20).take 0x38 ++ bytesOfNat 4 parent ++ bytesOfNat 4 own ++ bs.drop 0x60
/-- The child's task record (R244). -/
def childTask (prio payload : Nat) : List Byte := bytesOfNat 1 1 ++ bytesOfNat 1 0 ++ bytesOfNat 1 prio ++ bytesOfNat 5 0 ++ bytesOfNat 8 payload ++ bytesOfNat 48 0
/-- The lowest free index of the device task range (log 40). -/
def State.freeDevice (s : State) (c : CtxKey) : Option Nat :=
  let x := s.ctx c
  (List.range (x.devUsed.length + 1)).findSome? fun n => let i := x.devbase + n; if i < 65536 && !x.devUsed.contains i then some i else none

/-- What a LAUNCH comes to: a status with the new state, or a memory fault with its address and kind. -/
inductive LaunchEnd where
  | status (s : State) (x : Nat)
  | fault (va : Nat) (f : MFault) (kind : AccessKind)
  deriving DecidableEq, Repr
/-- Post a child grid from its record's bytes (R244). -/
def State.postChild (s : State) (k : GangKey) (bs : List Byte) (i : Nat) : LaunchEnd :=
  let tm := s.team k.team
  let c := tm.ctx
  let g := s.grid tm.grid
  let l := parseLaunch bs
  let slotVa := (s.ctx c).childrec + 512 * (i - (s.ctx c).devbase)
  let r := childRecord bs (g.depth + 1) g.task i
  let tr := childTask l.prio slotVa
  match s.foremanWrite c slotVa r with
  | .error (va, f) => .fault va f .store
  | .ok s1 =>
    if s1.taskForeign c i then .fault (s1.taskVa c i) ⟨0x16, none⟩ .store
    else
      match s1.foremanWrite c (s1.taskVa c i) tr with
      | .error (va, f) => .fault va f .store
      | .ok s2 =>
        let s3 := s2.modCtx c fun x => { x with devUsed := i :: x.devUsed }
        .status (s3.enrolGrid c i (parseTask tr .grid s3.seq (g.depth + 1)) { l with parent := g.task } (g.depth + 1) (some tm.grid)) (i * 65536)
/-- A gang's read of some bytes, an ordinary access of its thread: it takes its place in T on every line (R43, R203), through the core's translations (R273), and asks another package
(R294). -/
def State.gangRead (s : State) (k : GangKey) (c : CtxKey) (va : Nat) (ls : List Loc) : State :=
  ((ls.map Loc.timeKey).eraseDups).foldl (fun s key => s.timeLoad k key) ((s.fillRange (some (s.gang k).core) c va ls.length).askRemote ls)
/-- LAUNCH of the record at an address by a gang (R41) (log 35). -/
def State.launchAt (s : State) (k : GangKey) (addr : Nat) : LaunchEnd :=
  let tm := s.team k.team
  if k.idx ≠ 0 then .status s 0x02
  else if (s.grid tm.grid).depth = 10 then .status s 0x01
  else if addr % 64 ≠ 0 then .status s 0x04
  else
    match s.locs tm.ctx (some (s.gang k).core) .load none addr 512 with
    | .error (va, f) => .fault va f .load
    | .ok ls =>
      let bs := ls.map s.locByte
      let s := s.gangRead k tm.ctx addr ls
      if !s.launchOk tm.ctx.part bs addr then .status s 0x04
      else
        match s.freeDevice tm.ctx with
        | none => .status s 0x03
        | some i => (s.observe k).postChild k bs i
/-- LAUNCH's restartable fault: the record's address in the replay slot of the lowest active lane. -/
def launchFault (lane va : Nat) (f : MFault) (kind : AccessKind) (addr : Nat) (d : Dest) : MTrap :=
  ⟨f.cause, laneBit lane, va, [(lane, va)], [(lane, addr)], f.missing, kind, none, [d], [(lane, va)]⟩
/-- See log 35. -/
def launchEffect (d ar : Operand) (x : Issue) (s : State) : Act :=
  let addr := x.once s ar 2
  let dst := x.gang.dest d 1
  match (s.catchUp x.key).launchAt x.key addr with
  | .fault va f kind => .mfault (launchFault x.low va f kind addr dst)
  | .status s st => .done (s.modGang x.key fun g => g.writeRegs (dst.writes x.low st))
def execLaunch (g : Guard) (d ar : Operand) (s : State) : Host.Outcome State Fault Refusal := s.issueWord (.launch g d ar) false (launchEffect d ar)

-- GROW (R45, R46, R356)

def growEffect (d n : Operand) (x : Issue) (s : State) : Act :=
  let k := x.once s n 1
  let g := s.grid x.team.grid
  if !g.launch.growable || g.x + k > 2 ^ 32 - 1 then .trap (.of 0x41)
  else
    let s := (s.catchUp x.key).setGrid x.team.grid { g with x := g.x + k }
    .done (s.modGang x.key fun e => e.writeRegs ((x.gang.dest d 1).writes x.low g.x))
def execGrow (g : Guard) (d n : Operand) (s : State) : Host.Outcome State Fault Refusal := s.issueWord (.grow g d n) false (growEffect d n)

-- TEAM_PLACE (R255, R28 to R38, R89, R228, R234)

/-- See log 36. -/
def State.gridPrio (s : State) (g : Grid) : Nat :=
  let p := match tget s.tasks (g.ctx, g.task) with | some t => t.prio | none => g.launch.prio
  min p (s.ctx g.ctx).ceil
/-- See log 36. -/
def State.gridOrder (s : State) (g : Grid) : Nat := match tget s.tasks (g.ctx, g.task) with | some t => t.order | none => 0
/-- Grids with a team to place: running context, task READY or RUNNING, codebooks read. -/
def State.placeable (s : State) (part : Nat) : List (Nat × Grid) :=
  s.grids.filter fun e => e.2.ctx.part = part && (s.ctx e.2.ctx).run && e.2.codebooks.isSome && !e.2.failing && e.2.next < e.2.total
    && match tget s.tasks (e.2.ctx, e.2.task) with | some t => t.status = .ready || t.status = .running | none => false
/-- The ready order: effective priority, then the time of becoming READY. -/
def State.before (s : State) (a b : Nat × Grid) : Bool :=
  s.gridPrio a.2 > s.gridPrio b.2 || (s.gridPrio a.2 = s.gridPrio b.2 && s.gridOrder a.2 ≤ s.gridOrder b.2)
def insertBy {α : Type} (le : α → α → Bool) (x : α) : List α → List α
  | [] => [x]
  | y :: ys => if le x y then x :: y :: ys else y :: insertBy le x ys
def sortBy {α : Type} (le : α → α → Bool) : List α → List α
  | [] => []
  | x :: xs => insertBy le x (sortBy le xs)
def State.readyOrder (s : State) (part : Nat) : List (Nat × Grid) := sortBy s.before (s.placeable part)

/-- Teams that stand on a core, or hold a resident number there while saved or shadowed. -/
def State.teamsOn (s : State) (core : Nat) : List (Nat × Team) := s.teams.filter fun e => e.2.cores.contains core
/-- A core has room for one more team and for a codebook bank of its grid (R16, R30, R148). -/
def State.teamRoom (s : State) (gid core : Nat) : Bool :=
  (s.teamsOn core).length < 16 && ((s.core core).banks.contains gid || (s.core core).banks.length < 16)
def overlaps (a n b m : Nat) : Bool := a < b + m && b < a + n && n > 0 && m > 0
/-- The lane quarter or half for a new gang on a bench: the first with room for its ring, none when there is none (R35, R37). -/
def State.freeQuarter (s : State) (core bench width granules : Nat) : Option Nat :=
  (List.range (if width = 8 then 4 else if width = 16 then 2 else 1)).find? fun q =>
    s.ringFits { Gang.empty with width := width, core := core, bench := bench, quarter := q } granules
/-- The role of gang g of a team (R47). -/
def Launch.roleOf (l : Launch) (g : Nat) : Role :=
  if !l.roles then .any else if g < l.copies then .copy else if g < l.copies + l.matrices then .matrix else .vector
/-- A gang as the dispatcher places it (R38) (log 7). -/
def Launch.freshGang (l : Launch) (base core bench quarter g pid cycle pt : Nat) : Gang :=
  { Gang.empty with
    width := l.width, role := l.roleOf g, core := core, bench := bench, quarter := quarter, live := fullMask l.width,
    sregs := [(0, BitVec.ofNat 32 l.param), (1, BitVec.ofNat 32 (l.param / 2 ^ 32)), (2, BitVec.ofNat 32 base)],
    paths := [{ Path.empty with id := pid, hdr := l.entry, mask := fullMask l.width }], ringSize := l.winMin, readySince := some cycle, pt := pt }
/-- Place gangs g, g + 1, ... of a team; none when a ring does not fit. A pending SWAP names them too (R277). -/
def State.placeGangs (s : State) (n : Nat) (t : Team) (l : Launch) (g : Nat) : Nat → Option State
  | 0 => some s
  | k + 1 =>
    let core := homeCore t g
    if (s.gangsOnBench core (g % 4)).length ≥ 16 then none
    else
      match s.freeQuarter core (g % 4) l.width l.winMin with
      | none => none
      | some q =>
        let fresh := l.freshGang t.scratchBase core (g % 4) q g s.seq (s.core core).cycle (s.part t.ctx.part).horizon
        let fresh := if (s.part t.ctx.part).swapping then { fresh with preempt := .pending 0 } else fresh
        State.placeGangs ((s.setGang ⟨n, g⟩ fresh).bump) n t l (g + 1) k
/-- The benches' registers of a core (R32, R33) (log 38). -/
def State.regRoom (s : State) (l : Launch) (core : Nat) : Bool :=
  let here := ((s.teamsOn core).filter fun e => e.2.res = .placed).map fun e => (s.grid e.2.grid).launch
  let sum (f : Launch → Nat) : Nat := (here.map f).foldl (· + ·) 0
  sum Launch.tiles + l.tiles ≤ 8 && sum Launch.accs + l.accs ≤ 4 && sum Launch.tables + l.tables ≤ 4
def State.scratchRoom (s : State) (l : Launch) (core base : Nat) : Bool :=
  base % 16 = 0 && base + l.alloc ≤ 524288
  && !((s.teamsOn core).any fun e => e.2.res = .placed && e.2.core = core && overlaps base l.alloc e.2.scratchBase (s.grid e.2.grid).launch.alloc)
/-- The scratchpad as the dispatcher writes it at placement: barrier objects invalid, ring blocks empty (R228, R234) (log 7, log 111). -/
def State.initScratch (s : State) (l : Launch) (core base : Nat) : State :=
  let b0 := base + l.scratch
  let s := (List.range l.barriers).foldl (fun s i =>
    (List.range 3).foldl (fun s j => s.setObjWord core (b0 + 16 * i) (j + 1) 0) (s.setObjWord core (b0 + 16 * i) 0 invalidWord)) s
  (List.range l.rings.length).foldl (fun s r =>
    let o := base + l.ringOff r
    (List.range 3).foldl (fun s j => s.setObjWord core o (j + 1) 0) (s.setObjWord core o 0 (ringWord 0 0 (l.rings.getD r 1 - 1)))) s
/-- The x, y, z of a linear index (R27). -/
def Grid.coords (g : Grid) (n : Nat) : Nat × Nat × Nat :=
  if g.x = 0 || g.launch.y = 0 then (0, 0, 0) else (n % g.x, n / g.x % g.launch.y, n / g.x / g.launch.y)
/-- Place a grid's next team at a place, none when it does not fit there (log 37). -/
def State.placeTeam (s : State) (part gid : Nat) (g : Grid) (p : Placement) : Option State :=
  let l := g.launch
  let (x, y, z) := g.coords g.next
  let n := s.seq
  let t : Team := { Team.empty with
    grid := gid, ctx := g.ctx, x := x, y := y, z := z, core := p.core, pair := l.pair, resident := p.resident, scratchBase := p.scratchBase }
  let cores := t.cores
  if !(cores.all fun c => (s.part part).ownsCore c && s.coreUp c && s.teamRoom gid c && s.regRoom l c) || (l.pair && p.core % 2 ≠ 0) || p.resident ≥ 16
      || (s.teamsOn p.core).any (fun e => e.2.core = p.core && e.2.resident = p.resident) || !s.scratchRoom l p.core p.scratchBase then none
  else
    let s := (s.setTeam n t).bump
    match s.placeGangs n t l 0 l.gangs with
    | none => none
    | some s =>
      let s := s.initScratch l p.core p.scratchBase
      let s := cores.foldl (fun s c => s.modCore c fun k => { k with banks := if k.banks.contains gid then k.banks else gid :: k.banks }) s
      let s := s.setGrid gid { g with next := g.next + 1 }
      some (if (tget s.tasks (g.ctx, g.task)).any (fun k => k.status = .ready) then s.setStatus g.ctx g.task .running else s)
/-- The next team of a grid fits somewhere in the partition. -/
def State.fitsSomewhere (s : State) (part gid : Nat) (g : Grid) : Bool :=
  (s.part part).dies.any fun d => (List.range 64).any fun i => (List.range 16).any fun r =>
    (0 :: ((s.teamsOn (64 * d + i)).map fun e => e.2.scratchBase + (s.grid e.2.grid).launch.alloc)).any fun b => (s.placeTeam part gid g ⟨64 * d + i, r, b⟩).isSome
/-- Walk the ready order: the first grid with a team that fits somewhere gets this place, if it fits here. -/
def State.placeFirst (s : State) (part : Nat) (p : Placement) : List (Nat × Grid) → State
  | [] => s
  | (gid, g) :: rest =>
    match s.placeTeam part gid g p with
    | some s => s
    | none => if s.fitsSomewhere part gid g then s else State.placeFirst s part p rest
def execTeamPlace (part : Nat) (place : Placement) (s : State) : Host.Outcome State Fault Refusal := .next (s.placeFirst part place (s.readyOrder part))

end Sys2Proof.Machine
end

