-- ==== Sys2Proof/Machine/Former.lean ====
section
/-! DEFINITION. Spawn memory, its overflow area, and the former (spec/03_divergence.md R59, R62, R63; spec/04_registers.md R93; spec/02_execution_model.md R33, R36, R37, R47). -/
namespace Sys2Proof.Machine

-- Spawn memory (R15, R59, R93)

/-- Spawn memory of a core. -/
def spawnMemory : Nat := 131072
/-- Entries that stand in a core's spawn memory, in the order of their writing: those of the gangs that they left there. -/
def State.spawnOn (s : State) (core : Nat) : List (Nat × Spawn) :=
  sortBy (fun a b => a.2.order ≤ b.2.order) (s.teams.flatMap fun e => if e.2.res ≠ .placed then [] else
    (e.2.spawn.filter fun x => x.cell.isNone && (s.gang ⟨e.1, x.depart.gangLeft⟩).core = core).map fun x => (e.1, x))
/-- Spawn memory that the paths beyond the eight resident ones of a gang take (R55). That a divided path, which waits for its parts, is none of the eight is the model's choice (log 38). -/
def Gang.pathUse (g : Gang) : Nat := (Config.pathBytes % 33) * (g.allPaths.length - 8)
def State.spawnUse (s : State) (core : Nat) : Nat :=
  ((s.spawnOn core).map fun e => e.2.bytes).foldl (· + ·) 0
    + ((s.gangs.filter fun e => e.2.core = core && (s.team e.1.team).res = .placed).map fun e => e.2.pathUse).foldl (· + ·) 0
/-- The address of an overflow cell (R89, R93). -/
def State.cellAddr (s : State) (team cell : Nat) : Nat :=
  let l := (s.grid (s.team team).grid).launch
  s.spBase team + l.gangs * l.width * l.stk + 1024 * cell
/-- The bytes of an entry (R59). -/
def Spawn.image (e : Spawn) : List Byte :=
  let d := e.depart
  let bs := bytesOfNat 4 e.target ++ bytesOfNat 4 (d.rpc.getD 0xFFFFFFFF) ++ bytesOfNat 2 d.depth ++ bytesOfNat 1 d.laneLeft ++ bytesOfNat 1 d.gangLeft
    ++ bytesOfNat 1 e.level ++ bytesOfNat 1 e.homeLane ++ bytesOfNat 1 e.homeGang ++ bytesOfNat 1 0
    ++ e.vregs.flatMap (fun r => bytesOfNat 4 r.2.toNat) ++ e.sregs.flatMap (fun r => bytesOfNat 4 r.2.toNat) ++ bytesOfNat 4 e.preds.toNat
  bs ++ List.replicate (e.bytes - bs.length) 0
/-- The carried values as the cell's bytes give them; the departure record is the former's own. -/
def Spawn.reload (e : Spawn) (bs : List Byte) : Spawn :=
  let word (i : Nat) : Nat := leField bs (16 + 4 * i) 4
  let n := e.vregs.length
  let m := e.sregs.length
  { e with
    vregs := (List.range n).map (fun i => ((e.vregs.getD i (0, 0)).1, BitVec.ofNat 32 (word i))),
    sregs := (List.range m).map (fun i => ((e.sregs.getD i (0, 0)).1, BitVec.ofNat 32 (word (n + i)))),
    preds := BitVec.ofNat 16 (word (n + m)), cell := none }
def Spawn.same (a b : Spawn) : Bool := a.homeGang = b.homeGang && a.homeLane = b.homeLane
def State.putSpawn (s : State) (team : Nat) (e : Spawn) : State :=
  s.modTeam team fun t => { t with spawn := t.spawn.map fun x => if x.same e then e else x }
/-- The lowest free cell. -/
def freeCell (es : List Spawn) : Nat := ((List.range (es.length + 1)).find? fun n => !(es.any fun e => e.cell = some n)).getD 0
/-- The porter moves one entry to its team's overflow area. -/
def State.moveOut (s : State) (team : Nat) (e : Spawn) : Room :=
  let n := freeCell (s.team team).spawn
  let core := (s.gang ⟨team, e.depart.gangLeft⟩).core
  match s.locs (s.team team).ctx (some core) .spill none (s.cellAddr team n) e.bytes with
  | .error (va, f) => .fault s va f .spill
  | .ok ls => .ok (((s.fillRange (some core) (s.team team).ctx (s.cellAddr team n) e.bytes).agentStore (s.team team).ctx.part ls e.image).putSpawn team { e with cell := some n })
/-- Room for new entries on a core: the oldest entries move out until they fit. -/
def State.spawnRoom (s : State) (core bytes : Nat) : Nat → Room
  | 0 => .stall
  | fuel + 1 =>
    if s.spawnUse core + bytes ≤ spawnMemory then .ok s
    else
      match s.spawnOn core with
      | [] => .stall
      | (t, e) :: _ =>
        match s.moveOut t e with
        | .ok s => State.spawnRoom s core bytes fuel
        | r => r
/-- The core in whose spawn memory an entry belongs: that of the gang it left. -/
def State.spawnCore (s : State) (team : Nat) (e : Spawn) : Nat := (s.gang ⟨team, e.depart.gangLeft⟩).core
/-- The first entry of the team's overflow area that returns: the oldest of its core, once that core's spawn memory has room (R93). -/
def State.nextBack (s : State) (team : Nat) : List Spawn → List Nat → Option Spawn
  | [], _ => none
  | e :: es, seen =>
    let c := s.spawnCore team e
    if e.cell.isNone || seen.contains c then s.nextBack team es seen
    else if s.spawnUse c + e.bytes ≤ spawnMemory then some e
    else s.nextBack team es (c :: seen)
/-- SPAWN_OVERFLOW_MOVE: the oldest entry of the team's overflow area whose core's spawn memory has room returns there (R93). -/
def execSpawnOverflowMove (team : Nat) (s : State) : Host.Outcome State Fault Refusal :=
  match s.nextBack team (s.team team).spawn [] with
  | none => .next s
  | some e =>
    let core := some (s.spawnCore team e)
    match s.locs (s.team team).ctx core .refill none (s.cellAddr team (e.cell.getD 0)) e.bytes with
    | .error _ => .next s
    | .ok ls => .next (((s.fillRange core (s.team team).ctx (s.cellAddr team (e.cell.getD 0)) e.bytes).askRemote ls).putSpawn team (e.reload (ls.map s.locByte)))

-- The former (R62)

/-- The grouping key: target and carried live scalars; only threads of one role are grouped (R47). -/
abbrev SpawnKey := Nat × Tbl Nat Word × Role
/-- See log 62. -/
def Spawn.key (l : Launch) (e : Spawn) : SpawnKey := (e.target, e.sregs, l.roleOf e.homeGang)
/-- The waiting entries of a team under a key (log 62). -/
def State.underKey (s : State) (team : Nat) (key : SpawnKey) : List Spawn :=
  (s.team team).spawn.filter fun e => e.key (s.grid (s.team team).grid).launch = key
def State.spawnKeys (s : State) (team : Nat) : List SpawnKey := ((s.team team).spawn.map (Spawn.key (s.grid (s.team team).grid).launch)).eraseDups
/-- A gang that is parked, by a page fault too (R51), waits at a reconvergence PC, or has ended (R62). -/
def State.idleGang (s : State) (k : GangKey) : Bool :=
  let g := s.gang k
  g.remaining = 0 || g.faultWait.isSome || g.paths.all fun p => p.isParked || p.isWaiting
def State.teamIdle (s : State) (team : Nat) : Bool := (s.gangsOf team).all s.idleGang
def State.keyFull (s : State) (team : Nat) (key : SpawnKey) : Bool := (s.underKey team key).length ≥ (s.grid (s.team team).grid).launch.width
def State.keyOld (s : State) (team : Nat) (key : SpawnKey) : Bool :=
  match s.underKey team key with
  | e :: _ => e.age ≥ (s.ctx (s.team team).ctx).formwait
  | [] => false

-- Formed gangs (R63)

/-- The windowed granules of some register names. -/
def frameGranules (ns : List Nat) : List Nat := ((ns.map granuleOf).eraseDups).filter fun x => x ≥ 2
/-- A ring that holds an entry's carried frame, with the statics: the launch minimum or what the frame needs, whose lane-words the bench must have (R37, R63, R84) (log 62). -/
def Spawn.ring (l : Launch) (e : Spawn) : Nat := max l.winMin (2 + (frameGranules (e.vregs.map Prod.fst)).length)
/-- A formed gang as it starts. -/
def formedGang (l : Launch) (role : Role) (core bench quarter pid cycle pt : Nat) (es : List Spawn) : Gang :=
  let n := es.length
  let lanes := List.range n
  let regs := lanes.flatMap fun i => match es[i]? with | some e => e.vregs.map fun r => ((r.1, i), r.2) | none => []
  let preds := (List.range 16).map fun p => (p, maskOf (lanes.filter fun i => match es[i]? with | some e => e.preds.getLsbD p | none => false))
  let grans := frameGranules (regs.map fun r => r.1.1)
  { Gang.empty with
    width := l.width, role := role, core := core, bench := bench, quarter := quarter, home := es.map (fun e => (e.homeGang, e.homeLane)),
    live := maskOf lanes, vregs := regs, sregs := (es.head?.map Spawn.sregs).getD [], preds := preds, taken := grans,
    paths := [{ Path.empty with id := pid, hdr := (es.head?.map Spawn.target).getD 0, mask := maskOf lanes }], ringSize := max l.winMin (2 + grans.length), readySince := some cycle, pt := pt }
/-- A free index of a formed gang: the lowest one, which is the model's choice (R63) (log 62). -/
def State.formedIndex (s : State) (team : Nat) : Option Nat := (List.range 32).find? fun i => (tget s.gangs ⟨team, 32 + i⟩).isNone
/-- The first bench of the team's span with room for a gang and its ring (R33, R37), with its lane quarter; which bench of those with room is the model's choice (log 62). -/
def State.formedPlace (s : State) (team ring : Nat) : Option (Nat × Nat × Nat) :=
  let t := s.team team
  let l := (s.grid t.grid).launch
  t.span.findSome? fun b =>
    if (s.gangsOnBench b.1 b.2).length ≥ 16 then none
    else match s.freeQuarter b.1 b.2 l.width ring with | some q => some (b.1, b.2, q) | none => none
/-- A thread's wait counts towards FORMWAIT while a formed gang of its could be placed: a bench has room and an index is free (R63). -/
def State.waitCounts (s : State) (team : Nat) (e : Spawn) : Bool :=
  (s.formedIndex team).isSome && (s.formedPlace team (e.ring (s.grid (s.team team).grid).launch)).isSome
/-- A pre-emption of the team holds for its new gangs too, from the time of the request (R277). -/
def State.teamPreempt (s : State) (team : Nat) : Preempt :=
  match (s.gangsOf team).map fun k => (s.gang k).preempt with
  | .pending n :: _ => .pending n
  | .stopped :: _ => .pending 140000
  | _ => .no
/-- Release the threads that wait under a key, the oldest W of them, into a formed gang: none where no bench or index is free, or one of them stands in the overflow area (R62, R63, R93). -/
def State.release (s : State) (team : Nat) (key : SpawnKey) : Option State :=
  let t := s.team team
  let l := (s.grid t.grid).launch
  let es := (s.underKey team key).take l.width
  match s.formedIndex team, s.formedPlace team ((es.map (Spawn.ring l)).foldl max l.winMin) with
  | some i, some (core, bench, q) =>
    if t.res ≠ .placed || es.isEmpty || es.any fun e => e.cell.isSome then none
    else
      let s := es.foldl (fun s e => s.catchUp ⟨team, e.depart.gangLeft⟩) s
      let g := formedGang l key.2.2 core bench q s.seq (s.core core).cycle (s.part t.ctx.part).horizon es
      let s := (s.setGang ⟨team, 32 + i⟩ { g with preempt := s.teamPreempt team }).bump
      some (s.modTeam team fun t => { t with spawn := t.spawn.filter fun e => !(es.any e.same) })
  | _, _ => none
/-- The first of some keys that can be released. -/
def State.releaseFirst (s : State) (team : Nat) (keys : List SpawnKey) : State := (keys.findSome? (s.release team)).getD s
/-- FORMED_GANG_RELEASE: the first key with a full gang waiting that can be released, or, when every other gang of the team waits, the first key. -/
def execFormedGangRelease (team : Nat) (s : State) : Host.Outcome State Fault Refusal :=
  let keys := s.spawnKeys team
  .next (s.releaseFirst team (keys.filter (s.keyFull team) ++ if s.teamIdle team then keys else []))
/-- FORMWAIT_EXPIRY: the first key that can be released whose oldest entry is FORMWAIT core cycles old. -/
def execFormwaitExpiry (team : Nat) (s : State) : Host.Outcome State Fault Refusal :=
  .next (s.releaseFirst team ((s.spawnKeys team).filter (s.keyOld team)))

end Sys2Proof.Machine
end

