-- ==== Sys2Proof/Machine/Memory.lean ====
section
/-! DEFINITION. Class MEM (spec/16_ref_e_m.md R345, R366 to R368; spec/17_ref_n_z.md R385 to R387, R391, R400, R401; spec/15_ref_a_d.md R307 to R309, R323, R324, R326;
spec/09_consistency.md R202 to R213; spec/10_async.md R236 to R238). -/
namespace Sys2Proof.Machine

-- Loads, stores, atomics

def execLd (g : Guard) (a : LoadArgs) (s : State) : Host.Outcome State Fault Refusal := s.memInstr (.ld g a)
def execLdPoll (g : Guard) (a : LoadArgs) (s : State) : Host.Outcome State Fault Refusal := s.memInstr (.ldPoll g a)
def execLdc (g : Guard) (a : LoadArgs) (s : State) : Host.Outcome State Fault Refusal := s.memInstr (.ldc g a)
def execLds (g : Guard) (a : LoadArgs) (s : State) : Host.Outcome State Fault Refusal := s.memInstr (.lds g a)
def execLdp (g : Guard) (a : LoadArgs) (s : State) : Host.Outcome State Fault Refusal := s.memInstr (.ldp g a)
def execSt (g : Guard) (a : StoreArgs) (s : State) : Host.Outcome State Fault Refusal := s.memInstr (.st g a)
def execSts (g : Guard) (a : StoreArgs) (s : State) : Host.Outcome State Fault Refusal := s.memInstr (.sts g a)
def execStp (g : Guard) (a : StoreArgs) (s : State) : Host.Outcome State Fault Refusal := s.memInstr (.stp g a)
def execAtom (g : Guard) (a : AtomArgs) (s : State) : Host.Outcome State Fault Refusal := s.memInstr (.atom g a)
def execAtoms (g : Guard) (a : AtomArgs) (s : State) : Host.Outcome State Fault Refusal := s.memInstr (.atoms g a)
def execAtomp (g : Guard) (a : AtomArgs) (s : State) : Host.Outcome State Fault Refusal := s.memInstr (.atomp g a)
def execRed (g : Guard) (a : RedArgs) (s : State) : Host.Outcome State Fault Refusal := s.memInstr (.red g a)
def execCas (g : Guard) (a : CasArgs) (s : State) : Host.Outcome State Fault Refusal := s.memInstr (.cas g a)
def execCass (g : Guard) (a : CasArgs) (s : State) : Host.Outcome State Fault Refusal := s.memInstr (.cass g a)
def execCmntWb (g : Guard) (a : LineArgs) (s : State) : Host.Outcome State Fault Refusal := s.memInstr (.cmntWb g a)
def execCmntDrop (g : Guard) (a : LineArgs) (s : State) : Host.Outcome State Fault Refusal := s.memInstr (.cmntDrop g a)

-- PREF (R385)

/-- Fill the line that holds an address into L1 under the lease rules, which leaves the gang's program time as it is; a lane that meets any cause, or a host page, or another package's
memory, which lies outside the partition (R22, R23), is dropped (log 18). -/
def State.prefetch (s : State) (k : GangKey) (va : Nat) : State :=
  let core := (s.gang k).core
  match s.translate (s.team k.team).ctx (some core) .load none va with
  | .error _ => s
  | .ok (.mem pa kd coh ra) =>
    if packageOf pa ≠ s.pkg.pkgid || s.uncorrectable (.mem pa kd coh ra) .load || (coh = 3 && !ra && s.lagging (dieOf core) pa) then s
    else
      let pt := (s.gang k).pt
      let fill (s : State) (i : Nat) : State :=
        let a := lineOf pa * 1024 + 256 * i
        if coh ≥ 2 then (s.missLoad k core a kd 256 true true).1 else (s.plainLoad k core a kd 256 false 0).1
      ((List.range 4).foldl fill s).modGang k fun g => { g with pt := min g.pt pt }
  | .ok (.scratch _ _) => s
def prefL1Effect (a : LineArgs) (x : Issue) (s : State) : Act :=
  .done (x.lanes.foldl (fun s l => s.prefetch x.key (x.address s a.memOp l)) s)
/-- See log 18. -/
def execPrefL1 (g : Guard) (a : LineArgs) (s : State) : Host.Outcome State Fault Refusal := s.issueWord (.prefL1 g a) false (prefL1Effect a)
/-- PREF.LLC fills a slice, whose content no access shows (R195, R197). -/
def execPrefLlc (g : Guard) (a : LineArgs) (s : State) : Host.Outcome State Fault Refusal := s.issueWord (.prefLlc g a) false fun _ s => .done s

-- FENCE (R212)

/-- A FENCE; the return of one that waits for jobs observes their completion (R215). -/
def fenceEffect (kinds : Nat) (x : Issue) (s : State) : Act :=
  if s.fenceMet x.key kinds then .done (if kinds.testBit 2 then s.observe x.key else s) else .hold (.fence kinds)
def execFenceRepl (g : Guard) (s : State) : Host.Outcome State Fault Refusal := s.issueWord (.fenceRepl g) false (fenceEffect 1)
def execFenceHost (g : Guard) (s : State) : Host.Outcome State Fault Refusal := s.issueWord (.fenceHost g) false (fenceEffect 2)
def execFenceEng (g : Guard) (s : State) : Host.Outcome State Fault Refusal := s.issueWord (.fenceEng g) false (fenceEffect 4)
def execFenceAll (g : Guard) (s : State) : Host.Outcome State Fault Refusal := s.issueWord (.fenceAll g) false (fenceEffect 7)

-- Slice queues (R236 to R238, R386, R387)

/-- A queue operation: push or pop, waiting or not, its element width, its descriptor address and its operands. -/
structure QueueOp where
  push : Bool
  wait : Bool
  w : Nat
  ab : Operand
  data : Operand
  regs : Nat
  pred : Operand
  deriving DecidableEq, Repr

def pushOp (a : QueueArgs) : QueueOp := ⟨true, false, a.w.bytes, a.ab, a.s2, a.w.regs, a.d⟩
def popOp (wait : Bool) (a : QueueArgs) : QueueOp := ⟨false, wait, a.w.bytes, a.ab, a.d, a.w.regs, a.s2⟩

/-- A queue descriptor (R236). -/
structure QueueDesc where
  base : Nat
  capacity : Nat
  size : Nat
  head : Nat
  tail : Nat
  deriving DecidableEq, Repr
def QueueDesc.elem (q : QueueDesc) (n : Nat) : Nat := (q.base + n % q.capacity * q.size) % 2 ^ 64
def QueueDesc.count (q : QueueDesc) : Nat := (q.tail + 2 ^ 32 - q.head) % 2 ^ 32

def Loc.plus (l : Loc) (n : Nat) : Loc :=
  match l with
  | .mem pa kd coh ra => .mem (pa + n) kd coh ra
  | .scratch c off => .scratch c (off + n)

/-- The descriptor at a location, none when it holds a reserved value (R237). -/
def State.queueAt (s : State) (l : Loc) : Nat × Option QueueDesc :=
  let word (i : Nat) : Nat := s.homeRead (l.plus i) 4
  let size := 2 ^ (2 + word 12 % 4)
  (size, if word 12 % 4 = 3 || word 12 ≥ 4 || word 8 = 0 || word 8 > 2 ^ 24 then none
    else some ⟨s.homeRead l 8, word 8, size, word 16, word 20⟩)

/-- The causes of one lane's descriptor and element, in R387's order, an element's misalignment after its causes of R189 (R198), a word that cannot be corrected where it is first needed (log 45); i numbers the
lane's element. A fault's address is the descriptor's or the element's, and its rank its place in that order. -/
def State.checkQueue (s : State) (k : GangKey) (o : QueueOp) (lane va i : Nat) : Except Bad Loc :=
  let c := (s.team k.team).ctx
  let core := (s.gang k).core
  match s.translate c (some core) .atomic none va with
  | .error e => .error ⟨lane, va, causeRank e.cause, e⟩
  | .ok l =>
    if va % 32 ≠ 0 then .error ⟨lane, va, 20, ⟨0x14, none⟩⟩
    else if s.uncorrectable l .atomic then .error ⟨lane, va, 21, ⟨0x60, none⟩⟩
    else if (s.queueAt l).1 ≠ o.w then .error ⟨lane, va, 22, ⟨0x11, none⟩⟩
    else
      match (s.queueAt l).2 with
      | none => .error ⟨lane, va, 23, ⟨0x11, none⟩⟩
      | some q =>
        if if o.push then q.count + i ≥ q.capacity else q.count ≤ i then .ok l
        else
          let kind : AccessKind := if o.push then .store else .load
          let a := q.elem ((if o.push then q.tail else q.head) + i)
          match s.translate c (some core) kind none a with
          | .error e => .error ⟨lane, a, 30 + causeRank e.cause, e⟩
          | .ok e =>
            if a % o.w ≠ 0 then .error ⟨lane, a, 50, ⟨0x14, none⟩⟩
            else if s.uncorrectable e kind then .error ⟨lane, a, 51, ⟨0x60, none⟩⟩
            else .ok l
/-- Every lane's descriptor with the number of earlier lanes that name it. -/
def queueLanes (addrs : Tbl Nat Nat) : List (Nat × Nat × Nat) :=
  addrs.map fun e => (e.1, e.2, (addrs.filter fun f => f.1 < e.1 && f.2 = e.2).length)
def State.checkQueues (s : State) (k : GangKey) (o : QueueOp) (addrs : Tbl Nat Nat) : Option LaneFault :=
  worstBad ((queueLanes addrs).filterMap fun e => match s.checkQueue k o e.1 e.2.1 e.2.2 with | .error f => some f | .ok _ => none)

/-- A store of a queue operation: at the home slice, by a packet where another package holds the word (R237, R294). -/
def State.queueStore (s : State) (k : GangKey) (core : Nat) (l : Loc) (w x : Nat) (ts : List ThreadKey) : State :=
  (s.homeWrite k core l w x ts).sendAt l fun pa kd => .write pa kd (bytesOfNat w x)
/-- A queue operation that succeeds on no element, full or empty: a load of the descriptor at its home slice (R205). -/
def State.queueLook (s : State) (k : GangKey) (core : Nat) (l : Loc) (ts : List ThreadKey) : State :=
  ((s.beforeAtomic core l 24 ts).sendRead l 24).timeLoad k l.timeKey
/-- The slice's own bytes of a descriptor, 24 to 31, after an operation (R236: used by the slice) (log 78). -/
def State.sliceTouch (s : State) (k : GangKey) (core : Nat) (l : Loc) (ts : List ThreadKey) : State :=
  let x := natOfBytes ((List.range 8).map fun i => Config.sliceByte (8 * s.freeNext + i))
  (s.queueStore k core (l.plus 24) 8 x ts).useFree
/-- The oldest path that waits on a queue issues its QPOP.WAIT again (R238). -/
def State.wakeQueue (s : State) (pa : Nat) : State :=
  let seqs := s.gangs.flatMap fun e => e.2.allPaths.filterMap fun p => match p.st with | .parked (.queue a n) => if a = pa then some n else none | _ => none
  match seqs with
  | [] => s
  | n :: ns =>
    let first := ns.foldl min n
    s.retry fun _ on => match on with | .queue a m => a = pa && m = first | _ => false
def Loc.pa (l : Loc) : Nat := match l with | .mem pa _ _ _ => pa | .scratch c off => scratchLine c off

/-- One lane's operation at the home slice: whether it succeeded, and the element popped (R387) (log 77). A push is a store performed and so an event of progress; R53 and R387 leave
it open whether a pop is an atomic that succeeds, and the model counts no progress for it (log 77). -/
def State.queueLane (s : State) (k : GangKey) (o : QueueOp) (lane va x : Nat) : State × Bool × Nat :=
  let c := (s.team k.team).ctx
  let core := (s.gang k).core
  let ts := [(s.gang k).threadAt k lane]
  match s.translate c (some core) .atomic none va with
  | .error _ => (s, false, 0)
  | .ok l =>
    match (s.queueAt l).2 with
    | none => (s, false, 0)
    | some q =>
      if o.push then
        if q.count ≥ q.capacity then (s.queueLook k core l ts, false, 0)
        else
          match s.translate c (some core) .store none (q.elem q.tail) with
          | .error _ => (s, false, 0)
          | .ok e =>
            let s := (s.beforeAtomic core l 24 ts).queueStore k core e o.w x ts
            let s := s.queueStore k core (l.plus 20) 4 ((q.tail + 1) % 2 ^ 32) ts
            ((((s.sliceTouch k core l ts).progress k).wakeQueue l.pa), true, 0)
      else if q.count = 0 then (s.queueLook k core l ts, false, 0)
      else
        match s.translate c (some core) .load none (q.elem q.head) with
        | .error _ => (s, false, 0)
        | .ok e =>
          let s := (((s.beforeAtomic core l 24 ts).beforeAtomic core e o.w ts).sendRead e o.w).timeLoad k e.timeKey
          let v := s.homeRead e o.w
          let s := (s.observe k).queueStore k core (l.plus 16) 4 ((q.head + 1) % 2 ^ 32) ts
          (s.sliceTouch k core l ts, true, v)
/-- The lanes in ascending order; stop says to end at the first lane that fails. Answers each lane that acted with its success and element (log 77). -/
def State.queueRun (s : State) (k : GangKey) (o : QueueOp) (data : Tbl Nat Nat) (stop : Bool) : Tbl Nat Nat → State × List (Nat × Bool × Nat)
  | [] => (s, [])
  | (l, va) :: rest =>
    let (s, ok, v) := s.queueLane k o l va (tgetD data l 0)
    if stop && !ok then (s, [])
    else
      let (s, rs) := State.queueRun s k o data stop rest
      (s, (l, ok, v) :: rs)

/-- Register writes of the lanes that acted: the predicate, and a popped element in its data registers. -/
def queueWrites (o : QueueOp) (d pq : Dest) (rs : List (Nat × Bool × Nat)) : List RegWrite :=
  rs.flatMap fun r => (if !o.push && r.2.1 then d.writes r.1 r.2.2 else []) ++ pq.writes r.1 (if r.2.1 then 1 else 0)
/-- A scalar destination takes the lowest lane's element. -/
def scalarOnce (d : Dest) (ws : List RegWrite) : List RegWrite :=
  match d with
  | .scal _ n => (ws.filter fun w => match w with | .scal .. => true | _ => false).take n ++ ws.filter fun w => match w with | .scal .. => false | _ => true
  | _ => ws
def QueueOp.dests (o : QueueOp) (g : Gang) : Dest × Dest := (g.dest o.data o.regs, g.dest o.pred 1)
def queueList (o : QueueOp) (d pq : Dest) : List Dest := if o.push then [pq] else [d, pq]

/-- How many paths wait on a queue (R238). -/
def State.queueWaiters (s : State) (pa : Nat) : Nat :=
  ((s.gangs.flatMap fun e => e.2.allPaths.filter fun p => match p.st with | .parked (.queue a _) => a = pa | _ => false).map Path.id).length
/-- The physical address of the descriptor that a waiting lane names. -/
def State.queuePa (s : State) (k : GangKey) (va : Nat) : Nat :=
  match s.translate (s.team k.team).ctx (some (s.gang k).core) .atomic none va with
  | .ok l => l.pa
  | .error _ => 0

/-- The lanes of a queue instruction that have still to act: a QPOP.WAIT issued again pops for the lanes left. -/
def queueActive (o : QueueOp) (x : Issue) : List Nat := if o.wait && x.path.since ≠ 0 then lanesOf (x.active &&& x.path.left) x.gang.width else x.lanes
/-- Wait for the queue: results popped so far are written, the path parks with the lanes left (R238). -/
def State.queueWait (s : State) (k : GangKey) (path since pa : Nat) (left : Mask) (ws : List RegWrite) : State :=
  let s := s.modGang k fun g => (g.writeRegs ws).modPath path fun p => { p with left := left, since := since }
  (s.park k path (.queue pa since)).bump

/-- QPUSH and QPOP act at once in every lane, after every earlier access of the gang. -/
def queueEffect (i : Instr) (o : QueueOp) (x : Issue) (s : State) : Act :=
  let s := s.catchUp x.key
  let lanes := queueActive o x
  let addrs := lanes.map fun l => (l, x.read s o.ab 2 .int l)
  let data := lanes.map fun l => (l, if o.push then x.read s o.data o.regs .int l else 0)
  let (d, pq) := o.dests x.gang
  let ds := queueList o d pq
  match s.checkQueues x.key o addrs with
  | some f => .mfault (f.trap addrs data .atomic (some .ld) ds)
  | none =>
    let s := s.fillTlbs x.key (addrs.map Prod.snd)
    let (s, rs) := s.queueRun x.key o data o.wait addrs
    let ws := scalarOnce d (queueWrites o d pq rs)
    let rest := lanes.filter fun l => !(rs.any fun r => r.1 = l)
    match rest with
    | [] => .done (s.addResult x (some .ld) i.lookahead ds ws false)
    | l :: _ =>
      let pa := s.queuePa x.key (tgetD addrs l 0)
      if s.queueWaiters pa ≥ 64 then
        let s := s.addResult x (some .ld) i.lookahead ds (ws ++ rest.flatMap fun l => pq.writes l 0) false
        .moved ((s.advance x.key x.path.id).demote x.key x.path.id)
      else .moved (s.queueWait x.key x.path.id (if x.path.since = 0 then s.seq else x.path.since) pa (maskOf rest) ws)

def execQpush (g : Guard) (a : QueueArgs) (s : State) : Host.Outcome State Fault Refusal :=
  s.issueWord (.qpush g a) false (queueEffect (.qpush g a) (pushOp a))
def execQpop (g : Guard) (a : QueueArgs) (s : State) : Host.Outcome State Fault Refusal :=
  s.issueWord (.qpop g a) false (queueEffect (.qpop g a) (popOp false a))
def execQpopWait (g : Guard) (a : QueueArgs) (s : State) : Host.Outcome State Fault Refusal :=
  s.issueWord (.qpopWait g a) false (queueEffect (.qpopWait g a) (popOp true a))

end Sys2Proof.Machine
end

