-- ==== Sys2Proof/Machine/Replay.lean ====
section
/-! DEFINITION. The replay of a faulting instruction from its replay slot (spec/12_faults.md R266, R267, R271, R274): at ERET and after a serviced page fault. -/
namespace Sys2Proof.Machine

/-- Where the replayed instruction stands: TPC, TNEXT and its path. -/
structure ReplayAt where
  tpc : Nat
  tnext : Nat
  path : Nat
  deriving DecidableEq, Repr

/-- The path stands at its last word once more. -/
def Path.back (p : Path) : Path :=
  if p.pos = 0 then { p with hdr := (p.hdr + 2 ^ 64 - 8 * (p.cnt + 1)) % 2 ^ 64, pos := p.cnt } else { p with pos := p.pos - 1 }
/-- The replay faults again: the handler is entered anew with the same TNEXT, or the gang parks (R341). DIE_FENCED, of class P, stands at the word without a replay slot, and the word issues anew
(R264, R265) (log 119). -/
def State.refault (s : State) (k : GangKey) (r : Replay) (w : ReplayAt) (f : LaneFault) (kind : AccessKind) : State :=
  let t : TrapInfo := ⟨BitVec.ofNat 8 f.cause, 0, false, w.tpc, w.tnext, f.mask, f.taddr, f.faulting, some r, w.path⟩
  if f.cause = 0x61 then ((s.modGang k fun g => g.dropFlight r.flight).modPath k w.path Path.back).takeTrap k { t with tnext := w.tpc, replay := none }
  else s.memTrap k t f.miss kind
def Gang.modFlight (g : Gang) (id : Option Nat) (f : Flight → Flight) : Gang :=
  { g with flights := g.flights.map fun (e : Flight) => if some e.id = id then f e else e }
/-- The replayed instruction's results are known; they are written at its RESULT_WRITEBACK. -/
def State.replayResults (s : State) (k : GangKey) (r : Replay) (ws : List RegWrite) : State :=
  s.modGang k fun g => g.modFlight r.flight fun f => { f with results := ws, replaying := false }
def Gang.flightDest (g : Gang) (id : Option Nat) : List Dest := ((g.flights.find? fun f => some f.id = id).map Flight.dest).getD []

/-- An instruction of one access per lane: checked again in every lane, then in flight. -/
def State.replayMem (s : State) (k : GangKey) (r : Replay) (w : ReplayAt) (i : Instr) (m : MemOp) : State :=
  match s.checkLanes k m r.addrs with
  | .error f => s.refault k r w f m.kind
  | .ok ls =>
    let s := if m.translated then s.fillTlbs k (r.addrs.map Prod.snd) else s
    s.modGang k fun g => g.modFlight r.flight fun f =>
      { f with todo := laneAccesses i r.data ls, lanes := if m.once then r.mask else 0, replaying := false }

/-- QPUSH and QPOP: the lanes act at the replay; a QPOP.WAIT that still lacks elements waits at its word again. -/
def State.replayQueue (s : State) (k : GangKey) (r : Replay) (w : ReplayAt) (o : QueueOp) : State :=
  match s.checkQueues k o r.addrs with
  | some f => s.refault k r w f .atomic
  | none =>
    let (d, pq) := match (s.gang k).flightDest r.flight with
      | [a, b] => (a, b)
      | [b] => (Dest.none, b)
      | _ => (Dest.none, Dest.none)
    let (s, rs) := (s.fillTlbs k (r.addrs.map Prod.snd)).queueRun k o r.data o.wait r.addrs
    let ws := scalarOnce d (queueWrites o d pq rs)
    let rest := r.addrs.filter fun e => !(rs.any fun x => x.1 = e.1)
    match rest with
    | [] => s.replayResults k r ws
    | (_, va) :: _ =>
      let pa := s.queuePa k va
      if s.queueWaiters pa ≥ 64 then (s.replayResults k r (ws ++ rest.flatMap fun e => pq.writes e.1 0)).demote k ((s.gang k).issuerOf w.path r.mask)
      else
        let since := let n := ((s.gang k).path w.path).since; if n = 0 then s.seq else n
        let s := s.modGang k fun g => (g.dropFlight r.flight).modPath w.path Path.back
        s.queueWait k w.path since pa (maskOf (rest.map Prod.fst)) ws

/-- LAUNCH at the address it had read. -/
def State.replayLaunch (s : State) (k : GangKey) (r : Replay) (w : ReplayAt) : State :=
  match r.data with
  | [] => s.modGang k fun g => g.dropFlight r.flight
  | (lane, addr) :: _ =>
    match s.launchAt k addr with
    | .fault va f kind => s.refault k { r with addrs := [(lane, va)] } w ⟨f.cause, laneBit lane, va, f.missing, [(lane, va)]⟩ kind
    | .status s st => s.modGang k fun g => (g.writeRegs ((g.flightDest r.flight).flatMap fun d => d.writes lane st)).dropFlight r.flight
/-- CPYQ of the task it had read. -/
def State.replayCpyq (s : State) (k : GangKey) (r : Replay) (w : ReplayAt) : State :=
  match r.data with
  | [] => s.modGang k fun g => g.dropFlight r.flight
  | (lane, i) :: _ =>
    let c := (s.team k.team).ctx
    match s.queryTask c i with
    | .error e => s.refault k r w ⟨e.2.cause, laneBit lane, s.taskVa c i, e.2.missing, [(lane, s.taskVa c i)]⟩ .load
    | .ok bs => s.replayResults k r (((s.gang k).flightDest r.flight).flatMap fun d => d.writes lane (natOfBytes bs))

/-- Replay the slot's word on the slot's mask with the slot's operands; the gang's earlier accesses, the handler's too, are performed before it (R204). -/
def State.replaySlot (s : State) (k : GangKey) (r : Replay) (w : ReplayAt) : State :=
  let s := s.catchUp k
  match parse r.word with
  | .error _ => s.modGang k fun g => g.dropFlight r.flight
  | .ok i =>
    match i.memOp, i with
    | some m, i => s.replayMem k r w i m
    | none, .qpush _ a => s.replayQueue k r w (pushOp a)
    | none, .qpop _ a => s.replayQueue k r w (popOp false a)
    | none, .qpopWait _ a => s.replayQueue k r w (popOp true a)
    | none, .launch .. => s.replayLaunch k r w
    | none, .cpyq .. => s.replayCpyq k r w
    | none, _ => s.modGang k fun g => g.dropFlight r.flight
def State.replay (s : State) (k : GangKey) (r : Replay) (t : TrapState) : State := s.replaySlot k r ⟨t.tpc.toNat, t.tnext.toNat, t.path⟩
/-- The watchdog of a home gang's family counts from 0 again (R275). -/
def State.restartWatch (s : State) (k : GangKey) : State := s.modGang k fun g => { g with watch := .counting, wdCycles := 0 }

end Sys2Proof.Machine
end

