-- ==== Sys2Proof/Machine/Control.lean ====
section
/-! DEFINITION. Class CTL but for ELECT, LAUNCH and GROW: branches, calls, JOIN, EXIT, traps, windows, system registers (spec/03_divergence.md R55 to R71, R440;
spec/04_registers.md R79 to R96; spec/12_faults.md R268 to R276; spec/13_code_object.md R285 to R287; spec/15_ref_a_d.md R317 to R322; spec/16_ref_e_m.md R340 to R344, R357,
R358, R362, R363; spec/17_ref_n_z.md R394, R399, R411, R418 to R420). -/
namespace Sys2Proof.Machine

-- The safe-point table (R285 to R287)

/-- An entry of .oz.safe with its record of .oz.live. -/
structure SafeEntry where
  rpc : Nat
  vregs : Nat
  sregs : Nat
  preds : Nat
  deriving DecidableEq, Repr

/-- An n-byte field of a table, an ordinary load of the core, aligned as one (R198, R287). The spec names no width: that each field is one load of its own size is the model's choice (log 57). -/
def State.tableWord (s : State) (k : GangKey) (va n : Nat) : State × Except (Nat × MFault) Nat :=
  let va := va % 2 ^ 64
  let core := (s.gang k).core
  match s.translate (s.team k.team).ctx (some core) .load none va with
  | .error e => (s, .error (va, e))
  | .ok l =>
    if va % n ≠ 0 then (s, .error (va, ⟨0x14, none⟩))
    else if s.uncorrectable l .load then (s, .error (va, ⟨0x60, none⟩))
    else
      let (s, x) := (s.fillTlb core (s.team k.team).ctx va).loadLoc k core l n false 0 []
      (s, .ok x)
/-- Fields of a table one after the other; the first fault stops. -/
def State.tableWords (s : State) (k : GangKey) : List (Nat × Nat) → State × Except (Nat × MFault) (List Nat)
  | [] => (s, .ok [])
  | (va, n) :: rest =>
    match s.tableWord k va n with
    | (s, .error e) => (s, .error e)
    | (s, .ok x) =>
      match State.tableWords s k rest with
      | (s, .error e) => (s, .error e)
      | (s, .ok xs) => (s, .ok (x :: xs))
/-- Binary search on CLAUSE among entries lo to hi - 1 (log 57). -/
def State.searchSafe (s : State) (k : GangKey) (base off lo hi : Nat) : Nat → State × Except (Nat × MFault) (Option Nat)
  | 0 => (s, .ok none)
  | fuel + 1 =>
    if lo ≥ hi then (s, .ok none)
    else
      let mid := (lo + hi) / 2
      match s.tableWord k (base + 16 + 16 * mid) 4 with
      | (s, .error e) => (s, .error e)
      | (s, .ok c) =>
        if c = off then (s, .ok (some mid))
        else if c < off then State.searchSafe s k base off (mid + 1) hi fuel
        else State.searchSafe s k base off lo mid fuel
/-- The live-mask record of an entry, none at or beyond the table's size (R287) (log 86); three loads, of 16, 8 and 2 bytes (log 57). -/
def State.readLive (s : State) (k : GangKey) (rpc i : Nat) : State × Except (Nat × MFault) (Option SafeEntry) :=
  let l := s.launchOf k
  let a := l.liveTab + 32 * i
  if i ≥ l.liveRecs then (s, .ok none)
  else
    match s.tableWords k [(a, 16), (a + 16, 8), (a + 24, 2)] with
    | (s, .error e) => (s, .error e)
    | (s, .ok ws) => (s, .ok (some ⟨rpc, wordOf ws 0, wordOf ws 1, wordOf ws 2⟩))
/-- The entry of a clause, none when the search finds nothing. -/
def State.safeEntry (s : State) (k : GangKey) (off : Nat) : State × Except (Nat × MFault) (Option SafeEntry) :=
  let base := (s.launchOf k).safe
  match s.tableWords k [(base, 4), (base + 4, 4)] with
  | (s, .error e) => (s, .error e)
  | (s, .ok head) =>
    if wordOf head 0 ≠ 0x4F5A5346 then (s, .ok none)
    else
      match s.searchSafe k base off 0 (wordOf head 1) 33 with
      | (s, .error e) => (s, .error e)
      | (s, .ok none) => (s, .ok none)
      | (s, .ok (some i)) =>
        match s.tableWords k [(base + 16 + 16 * i + 4, 4), (base + 16 + 16 * i + 8, 4)] with
        | (s, .error e) => (s, .error e)
        | (s, .ok ws) => s.readLive k (wordOf ws 0) (wordOf ws 1)
/-- Every clause of a list has an entry. -/
def State.allSafe (s : State) (k : GangKey) : List Nat → State × Except (Nat × MFault) Bool
  | [] => (s, .ok true)
  | c :: cs =>
    match s.safeEntry k c with
    | (s, .error e) => (s, .error e)
    | (s, .ok none) => (s, .ok false)
    | (s, .ok (some _)) => State.allSafe s k cs

/-- What a diverging branch finds (R56): a fault, a missing entry, or its reconvergence PC, none for a branch without reconvergence. -/
inductive SafeCheck where
  | fault (va : Nat) (f : MFault)
  | missing
  | ok (rpc : Option Nat)
  deriving DecidableEq, Repr
def noRpc : Nat := 0xFFFFFFFF
/-- The lookups of a diverging branch; ret is a CALLX's return point. -/
def State.divergeCheck (s : State) (x : Issue) (targets : List Nat) (ret : Option Nat) : State × SafeCheck :=
  match s.safeEntry x.key x.path.hdr with
  | (s, .error e) => (s, .fault e.1 e.2)
  | (s, .ok none) => (s, .missing)
  | (s, .ok (some e)) =>
    let rpc := match ret with | some r => some r | none => if e.rpc = noRpc then none else some e.rpc
    match s.allSafe x.key (targets ++ rpc.toList) with
    | (s, .error e) => (s, .fault e.1 e.2)
    | (s, .ok false) => (s, .missing)
    | (s, .ok true) => (s, .ok rpc)
/-- The answer to a fault or a missing entry. -/
def tableFault (va : Nat) (f : MFault) : Act := .restart ⟨f.cause, 0, none, va, false⟩ f.missing
def notSafe : Act := .trap (.of 0x24)

-- Division of paths (R57, R70, R71, R440)

/-- The clause header after the path's clause. -/
def Path.after (p : Path) : Nat := (p.hdr + 8 * (p.cnt + 1)) % 2 ^ 64
/-- A part of a division: where it goes (none: it stays at the branch, for a bad target), its lanes, its state. -/
structure Branch where
  hdr : Option Nat
  mask : Mask
  st : PathState
  deriving DecidableEq, Repr
/-- The children of a path with their numbers (log 59). -/
def childPaths (p : Path) (rpc : Option Nat) (link : Nat) (cs : List (Nat × Branch)) : List Path :=
  cs.map fun c =>
    let q := match c.2.hdr with | some h => p.goto h | none => p
    { q with id := c.1, mask := c.2.mask, st := c.2.st, rpc := rpc, link := link }
/-- The executing path divides. With a node, the children carry the reconvergence PC and link to it; without, they stand in the path's place and carry none (log 30). -/
def Gang.divide (g : Gang) (p : Path) (node : Option Node) (rpc : Option Nat) (cs : List (Nat × Branch)) : Gang :=
  let g := g.replacePath p.id (childPaths p rpc (match node with | some n => n.id | none => p.link) cs)
  { g with nodes := node.toList ++ g.nodes }
/-- The record of a path that is divided, under a number of its own (log 30, log 59). -/
def pathNode (p : Path) (id : Nat) (kind : NodeKind) (away : Nat) : Node := ⟨id, p.id, p.rpc, p.link, kind, away⟩
/-- Divide at a branch into new paths; the gang leaves the clause slot (log 56). -/
def State.branch (s : State) (x : Issue) (rpc : Option Nat) (cs : List Branch) : State :=
  let node := rpc.map fun _ => pathNode x.path x.path.id .branch 0
  let s := (s.modGang x.key fun g => g.divide x.path node rpc (cs.zipIdx.map fun c => (s.seq + c.2, c.1))).leaveSlot x.key
  { s with seq := s.seq + cs.length }

-- BRA (R317, R318)

/-- The target of a relative branch or call (log 56). -/
def Issue.target (x : Issue) (off : BitVec 32) : Nat := bitsOf 64 ((x.path.hdr : Int) + signedOf 32 off.toNat)

-- BRA.S (R58 to R60, R93)

/-- Bytes of a spawn entry (R59). -/
def spawnBytes (nv ns : Nat) : Nat := (16 + 4 * nv + 4 * ns + 4 + 15) / 16 * 16
/-- The departure record and carried frame of one lane (R59). -/
def State.spawnEntry (s : State) (x : Issue) (e : SafeEntry) (target : Nat) (rpc : Option Nat) (node lane : Nat) : Spawn :=
  let home := x.gang.homeOf x.key lane
  let vs := (List.range (x.launch.vtop + 1)).filter e.vregs.testBit
  let ss := (List.range x.launch.scalars).filter e.sregs.testBit
  let d : Depart := ⟨rpc, x.gang.depth, x.key.idx, lane, s.stackOff x.key lane + x.gang.reserve, node⟩
  { target := target, depart := d, level := (tgetD x.team.departs home []).length + 1, homeGang := home.1, homeLane := home.2
    vregs := vs.map fun n => (n, x.gang.readV n lane), sregs := ss.map fun n => (n, x.gang.readS n)
    preds := BitVec.ofNat 16 (((List.range 16).filter fun n => (x.gang.readP n).getLsbD lane).foldl (fun a n => a + 2 ^ n) 0)
    bytes := spawnBytes vs.length ss.length, order := s.seq, age := 0, cell := none }
/-- A departing thread whose stack already holds four entries (R60). -/
def Issue.deepDepart (x : Issue) (m : Mask) : Bool :=
  (lanesOf m x.gang.width).any fun l => (tgetD x.team.departs (x.gang.homeOf x.key l) []).length ≥ 4
/-- The wait of R58. -/
def Gang.splitReady (g : Gang) : Bool := g.counter .ld = 0 && g.counter .sp = 0 && !g.vectorPending 0
/-- Threads depart after the gang's earlier accesses (R206): entries are written, stacks pushed, the staying lanes carry on in the executing path (log 60). -/
def State.depart (s : State) (x : Issue) (m : Mask) (es : List Spawn) (node : Option Node) (rpc : Option Nat) (stay : Branch) : State :=
  let s := s.catchUp x.key
  let s := s.modTeam x.key.team fun t =>
    { t with
      spawn := t.spawn ++ es,
      departs := es.foldl (fun ds e => tset ds (e.homeGang, e.homeLane) (e.depart :: tgetD ds (e.homeGang, e.homeLane) [])) t.departs }
  let s := (s.modGang x.key fun g => { g.divide x.path node rpc [(x.path.id, stay)] with away := g.away ||| m }).leaveSlot x.key
  s.bump
/-- A diverging split: m departs to one header, the rest stay for another (log 60). -/
def splitEffect (m : Mask) (gone stay : Nat) (rpc : Option Nat) (x : Issue) (s : State) : Act :=
  if !x.gang.splitReady then .stall
  else
    match s.safeEntry x.key gone with
    | (_, .error e) => tableFault e.1 e.2
    | (_, .ok none) => notSafe
    | (s, .ok (some e)) =>
      let node := rpc.map fun _ => pathNode x.path s.seq .split (popcount m)
      let es := (lanesOf m x.gang.width).map fun l => s.spawnEntry x e gone rpc (match node with | some n => n.id | none => 0) l
      match s.spawnRoom x.gang.core ((es.map Spawn.bytes).foldl (· + ·) 0) ((s.spawnOn x.gang.core).length + 1) with
      | .ok s => .moved (s.depart x m es node rpc ⟨some stay, x.live &&& ~~~m, .ready⟩)
      | .fault s va f kind => .spill s va f kind
      | _ => .stall

/-- BRA: the lanes whose guard holds go to the target, the others to the next clause (R318). A bad target traps the path, with its address (R270) (log 55). -/
def braEffect (split : Bool) (off : BitVec 32) (x : Issue) (s : State) : Act :=
  let t := x.active
  let fall := x.live &&& ~~~t
  let target := x.target off
  let next := x.path.after
  if t = 0 then .done s
  else if off.toNat % 8 ≠ 0 || !s.fetchable x.key target then .trap ⟨0x23, 0, some x.live, x.launch.va target, true⟩
  else if fall = 0 then .moved (s.jump x.key x.path.id target)
  else
    match s.divergeCheck x [target, next] none with
    | (_, .fault va f) => tableFault va f
    | (_, .missing) => notSafe
    | (s, .ok rpc) =>
      let (m, gone, stay) := if popcount t ≤ popcount fall then (t, target, next) else (fall, next, target)
      if split && !x.deepDepart m then splitEffect m gone stay rpc x s
      else .moved (s.branch x rpc [⟨some next, fall, .ready⟩, ⟨some target, t, .ready⟩])
def braMEffect (off : BitVec 32) : Issue → State → Act := braEffect false off
def execBraM (g : Guard) (off : BitVec 32) (s : State) : Host.Outcome State Fault Refusal := s.issueWord (.braM g off) true (braMEffect off)
def braSEffect (off : BitVec 32) : Issue → State → Act := braEffect true off
def execBraS (g : Guard) (off : BitVec 32) (s : State) : Host.Outcome State Fault Refusal := s.issueWord (.braS g off) true (braSEffect off)

-- BRX (R320)

/-- The active lanes by distinct target, in ascending order of their lowest lane. -/
def groupTargets (ls : List (Nat × Nat)) : List (Nat × Mask) :=
  ((ls.map Prod.snd).eraseDups).map fun t => (t, maskOf ((ls.filter fun e => e.2 = t).map Prod.fst))
/-- See log 55. -/
def Issue.targets (x : Issue) (s : State) (ra : Operand) : List (Nat × Mask) := groupTargets (x.lanes.map fun l => (l, x.read s ra 1 .int l))
/-- BRX: one path for each target. A path with a bad target stays at the branch and traps there alone, with the target that the branch read; TADDR is that target's address, which the spec
does not say of a BRX (log 55). -/
def brxEffect (ra : Operand) (x : Issue) (s : State) : Act :=
  let ts := x.targets s ra
  let fall := x.live &&& ~~~x.active
  match decide (fall = 0), ts with
  | true, [(t, _)] => if s.landing x.key t then .moved (s.jump x.key x.path.id t) else .trap ⟨0x23, 0, some x.live, x.launch.va t, true⟩
  | _, _ =>
    let falls : List Branch := if fall = 0 then [] else [⟨some x.path.after, fall, .ready⟩]
    match s.divergeCheck x (ts.map Prod.fst ++ falls.filterMap Branch.hdr) none with
    | (_, .fault va f) => tableFault va f
    | (_, .missing) => notSafe
    | (s, .ok rpc) => .moved (s.branch x rpc (falls ++ ts.map fun t => if s.landing x.key t.1 then ⟨some t.1, t.2, .ready⟩ else ⟨none, t.2, .badTarget t.1⟩))
def execBrx (g : Guard) (ra : Operand) (s : State) : Host.Outcome State Fault Refusal := s.issueWord (.brx g ra) false (brxEffect ra)

-- CALL, CALLX (R322)

/-- The call itself: the window slides once, the lanes outside the guard wait at the return point, one path goes to each target (R71). With one target the executing path moves (R56):
it keeps its number, and its reconvergence PC where no lane stays behind (log 30). -/
def State.call (s : State) (x : Issue) (slide : Nat) (ts : List (Nat × Mask)) : State :=
  let ret := x.path.after
  let off := x.live &&& ~~~x.active
  let one : Bool := ts.length ≤ 1
  let node := pathNode x.path (if one then s.seq else x.path.id) (.call (x.gang.depth + 1)) 0
  let goes := ts.zipIdx.map fun t => (if one then x.path.id else s.seq + 1 + t.2, (⟨some t.1.1, t.1.2, .ready⟩ : Branch))
  let stays := if off = 0 then [] else [(s.seq + 1 + ts.length, (⟨some ret, off, .waiting⟩ : Branch))]
  let s := (s.modGang x.key fun g =>
    (g.pushFrame ret slide false node.id).divide x.path (some node) (if one && off = 0 then x.path.rpc else some ret) (goes ++ stays)).leaveSlot x.key
  { s with seq := s.seq + ts.length + 2 }
/-- WINDOW_OVERFLOW and a stopped spill, then what follows them. -/
def callEffect (slide : Nat) (x : Issue) (s : State) (go : State → Act) : Act :=
  if x.gang.depth = 65535 || !s.reserveOk x.key (8 * slide + 2) then .trap (.of 0x20)
  else
    match x.gang.spillStopped with
    | some (va, cause, miss) => .spill (s.modGang x.key fun g => { g with spillStopped := none }) va ⟨cause, miss⟩ .spill
    | none => go s
def callDirect (slide target : Nat) (aligned : Bool) (x : Issue) (s : State) : Act :=
  if !aligned || !s.fetchable x.key target then .trap ⟨0x23, 0, none, x.launch.va target, false⟩ else .moved (s.call x slide [(target, x.active)])
def callRelEffect (sl : BitVec 4) (off : BitVec 32) (x : Issue) (s : State) : Act :=
  callEffect sl.toNat x s (callDirect sl.toNat (x.target off) (off.toNat % 8 = 0) x)
def execCall (g : Guard) (sl : BitVec 4) (off : BitVec 32) (s : State) : Host.Outcome State Fault Refusal :=
  s.issueWord (.call g sl off) false (callRelEffect sl off)
/-- CALLX: every target is checked before the window slides; a diverging one looks its entries up. -/
def callxGo (slide : Nat) (ts : List (Nat × Mask)) (x : Issue) (s : State) : Act :=
  match ts.filter fun t => !s.landing x.key t.1 with
  | (b :: bs) =>
    let m := (b :: bs).foldl (fun a t => a ||| t.2) 0
    let first := ((ts.find? fun t => t.2.getLsbD (lowest m)).map Prod.fst).getD 0
    .trap ⟨0x23, 0, some m, x.launch.va first, false⟩
  | [] =>
    if ts.length ≤ 1 then .moved (s.call x slide ts)
    else
      match s.divergeCheck x (ts.map Prod.fst) (some x.path.after) with
      | (_, .fault va f) => tableFault va f
      | (_, .missing) => notSafe
      | (s, .ok _) => .moved (s.call x slide ts)
def callxEffect (ra : Operand) (sl : BitVec 4) (x : Issue) (s : State) : Act := callEffect sl.toNat x s (callxGo sl.toNat (x.targets s ra) x)
def execCallx (g : Guard) (ra : Operand) (sl : BitVec 4) (s : State) : Host.Outcome State Fault Refusal := s.issueWord (.callx g ra sl) false (callxEffect ra sl)

-- RET (R81, R394)

/-- A thread that departed at the current depth or deeper is away (R61, R64). -/
def State.departedBelow (s : State) (k : GangKey) : Bool :=
  let d := (s.gang k).depth
  (s.team k.team).departs.any fun e => e.2.any fun p => p.gangLeft = k.idx && p.depth ≥ d
/-- The returning lanes stand at the return point, waiting for the call's other paths; the guard-false lanes go on first, in the executing path. Paths of a branch without reconvergence in the callee
return like any other: R71 names every path of the call and R440 says that such paths never merge, and the model follows R71 (log 118). -/
def Gang.returnPath (g : Gang) (x : Issue) (f : Frame) (id : Nat) : Gang :=
  let off := x.live &&& ~~~x.active
  let back : Path := { x.path.goto f.ret with id := if off = 0 then x.path.id else id, mask := x.active, st := .waiting, rpc := some f.ret, link := f.node, ret := some x.path.pc }
  { g.replacePath x.path.id ((if off = 0 then [] else [{ x.path.goto x.path.after with mask := off }]) ++ [back]) with refillOff := false, spillOpen := false }
/-- BAD_TARGET at a return point without LAND, once the call's last path has returned and the window is the caller's (R81, R394) (log 75). -/
def State.checkReturn (s : State) (x : Issue) (ret path : Nat) : State :=
  let s := s.modPath x.key path fun p => { p with ret := none }
  if s.landing x.key ret then s
  else s.takeTrap x.key { x.info (.of 0x23) ret with path := path }
/-- The number of the path that stands in a node's place once its paths have merged. -/
def Gang.nodePath (g : Gang) (id : Nat) : Nat := ((g.nodes.find? fun n => n.id = id).map Node.path).getD id
/-- The last path of a call returns: the caller's frame is resident and no vector result of the call is outstanding. -/
def lastReturn (x : Issue) (f : Frame) (s : State) : Act :=
  let d := x.gang.depth
  if x.gang.returnBlocked d then .stall
  else
    match s.refillTo x.key (d - 1) (14 * (d + 1)) with
    | .fault s va f kind => .spill s va f kind
    | .ok s =>
      let f := ((s.gang x.key).frames.getLast?).getD f
      let s := ((s.modGang x.key fun g => (g.returnPath x f s.seq).prune (g.nodes.length + 1)).bump.mergePaths x.key).leaveSlot x.key
      .moved (s.checkReturn x f.ret (x.gang.nodePath f.node))
    | _ => .stall
/-- A cause of the operands at RET and ERET, which name none: the frame record (R83); DETAIL is the word's index (R270). -/
def Issue.frameTrap (x : Issue) : Act := .trap ⟨0x04, x.path.pos - 1, none, 0, false⟩
/-- See log 72. -/
def retEffect (x : Issue) (s : State) : Act :=
  match x.gang.frames.getLast? with
  | none => .trap (.of 0x22)
  | some f =>
    if s.departedBelow x.key then .trap (.of 0x22)
    else if f.trapFrame then x.frameTrap
    else
      let g := (x.gang.returnPath x f s.seq).prune (x.gang.nodes.length + 1)
      if (g.nodes.find? fun n => n.id = f.node).any g.nodeArrived then lastReturn x f s
      else
        .moved ((((s.setGang x.key ((s.gang x.key).returnPath x f s.seq)).bump).mergePaths x.key).leaveSlot x.key)
def execRet (g : Guard) (s : State) : Host.Outcome State Fault Refusal := s.issueWord (.ret g) false retEffect

-- JOIN (R363)

/-- The returning lanes of a formed gang's path at a clause header, with their departure entries. Threads that run there in a path of a branch without reconvergence return too: R65 names
the threads by their departure stacks, R440 lets no JOIN have an effect on such a path, and the model follows R65 (log 58). -/
def Issue.returners (x : Issue) : List (Nat × Depart) :=
  if x.key.idx < 32 || x.gang.depth ≠ 0 then []
  else (lanesOf x.live x.gang.width).filterMap fun l =>
    match tgetD x.team.departs (x.gang.homeOf x.key l) [] with
    | d :: _ => if d.rpc = some x.path.hdr then some (l, d) else none
    | [] => none
/-- The ring place of a register name in the frame at depth d of a gang. -/
def Gang.placeAt (g : Gang) (d n : Nat) : Nat := if n < 16 then n else n + 8 * slideSum (g.frames.take d)
/-- A path of returned threads, in the gang's path state or in the trap state that holds the branch's node (R66). -/
def Gang.addReturned (g : Gang) (node : Nat) (p : Path) : Gang :=
  if g.nodes.any fun n => n.id = node then { g with paths := g.paths ++ [p] }
  else
    { g with traps := g.traps.map fun t => if t.nodes.any (fun n => n.id = node) then { t with paths := t.paths ++ [p] } else t }
/-- One thread returns: its live vector and predicate registers are written into its lane, its departure stack pops, it waits at its reconvergence PC (R65, R66) (log 61). -/
def State.returnThread (s : State) (x : Issue) (e : SafeEntry) (lane : Nat) (d : Depart) : State :=
  let home := x.gang.homeOf x.key lane
  let left : GangKey := ⟨x.key.team, d.gangLeft⟩
  let vs := (List.range (x.launch.vtop + 1)).filter e.vregs.testBit
  let ps := (List.range 16).filter e.preds.testBit
  let s := s.modTeam x.key.team fun t => { t with departs := tset t.departs home (tgetD t.departs home []).tail }
  let p : Path := { Path.empty with id := s.seq, hdr := x.path.hdr, mask := laneBit d.laneLeft, rpc := d.rpc, link := d.node, st := .waiting, cnt := x.path.cnt }
  let s := s.modGang left fun g =>
    let g := g.writeRegs ((vs.map fun n => .vec (g.placeAt d.depth n) d.laneLeft (x.gang.readV n lane))
      ++ ps.map fun n => .pred n d.laneLeft ((x.gang.readP n).getLsbD lane))
    { ((g.joinNstat x.gang.nstat).nodeBack d.node).addReturned d.node p with away := g.away &&& ~~~(laneBit d.laneLeft), pt := max g.pt x.gang.pt }
  (s.bump).mergePaths left
/-- Granules of the gang left that the live registers need: its frames down to the departure depth are resident, and their granules are taken (log 61). -/
def State.returnRoom (s : State) (x : Issue) (e : SafeEntry) (d : Depart) : Room :=
  let left : GangKey := ⟨x.key.team, d.gangLeft⟩
  match s.refillTo left d.depth (14 * ((s.gang left).depth + 1)) with
  | .ok s => s.takeAll left (((List.range (x.launch.vtop + 1)).filter e.vregs.testBit).map fun n => granuleOf ((s.gang left).placeAt d.depth n)).eraseDups
  | r => r
/-- Return the threads one by one; a wait or a fault leaves the JOIN as it was. -/
def State.returnAll (s : State) (x : Issue) (e : SafeEntry) : List (Nat × Depart) → Room
  | [] => .ok s
  | (l, d) :: rest =>
    match s.returnRoom x e d with
    | .ok s => State.returnAll (s.returnThread x e l d) x e rest
    | r => r
/-- A register result is outstanding, a scalar one too, or a conversion whose saturation NSTAT still lacks (R142). -/
def Gang.resultPending (g : Gang) : Bool := g.flights.any fun f => !f.returned && !f.replaying && (!f.dest.isEmpty || f.sat)
/-- The lanes leave the formed gang. -/
def Gang.dismiss (g : Gang) (m : Mask) : Gang :=
  { g with live := g.live &&& ~~~m, paths := (g.paths.map fun p => { p with mask := p.mask &&& ~~~m }).filter fun p => p.mask ≠ 0 }
/-- The path arrives at its reconvergence PC; the paths of a call meet at their return alone (R71) (log 58). -/
def State.arriveJoin (s : State) (x : Issue) : Act :=
  let g := s.gang x.key
  if !(g.paths.any fun p => p.id = x.path.id) then .moved ((s.leaveSlot x.key).mergePaths x.key)
  else if x.path.rpc = some x.path.hdr && !g.callLink x.path.link then
    .moved (((s.modPath x.key x.path.id fun p => { p with st := .waiting }).leaveSlot x.key).mergePaths x.key)
  else .done s
/-- See log 58. Threads whose lookup finds no entry return with nothing written back: R56 gives the fate of a missing entry at a branch alone. -/
def joinEffect (x : Issue) (s : State) : Act :=
  match x.returners with
  | [] => s.arriveJoin x
  | rs =>
    if x.gang.resultPending then .stall
    else
      match (s.catchUp x.key).safeEntry x.key x.path.hdr with
      | (_, .error e) => tableFault e.1 e.2
      | (s, .ok e) =>
        match s.returnAll x (e.getD ⟨noRpc, 0, 0, 0⟩) rs with
        | .ok s => (s.modGang x.key fun g => g.dismiss (maskOf (rs.map Prod.fst))).arriveJoin x
        | .fault _ va f kind => .spill s va f kind
        | _ => .stall
def execJoin (s : State) : Host.Outcome State Fault Refusal := s.issueWord .join true joinEffect

-- EXIT (R343), TRAP (R411), BRK (R319)

def exitEffect (x : Issue) (s : State) : Act :=
  .moved (((s.modPath x.key x.path.id fun p => p.goto p.after).leaveSlot x.key).exitThreads x.key x.active)
def execExit (g : Guard) (s : State) : Host.Outcome State Fault Refusal := s.issueWord (.exit g) false exitEffect
/-- A trap whose TNEXT is the next clause header. -/
def softTrap (cause detail : Nat) (x : Issue) (s : State) : Act :=
  .moved ((s.modPath x.key x.path.id fun p => p.goto p.after).takeTrap x.key (x.info ⟨cause, detail, none, 0, false⟩ x.path.after))
def trapEffect (n : BitVec 16) : Issue → State → Act := softTrap 0x50 n.toNat
def execTrap (g : Guard) (n : BitVec 16) (s : State) : Host.Outcome State Fault Refusal := s.issueWord (.trap g n) false (trapEffect n)
def brkEffect : Issue → State → Act := softTrap 0x51 0
def execBrk (g : Guard) (s : State) : Host.Outcome State Fault Refusal := s.issueWord (.brk g) false brkEffect

-- WFLUSH (R418), WSTAT (R419), YIELD (R420)

def wflushEffect (x : Issue) (s : State) : Act :=
  if x.gang.flushBlocked then .hold .flush
  else
    match s.spillAll x.key x.gang.spillFuel with
    | .ok s => .done (s.modGang x.key fun g => { g with refillOff := true, spillOpen := g.handlerMode })
    | .fault s va f kind => .spill s va f kind
    | _ => .hold .flush
def execWflush (g : Guard) (s : State) : Host.Outcome State Fault Refusal := s.issueWord (.wflush g) false wflushEffect
def Gang.wstat (g : Gang) (sel : WSel) : Nat :=
  match sel with
  | .depth => g.depth
  | .spill => g.wspill
  | .ring => g.wring
  | .spillcnt => g.spillcnt.toNat
  | .refillcnt => g.refillcnt.toNat
  | .reserve => g.reserve
/-- A CTL result is written before the gang's next instruction (R337). -/
def State.writeOnce (s : State) (x : Issue) (d : Operand) (n v : Nat) : State := s.modGang x.key fun g => g.writeRegs ((x.gang.dest d n).writes x.low v)
def wstatEffect (d : Operand) (sel : WSel) (x : Issue) (s : State) : Act := .done (s.writeOnce x d 1 (x.gang.wstat sel))
def execWstat (g : Guard) (d : Operand) (sel : WSel) (s : State) : Host.Outcome State Fault Refusal := s.issueWord (.wstat g d sel) false (wstatEffect d sel)
def yieldEffect (x : Issue) (s : State) : Act :=
  let s := s.modPath x.key x.path.id fun p => p.goto p.after
  let s := s.modGang x.key fun g =>
    let mine := g.paths.filter fun p => p.id = x.path.id
    let others := g.paths.filter fun p => p.id ≠ x.path.id
    { g with
      paths := if others.any (s.canRun x.key) then others ++ mine else g.paths,
      readySince := some ((s.core g.core).cycle + 1) }
  .moved (s.leaveSlot x.key)
def execYield (g : Guard) (s : State) : Host.Outcome State Fault Refusal := s.issueWord (.yield g) false yieldEffect

-- GSR (R357, R358), SSR (R399)

/-- The highest level that the cluster's resident teams ask for, 0 without any (R261). -/
def State.requested (s : State) (cluster : Nat) : Nat :=
  ((s.teams.filter fun e => clusterOf e.2.core = cluster && e.2.res = .placed).map fun e => e.2.level).foldl max 0
def State.pstat (s : State) (cluster : Nat) : Nat :=
  let c := s.cluster cluster
  c.slack * 512 + c.thermal * 64 + s.requested cluster * 8 + c.level
def Gang.topTrap (g : Gang) : TrapState := g.traps.headD ⟨0, 0, 0, false, 0, 0, [], none, false, 0, [], [], none⟩
/-- A system register's value, TLADDR but for it. -/
def State.sysReg (s : State) (k : GangKey) (r : SysReg) : Nat :=
  let g := s.gang k
  let c := (s.team k.team).ctx
  let p := s.part c.part
  match r with
  | .nstat => g.nstatWord
  | .cycle => (s.core g.core).cycle
  | .formwait => (s.ctx c).formwait
  | .rdlease => p.rdlease
  | .wrlease => p.wrlease
  | .rdcways => p.rdcways
  | .pceil => p.mceil * 256 + p.ceil
  | .thot => s.pkg.thot.toNat
  | .pstat => s.pstat (clusterOf g.core)
  | .tcause => g.topTrap.tcause.toNat
  | .tpc => g.topTrap.tpc.toNat
  | .tnext => g.topTrap.tnext.toNat
  | .tmask => g.topTrap.tmask.toNat
  | .taddr => g.topTrap.taddr.toNat
  | .tladdr => 0
  | .wdlimit => (s.ctx c).wdlimit.toNat
  | .wdgrace => (s.ctx c).wdgrace.toNat
  | .famkill => 0
/-- Registers of 64 bits (R358). -/
def SysReg.width : SysReg → Nat | .cycle => 2 | .tmask => 2 | .taddr => 2 | .tladdr => 2 | _ => 1
def gsrEffect (d : Operand) (r : SysReg) (x : Issue) (s : State) : Act :=
  if r = .tladdr then
    .done (s.modGang x.key fun g => g.writeRegs ((x.gang.dest d 2).laneWrites x.lanes fun l => tgetD x.gang.topTrap.addrs l 0))
  else .done (s.writeOnce x d (SysReg.width r) (s.sysReg x.key r))
def execGsr (g : Guard) (d : Operand) (reg : SysReg) (s : State) : Host.Outcome State Fault Refusal := s.issueWord (.gsr g d reg) false (gsrEffect d reg)

/-- A write of TNEXT clears RPL (R270). -/
def Gang.writeTnext (g : Gang) (v : Nat) : Gang :=
  match g.traps with
  | [] => g
  | t :: ts => { g with traps := { t with tnext := BitVec.ofNat 32 v, tnextWritten := true, tcause := t.tcause &&& ~~~(0x100#32) } :: ts }
def State.writeSys (s : State) (k : GangKey) (r : SysReg) (v : Nat) : State :=
  let c := (s.team k.team).ctx
  match r with
  | .nstat => s.modGang k fun g => g.writeNstat v
  | .formwait => s.modCtx c fun x => { x with formwait := max 16 (min 65535 v) }
  | .pceil => s.modPart c.part fun p => { p with ceil := min 7 v }
  | .tnext => s.modGang k fun g => g.writeTnext v
  | .wdlimit => s.modCtx c fun x => { x with wdlimit := BitVec.ofNat 32 v }
  | .wdgrace => s.modCtx c fun x => { x with wdgrace := BitVec.ofNat 32 v }
  | _ => s
def ssrEffect (src : Operand) (r : SysReg) (x : Issue) (s : State) : Act := .done (s.writeSys x.key r (x.once s src 1))
def execSsr (g : Guard) (src : Operand) (reg : SysReg) (s : State) : Host.Outcome State Fault Refusal := s.issueWord (.ssr g src reg) false (ssrEffect src reg)

-- FAMKILL (R276)

/-- A kill in time ends the grace (R276). -/
def State.endGrace (s : State) (k : GangKey) : State := s.modGang k fun g => { g with watch := match g.watch with | .grace _ => .counting | w => w }
/-- Every thread of a home gang's family exits, wherever it stands: in spawn memory, in a formed gang, at home (log 63). -/
def State.killFamily (s : State) (team home : Nat) : State :=
  let queued := (s.team team).spawn.filter fun e => e.homeGang = home
  let s := s.modTeam team fun t => { t with spawn := t.spawn.filter fun e => e.homeGang ≠ home }
  let s := queued.foldl (fun s e => s.exitDeparted team (e.homeGang, e.homeLane)) s
  let formed := (s.gangsOf team).filter fun k => k.idx ≥ 32
  let s := formed.foldl (fun s k =>
    let g := s.gang k
    let m := maskOf ((lanesOf (g.live &&& ~~~g.exited &&& ~~~g.away) g.width).filter fun l => (g.homeOf k l).1 = home)
    if m = 0 then s else s.exitThreads k m) s
  let k : GangKey := ⟨team, home⟩
  let g := s.gang k
  let m := g.live &&& ~~~g.exited
  let s := if m = 0 then s else s.exitThreads k m
  if (tget s.gangs k).isSome then s.endGrace k else s
def famkillEffect (src : Operand) (x : Issue) (s : State) : Act :=
  if x.once s src 1 % 2 = 0 then .done s
  else .moved ((((x.gang.families x.key).eraseDups).foldl (fun s h => s.killFamily x.key.team h) (s.modPath x.key x.path.id Path.next)).leaveSlot x.key)
def execFamkillWrite (g : Guard) (src : Operand) (s : State) : Host.Outcome State Fault Refusal := s.issueWord (.famkillWrite g src) false (famkillEffect src)

-- ERET (R271, R341)

/-- The trap frame and state go; a replay slot in force is replayed, or its counter entry removed; the watchdog of the family restarts. -/
def State.leaveWith (s : State) (x : Issue) (replay : Bool) : State :=
  let t := x.gang.topTrap
  let s := (s.leaveTrap x.key).leaveSlot x.key
  let s := if BitVec.toNat t.tcause % 256 = 0x48 then s.restartWatch x.key else s
  match t.replay with
  | none => s
  | some r => if replay && t.tcause.getLsbD 8 then s.replay x.key r t else s.modGang x.key fun g => g.dropFlight r.flight
/-- See log 66. -/
def eretWith (replay : Bool) (x : Issue) (s : State) : Act :=
  let t := x.gang.topTrap
  let d := x.gang.depth
  if (x.gang.paths.any fun p => p.id ≠ x.path.id && !p.atEretOf x.path) then
    .moved ((s.modGang x.key fun g => { g.modPath x.path.id fun p => { p with st := .atEret } with refillOff := false, spillOpen := false }).leaveSlot x.key)
  else if !((x.gang.frames.getLast?.map Frame.trapFrame).getD false) then x.frameTrap
  else if t.tnextWritten && !s.landing x.key t.tnext.toNat then .trap (.of 0x23)
  else if x.gang.returnBlocked d then .stall
  else
    match s.refillTo x.key (d - 1) (14 * (d + 1)) with
    | .fault s va f kind => .spill s va f kind
    | .ok s => .moved (s.leaveWith x replay)
    | _ => .stall
/-- See log 66. -/
def eretEffect : Issue → State → Act := eretWith true
def execEret (g : Guard) (s : State) : Host.Outcome State Fault Refusal := s.issueWord (.eret g) false eretEffect
def eretSkipEffect : Issue → State → Act := eretWith false
def execEretSkip (g : Guard) (s : State) : Host.Outcome State Fault Refusal := s.issueWord (.eretSkip g) false eretSkipEffect

end Sys2Proof.Machine
end

