-- ==== Sys2Proof/Machine/Matrix.lean ====
section
/-! DEFINITION. The matrix engine: the class MAT instructions and the engine's own steps (spec/07_matrix.md R153 to R180; spec/06_numbers.md R150 to R152;
spec/15_ref_a_d.md R304, R305, R310; spec/16_ref_e_m.md R370 to R374; spec/17_ref_n_z.md R402 to R405, R412, R413). -/
namespace Sys2Proof.Machine

-- Operand layouts (R158 to R161, R164 to R167)

/-- K of an MMAD by its operand's class (R158). -/
def matK (f : Nat) : Nat := match matClass f with | 2 => 512 | 3 => 128 | _ => 256
/-- The lookup modes of R164: elements of a group, entries of a group, K of a table, groups of a row. -/
def lutSize (f : Nat) : Nat := if f = 0x22 then 2 else 4
def lutEntries (f : Nat) : Nat := if f = 0x20 then 8 else 16
def lutK (f : Nat) : Nat := if f = 0x20 then 256 else if f = 0x22 then 64 else 128
def lutGroups (f : Nat) : Nat := lutK f / lutSize f
/-- Bytes of one K-quarter of the operand that a handle may supply (R163, R167). -/
def EngineKind.quarterBytes (k : EngineKind) (l : Launch) : Nat :=
  match k with
  | .mmad _ _ _ _ fb _ => let f := (l.slot fb).fmt; 64 * copyOff f 0 (matK f / 4)
  | .lutmm _ _ _ _ fb _ => if (l.slot fb).fmt = 0x20 then 512 * (l.slot fb).planes else 256
  | _ => 0

def tileAt (span t : Nat) : Nat := span * 2 ^ 16 + t * 2 ^ 13
def accAt (span a r j : Nat) : Nat := span * 2 ^ 14 + a * 2 ^ 12 + 4 * (64 * r + j)
def tableAt (span k f r g e : Nat) : Nat := span * 2 ^ 17 + k * 2 ^ 15 + 4 * ((r * lutGroups f + g) * lutEntries f + e)

/-- The stored value of element k of a row or column that begins at an address (R159, R160). -/
def Slot.elementAt (sl : Slot) (m : Memory) (base k : Nat) : Exact :=
  if fmtDbf sl.fmt then (slotDbf sl.fmt).readElement (m.readBytes (base + copyOff sl.fmt 0 (k / 32 * 32)) (slotDbf sl.fmt).blockBytes) (k % 32)
  else sl.stored (m.readN (base + copyOff sl.fmt 0 k) (fmtBits sl.fmt / 8))

-- One accumulator element (R150, R151)

/-- S: the product of the two scales, rounded to FP32. -/
def scaleProduct (a b : Slot) : Exact := FloatFmt.fp32.decode (FloatFmt.fp32.rne (a.scaleOf.mul b.scaleOf))
/-- One block: c := RoundNE(c + RoundNE(D x S)). -/
def accStep (s : Exact) (c : Nat) (d : Exact) : Nat :=
  FloatFmt.fp32.rne (Exact.add .rn (FloatFmt.fp32.decode c) (FloatFmt.fp32.decode (FloatFmt.fp32.rne (d.mul s))))
/-- The blocks of 32 k in ascending order. -/
def accFold (s : Exact) (c blocks : Nat) (d : Nat → Exact) : Nat := (List.range blocks).foldl (fun c b => accStep s c (d b)) c

/-- Where the operation reads B or its codes: the named tile of the matching bench, or the staged operand (R160, R163). -/
def EngineOp.operandAt (o : EngineOp) (t : Team) (base tb q : Nat) : Memory × Nat :=
  match o.kind.handle with
  | some _ => (o.staged.getD [], q * 2 ^ 13)
  | none => (t.tiles, tileAt (base + q) tb)

/-- Element (r, j) of a dense product added to c (R162). -/
def EngineOp.dense (o : EngineOp) (t : Team) (sa sb : Slot) (base span ta tb r j c : Nat) : Nat :=
  let k4 := matK sb.fmt / 4
  let a (k : Nat) : Exact := sa.elementAt t.tiles (tileAt span ta + r * copyOff sa.fmt 0 (matK sa.fmt)) k
  let b (k : Nat) : Exact := let (m, at') := o.operandAt t base tb (k / k4); sb.elementAt m (at' + j * copyOff sb.fmt 0 k4) (k % k4)
  accFold (scaleProduct sa sb) c (matK sa.fmt / 32) fun n => Exact.sum ((List.range 32).map fun i => (a (32 * n + i)).mul (b (32 * n + i)))

/-- The code of group g, column j, plane p (R167). -/
def EngineOp.code (o : EngineOp) (t : Team) (base tb f p g j : Nat) : Nat :=
  let per := lutGroups f / 4
  let (m, at') := o.operandAt t base tb (g / per)
  let i := g % per
  bitsAt (m.read (at' + (if f = 0x20 then (p * 64 + j) * 8 else 4 * j) + i / 2)).toNat (4 * (i % 2)) 4
/-- The entry that a code selects: a plane code without bit 3 reads a negated entry (R167); a codebook code past the codebook reads +0 (R168) (log 86). -/
def lutEntry (t : Team) (sb : Slot) (span k r g c : Nat) : Exact :=
  let entry (e : Nat) : Exact := FloatFmt.fp32.decode (t.tables.readN (tableAt span k sb.fmt r g e) 4)
  if sb.fmt = 0x20 then (if c ≥ 8 then entry (c - 8) else (entry (7 - c)).neg)
  else if c ≥ sb.cbSize then .zero else entry c
/-- Element (r, j) of a lookup product added to c (R168). -/
def EngineOp.lookup (o : EngineOp) (t : Team) (sa sb : Slot) (base span k tb r j c : Nat) : Nat :=
  let f := sb.fmt
  let per := 32 / lutSize f
  let planes := if f = 0x20 then sb.planes else 1
  accFold (scaleProduct sa sb) c (lutK f / 32) fun n => Exact.sum ((List.range per).flatMap fun i =>
    (List.range planes).map fun p => (lutEntry t sb span k r (n * per + i) (o.code t base tb f p (n * per + i) j)).mul (.fin false 1 1 p))

/-- A codebook entry's centroid i as a BF16 value (R148, R165). -/
def centroid (g : Grid) (fb f c i : Nat) : Exact :=
  FloatFmt.bf16.decode (leField (tgetD (g.codebooks.getD []) fb []) (2 * (lutSize f * c + i)) 2)
/-- One entry of a table as TBUILD makes it (R165) (log 86). -/
def buildEntry (t : Team) (g : Grid) (sa sb : Slot) (span ta fb kq r n e : Nat) : Nat :=
  let a (i : Nat) : Exact := sa.elementAt t.tiles (tileAt span ta + r * copyOff sa.fmt 0 256) (64 * kq + lutSize sb.fmt * n + i)
  let terms := (List.range (lutSize sb.fmt)).map fun i =>
    if sb.fmt = 0x20 then (if (8 + e).testBit i then a i else (a i).neg) else (a i).mul (centroid g fb sb.fmt e i)
  if sb.fmt ≠ 0x20 && e ≥ sb.cbSize then 0 else FloatFmt.fp32.rne (Exact.sum terms)
/-- A whole table, 32 KiB (R166). -/
def buildTable (t : Team) (g : Grid) (l : Launch) (span ta fa fb kq : Nat) : List Byte :=
  let sb := l.slot fb
  (List.range 16).flatMap fun r => (List.range (lutGroups sb.fmt)).flatMap fun n => (List.range (lutEntries sb.fmt)).flatMap fun e =>
    bytesOfNat 4 (buildEntry t g (l.slot fa) sb span ta fb kq r n e)

-- Spans, queues and figures (R154 to R156, R180)

/-- The first span index of the operations in a core's queue: the follower's own operations work on its own benches. -/
def Team.baseSpan (t : Team) (core : Nat) : Nat := if core = t.core then 0 else 4
def EngineOp.benches (o : EngineOp) : Nat := if o.pair then 8 else 4
/-- The operation works on a bench of the team, given by its span index. -/
def EngineOp.covers (o : EngineOp) (t : Team) (core span : Nat) : Bool := t.baseSpan core ≤ span && span < t.baseSpan core + o.benches
/-- The operations of a team in the queues of its cores, with the core of the queue. -/
def State.engineOps (s : State) (team : Nat) : List (Nat × EngineOp) :=
  (s.team team).cores.flatMap fun c => (((s.core c).engine.running.toList ++ (s.core c).engine.queue).filter fun o => o.gang.team = team).map fun o => (c, o)
def EngineKind.writesAcc (k : EngineKind) (a : Nat) : Bool :=
  match k with
  | .mmad ac .. | .lutmm ac .. | .azero ac => ac = a
  | _ => false
/-- The operation reads tile t of a bench; a LUTMM reads the source of a LOST table that it rebuilds, or has rebuilt at its start. -/
def EngineOp.readsTile (o : EngineOp) (tm : Team) (core span t : Nat) : Bool :=
  let quarter (tb : Nat) (h : Option (Nat × Nat)) : Bool := h.isNone && tb = t && span < tm.baseSpan core + 4
  match o.kind with
  | .mmad _ ta tb _ _ h => ta = t || quarter tb h
  | .tbuild _ ta _ _ _ => ta = t
  | .lutmm _ kt tb _ _ h => quarter tb h || (let r := tgetD tm.records (span, kt) .empty; (r.st = .lost || o.touched.contains span) && r.src = t)
  | _ => false
def EngineOp.usesTable (o : EngineOp) (k : Nat) : Bool :=
  match o.kind with
  | .tbuild kt .. | .tbinv kt => kt = k
  | .lutmm _ kt .. => kt = k
  | _ => false
/-- Some operation that stood in a queue when the path began to wait, and that f selects, has not retired (R176). -/
def State.engineBusy (s : State) (team since : Nat) (f : Nat → EngineOp → Bool) : Bool :=
  (s.engineOps team).any fun e => (since = 0 || e.2.order < since) && f e.1 e.2

/-- QSTATE: bit 5 stands while a pair operation at the head still waits to slave the follower's engine (R156, R180). -/
def Engine.qstate (e : Engine) (followerSlaved : Bool) : Nat :=
  e.queue.length % 8 + (if e.running.isSome then 8 else 0) + (if e.slaved then 16 else 0)
    + (if e.running.isNone && !followerSlaved && (e.queue.head?.map EngineOp.pair).getD false then 32 else 0)
/-- See log 87. -/
def State.modFigures (s : State) (team core : Nat) (f : Figures → Figures) : State :=
  s.modTeam team fun t => { t with figures := tset t.figures core (f (tgetD t.figures core .zero)) }
/-- The core cycles that engine operations of a team's gangs on a core have waited for leave so far, in waits that still go on; COLL asks 64 units, an engine operation more. -/
def State.waitingLeave (s : State) (team core : Nat) : Nat :=
  (s.gangs.map fun e => match e.2.leave with
    | .waiting units _ since => if e.1.team = team && e.2.core = core && units ≠ 64 then (s.core core).cycle - since else 0
    | _ => 0).foldl (· + ·) 0
/-- MENGQ's figures (R180) (log 87). -/
def State.figure (s : State) (team core query : Nat) : Nat :=
  let f := tgetD (s.team team).figures core .zero
  match query with
  | 0 => (s.core core).engine.qstate (core % 2 = 0 && (s.core (followerOf core)).engine.slaved)
  | 1 => f.ops.toNat
  | 2 => f.rebuilds.toNat
  | 3 => (f.leaveWait.toNat + s.waitingLeave team core) % 2 ^ 32
  | _ => f.slaveCycles.toNat

-- Issue of an engine operation (R154, R155, R163, R178, R371)

/-- The core whose queue a gang's operation enters. -/
def Issue.queueCore (x : Issue) (pr : Bool) : Nat := if pr then x.team.core else x.gang.core
/-- A rebuild is asked for: some bench of the span holds the table LOST (R259). -/
def State.lostTable (s : State) (team core n k : Nat) : Bool :=
  let t := s.team team
  (List.range n).any fun b => (tgetD t.records (t.baseSpan core + b, k) .empty).st = .lost
def EngineKind.opcode : EngineKind → Nat | .mmad .. => 0x40 | .azero _ => 0x41 | .tbuild .. => 0x42 | .lutmm .. => 0x43 | .tbinv _ => 0x44
/-- Leave units per bench (R259). -/
def State.leaveUnits (s : State) (l : Launch) (team core n : Nat) (k : EngineKind) : Nat :=
  match k with
  | .mmad .. => 1024
  | .tbuild .. => 256
  | .lutmm _ kt _ _ fb _ =>
    (if (l.slot fb).fmt = 0x20 then 256 * (l.slot fb).planes else 128) + (if s.lostTable team core n kt then 256 else 0)
  | _ => 0
/-- An operation as it enters a queue: it takes its handle's descriptor, when the slot still has the handle's generation (R227, R407) (log 84). -/
def Issue.engineOp (x : Issue) (k : EngineKind) (pr : Bool) (bar : Option (Nat × Nat)) (order left : Nat) : EngineOp :=
  let desc := k.handle.bind fun h => (tget x.team.handles h.1).filter fun d => d.gen = h.2
  ⟨k, pr, x.key, x.path.id, x.active, bar, order, none, desc, [], left, false, none, [], []⟩
def State.modEngine (s : State) (core : Nat) (f : Engine → Engine) : State := s.modCore core fun c => { c with engine := f c.engine }
def State.enqueue (s : State) (core : Nat) (o : EngineOp) : State := (s.modEngine core fun e => { e with queue := e.queue ++ [o] }).bump

-- The table check and the start (R156, R171)

/-- The head of a queue that may start now: the engine idle and free, a pair's follower slaved, the operand landed, no TABLE_STALE still to be taken. -/
def State.startable (s : State) (core : Nat) : Option EngineOp :=
  let e := (s.core core).engine
  match e.queue with
  | [] => none
  | o :: _ =>
    let stale := s.gangs.any fun g => clusterOf g.2.core = clusterOf core && (g.2.core = core || g.2.core = core + 1)
      && (match g.2.pendingTrap with | some t => t.cause = 0x30 | none => false)
    if e.running.isSome || e.slaved || stale || !o.landed || (o.pair && !(s.core (followerOf core)).engine.slaved) then none else some o
/-- The table check of a LUTMM (R171) (log 85). -/
def State.tableOk (s : State) (core : Nat) (o : EngineOp) : Bool :=
  match o.kind with
  | .lutmm _ kt _ fa fb _ =>
    o.fault || match tget s.teams o.gang.team with
    | none => true
    | some t => (List.range o.benches).all fun b =>
      let r := tgetD t.records (t.baseSpan core + b, kt) .empty
      (r.st = .valid || r.st = .lost) && r.fa = fa && r.fb = fb
  | _ => true
/-- The core that holds a bench of the team. -/
def Team.benchCore (t : Team) (span : Nat) : Nat := if span < 4 then t.core else t.core + 1
/-- Rebuild one LOST table from its record; counted for the bench's core. -/
def State.rebuild (s : State) (team span k : Nat) : State :=
  let t := s.team team
  let r := tgetD t.records (span, k) .empty
  if r.st ≠ .lost then s
  else
    let g := s.grid t.grid
    let bs := buildTable t g g.launch span r.src r.fa r.fb r.kq
    (s.modTeam team fun t =>
      { t with tables := t.tables.writeBytes (span * 2 ^ 17 + k * 2 ^ 15) bs, records := tset t.records (span, k) { r with st := .valid } })
      |>.modFigures team (t.benchCore span) fun f => { f with rebuilds := f.rebuilds + 1 }
/-- The benches, by span index, whose table a LUTMM that starts rebuilds. -/
def State.lostBenches (s : State) (core : Nat) (o : EngineOp) : List Nat :=
  match o.kind with
  | .lutmm _ kt .. =>
    let t := s.team o.gang.team
    if o.fault then [] else ((List.range o.benches).map fun b => t.baseSpan core + b).filter fun b => (tgetD t.records (b, kt) .empty).st = .lost
  | _ => []
def State.rebuildAll (s : State) (core : Nat) (o : EngineOp) : State :=
  match o.kind with
  | .lutmm _ kt .. =>
    if o.fault then s
    else (List.range o.benches).foldl (fun s b => s.rebuild o.gang.team ((s.team o.gang.team).baseSpan core + b) kt) s
  | _ => s
/-- The gang that waits for the check goes on at the word after its LUTMM. -/
def Gang.checked (g : Gang) (path : Nat) : Gang := g.modPath path fun p => if p.st = .held .check then p.next else p
/-- The operation starts: its LOST tables are rebuilt, and its gang, if it has not ended, may issue again. -/
def State.startOp (s : State) (core : Nat) (o : EngineOp) : State :=
  let s := s.modEngine core fun e => { e with queue := e.queue.tail, running := some { o with touched := s.lostBenches core o } }
  let s := s.rebuildAll core o
  match tget s.gangs o.gang with
  | some g => s.setGang o.gang (g.checked o.path)
  | none => s
/-- TABLE_STALE: the operation leaves the queue with no effect, and its gang traps at the LUTMM. -/
def State.staleTrap (s : State) (core : Nat) (o : EngineOp) : State :=
  let s := s.modEngine core fun e => { e with queue := e.queue.tail }
  let s := if o.pair then s.modEngine (followerOf core) fun e => { e with slaved := false } else s
  if (tget s.gangs o.gang).isNone then s
  else
    let s := s.modPath o.gang o.path fun p => { p with st := .ready }
    let pc := ((s.gang o.gang).path o.path).pc
    s.takeTrap o.gang ⟨0x30, 0, false, pc, pc, o.mask, 0, [], none, o.path⟩
/-- ENGINE_OP_START (R154). -/
def execEngineOpStart (core : Nat) (s : State) : Host.Outcome State Fault Refusal :=
  match s.startable core with
  | none => .next s
  | some o => .next (if s.tableOk core o then s.startOp core o else s.staleTrap core o)
/-- ENGINE_SLAVE (R156): a pair operation at the head of the leader's queue takes the follower's engine once that runs nothing. -/
def execEngineSlave (core : Nat) (s : State) : Host.Outcome State Fault Refusal :=
  let e := (s.core core).engine
  let f := (s.core (followerOf core)).engine
  if core % 2 = 0 && e.running.isNone && !e.slaved && (e.queue.head?.map EngineOp.pair).getD false && f.running.isNone && !f.slaved then
    .next (s.modEngine (followerOf core) fun e => { e with slaved := true })
  else .next s

/-- The common issue of engine operations: PAIR_ROLE, the barrier, leave, room in the queue, the bytes of a handle's operand. -/
def engineIssue (k : EngineKind) (pr : Bool) (bs : Option Operand) (x : Issue) (s : State) : Act :=
  if x.pairRole pr then .trap (.of 0x31)
  else
    match x.jobNames s bs none with
    | .error t => .trap t
    | .ok (bar, _) =>
      let core := x.queueCore pr
      let n := if pr then 8 else 4
      let units := n * s.leaveUnits x.launch x.key.team core n k
      let left := if k.handle.isSome then 4 * k.quarterBytes x.launch else 0
      let full := (s.core core).engine.queue.length ≥ 4 || s.bytesFull bar left
      match (if units = 0 then some s else s.leaveNow x.key units (x.ownCharge s k.opcode)) with
      | none => .asks units
      | some s' =>
        if full then .waits (if units = 0 || (s.gang x.key).leave = .granted then none else some units)
        else
          let s := s'.catchUp x.key
          let s := match bar with | some (c, off) => s.addBytes c off left | none => s
          .done (s.enqueue core (x.engineOp k pr bar s.seq left))
/-- The pair of HS names a slot in its low word's bits 2:0 and a generation in its high word (R227). -/
def Issue.handleOf (x : Issue) (s : State) (hb : Bool) (hs : Operand) : Option (Nat × Nat) :=
  let h := x.once s hs 2
  if hb then some (h % 8, h / 2 ^ 32) else none

def mmadEffect (a : MmadArgs) (x : Issue) (s : State) : Act :=
  engineIssue (.mmad a.ac.toNat a.ta.toNat a.tb.toNat a.fa.toNat a.fb.toNat (x.handleOf s a.hb a.hs)) a.pr (some a.bs) x s
def execMmad (g : Guard) (a : MmadArgs) (s : State) : Host.Outcome State Fault Refusal := s.issueWord (.mmad g a) false (mmadEffect a)
def tbuildEffect (a : TbuildArgs) : Issue → State → Act :=
  engineIssue (.tbuild a.kt.toNat a.ta.toNat a.fa.toNat a.fb.toNat a.kq.toNat) a.pr (some a.bs)
def execTbuild (g : Guard) (a : TbuildArgs) (s : State) : Host.Outcome State Fault Refusal := s.issueWord (.tbuild g a) false (tbuildEffect a)
def azeroEffect (pr : Bool) (ac : BitVec 2) : Issue → State → Act := engineIssue (.azero ac.toNat) pr none
def execAzero (g : Guard) (pr : Bool) (ac : BitVec 2) (s : State) : Host.Outcome State Fault Refusal := s.issueWord (.azero g pr ac) false (azeroEffect pr ac)
def tbinvEffect (pr : Bool) (kt : BitVec 2) : Issue → State → Act := engineIssue (.tbinv kt.toNat) pr none
def execTbinv (g : Guard) (pr : Bool) (kt : BitVec 2) (s : State) : Host.Outcome State Fault Refusal := s.issueWord (.tbinv g pr kt) false (tbinvEffect pr kt)
/-- LUTMM: entered in the queue; when its check can be made at once it is made, else the gang is held until it has been (R171). -/
def lutmmEffect (a : LutmmArgs) (x : Issue) (s : State) : Act :=
  match engineIssue (.lutmm a.ac.toNat a.kt.toNat a.tb.toNat a.fa.toNat a.fb.toNat (x.handleOf s a.hb a.hs)) a.pr (some a.bs) x s with
  | .done s' =>
    let core := x.queueCore a.pr
    match s'.startable core with
    | some o =>
      if o.order + 1 = s'.seq then (if s'.tableOk core o then .done (s'.startOp core o) else .trap (.of 0x30))
      else .moved (s'.hold x.key x.path.id .check)
    | none => .moved (s'.hold x.key x.path.id .check)
  | e => e
def execLutmm (g : Guard) (a : LutmmArgs) (s : State) : Host.Outcome State Fault Refusal := s.issueWord (.lutmm g a) false (lutmmEffect a)

-- HANDLE_FETCH (R163, R227)

/-- The places of n bytes of a handle's source. -/
def State.handleLocs (s : State) (core : Nat) (o : EngineOp) (h : Handle) (a n : Nat) : Except (Nat × MFault) (List Loc) :=
  let t := s.team o.gang.team
  let each (f : Nat → Except MFault Loc) : Except (Nat × MFault) (List Loc) :=
    (List.range n).foldr (fun i acc =>
      match f (a + i), acc with
      | .error e, _ => .error (a + i, e)
      | .ok l, .ok ls => .ok (l :: ls)
      | _, .error e => .error e) (.ok [])
  match h.space with
  | .local => each (s.localLoc o.gang.team)
  | .peer => each (s.peerLoc t.ctx)
  | _ => s.locs t.ctx (some core) .handle (some false) a n
/-- Byte i of the landed operand is column i mod COLS of row i / COLS; a byte outside the valid part is 0 or, with ZF = 0, open. -/
def State.handleByte (s : State) (core : Nat) (o : EngineOp) (h : Handle) (i : Nat) : Except (Nat × MFault) Byte :=
  let d := h.desc
  let (r, c) := (i / d.cols, i % d.cols)
  if !d.valid r c then .ok (if d.zf then 0 else Config.stagingByte s.freeNext i)
  else
    match s.handleLocs core o h (d.src + r * d.sstr + c) 1 with
    | .ok (l :: _) => .ok (s.locByte l)
    | .ok [] => .ok 0
    | .error e => .error e
/-- The addresses of the operand's valid bytes. -/
def Handle.addrs (h : Handle) (q : Nat) : List Nat :=
  let d := h.desc
  (List.range (4 * q)).filterMap fun i => let (r, c) := (i / d.cols, i % d.cols); if d.valid r c then some (d.src + r * d.sstr + c) else none
/-- What the fetch's reads leave: the core keeps the translations (R273), the bytes that another package holds are asked for there (R294) (log 13), and each line is read at the
partition's latest time (R214) (log 15). -/
def State.askHandle (s : State) (core : Nat) (o : EngineOp) (h : Handle) (q : Nat) : State :=
  let c := (s.team o.gang.team).ctx
  let ls := (h.addrs q).flatMap fun a => match s.handleLocs core o h a 1 with | .ok ls => ls | .error _ => []
  let s1 := if h.space = .local || h.space = .peer then s else (h.addrs q).foldl (fun s a => s.fillTlb core c a) s
  (s1.askRemote ls).agentReads c.part (s1.part c.part).horizon ls
/-- The operand of 4 x q bytes as it lands, quarter by quarter, or the first fault. -/
def State.handleBytes (s : State) (core : Nat) (o : EngineOp) (h : Handle) (q : Nat) : Nat → Memory → Except (Nat × MFault) Memory
  | 0, m => .ok m
  | n + 1, m =>
    let i := 4 * q - (n + 1)
    match s.handleByte core o h i with
    | .error e => .error e
    | .ok b => State.handleBytes s core o h q n (m.write (i / q * 2 ^ 13 + i % q) b)
/-- The descriptor that the operation took, when its size is right (log 84). -/
def EngineOp.operand (o : EngineOp) (q : Nat) : Option Handle := o.desc.filter fun h => h.desc.rows * h.desc.cols = 4 * q && q ≠ 0
def State.modOp (s : State) (core order : Nat) (f : EngineOp → EngineOp) : State :=
  s.modEngine core fun e => { e with queue := e.queue.map fun o => if o.order = order then f o else o }
/-- The fetch fails: HANDLE_FAULT, and the bytes it still owes leave the barrier (log 85, log 101). -/
def State.failFetch (s : State) (core : Nat) (o : EngineOp) : State :=
  let s := s.modOp core o.order fun o => { o with fault := true, left := 0, paused := none, errs := [⟨0x04, 0, 0, 0⟩] }
  match o.bar with | some (c, off) => s.takeBytes c off o.left | none => s
/-- The whole operand lands. -/
def State.landFetch (s : State) (core : Nat) (o : EngineOp) (m : Memory) : State :=
  let s := (s.modOp core o.order fun o => { o with staged := some m, left := 0 }).useFree
  match o.bar with | some (c, off) => s.takeBytes c off o.left | none => s
/-- A fault with V = 0 pauses the fetch in the fault queue (R274); paused 0 waits for room there. During a pre-emption's drain it fails (R179) (log 101). -/
def State.faultFetch (s : State) (core : Nat) (o : EngineOp) (va : Nat) (f : MFault) : State :=
  let t := s.team o.gang.team
  match f.missing with
  | none =>
    -- a word that cannot be read is reported by its home slice or port as well (R281, R294)
    let s := if f.cause = 0x60 then s.recordVa t.ctx (some core) va 0 else s
    s.failFetch core o
  | some level =>
    if (s.queueBase t.ctx.part).isNone || t.preempting || (s.part t.ctx.part).swapping then s.failFetch core o
    else
      let (s, seq) := s.queueFault (.handle o.order) t.ctx va 0x10 .handle level core t.grid
      s.modOp core o.order fun o => { o with paused := some (seq.getD 0) }
def execHandleFetch (core : Nat) (s : State) : Host.Outcome State Fault Refusal :=
  match (s.core core).engine.queue.find? fun o => !o.landed && o.paused.isNone with
  | none => .next s
  | some o =>
    match o.kind.handle with
    | none => .next s
    | some _ =>
      let q := o.kind.quarterBytes (s.grid (s.team o.gang.team).grid).launch
      match o.operand q with
      | none => .next (s.failFetch core o)
      | some h =>
        match s.handleBytes core o h q (4 * q) [] with
        | .ok m => .next ((s.askHandle core o h q).landFetch core o m)
        | .error (va, f) => .next (s.faultFetch core o va f)

-- ENGINE_OP_RETIRE (R162, R165, R168, R169, R173 to R175)

/-- The byte that the operation reads at an address of a tile (false) or an accumulator (true): where copies have replaced it since the start, one of the bytes that stood there
(R170, R177). -/
def EngineOp.byteRead (o : EngineOp) (n : Nat) (acc : Bool) (addr : Nat) (now : Byte) : Byte :=
  let olds := (o.olds.filter fun e => e.1 = acc && e.2.1 = addr).map fun e => e.2.2
  (olds ++ [now]).getD (Config.engineRead n (2 * addr + (if acc then 1 else 0)) % (olds.length + 1)) now
/-- The team's tiles and accumulators as the operation reads them (log 82). -/
def EngineOp.view (o : EngineOp) (n : Nat) (t : Team) : Team :=
  { t with
    tiles := o.olds.foldl (fun m e => if e.1 then m else m.write e.2.1 (o.byteRead n false e.2.1 (t.tiles.read e.2.1))) t.tiles,
    accs := o.olds.foldl (fun m e => if e.1 then m.write e.2.1 (o.byteRead n true e.2.1 (t.accs.read e.2.1)) else m) t.accs }
/-- What the operation reads: a LUTMM that rebuilt tables of some benches at its start has rebuilt them from the tiles so read (R170, R171). -/
def EngineOp.source (o : EngineOp) (n : Nat) (t : Team) (g : Grid) : Team :=
  let v := o.view n t
  match o.kind with
  | .lutmm _ kt .. =>
    if o.olds.isEmpty then v
    else o.touched.foldl (fun v span =>
      let r := tgetD t.records (span, kt) .empty
      { v with tables := v.tables.writeBytes (span * 2 ^ 17 + kt * 2 ^ 15) (buildTable v g g.launch span r.src r.fa r.fb r.kq) }) v
  | _ => v
/-- Replace the 16 x 64 elements of an accumulator of a bench, each computed from the element that t0 holds. -/
def Team.mapAcc (t t0 : Team) (span a : Nat) (f : Nat → Nat → Nat → Nat) : Team :=
  { t with accs := (List.range 1024).foldl (fun m i =>
      let (r, j) := (i / 64, i % 64)
      m.writeN (accAt span a r j) 4 (f r j (t0.accs.readN (accAt span a r j) 4))) t.accs }
/-- One bench's slice of an operation that writes an accumulator: an accumulator poisoned at the start is recorded, and it or one whose operands a hardware error has hit is left as it
is and poisoned (R175); any other is replaced. -/
def EngineOp.accBench (o : EngineOp) (t0 : Team) (b span a : Nat) (f : Nat → Nat → Nat → Nat) (t : Team) (errs : List Err) : Team × List Err :=
  if t.poison.contains (span, a) then (t, errs ++ [⟨0x05, b, 0, 0⟩])
  else if o.errs.any fun e => e.bench = b then ({ t with poison := (span, a) :: t.poison }, errs)
  else (t.mapAcc t0 span a f, errs)
/-- IDX_RANGE: every code of a codebook operand at or above the codebook size (R168, R174). -/
def EngineOp.rangeErrs (o : EngineOp) (t : Team) (sb : Slot) (base tb b : Nat) : List Err :=
  if sb.fmt = 0x20 then []
  else (List.range (lutGroups sb.fmt)).flatMap fun g => (List.range 64).filterMap fun j =>
    if o.code t base tb sb.fmt 0 g j ≥ sb.cbSize then some ⟨0x02, b, g % (lutGroups sb.fmt / 4), j⟩ else none
/-- One bench's slice. The team and grid as they stood before the operation give every operand. IDX_RANGE is recorded also on a bench whose accumulator is poisoned or whose
operands a hardware error has hit, where nothing is accumulated: the spec does not say, and this is the model's choice (log 85). A build that a hardware error has hit leaves the table
EMPTY (R405). -/
def EngineOp.bench (o : EngineOp) (t0 : Team) (g : Grid) (base b : Nat) (t : Team) (errs : List Err) : Team × List Err :=
  let l := g.launch
  let span := base + b
  match o.kind with
  | .mmad ac ta tb fa fb _ => o.accBench t0 b span ac (o.dense t0 (l.slot fa) (l.slot fb) base span ta tb) t errs
  | .lutmm ac kt tb fa fb _ =>
    let r := o.accBench t0 b span ac (o.lookup t0 (l.slot fa) (l.slot fb) base span kt tb) t errs
    (r.1, r.2 ++ o.rangeErrs t0 (l.slot fb) base tb b)
  | .azero ac => ({ t.mapAcc t0 span ac (fun _ _ _ => 0) with poison := t.poison.filter fun p => p ≠ (span, ac) }, errs)
  | .tbuild kt ta fa fb kq =>
    if o.errs.any fun e => e.bench = b then ({ t with records := terase t.records (span, kt) }, errs)
    else
      ({ t with
        tables := t.tables.writeBytes (span * 2 ^ 17 + kt * 2 ^ 15) (buildTable t0 g l span ta fa fb kq),
        records := tset t.records (span, kt) ⟨if o.touched.contains span then .stale else .valid, ta, fa, fb, kq⟩ }, errs)
  | .tbinv kt => ({ t with records := terase t.records (span, kt) }, errs)
/-- See log 82. -/
def EngineOp.run (o : EngineOp) (t : Team) (g : Grid) (n base : Nat) : Team × List Err :=
  if o.fault then (t, o.errs) else (List.range o.benches).foldl (fun r b => o.bench (o.source n t g) g base b r.1 r.2) (t, o.errs)
/-- The operation leaves the engine; a pair's follower is free. -/
def State.freeEngine (s : State) (core : Nat) (o : EngineOp) : State :=
  let s := s.modEngine core fun e => { e with running := none }
  if o.pair then s.modEngine (followerOf core) fun e => { e with slaved := false } else s
/-- The operation ends: its errors merge, then it arrives; one that has outlived its team leaves nothing (R344) (log 82, log 89). -/
def State.retireOp (s : State) (core : Nat) (o : EngineOp) : State :=
  let n := o.gang.team
  match tget s.teams n with
  | none => s.freeEngine core o
  | some t =>
    let (t2, errs) := o.run t (s.grid t.grid) s.freeNext (t.baseSpan core)
    let s := ((s.setTeam n t2).freeEngine core o).useFree.modFigures n core fun f => { f with ops := f.ops + 1 }
    match o.bar, firstErr errs with
    | some (c, off), some e => (s.mergeStatus c off e.engineWord (countErrs errs)).arrive c off
    | some (c, off), none => s.arrive c off
    | none, _ => s
def execEngineOpRetire (core : Nat) (s : State) : Host.Outcome State Fault Refusal :=
  match (s.core core).engine.running with
  | none => .next s
  | some o => .next (s.retireOp core o)

-- ACCRD, ACCWR (R305), TRD, TWR (R413)

def Issue.span (x : Issue) : Nat := x.team.spanIndex x.gang.core x.gang.bench
/-- The wait of R176, from the path's first attempt on. -/
def Issue.engineWait (x : Issue) (s : State) (f : Nat → EngineOp → Bool) : Bool := s.engineBusy x.key.team x.path.since f
def Issue.accColumn (cb : BitVec 2) (lane : Nat) : Nat := 16 * cb.toNat + lane
def accrdEffect (a : AccArgs) (x : Issue) (s : State) : Act :=
  let t := s.team x.key.team
  if x.engineWait s fun c o => o.covers t c x.span && o.kind.writesAcc a.ac.toNat then .waits none
  else if t.poison.contains (x.span, a.ac.toNat) then .trap (.of 0x32)
  else
    let sl := x.launch.slot a.fa.toNat
    let d := x.gang.dest a.r 1
    let value (l : Nat) : Rounded := sl.encodeReg (FloatFmt.fp32.decode (t.accs.readN (accAt x.span a.ac.toNat a.row.toNat (Issue.accColumn a.cb l)) 4))
    .done (s.addResult x (some .sp) a.la [d] (d.laneWrites x.lanes fun l => (value l).bits) (x.lanes.any fun l => (value l).sat))
def execAccrd (g : Guard) (a : AccArgs) (s : State) : Host.Outcome State Fault Refusal := s.issueWord (.accrd g a) false (accrdEffect a)
def accwrEffect (a : AccArgs) (x : Issue) (s : State) : Act :=
  let t := s.team x.key.team
  if x.engineWait s fun c o => o.covers t c x.span && o.kind.writesAcc a.ac.toNat then .waits none
  else
    let sl := x.launch.slot a.fa.toNat
    let value (l : Nat) : Rounded := FloatFmt.fp32.round .rn sl.sat (sl.real (x.read s a.r 1 .int l))
    let column (l : Nat) : Nat := accAt x.span a.ac.toNat a.row.toNat (Issue.accColumn a.cb l)
    let s1 := (x.lanes.flatMap fun l => (List.range 4).map fun i => column l + i).foldl (fun s a => s.keepOld x.key.team true a ((s.team x.key.team).accs.read a)) s
    let s1 := s1.modTeam x.key.team fun t => { t with accs := x.lanes.foldl (fun m l => m.writeN (column l) 4 (value l).bits) t.accs }
    .done (s1.addResult x (some .sp) 0 [] [] (x.lanes.any fun l => (value l).sat))
def execAccwr (g : Guard) (a : AccArgs) (s : State) : Host.Outcome State Fault Refusal := s.issueWord (.accwr g a) false (accwrEffect a)

/-- The byte of a tile row that a lane reads or writes; lanes 32 to 63 use the next row. -/
def Issue.tileByte (x : Issue) (a : TileArgs) (lane : Nat) : Nat := tileAt x.span a.ta.toNat + 128 * (a.row.toNat + lane / 32) + 4 * (lane % 32)
def trdEffect (a : TileArgs) (x : Issue) (s : State) : Act :=
  let d := x.gang.dest a.r 1
  .done (s.addResult x (some .sp) a.la [d] (d.laneWrites x.lanes fun l => (s.team x.key.team).tiles.readN (x.tileByte a l) 4) false)
def execTrd (g : Guard) (a : TileArgs) (s : State) : Host.Outcome State Fault Refusal := s.issueWord (.trd g a) false (trdEffect a)
def twrEffect (a : TileArgs) (x : Issue) (s : State) : Act :=
  let t := s.team x.key.team
  if x.engineWait s fun c o => o.covers t c x.span && o.readsTile t c x.span a.ta.toNat then .waits none
  else
    let s1 := (x.lanes.flatMap fun l => (List.range 4).map fun i => x.tileByte a l + i).foldl (fun s a => s.keepOld x.key.team false a ((s.team x.key.team).tiles.read a)) s
    let s1 := s1.modTeam x.key.team fun t => { t with tiles := x.lanes.foldl (fun m l => m.writeN (x.tileByte a l) 4 (x.read s a.r 1 .int l)) t.tiles }
    .done ((s1.tileWritten x.key.team x.span a.ta.toNat).addResult x (some .sp) 0 [] [] false)
def execTwr (g : Guard) (a : TileArgs) (s : State) : Host.Outcome State Fault Refusal := s.issueWord (.twr g a) false (twrEffect a)

-- TBQRY (R172, R403), MENGQ (R372)

def TableState.code : TableState → Nat | .empty => 0 | .valid => 1 | .lost => 2 | .stale => 3
def TableRec.word (r : TableRec) : Nat := if r.st = .empty then 0 else r.st.code + 4 * r.src + 32 * r.fa + 256 * r.fb + 2048 * r.kq
def tbqryEffect (a : TbqryArgs) (x : Issue) (s : State) : Act :=
  if x.engineWait s fun _ o => o.usesTable a.kt.toNat then .waits none
  else .done (s.addResult x (some .sp) a.la [x.gang.dest a.d 1]
    ((x.gang.dest a.d 1).laneWrites x.lanes fun _ => (tgetD (s.team x.key.team).records (a.bench.toNat, a.kt.toNat) .empty).word) false)
def execTbqry (g : Guard) (a : TbqryArgs) (s : State) : Host.Outcome State Fault Refusal := s.issueWord (.tbqry g a) false (tbqryEffect a)
def mengqEffect (a : MengqArgs) (x : Issue) (s : State) : Act :=
  if a.pr && !x.team.pair then .trap (.of 0x31)
  else
    let core := if a.pr then (if x.gang.core = x.team.core then x.team.core + 1 else x.team.core) else x.gang.core
    .done (s.addResult x (some .sp) a.la [x.gang.dest a.d 1] ((x.gang.dest a.d 1).laneWrites x.lanes fun _ => s.figure x.key.team core a.query.toNat) false)
def execMengq (g : Guard) (a : MengqArgs) (s : State) : Host.Outcome State Fault Refusal := s.issueWord (.mengq g a) false (mengqEffect a)

end Sys2Proof.Machine
end

