-- ==== Sys2Proof/Machine/Clause.lean ====
section
/-! DEFINITION. The clause slots of a bench and the small steps of the cores: selection (spec/11_scheduling.md R256 to R258; spec/02_execution_model.md R49 to R53), clause checks
(spec/05_encoding.md R102 to R108), write-back, accesses, replicas, walks, trap entry, the watchdog (spec/12_faults.md R269, R273, R275, R276), the porter (spec/04_registers.md
R85, R86, R94), gangs' ends, program time (spec/09_consistency.md R208). -/
namespace Sys2Proof.Machine

-- Clause checks (R103 to R107)

def clauseEnding (o : Nat) : Bool :=
  o = 0x80 || o = 0x81 || o = 0x82 || o = 0x83 || o = 0x84 || o = 0x86 || o = 0x87 || o = 0x8E || o = 0x8D || o = 0x91
/-- R105 for word i of n; a word with an unassigned opcode takes no part. -/
def wordAllowed (eng n i : Nat) (w : BitVec 64) : Bool :=
  let opc := field w 56 8
  let o := opc.toNat
  let last : Bool := i + 1 = n
  !assigned opc || o = 0
    || ((opcClass opc = eng || (last && opcClass opc = 4)) && (!clauseEnding o || last) && (o ≠ 0x85 || (i = 0 && eng = 4)))
def clauseAllowed (eng : Nat) (ws : List (BitVec 64)) : Bool := (List.range ws.length).all fun i => wordAllowed eng ws.length i (ws.getD i 0)

/-- What the bench finds when it reads a clause (R107): a fetch fault, an illegal clause, or its header. -/
inductive ClauseCheck where
  | fault (va : Nat) (f : MFault)
  | illegal
  | ok (header : Nat)
  deriving DecidableEq, Repr
/-- The n words from an offset on (log 24). -/
def State.fetchWords (s : State) (k : GangKey) (off : Nat) : Nat → Except (Nat × MFault) (List (BitVec 64))
  | 0 => .ok []
  | n + 1 =>
    match s.fetchWord k ((s.launchOf k).va off) with
    | .error e => .error e
    | .ok w =>
      match State.fetchWords s k (off + 8) n with
      | .error e => .error e
      | .ok ws => .ok (BitVec.ofNat 64 w :: ws)
/-- See log 22. -/
def State.checkClause (s : State) (k : GangKey) (off : Nat) : ClauseCheck :=
  if off % 8 ≠ 0 then .illegal
  else
    match s.fetchWord k ((s.launchOf k).va off) with
    | .error e => .fault e.1 e.2
    | .ok h =>
      if !headerOk h then .illegal
      else
        match s.fetchWords k (off + 8) (headerCnt h + 1) with
        | .error e => .fault e.1 e.2
        | .ok ws => if clauseAllowed (headerEng h) ws then .ok h else .illegal

-- Clause-readiness (R51, R106)

/-- A header's class and wait, as they stand; a header that cannot be fetched waits for nothing. -/
def State.headerAt (s : State) (k : GangKey) (off : Nat) : Nat := match s.fetchWord k ((s.launchOf k).va off) with | .ok w => w | .error _ => 0
/-- See log 25. -/
def Gang.headerMet (g : Gang) (h : Nat) : Bool := g.waitMet false (bitsAt h 42 6) (bitsAt h 48 4)
/-- The home gangs' watchdogs let the gang issue: a formed gang of a family whose watchdog has expired waits for its ERET, and an expired home gang goes on only to the end of the clause
in which its path stands (R276). -/
def State.watchLets (s : State) (k : GangKey) (g : Gang) : Bool :=
  if k.idx < 32 then g.watch ≠ .expired || (s.running k).any fun p => p.pos ≠ 0
  else (g.families k).all fun h => (s.gang ⟨k.team, h⟩).watch = .counting
/-- Each path stands at a clause header listed in .oz.safe, waits, or is parked, as every path is whose gang a page fault holds; in HANDLER mode no gang arrives (R277). -/
def State.arrivedAt (s : State) (k : GangKey) (p : Path) : Bool :=
  p.isParked || p.isWaiting || (p.pos = 0 && match (s.safeEntry k p.hdr).2 with | .ok (some _) => true | _ => false)
/-- A table read for the save of a gang's registers faults: it has not arrived (R287). -/
def State.tableFaults (s : State) (k : GangKey) (p : Path) : Bool := match (s.safeEntry k p.hdr).2 with | .error _ => true | .ok _ => false
def State.arrived (s : State) (k : GangKey) : Bool :=
  let g := s.gang k
  g.traps.isEmpty && !g.closing && g.pendingTrap.isNone && (g.faultWait.isSome || g.paths.all (s.arrivedAt k)) && !(g.paths.any (s.tableFaults k))
def Gang.preempted (g : Gang) : Bool := match g.preempt with | .no => false | _ => true
/-- A gang that a pre-emption holds: stopped, or pending and arrived. -/
def State.held (s : State) (k : GangKey) (g : Gang) : Bool := match g.preempt with | .no => false | .stopped => true | .pending _ => s.arrived k
/-- The weighbridge's record has reached ILIM: no further clause of class VEC, MEM or SFU in this window (R258). -/
def State.throttled (s : State) (core eng : Nat) : Bool :=
  (eng = 0 || eng = 1 || eng = 5) && (s.cluster (clusterOf core)).charge ≥ Config.ilim s.pkg.firmware
/-- The effect of a gang's next word would wait in the clause slot. -/
def State.wouldStall (s : State) (k : GangKey) (i : Instr) (always : Bool) (eff : Issue → State → Act) : Bool :=
  match ({ s with cur := some k }).issuing i.guard with
  | some x => (x.illegal i).isNone && (always || x.active ≠ 0) && match eff x s with | .stall => true | _ => false
  | none => false
/-- The path stands at a BRA.S, RET, ERET or JOIN that waits for a split, for the caller's frame or for a refill (R51, R58, R65, R81, R271). -/
def State.wordStalls (s : State) (k : GangKey) (p : Path) : Bool :=
  p.pos ≠ 0 && match (s.fetchWord k ((s.launchOf k).va p.pc)).toOption.map fun w => parse (BitVec.ofNat 64 w) with
    | some (.ok (.braS g off)) => s.wouldStall k (.braS g off) true (braSEffect off)
    | some (.ok (.ret g)) => s.wouldStall k (.ret g) false retEffect
    | some (.ok (.eret g)) => s.wouldStall k (.eret g) false eretEffect
    | some (.ok (.eretSkip g)) => s.wouldStall k (.eretSkip g) false eretSkipEffect
    | some (.ok .join) => s.wouldStall k .join true joinEffect
    | _ => false
/-- The gang may issue, but for the throttle (R51) (log 25). -/
def State.clauseReady (s : State) (k : GangKey) : Bool :=
  let g := s.gang k
  (s.team k.team).res = .placed && g.pendingTrap.isNone && g.faultWait.isNone && !g.closing && !s.held k g && s.watchLets k g
  && match s.running k with
    | none => false
    | some p => (p.pos ≠ 0 || p.resumed || g.headerMet (s.headerAt k p.hdr)) && !s.wordStalls k p
/-- The class of the clause at which the gang's running path stands. -/
def State.clauseEng (s : State) (k : GangKey) : Nat := match s.running k with | some p => headerEng (s.headerAt k p.hdr) | none => 7

-- Selection (R256, R257, R50, R52)

/-- The clause-ready gangs of a bench; the throttle keeps some of them from being chosen (R258). -/
def State.readyOn (s : State) (core bench : Nat) : List GangKey :=
  (s.gangs.filter fun e => e.2.core = core && e.2.bench = bench && s.clauseReady e.1).map Prod.fst
def State.gangPrio (s : State) (k : GangKey) : Nat := s.gridPrio (s.gridOf k)
/-- The executing path's active lanes, for R257. -/
def State.pathLanes (s : State) (k : GangKey) : Nat := match s.running k with | some p => popcount (p.mask &&& ~~~(s.gang k).exited) | none => 0
/-- The lane quarters of a gang. -/
def Gang.quarters (g : Gang) : List Nat := if g.width = 8 then [g.quarter] else if g.width = 16 then [2 * g.quarter, 2 * g.quarter + 1] else [0, 1, 2, 3]
/-- The lowest of them. -/
def Gang.firstQuarter (g : Gang) : Nat := g.quarters.headD 0
/-- Rules 1 to 6 in order; steer: rule 5 gives way to fewest active lanes. Answers whether a goes before b. The spec does not define rule 6's resident-gang number: that it is the
gang's index in its team, then the team's number, is the model's choice (log 117). -/
def State.selects (s : State) (steer : Bool) (a b : GangKey) : Bool :=
  let x := s.gang a
  let y := s.gang b
  let first (p q : Bool) (rest : Bool) : Bool := if p = q then rest else p
  let less (m n : Nat) (rest : Bool) : Bool := if m = n then rest else decide (m < n)
  first x.preempted y.preempted <| first x.starved y.starved <|
    (if x.starved && y.starved then fun r => less y.passed x.passed r else id) <|
    less (s.gangPrio b) (s.gangPrio a) <| first (!x.demoted) (!y.demoted) <|
    (if steer then fun r => less (s.pathLanes a) (s.pathLanes b) r else id) <|
    less (x.readySince.getD 0) (y.readySince.getD 0) <| less x.firstQuarter y.firstQuarter <| less a.idx b.idx <| decide (a.team ≤ b.team)
def State.pick (s : State) (steer : Bool) (ks : List GangKey) : Option GangKey := (sortBy (s.selects steer) ks).head?
/-- The cluster's record stands at 75 % of its limit (R257). -/
def State.steering (s : State) (core : Nat) : Bool := 4 * (s.cluster (clusterOf core)).charge ≥ 3 * Config.ilim s.pkg.firmware
/-- Partners of a narrow gang, in order, while lane quarters are free. -/
def State.partners (s : State) (steer : Bool) (eng : Nat) (ks : List GangKey) (used : List Nat) : Nat → List GangKey
  | 0 => []
  | fuel + 1 =>
    match s.pick steer (ks.filter fun k => (s.gang k).width ≤ 16 && s.clauseEng k = eng && ((s.gang k).quarters.all fun q => !used.contains q)) with
    | none => []
    | some k => k :: State.partners s steer eng (ks.filter fun x => x ≠ k) (used ++ (s.gang k).quarters) fuel

/-- A cause at the clause's header (R107): ILLEGAL_CLAUSE precisely, a fetch fault restartably. -/
def State.headerTrap (s : State) (k : GangKey) (p : Path) (cause taddr : Nat) (miss : Option Nat) : State :=
  let m := p.mask &&& ~~~(s.gang k).exited
  let info : TrapInfo := ⟨BitVec.ofNat 8 cause, 0, false, p.pc, p.pc, m, taddr, [], none, p.id⟩
  match miss with
  | some level => s.pageFault k ⟨info, taddr, 0x10, .fetch, level, none, none⟩
  | none => s.takeTrap k info
/-- A return point without LAND at which a call's paths have met otherwise than at a RET: BAD_TARGET stands at the RET by which a path came there (R81) (log 75). -/
def State.lateReturn (s : State) (k : GangKey) (p : Path) (ret : Nat) : State :=
  (s.modPath k p.id fun q => { q with ret := none }).takeTrap k ⟨0x23, 0, false, ret, p.pc, p.mask &&& ~~~(s.gang k).exited, 0, [], none, p.id⟩
/-- A gang takes its place in the clause slot: at a header the clause is read and checked first; later in a clause it goes on where it stands. -/
def State.enterSlot (s : State) (core bench : Nat) (k : GangKey) : State :=
  match s.running k with
  | none => s
  | some p =>
    let into (s : State) (eng : Nat) : State :=
      let b := s.bench core bench
      let s := s.fillRange (some core) (s.team k.team).ctx ((s.launchOf k).va p.hdr) (8 * (p.cnt + 1))
      (s.setBench core bench ⟨b.slot ++ [k], eng⟩).modGang k fun g => { g with passed := 0, starved := false, readySince := none }
    if p.pos ≠ 0 then into s (headerEng (s.headerAt k p.hdr))
    else if p.ret.isSome && !s.landing k p.hdr then s.lateReturn k p (p.ret.getD 0)
    else
      match s.checkClause k p.hdr with
      | .fault va f => s.headerTrap k p f.cause va f.missing
      | .illegal => s.headerTrap k p 0x03 0 none
      | .ok h => into (s.modPath k p.id fun q => { q with pos := 1, cnt := headerCnt h + 1, resumed := false, ret := none }) (headerEng h)
/-- Clause-ready gangs passed over by a counted slot; 48 such slots make a gang starved (R52) (log 64). -/
def State.passOver (s : State) (ks chosen : List GangKey) : State :=
  { s with gangs := s.gangs.map fun e =>
      if ks.contains e.1 && !chosen.contains e.1 && !e.2.demoted then (e.1, { e.2 with passed := e.2.passed + 1, starved := e.2.passed + 1 ≥ 48 }) else e }
/-- The gang stands in its bench's clause slot. -/
def State.inSlot (s : State) (k : GangKey) : Bool := s.benches.any fun e => e.2.slot.contains k
/-- The gangs that become clause-ready outside their slot note the core cycle (rule 5). -/
def State.noteReady (s : State) (core : Nat) : State :=
  { s with gangs := s.gangs.map fun e =>
      if e.2.core = core then
        (e.1, { e.2 with readySince := if s.clauseReady e.1 && !s.inSlot e.1 then some (e.2.readySince.getD (s.core core).cycle) else none })
      else e }
/-- ISSUE_SELECT: with the clause slot free, the bench chooses a gang and its co-issue partners. -/
def execIssueSelect (core bench : Nat) (s : State) : Host.Outcome State Fault Refusal :=
  let s := s.noteReady core
  if (s.bench core bench).slot ≠ [] then .next s
  else
    let ready := s.readyOn core bench
    let ks := ready.filter fun k => !s.throttled core (s.clauseEng k)
    match s.pick false ks with
    | none => .next s
    | some k =>
      let steer := s.steering core
      let more := if (s.gang k).width ≤ 16 then s.partners steer (s.clauseEng k) (ks.filter fun x => x ≠ k) (s.gang k).quarters 3 else []
      let counted := !(s.gang k).preempted
      let s := if counted then s.passOver ready (k :: more) else s
      .next ((k :: more).foldl (fun s k => s.enterSlot core bench k) s)
/-- GANG_STARVED: a clause-ready gang passed over for 48 counted slots is starved, and goes before every gang that is not (rule 2) (log 64). -/
def execGangStarved (g : GangKey) (s : State) : Host.Outcome State Fault Refusal :=
  if (tget s.gangs g).any fun x => x.passed ≥ 48 then .next (s.modGang g fun x => { x with starved := true }) else .next s

-- The next word (R108, R123)

/-- What a turn of issue comes to: the word's instruction on a chosen gang, or a state in which a cause, a fault or the slot's end has been dealt with. -/
inductive NextWord where
  | word (k : GangKey) (w : BitVec 64) (i : Instr)
  | other (s : State)
  deriving DecidableEq, Repr
/-- A cause met before the word has a meaning; TMASK marks m, for a decode cause the path's lanes under the word's guard bits (R7, R109, R270) (log 21). -/
def State.wordTrap (s : State) (k : GangKey) (p : Path) (m : Mask) (cause detail taddr : Nat) (miss : Option Nat) : State :=
  let info : TrapInfo := ⟨BitVec.ofNat 8 cause, BitVec.ofNat 16 detail, false, p.pc, p.pc, m, taddr, [], none, p.id⟩
  match miss with
  | some level => s.pageFault k ⟨info, taddr, 0x10, .fetch, level, none, none⟩
  | none => s.takeTrap k info
/-- The target that the path read at its BRX and cannot go to. -/
def Path.badTarget? (p : Path) : Option Nat := match p.st with | .badTarget t => some t | _ => none
/-- The path raises BAD_TARGET at its BRX for that target (R70, R270); the word issues again after an ERET. -/
def State.badTarget (s : State) (k : GangKey) (p : Path) (m : Mask) (target : Nat) : State :=
  (s.modPath k p.id fun q => { q with st := .ready }).takeTrap k ⟨0x23, 0, true, p.pc, p.pc, m, (s.launchOf k).va target, [], none, p.id⟩
/-- The next word of the k-th gang in a bench's clause slot (log 24). -/
def State.nextWord (s : State) (core bench n : Nat) : NextWord :=
  match (s.bench core bench).slot[n]? with
  | none => .other s
  | some k =>
    match s.running k with
    | none => .other (s.leaveSlot k)
    | some p =>
      let unexited := p.mask &&& ~~~(s.gang k).exited
      if p.pos = 0 || !s.watchLets k (s.gang k) then .other (s.leaveSlot k)
      else
        match p.badTarget? with
        | some t => .other (s.badTarget k p unexited t)
        | none =>
          match s.fetchWord k ((s.launchOf k).va p.pc) with
          | .error e => .other (s.wordTrap k p unexited e.2.cause 0 e.1 e.2.missing)
          | .ok w =>
            let active := unexited &&& (s.gang k).guardMask (guardBits (BitVec.ofNat 64 w))
            match parse (BitVec.ofNat 64 w) with
            | .ok i => .word k (BitVec.ofNat 64 w) i
            | .error .illegalOpcode => .other (s.wordTrap k p active 0x01 (p.pos - 1) 0 none)
            | .error _ => .other (s.wordTrap k p active 0x02 (p.pos - 1) 0 none)

-- RESULT_WRITEBACK (R118, R121), ACCESS_PERFORMED (R203), REPLICA_PROPAGATION (R211), TRANSLATION_WALK (R273)

/-- The core has used the translation of the word that issues (R273). -/
def State.fetched (s : State) (k : GangKey) : State := match s.running k with | some p => s.useCode k p.pc | none => s
/-- A flight whose results are known and not yet written; a CPY-class instruction without a result returns at its job's acceptance. -/
def Flight.writable (f : Flight) : Bool := !f.returned && !f.replaying && f.todo.isEmpty && !(f.counter = some .cp && f.dest.isEmpty)
/-- See log 19. -/
def execResultWriteback (g : GangKey) (s : State) : Host.Outcome State Fault Refusal :=
  match (s.gang g).flights.find? Flight.writable with
  | none => .next s
  | some f => .next ((s.modGang g fun x => x.writeback f.id).mergePaths g)
/-- See log 17. -/
def execAccessPerformed (g : GangKey) (s : State) : Host.Outcome State Fault Refusal := .next (s.performNext g)
/-- The oldest store to an address that a die's replica lacks reaches it. -/
def dropLag (die addr : Nat) : List Lag → List Lag
  | [] => []
  | e :: es =>
    if e.dies.contains die && e.addr ≤ addr && addr < e.addr + e.olds.length then
      (match e.dies.filter (fun d => d ≠ die) with | [] => es | ds => { e with dies := ds } :: es)
    else e :: dropLag die addr es
def execReplicaPropagation (die addr : Nat) (s : State) : Host.Outcome State Fault Refusal := .next { s with lags := dropLag die addr s.lags }
/-- TRANSLATION_WALK: the walkers of a region serve the partition that owns it (R12). -/
def execTranslationWalk (core : Nat) (c : CtxKey) (va : Nat) (s : State) : Host.Outcome State Fault Refusal :=
  .next (if (s.part c.part).ownsCore core then s.fillTlb core c va else s)

-- TRAP_ENTRY (R269)

def execTrapEntry (g : GangKey) (s : State) : Host.Outcome State Fault Refusal :=
  match (s.gang g).pendingTrap with
  | none => .next s
  | some t => if (s.gang g).trapReady then .next (s.enterTrap g t) else .next s

-- The watchdog (R275, R276)

/-- LIMIT core cycles; 0 means 2^32. -/
def watchLimit (x : BitVec 32) : Nat := if x = 0 then 2 ^ 32 else x.toNat
/-- The path that takes WATCHDOG: the one that a page fault holds; the running path at a clause boundary; else a parked path, or one that waits; a path that gathers at a collective
waits as a parked one does. A home gang without a path, its threads departed, takes none (log 69). -/
def State.watchPath (s : State) (k : GangKey) : Option Path :=
  let g := s.gang k
  let live (p : Path) : Bool := (p.mask &&& ~~~g.exited) ≠ 0
  match g.faultWait, s.running k with
  | some w, _ => g.paths.find? fun p => p.id = w.info.path
  | none, some p => if p.pos = 0 then some p else none
  | none, none =>
    if g.paths.any Path.holdsGang then none
    else (g.paths.find? fun p => p.isParked && live p).or (g.paths.find? fun p => (p.isWaiting || p.st = .held .collective || p.pos = 0) && live p)
/-- A gang that a page fault holds is unparked: its faulting instruction has not acted, and stands to be issued again (R276). Its entry in the fault queue stays (log 69). -/
def State.unparkFault (s : State) (k : GangKey) : State :=
  match (s.gang k).faultWait with
  | none => s
  | some w =>
    let back (p : Path) : Path := if p.st = .parked .service then { (if w.info.replay.isSome then p.back else p) with st := .ready, resumed := true } else p
    s.modGang k fun g => { (g.modPath w.info.path back).dropFlight (w.info.replay.bind Replay.flight) with faultWait := none }
/-- Deliver WATCHDOG; a parked path is unparked, with its PC at its parking instruction (log 69). -/
def State.deliverWatch (s : State) (k : GangKey) : State :=
  match s.watchPath k with
  | none => s
  | some p =>
    let s := s.unparkFault k
    let p := (s.gang k).path p.id
    let s := s.modPath k p.id fun q => if q.isParked then { q with st := .ready, resumed := true } else q
    s.takeTrap k ⟨0x48, 0, false, p.pc, p.pc, p.mask &&& ~~~(s.gang k).exited, 0, [], none, p.id⟩
def execWatchdogExpiry (g : GangKey) (s : State) : Host.Outcome State Fault Refusal :=
  match tget s.gangs g with
  | none => .next s
  | some x =>
    let c := (s.team g.team).ctx
    let due := x.watch = .expired || (x.watch = .counting && x.wdCycles ≥ watchLimit (s.ctx c).wdlimit)
    if g.idx ≥ 32 || !due || (s.team g.team).res ≠ .placed then .next s
    else
      let s := s.modGang g fun x => { x with watch := .expired }
      if x.pendingTrap.isSome then .next s else .next (s.deliverWatch g)
def execWatchdogGraceExpiry (g : GangKey) (s : State) : Host.Outcome State Fault Refusal :=
  match tget s.gangs g with
  | none => .next s
  | some x => match x.watch with | .grace 0 => .next (s.teardown (s.team g.team).ctx) | _ => .next s

-- The porter (R85, R86, R94)

/-- PORTER_SPILL: one item ahead of need; a fault stops it until an instruction needs the space, at which it is raised (R94). -/
def execPorterSpill (g : GangKey) (s : State) : Host.Outcome State Fault Refusal :=
  if (tget s.gangs g).isNone || (s.gang g).spillStopped.isSome then .next s
  else
    match (s.spillItem g).1 with
    | .ok s => .next s
    | .fault s va f _ => .next (s.modGang g fun x => { x with spillStopped := some (va, f.cause, f.missing) })
    | _ => .next s
/-- PORTER_REFILL: one item ahead of need; a call or a handler that is over may slide out then (R71, R271), and takes the fault of its refill (R94, R274). -/
def execPorterRefill (g : GangKey) (s : State) : Host.Outcome State Fault Refusal :=
  if !(s.gang g).wantsRefill then .next s
  else
    match s.refillItem g with
    | .ok s => .next ((s.modGang g fun x => x.closeFrame (s.launchOf g).winMin).mergePaths g)
    | .fault s va f kind => .next (if (s.gang g).callOver || (s.gang g).closing then s.porterFault g va f kind else s)
    | _ => .next s

-- GANG_END (R54, R343)

def execGangEnd (g : GangKey) (s : State) : Host.Outcome State Fault Refusal :=
  match tget s.gangs g with
  | none => .next s
  | some x => if x.over && (s.team g.team).res = .placed then .next (s.endGang g) else .next s

-- PROGRAM_TIME_TICK (R208) and the passing of core cycles

def execProgramTimeTick (g : GangKey) (s : State) : Host.Outcome State Fault Refusal :=
  match tget s.gangs g with
  | none => .next s
  | some x =>
    let s := s.setGang g { x with pt := x.pt + 1 }
    .next ((s.modPart (s.partOf g) fun p => { p with top := max p.top (x.pt + 1) }).timeRoom (s.partOf g))

/-- Core cycles pass for a gang: its watchdog, and the grace of its handler (R275, R276). -/
def Gang.watchTick (g : Gang) (n : Nat) : Gang :=
  match g.watch with
  | .counting => { g with wdCycles := g.wdCycles + n }
  | .expired => g
  | .grace left => { g with watch := .grace (left - n) }
/-- The leases of a partition's remote copies run down; one that is over is dropped (R197, R208) (log 8). -/
def Part.ageRemote (p : Part) (n : Nat) : Part :=
  { p with rdc := (p.rdc.filter fun e => e.2.left > n).map fun (e : Nat × RemoteCopy) => (e.1, { e.2 with left := e.2.left - n }) }
/-- n core cycles pass on a core (R39, R62, R180, R208, R275): the cycle counter, the watchdogs of its home gangs, the ages of waiting threads while they could be placed,
the cycles of a slaved engine, one tick of program time for every 16 cycles, and the leases of remote copies (log 10). -/
def State.tick (s : State) (core n : Nat) : State :=
  let ticks := ((s.core core).cycle + n) / 16 - (s.core core).cycle / 16
  let slaver := if (s.core core).engine.slaved then (s.core (leaderOf core)).engine.slaver else none
  let s := s.modCore core fun c => { c with cycle := c.cycle + n }
  let s : State := match slaver with
    | some o => s.modFigures o.gang.team core fun f => { f with slaveCycles := f.slaveCycles + BitVec.ofNat 32 n }
    | none => s
  let s := { s with
    gangs := s.gangs.map (fun (e : GangKey × Gang) =>
      if e.2.core = core && (s.team e.1.team).res = Residence.placed then (e.1, { (if e.1.idx < 32 then e.2.watchTick n else e.2) with pt := e.2.pt + ticks }) else e),
    teams := s.teams.map fun (e : Nat × Team) =>
      if e.2.core = core && e.2.res = Residence.placed then (e.1, { e.2 with spawn := e.2.spawn.map fun (x : Spawn) => if s.waitCounts e.1 x then { x with age := x.age + n } else x }) else e }
  let s := match s.corePart core with | some p => (s.modPart p fun x => { x.ageRemote n with top := x.top + ticks }).timeRoom p | none => s
  s.noteReady core

/-- n interposer cycles pass (R258, R277): the package's time, and the age of pre-emption requests (log 10). -/
def State.elapse (s : State) (n : Nat) : State :=
  { s with
    pkg := { s.pkg with time := s.pkg.time + n },
    gangs := s.gangs.map fun (e : GangKey × Gang) => match e.2.preempt with | .pending c => (e.1, { e.2 with preempt := .pending (c + n) }) | _ => e }
/-- A core's L1 drops a sector; a dirty one is written back first (R195). -/
def State.evictSector (s : State) (core sector : Nat) : State := s.dropSector core sector

end Sys2Proof.Machine
end

