-- ==== Sys2Proof/Machine/Message.lean ====
section
/-! DEFINITION. Messages between cores (spec/10_async.md R239 to R241; spec/15_ref_a_d.md R325; spec/16_ref_e_m.md R375 to R378): MOV, CHANBIND, MSGSEND, MSGRECV and the
delivery of flits. -/
namespace Sys2Proof.Machine

/-- The binding of a send register, if the gang owns it. -/
def State.ownBinding (s : State) (k : GangKey) (mo : Nat) : Option Binding :=
  match tget (s.core (s.gang k).core).mo mo with
  | some b => if b.owner = k then some b else none
  | none => none

/-- What a send meets: no channel, a fenced die, no credit, or the binding to use (R240, R378). -/
inductive SendCheck where
  | closed
  | fenced
  | full
  | ready (b : Binding)
  deriving DecidableEq, Repr
def State.sendCheck (s : State) (k : GangKey) (mo : Nat) : SendCheck :=
  match s.ownBinding k mo with
  | none => .closed
  | some b => if s.pkg.fenced.contains (dieOf b.core) then .fenced else if !b.credit then .full else .ready b

/-- The core's accesses that are on their way to another core's scratchpad land there before what it sends after them (R13). -/
def State.flushRoute (s : State) (src dst : Nat) : State :=
  let bound (g : Gang) : Bool := g.core = src && g.flights.any fun f => !f.replaying && f.todo.any fun a => match a.loc with | .scratch c _ => c = dst | .mem .. => false
  (tkeys s.gangs fun _ g => bound g).foldl State.catchUp s
/-- Send one flit: the credit goes with it; a progress event. -/
def State.sendFlit (s : State) (k : GangKey) (mo : Nat) (b : Binding) (x : Nat) : State :=
  let core := (s.gang k).core
  let s := (s.catchUp k).flushRoute core b.core
  let s := s.modCore core fun c => { c with mo := tset c.mo mo { b with credit := false } }
  ({ s with transit := s.transit ++ [(⟨core, mo, b.core, b.mi, some (BitVec.ofNat 64 x), b.id⟩ : Flit)] }).progress k

/-- A unit in which the credit of one binding has come back. -/
def creditMo (f : Flit) (mo : Tbl Nat Binding) : Tbl Nat Binding := tmap mo (fun n b => n = f.fromMo && b.id = f.id) fun b => { b with credit := true }
/-- A binding's credit returns to its producer, whose parked paths issue again; the producer's message unit may stand saved or in shadow storage (log 100). -/
def State.returnCredit (s : State) (f : Flit) : State :=
  let saved (p : Part) : Part := { p with
    units := tmap p.units (fun u _ => u.2 = f.fromCore) fun (u : MsgUnit) => { u with mo := creditMo f u.mo },
    shadow := p.shadow.map fun (x : Shadow) => { x with units := tmap x.units (fun c _ => c = f.fromCore) fun (u : MsgUnit) => { u with mo := creditMo f u.mo } } }
  let s := { s with parts := s.parts.map fun e => (e.1, saved e.2) }
  match (tget (s.core f.fromCore).mo f.fromMo).filter fun b => b.id = f.id with
  | none => s
  | some b =>
    let s := s.modCore f.fromCore fun c => { c with mo := creditMo f c.mo }
    s.retry fun k on => k = b.owner && match on with | .credit mo => mo = f.fromMo | _ => false

/-- Take the flit that stands in a receive register; the receipt observes the send (R205). -/
def State.takeFlit (s : State) (k : GangKey) (mi : Nat) (f : Flit) : State :=
  let s := s.catchUp k
  ((s.modCore (s.gang k).core fun c => { c with flits := terase c.flits mi }).returnCredit f).observe k

/-- What a receive meets: a flit, a closed channel, or neither yet (R241). -/
inductive RecvCheck where
  | flit (f : Flit)
  | closed
  | empty
  deriving DecidableEq, Repr
def State.recvCheck (s : State) (k : GangKey) (mi : Nat) : RecvCheck :=
  let c := s.core (s.gang k).core
  match tget c.flits mi with
  | some f => .flit f
  | none => if tgetD c.producers mi 0 = 0 then .closed else .empty

def Flit.value (f : Flit) : Nat := match f.data with | some d => d.toNat | none => 0

-- MOV (R375, R376)

/-- MOV of a value into registers or onto a send register; the flit that a source mi has given, if any, is consumed. -/
def movTo (a : MovArgs) (value : Nat → Nat) (from' : Option (Nat × Flit)) (x : Issue) (s : State) : Act :=
  let take (s : State) : State := match from' with | some (mi, f) => s.takeFlit x.key mi f | none => s
  match a.d with
  | .mo n =>
    match s.sendCheck x.key n.toNat with
    | .closed => .trap (.of 0x3A)
    | .fenced => .trap (.of 0x61)
    | .full => .stall
    | .ready b => .done ((take s).sendFlit x.key n.toNat b (value x.low))
  | d => .done ((take s).modGang x.key fun g => g.writeRegs ((x.gang.dest d a.ty.regs).laneWrites x.lanes value))
def movEffect (a : MovArgs) (x : Issue) (s : State) : Act :=
  match a.s1 with
  | .reg (.mi n) =>
    match s.recvCheck x.key n.toNat with
    | .closed => .trap (.of 0x3A)
    | .empty => .park (.receive n.toNat)
    | .flit f => movTo a (fun _ => f.value) (some (n.toNat, f)) x s
  | src => movTo a (fun l => x.readB s src a.ty l) none x s
def execMov (g : Guard) (a : MovArgs) (s : State) : Host.Outcome State Fault Refusal := s.issueWord (.mov g a) false (movEffect a)

-- CHANBIND (R239, R325)

/-- Some team of the context stands on the core, or stood there when its die was fenced (log 47). -/
def State.coreHasTeam (s : State) (c : CtxKey) (core : Nat) : Bool :=
  (s.teams.any fun e => e.2.ctx = c && e.2.res = .placed && (e.2.core = core || (e.2.pair && e.2.core + 1 = core)))
    || s.pkg.fencedTeams.any fun t => t.ctx = c && (t.core = core || (t.pair && t.core + 1 = core))
/-- Bind a send register: an old binding of the gang ends, its unbind following its last flit; the new one holds a fresh credit. -/
def State.bind (s : State) (k : GangKey) (mo core mi : Nat) : State :=
  let here := (s.gang k).core
  let s := match tget (s.core here).mo mo with
    | some b => { s with transit := s.transit ++ [(⟨here, mo, b.core, b.mi, none, b.id⟩ : Flit)] }
    | none => s
  let s := s.modCore here fun c => { c with mo := tset c.mo mo ⟨k, core, mi, true, s.seq⟩ }
  (s.modCore core fun c => { c with producers := tset c.producers mi (tgetD c.producers mi 0 + 1) }).bump
/-- CHANBIND, its exceptions in R325's order (log 47). -/
def chanbindEffect (a : ChanbindArgs) (x : Issue) (s : State) : Act :=
  let c := x.once s a.s1 1
  let mo := a.mo.toNat
  if !(s.part x.team.ctx.part).ownsCore c || !s.coreHasTeam x.team.ctx c then .trap (.of 0x11)
  else if s.pkg.fenced.contains (dieOf c) then .trap (.of 0x61)
  else
    match tget (s.core x.gang.core).mo mo with
    | some b => if b.owner = x.key then .done (s.bind x.key mo c a.mi.toNat) else .trap (.of 0x3A)
    | none => .done (s.bind x.key mo c a.mi.toNat)
def execChanbind (g : Guard) (a : ChanbindArgs) (s : State) : Host.Outcome State Fault Refusal := s.issueWord (.chanbind g a) false (chanbindEffect a)

-- MSGSEND, MSGRECV (R377, R378)

def msgsendEffect (a : MsgsendArgs) (x : Issue) (s : State) : Act :=
  let mo := match a.d with | .mo n => n.toNat | _ => 0
  match s.sendCheck x.key mo with
  | .closed => .trap (.of 0x3A)
  | .fenced => .trap (.of 0x61)
  | .full => .park (.credit mo)
  | .ready b => .done (s.sendFlit x.key mo b (x.once s a.s1 (if a.b64 then 2 else 1)))
def execMsgsend (g : Guard) (a : MsgsendArgs) (s : State) : Host.Outcome State Fault Refusal := s.issueWord (.msgsend g a) false (msgsendEffect a)

/-- MSGRECV's results: the flit and a true predicate, or a false predicate alone. -/
def msgrecvEffect (a : MsgrecvArgs) (x : Issue) (s : State) : Act :=
  let mi := match a.s1 with | .mi n => n.toNat | _ => 0
  let d := x.gang.dest a.d 2
  let pq := Dest.pred a.pq.toNat
  let no : Act := .done (s.addResult x (some .sp) a.la [d, pq] (pq.laneWrites x.lanes fun _ => 0) false)
  match s.recvCheck x.key mi with
  | .flit f =>
    .done ((s.takeFlit x.key mi f).addResult x (some .sp) a.la [d, pq] (d.laneWrites x.lanes (fun _ => f.value) ++ pq.laneWrites x.lanes fun _ => 1) false)
  | .closed => no
  | .empty => if a.nb then no else .park (.receive mi)
def execMsgrecv (g : Guard) (a : MsgrecvArgs) (s : State) : Host.Outcome State Fault Refusal := s.issueWord (.msgrecv g a) false (msgrecvEffect a)

-- FLIT_DELIVERY (R240)

/-- Some flit of the list, in the order sent, that f selects may arrive now. -/
def State.someDeliverable (s : State) (f : Flit → Bool) : List Flit → List Flit → Bool
  | _, [] => false
  | before, x :: rest => (f x && s.deliverable x before) || State.someDeliverable s f (before ++ [x]) rest
/-- See log 79. -/
def State.nextFlit (s : State) (core mo : Nat) : List Flit → List Flit → Option (Flit × List Flit)
  | _, [] => none
  | before, f :: rest =>
    if f.fromCore = core && f.fromMo = mo && s.deliverable f before then some (f, before ++ rest)
    else State.nextFlit s core mo (before ++ [f]) rest
def execFlitDelivery (core mo : Nat) (s : State) : Host.Outcome State Fault Refusal :=
  match s.nextFlit core mo [] s.transit with
  | none => .next s
  | some (f, rest) => .next (State.receiveFlit { s with transit := rest } f)

end Sys2Proof.Machine
end

