-- ==== Sys2Proof/Machine/Power.lean ====
section
/-! DEFINITION. The weighbridge's window and its grants (spec/11_scheduling.md R258 to R260), performance levels and thermal clamps (R261, R262), Zhoina's clamps
(spec/14_system.md R302), and the rebase of logical time (spec/09_consistency.md R210). -/
namespace Sys2Proof.Machine

-- The weighbridge

/-- A gang's request for leave: its place in the order, its units, the core cycle at which its wait began. -/
def Gang.request (g : Gang) : Option (Nat × Nat × Nat) := match g.leave with | .waiting u o t => some (o, u, t) | _ => none
/-- The oldest request of a cluster's gangs that f selects, by gang and units (log 93). -/
def State.oldestRequest (s : State) (cluster : Nat) (f : GangKey → Nat → Bool) : Option (GangKey × Nat × Nat × Nat) :=
  let rs := s.gangs.filterMap fun e => if clusterOf e.2.core = cluster then (e.2.request.filter fun r => f e.1 r.2.1).map fun r => (e.1, r) else none
  rs.foldl (fun (b : Option (GangKey × Nat × Nat × Nat)) r => match b with | none => some r | some x => if r.2.1 < x.2.1 then some r else some x) none
/-- Grant a request: the leave is the gang's to use, and an engine operation's wait counts as LEAVEWAIT (R180); COLL asks 64 units, an engine operation more. -/
def State.grant (s : State) (k : GangKey) (units since : Nat) : State :=
  let core := (s.gang k).core
  let s := (s.takeLeave k units).modGang k fun g => { g with leave := .granted }
  if units = 64 then s else s.modFigures k.team core fun f => { f with leaveWait := f.leaveWait + BitVec.ofNat 32 ((s.core core).cycle - since) }
/-- A window starts: its record holds the standing reservations, whose units each gang may draw afresh; of the requests whose remainder exceeds ILIM alone the oldest is granted
(R258 to R260). -/
def State.newWindow (s : State) (cluster : Nat) : State :=
  let s := s.setCluster cluster { s.cluster cluster with charge := s.reserved cluster }
  let s := { s with gangs := s.gangs.map fun (e : GangKey × Gang) => if clusterOf e.2.core = cluster then (e.1, { e.2 with resLeft := e.2.reservation }) else e }
  match s.oldestRequest cluster fun k u => (s.gang k).leaveRest u > Config.ilim s.pkg.firmware with
  | none => s
  | some (k, _, units, since) => s.grant k units since
def execWeighbridgeWindow (cluster : Nat) (s : State) : Host.Outcome State Fault Refusal := .next (s.newWindow cluster)
/-- LEAVE_GRANT: the oldest waiting operation of a cluster whose remainder fits is granted. -/
def execLeaveGrant (cluster : Nat) (s : State) : Host.Outcome State Fault Refusal :=
  match s.oldestRequest cluster (s.leaveFits 0) with
  | none => .next s
  | some (k, _, units, since) => .next (s.grant k units since)

-- Levels

/-- The partition that holds a cluster's die (log 94). -/
def State.partOfCluster (s : State) (cluster : Nat) : Part := ((s.parts.find? fun e => e.2.ownsDie (cluster / 8)).map Prod.snd).getD .initial
/-- Teams resident on a cluster. -/
def State.clusterTeams (s : State) (cluster : Nat) : List (Nat × Team) := s.teams.filter fun e => clusterOf e.2.core = cluster && e.2.res = .placed
/-- The level that a cluster is to run at (R261) (log 94). -/
def State.targetLevel (s : State) (cluster : Nat) : Nat :=
  let c := s.cluster cluster
  let p := s.partOfCluster cluster
  if (s.clusterTeams cluster).isEmpty then 0 else min (s.requested cluster) (min (min p.ceil p.mceil) (min c.thermal c.slack))
def execPerfLevelChange (cluster : Nat) (s : State) : Host.Outcome State Fault Refusal :=
  .next (s.setCluster cluster { s.cluster cluster with level := s.targetLevel cluster })

/-- A sweep's effect on one cluster's thermal clamp (log 112). -/
def State.sweepCluster (s : State) (r : SensorReading) : State :=
  let c := s.cluster r.cluster
  let t := r.temp.toInt
  let f := s.pkg.firmware
  s.setCluster r.cluster { c with
    thermal := if t ≥ Config.tripTemp f then max 1 (c.thermal - 1) else if t < Config.holdTemp f then min 7 (c.thermal + 1) else c.thermal }
/-- The hottest reading; the first of several equal ones. -/
def hottest (rs : List SensorReading) : Option SensorReading :=
  rs.foldl (fun (b : Option SensorReading) r => match b with | none => some r | some x => if x.temp.toInt < r.temp.toInt then some r else some x) none
/-- THERMAL_SWEEP: every cluster's clamp moves by its hottest sensor, and THOT names the hottest bench (log 112). -/
def execThermalSweep (readings : List SensorReading) (s : State) : Host.Outcome State Fault Refusal :=
  let s := readings.foldl State.sweepCluster s
  match hottest readings with
  | none => .next s
  | some r => .next (s.modPkg fun p => { p with thot := BitVec.ofNat 16 r.hottestBench ++ r.temp })

-- Zhoina (R302)

/-- The module clamp of every partition, written by the security processor on Zhoina's behalf. -/
def State.clampAll (s : State) (level : Nat) : State := (List.range 12).foldl (fun s p => s.modPart p fun x => { x with mceil := level }) s
def execCoolantAlarm (s : State) : Host.Outcome State Fault Refusal := .next (s.clampAll 1)
def execCoolantRecover (s : State) : Host.Outcome State Fault Refusal := .next (s.clampAll 7)
/-- COOLANT_FATAL: a FATAL record in every partition's log, then module power is removed. -/
def execCoolantFatal (s : State) : Host.Outcome State Fault Refusal :=
  let s := (List.range 12).foldl (fun s p => s.logTo p 0 0x05 0x0C 0 none 0) s
  .next (s.modPkg fun p => { p with powered := false })

-- TIME_REBASE (R210)

def execTimeRebase (part : Nat) (s : State) : Host.Outcome State Fault Refusal := .next (s.rebase part)

end Sys2Proof.Machine
end

