-- ==== Sys2Proof/Machine/Preempt.lean ====
section
/-! DEFINITION. Pre-emption: requests, forced stops, saving a team, restoring it, the shadow exchange (spec/12_faults.md R277 to R279; spec/04_registers.md R98 to R101). -/
namespace Sys2Proof.Machine

-- Requests (R277)

/-- A placed team's gangs take rule 1 and run to a safe point. -/
def State.markTeam (s : State) (n : Nat) : State :=
  { s with gangs := tmap s.gangs (fun k g => k.team = n && !g.preempted) fun (g : Gang) => { g with preempt := .pending 0 } }
def State.placedTeams (s : State) (f : Team → Bool) : List Nat := tkeys s.teams fun _ t => t.res = .placed && f t
/-- A SAVE of every placed team that f names (log 95). -/
def State.requestSave (s : State) (f : Team → Bool) : State :=
  (s.placedTeams f).foldl (fun s n => (s.modTeam n fun t => { t with preempting := true }).markTeam n) s
/-- A SWAP of a partition (log 95). -/
def State.requestSwap (s : State) (part : Nat) : State :=
  (s.placedTeams fun t => t.ctx.part = part).foldl State.markTeam (s.modPart part fun p => { p with swapping := true })
/-- The team's number q (R89). -/
def Team.q (t : Team) : Nat := 16 * t.core + t.resident
def execPreemptSaveTeam (c : CtxKey) (q : Nat) (s : State) : Host.Outcome State Fault Refusal := .next (s.requestSave fun t => t.ctx = c && t.q = q)
def execPreemptSaveContext (c : CtxKey) (s : State) : Host.Outcome State Fault Refusal := .next (s.requestSave fun t => t.ctx = c)
def execPreemptSavePartition (part : Nat) (s : State) : Host.Outcome State Fault Refusal := .next (s.requestSave fun t => t.ctx.part = part)
def execPreemptSwapPartition (part : Nat) (s : State) : Host.Outcome State Fault Refusal := .next (s.requestSwap part)

/-- The gang stands at a clause boundary of its running path, or no path of it runs: each waits or is parked, and none holds the gang within a clause. -/
def State.atBoundary (s : State) (k : GangKey) : Bool :=
  let g := s.gang k
  g.pendingTrap.isNone && (g.faultWait.isSome || match s.running k with | some p => p.pos = 0 | none => !(g.paths.any Path.holdsGang))
/-- PREEMPT_FORCED_STOP: 100 us (140,000 interposer cycles) after the request a gang not arrived is stopped at its next clause boundary. -/
def execPreemptForcedStop (g : GangKey) (s : State) : Host.Outcome State Fault Refusal :=
  match (s.gang g).preempt with
  | .pending n => if n ≥ 140000 && !s.arrived g && s.atBoundary g then .next ((s.modGang g fun x => { x with preempt := .stopped }).leaveSlot g) else .next s
  | _ => .next s

/-- A gang that a pre-emption holds, with nothing in flight but a faulting instruction (log 96). -/
def State.halted (s : State) (k : GangKey) : Bool := s.held k (s.gang k) && (s.gang k).pendingTrap.isNone && (s.gang k).flights.all Flight.replaying
/-- The team has no engine operation and no job left (R179, R277). -/
def State.teamDrained (s : State) (n : Nat) : Bool :=
  !(s.cores.any fun e => (e.2.engine.queue ++ e.2.engine.running.toList).any fun o => o.gang.team = n) && !(s.jobs.any fun e => e.2.team = some n)
/-- See log 96. -/
def State.teamHalted (s : State) (n : Nat) : Bool := (s.gangsOf n).all s.halted && s.teamDrained n
/-- The gangs of a team run on. -/
def State.releaseTeam (s : State) (n : Nat) : State :=
  { s with gangs := tmap s.gangs (fun k _ => k.team = n) fun (g : Gang) => { g with preempt := .no } }

-- Layouts (R98, R99, R101, R279)

/-- Pad to a 16-byte boundary with zeros. -/
def pad16 (bs : List Byte) : List Byte := bs ++ List.replicate ((16 - bs.length % 16) % 16) 0
def zeros (n : Nat) : List Byte := List.replicate n 0
/-- Registers to be saved: the live masks of the clauses at which the paths stand, united; every register after a forced stop, or where a clause has no entry. -/
def State.saveMasks (s : State) (k : GangKey) : Nat × Nat :=
  let g := s.gang k
  let l := s.launchOf k
  let all := (2 ^ (l.vtop + 1) - 1, 2 ^ l.scalars - 1)
  if g.preempt = .stopped then all
  else g.paths.foldl (fun (m : Nat × Nat) p =>
    match (s.safeEntry k p.hdr).2 with
    | .ok (some e) => (m.1 ||| (e.vregs &&& all.1), m.2 ||| (e.sregs &&& all.2))
    | _ => all) (0, 0)
def bitsOn (m n : Nat) : List Nat := (List.range n).filter m.testBit
/-- The gang save. -/
def State.gangSave (s : State) (k : GangKey) : List Byte :=
  let g := s.gang k
  let (v, x) := s.saveMasks k
  let lanes := List.range g.width
  let window := bytesOfNat 2 g.depth ++ zeros 2 ++ bytesOfNat 4 g.wspill ++ bytesOfNat 4 g.wring ++ bytesOfNat 4 g.reserve ++ bytesOfNat 4 g.spillcnt.toNat
    ++ bytesOfNat 4 g.refillcnt.toNat ++ zeros 8
  let preds := (List.range 16).flatMap fun n => bytesOfNat 8 (if n = 0 then fullMask g.width else g.readP n).toNat
  window ++ bytesOfNat 16 v ++ pad16 ((bitsOn v 128).flatMap fun n => lanes.flatMap fun l => bytesOfNat 4 (g.readV n l).toNat)
    ++ pad16 (bytesOfNat 8 x) ++ pad16 ((bitsOn x 64).flatMap fun n => bytesOfNat 4 (g.readS n).toNat) ++ preds

/-- A path's entry; a divided path waits at its reconvergence PC. -/
def pathBytes (pc : Nat) (rpc : Option Nat) (mask : Mask) (link state : Nat) (left : Mask) : List Byte :=
  bytesOfNat 4 pc ++ bytesOfNat 4 (rpc.getD noRpc) ++ bytesOfNat 8 mask.toNat ++ bytesOfNat 1 link ++ bytesOfNat 1 state ++ zeros 6 ++ bytesOfNat 8 left.toNat
def Path.stateCode (p : Path) : Nat := if p.isParked then 2 else if p.isWaiting then 1 else 0
/-- A call that did not divide its path is no path of the table: no other path links to its record (R56) (log 30). -/
def undivided (ps : List Path) (ns : List Node) (n : Node) : Bool :=
  n.ofCall && n.id ≠ n.path && (ps.filter fun p => p.link = n.id).length + (ns.filter fun m => m.link = n.id).length ≤ 1
def Gang.allNodes (g : Gang) : List Node := g.nodes ++ g.traps.flatMap TrapState.nodes
/-- The divided paths that the table lists. -/
def Gang.divided (g : Gang) : List Node := g.allNodes.filter fun n => !undivided g.allPaths g.allNodes n
/-- The record to which a link leads, past calls that divided nothing. -/
def Gang.linkTo (g : Gang) (n : Nat) : Nat → Nat
  | 0 => n
  | fuel + 1 =>
    match g.allNodes.find? fun m => m.id = n with
    | some m => if undivided g.allPaths g.allNodes m then Gang.linkTo g m.link fuel else n
    | none => n
/-- The paths and the divided paths that stand directly in a divided path's place, past calls that divided nothing. -/
def Gang.under (g : Gang) (n : Nat) : List Path × List Node :=
  let at' (link : Nat) : Bool := decide (g.linkTo link g.allNodes.length = n)
  (g.allPaths.filter fun p => at' p.link, g.divided.filter fun m => at' m.link)
/-- The lanes of a divided path: those of every path that stands in its place, however often it was divided again. -/
def Gang.maskUnder (g : Gang) (n : Nat) : Nat → Mask
  | 0 => 0
  | fuel + 1 =>
    let (ps, ns) := g.under n
    ns.foldl (fun a m => a ||| Gang.maskUnder g m.id fuel) (ps.foldl (fun a p => a ||| p.mask) 0)
/-- See log 98. -/
def Gang.pathTable (g : Gang) : List Byte :=
  let ps := g.allPaths
  let ns := g.divided
  let link (n : Nat) : Nat := let n := g.linkTo n g.allNodes.length; if ns.any fun m => m.id = n then ps.length + ns.findIdx fun m => m.id = n else 0xFF
  (ps.flatMap fun p => pathBytes p.pc p.rpc p.mask (link p.link) p.stateCode (if p.left ≠ 0 then p.left else p.mask))
    ++ ns.flatMap fun n =>
      let (kids, parts) := g.under n.id
      let mask := g.maskUnder n.id (ns.length + 1)
      pathBytes (((kids.map Path.rpc ++ parts.map Node.rpc).head?.bind id).getD 0) n.rpc mask (link n.link) 1 mask
def Gang.pathCount (g : Gang) : Nat := g.allPaths.length + g.divided.length
def Depart.image (d : Depart) : List Byte :=
  bytesOfNat 4 (d.rpc.getD noRpc) ++ bytesOfNat 2 d.depth ++ bytesOfNat 1 d.gangLeft ++ bytesOfNat 1 d.laneLeft ++ bytesOfNat 4 d.reserve ++ zeros 4
def State.departTable (s : State) (k : GangKey) : List Byte :=
  (List.range (s.gang k).width).flatMap fun l =>
    let ds := (tgetD (s.team k.team).departs ((s.gang k).homeOf k l) []).take 4
    ds.flatMap Depart.image ++ zeros (64 - 16 * ds.length)
def TrapState.image (t : TrapState) (width : Nat) : List Byte :=
  let r := t.replay.getD ⟨0, 0, [], [], none⟩
  bytesOfNat 4 t.tcause.toNat ++ bytesOfNat 4 t.tpc.toNat ++ bytesOfNat 4 t.tnext.toNat ++ zeros 4 ++ bytesOfNat 8 t.tmask.toNat ++ bytesOfNat 8 t.taddr.toNat
    ++ bytesOfNat 8 r.word.toNat ++ bytesOfNat 8 r.mask.toNat
    ++ (List.range width).flatMap fun l => bytesOfNat 8 (tgetD r.addrs l 0) ++ bytesOfNat 16 (tgetD r.data l 0)
/-- The bytes of a gang block before its gang save. -/
def Gang.blockHead (g : Gang) : Nat := 16 + 32 * g.pathCount + 64 * g.width + g.traps.length * (48 + 24 * g.width)
def State.gangBlock (s : State) (k : GangKey) : List Byte :=
  let g := s.gang k
  let save := s.gangSave k
  let head := bytesOfNat 2 k.idx ++ bytesOfNat 1 g.pathCount ++ bytesOfNat 1 g.traps.length
    ++ bytesOfNat 1 ((if g.handlerMode then 1 else 0) + (if g.demoted then 2 else 0)) ++ bytesOfNat 1 (if g.nstat then 1 else 0) ++ zeros 2
    ++ bytesOfNat 4 (g.blockHead + save.length) ++ zeros 4
  head ++ g.pathTable ++ s.departTable k ++ (g.traps.reverse.flatMap fun t => t.image g.width) ++ save

/-- The team save. -/
def Team.save (t : Team) (l : Launch) : List Byte :=
  (List.range t.spanSize).flatMap fun b =>
    (List.range l.tiles).flatMap (fun r => t.tiles.readBytes (b * 2 ^ 16 + r * 2 ^ 13) 8192)
      ++ bytesOfNat 16 ((bitsOn 15 4).foldl (fun a r => if t.poison.contains (b, r) then a + 2 ^ r else a) 0)
      ++ (List.range l.accs).flatMap fun r => t.accs.readBytes (b * 2 ^ 14 + r * 2 ^ 12) 4096
/-- The message block of a core (log 100). -/
def Core.msgBlock (c : Core) : List Byte :=
  let four := List.range 4
  (four.flatMap fun n => bytesOfNat 8 (match tget c.mo n with | some b => 2 ^ 31 + b.mi * 2 ^ 16 + b.core | none => 0))
    ++ (four.flatMap fun n => bytesOfNat 8 (match tget c.flits n with | some f => (f.data.getD 0).toNat | none => 0))
    ++ bytesOfNat 2 (four.foldl (fun a n => if (tget c.flits n).isSome then a + 2 ^ n else a) 0)
    ++ (four.flatMap fun n => bytesOfNat 2 (tgetD c.producers n 0)) ++ zeros 6
/-- A core's message unit, with what has reached the core and waits there (log 100). -/
def State.msgUnit (s : State) (core : Nat) : MsgUnit :=
  let c := s.core core
  ⟨c.mo, c.flits, c.producers, s.transit.filter (fun f => f.core = core), s.seq⟩
/-- A core's message unit is emptied, and what waits there leaves with it. -/
def State.clearUnit (s : State) (core : Nat) : State :=
  let s := s.modCore core fun k => { k with mo := [], flits := [], producers := [] }
  { s with transit := s.transit.filter fun f => f.core ≠ core }

/-- Gangs in the order of their blocks. -/
def State.saveOrder (s : State) (n : Nat) : List GangKey := (List.range 64).filterMap fun i => if (tget s.gangs ⟨n, i⟩).isSome then some ⟨n, i⟩ else none
/-- The team's allocation, raw. -/
def State.scratchImage (s : State) (n : Nat) : List Byte :=
  let t := s.team n
  (s.core t.core).scratch.readBytes t.scratchBase (s.grid t.grid).launch.alloc
/-- Cores of the team that no other placed team shares (log 100). -/
def State.emptied (s : State) (n : Nat) : List Nat :=
  (s.team n).cores.filter fun c => !((s.teamsOn c).any fun e => e.1 ≠ n && e.2.res = .placed)
/-- The whole slot. -/
def State.slotImage (s : State) (n : Nat) : List Byte :=
  let t := s.team n
  let g := s.grid t.grid
  let ks := s.saveOrder n
  let blocks := ks.flatMap s.gangBlock
  let scratch := pad16 (s.scratchImage n)
  let save := t.save g.launch
  let msg := (s.emptied n).flatMap fun c => (s.core c).msgBlock
  let o1 := 64 + blocks.length
  let o2 := o1 + scratch.length
  let o3 := o2 + save.length
  let homes := (ks.filter fun k => k.idx < 32).length
  bytesOfNat 4 0x4F5A5356 ++ bytesOfNat 4 g.task ++ bytesOfNat 4 t.x ++ bytesOfNat 4 t.y ++ bytesOfNat 4 t.z ++ bytesOfNat 2 t.q ++ bytesOfNat 1 homes
    ++ bytesOfNat 1 (ks.length - homes) ++ bytesOfNat 4 o1 ++ bytesOfNat 4 o2 ++ bytesOfNat 4 (if msg.isEmpty then 0 else o3) ++ bytesOfNat 4 (o3 + msg.length)
    ++ bytesOfNat 1 (if ks.any fun k => (s.gang k).preempt = .stopped then 1 else 0) ++ zeros 23
    ++ blocks ++ scratch ++ save ++ msg

-- TEAM_SAVE (R279)

/-- The porter's next state, or the state in which the save waits: the gang has parked on a fault with V = 0 (R274), or the spill could not go on (log 97). -/
def Room.orWait (r : Room) (s : State) (k : GangKey) : Except State State :=
  match r with
  | .ok s => .ok s
  | .fault s va f kind => .error (if f.missing.isSome then s.porterFault k va f kind else s)
  | _ => .error s
/-- The porter spills every frame of the team and moves every spawn entry to the overflow area; an error is the state in which the save waits (log 97). -/
def State.spillTeam (s : State) (n : Nat) : Except State State :=
  let s1 := (s.gangsOf n).foldl (fun (o : Except State State) k => o.bind fun s => (s.spillAll k (s.gang k).spillFuel).orWait s k) (.ok s)
  let es := (s.team n).spawn.filter fun e => e.cell.isNone
  es.foldl (fun (o : Except State State) e => o.bind fun s => (s.moveOut n e).orWait s ⟨n, e.depart.gangLeft⟩) s1
/-- VALID tables are LOST after a save or a swap (R100). -/
def Team.loseTables (t : Team) : Team := { t with records := t.records.map fun e => if e.2.st = .valid then (e.1, { e.2 with st := .lost }) else e }
def State.freeSlot (s : State) (c : CtxKey) : Option Nat := (List.range (s.ctx c).saveslots).find? fun i => !(s.ctx c).slotsUsed.contains i
def slotBytes : Nat := 8 * 2 ^ 20
def State.slotVa (s : State) (c : CtxKey) (i : Nat) : Nat := (s.ctx c).savebase + slotBytes * i
/-- A flit bound for a core of the team could still be delivered (R101). -/
def State.flitsDue (s : State) (n : Nat) : Bool :=
  s.someDeliverable (fun f => (s.emptied n).contains f.core) [] s.transit
/-- The team's gangs, and its message units where no other team stands, leave the machine for the slot. -/
def State.leaveForSlot (s : State) (n slot : Nat) : State :=
  let t := s.team n
  let gone := s.gangs.filter fun e => e.1.team = n
  let cs := s.emptied n
  let us := cs.map fun c => ((n, c), s.msgUnit c)
  let s := gone.foldl (fun s e => s.leaveSlot e.1) s
  let s := cs.foldl State.clearUnit s
  let s := { s with gangs := s.gangs.filter fun e => e.1.team ≠ n }
  let s := s.modPart t.ctx.part fun p => { p with saved := p.saved ++ gone, units := p.units ++ us }
  let s := s.modCtx t.ctx fun c => { c with slotsUsed := slot :: c.slotsUsed }
  s.setTeam n { t.loseTables with res := .saved slot, preempting := false }
/-- The request fails for the team, which runs on. -/
def State.saveFails (s : State) (n : Nat) : State :=
  let s := s.modTeam n fun t => { t with preempting := false }
  if (s.part (s.team n).ctx.part).swapping then s else s.releaseTeam n
/-- See log 97. -/
def execTeamSave (team : Nat) (s : State) : Host.Outcome State Fault Refusal :=
  let t := s.team team
  if (tget s.teams team).isNone || !t.preempting || t.res ≠ .placed || !s.teamHalted team || s.flitsDue team then .next s
  else
    match s.freeSlot t.ctx with
    | none => .next (s.saveFails team)
    | some i =>
      match s.spillTeam team with
      | .error s2 => .next s2
      | .ok s2 =>
        match s2.foremanWrite t.ctx (s.slotVa t.ctx i) (s2.slotImage team) with
        | .error _ => .next (s.saveFails team)
        | .ok s3 => .next (s3.leaveForSlot team i)

-- TEAM_RESTORE (R279)

/-- A gang as its block gives its registers; unsaved ones read 0. Every other field is the saved gang's; paths that were parked issue their instruction again (log 98). -/
def Gang.reload (g : Gang) (save : List Byte) : Gang :=
  let at' (o n : Nat) : Nat := leField save o n
  let v := at' 32 16
  let vs := bitsOn v 128
  let vlen := (4 * g.width * vs.length + 15) / 16 * 16
  let x := at' (48 + vlen) 8
  let xs := bitsOn x 64
  let po := 64 + vlen + (4 * xs.length + 15) / 16 * 16
  let vregs := (List.range vs.length).flatMap fun i =>
    let n := vs.getD i 0
    (List.range g.width).map fun l => ((g.place n, l), BitVec.ofNat 32 (at' (48 + 4 * g.width * i + 4 * l) 4))
  { g with
    vregs := vregs, sregs := (List.range xs.length).map (fun i => (xs.getD i 0, BitVec.ofNat 32 (at' (64 + vlen + 4 * i) 4))),
    preds := (List.range 16).map (fun n => (n, BitVec.ofNat 64 (at' (po + 8 * n) 8))),
    spillcnt := BitVec.ofNat 32 (at' 16 4), refillcnt := BitVec.ofNat 32 (at' 20 4) }
/-- A gang back on a bench: parked paths issue their instruction again, but for one that a page fault holds (log 99). -/
def Gang.resume (g : Gang) (quarter pt : Nat) (swapping : Bool) : Gang :=
  let g := g.mapAll fun p => p.retry fun on => decide (on ≠ .service)
  { g with
    quarter := quarter, preempt := if swapping then .pending 0 else .no, readySince := none, pt := max g.pt pt
    polls := [] }

/-- The restartable fault of a gang comes to its reply: serviced, it replays or issues again; refused, the gang takes its trap (R274). -/
def State.answerGang (s : State) (k : GangKey) (serviced : Bool) : State :=
  match (s.gang k).faultWait with
  | none => s
  | some w =>
    -- no ERET resumes the path: at a header it meets that header's wait as ever (R106)
    let free (p : Path) : Path := if p.st = .parked .service then { p with st := .ready, resumed := false } else p
    let s := s.modGang k fun g => { g.modPath w.info.path free with faultWait := none }
    if !serviced then s.takeTrap k w.info
    else
      match w.info.replay with
      | some r => s.replaySlot k r ⟨w.info.tpc, w.info.tnext, w.info.path⟩
      | none => s
/-- A reply that came while the gang was away takes effect now (log 99). -/
def State.lateAnswer (s : State) (k : GangKey) : State :=
  match (s.gang k).faultWait.bind PageWait.answer with
  | some v => s.answerGang k v
  | none => s

/-- Place the saved gangs of a team again; none when one has no room. -/
def State.regang (s : State) (n : Nat) (blocks : List Byte) (off : Nat) : List (GangKey × Gang) → Option State
  | [] => some s
  | (k, g) :: rest =>
    let bytes := leField (blocks.drop (off + 8)) 0 4
    let ring := max (s.grid (s.team n).grid).launch.winMin g.takenCount
    if (s.gangsOnBench g.core g.bench).length ≥ 16 then none
    else
      match s.freeQuarter g.core g.bench g.width ring with
      | none => none
      | some q =>
        let save := (blocks.drop (off + g.blockHead)).take (bytes - g.blockHead)
        State.regang (s.setGang k ({ g.reload save with ringSize := ring }.resume q (s.part (s.team n).ctx.part).horizon (s.part (s.team n).ctx.part).swapping)) n blocks (off + bytes) rest
/-- Tiles, accumulators and poison bits as the slot holds them; no table becomes STALE (R99). -/
def Team.reload (t : Team) (l : Launch) (bs : List Byte) : Team :=
  let size := 8192 * l.tiles + 16 + 4096 * l.accs
  (List.range t.spanSize).foldl (fun (t : Team) b =>
    let at' (o : Nat) : List Byte := bs.drop (b * size + o)
    { t with
      tiles := (List.range l.tiles).foldl (fun m r => m.writeBytes (b * 2 ^ 16 + r * 2 ^ 13) ((at' (8192 * r)).take 8192)) t.tiles,
      accs := (List.range l.accs).foldl (fun m r => m.writeBytes (b * 2 ^ 14 + r * 2 ^ 12) ((at' (8192 * l.tiles + 16 + 4096 * r)).take 4096)) t.accs,
      poison := t.poison.filter (fun p => p.1 ≠ b) ++ (bitsOn (leField (at' (8192 * l.tiles)) 0 16) 4).map fun r => (b, r) }) t
/-- A message unit comes back, where no other team has taken its registers meanwhile. -/
def State.unitFree (s : State) (u : (Nat × Nat) × MsgUnit) : Bool :=
  let c := s.core u.1.2
  u.2.mo.all (fun b => (tget c.mo b.1).isNone) && u.2.flits.all fun f => (tget c.flits f.1).isNone
def State.putUnit (s : State) (u : (Nat × Nat) × MsgUnit) : State :=
  let s := s.modCore u.1.2 fun c =>
    { c with
      mo := u.2.mo ++ c.mo, flits := u.2.flits ++ c.flits,
      producers := (List.range 4).map fun n => (n, tgetD c.producers n 0 + tgetD u.2.producers n 0) }
  { s with transit := u.2.late ++ s.transit }
/-- Restore a team from its slot's bytes, none where it has no room. -/
def State.restoreFrom (s : State) (n slot : Nat) (bs : List Byte) : Option State :=
  let t := s.team n
  let l := (s.grid t.grid).launch
  let gone := (s.part t.ctx.part).saved.filter fun e => e.1.team = n
  let us := (s.part t.ctx.part).units.filter fun e => e.1.1 = n
  if !(t.cores.all fun c => s.coreUp c && s.regRoom l c) || !s.scratchRoom l t.core t.scratchBase || !(us.all s.unitFree) then none
  else
    let back := { t.reload l (bs.drop (leField bs 28 4)) with res := .placed }
    match (s.setTeam n back).regang n bs 64 gone with
    | none => none
    | some s =>
      let s := s.modCore t.core fun c => { c with scratch := c.scratch.writeBytes t.scratchBase ((bs.drop (leField bs 24 4)).take l.alloc) }
      let s := us.foldl State.putUnit s
      let s := s.modPart t.ctx.part fun p => { p with saved := p.saved.filter (fun e => e.1.team ≠ n), units := p.units.filter fun e => e.1.1 ≠ n }
      let s := s.modCtx t.ctx fun c => { c with slotsUsed := c.slotsUsed.filter fun i => i ≠ slot }
      some ((gone.map Prod.fst).foldl State.lateAnswer s)
/-- TEAM_RESTORE: a saved team comes back to its core or pair once that has room, and its slot is freed. -/
def execTeamRestore (team : Nat) (s : State) : Host.Outcome State Fault Refusal :=
  let t := s.team team
  match t.res with
  | .saved slot =>
    match s.foremanRead t.ctx (s.slotVa t.ctx slot) 64 with
    | .error _ => .next s
    | .ok h =>
      match s.foremanRead t.ctx (s.slotVa t.ctx slot) (leField h 36 4) with
      | .error _ => .next s
      | .ok bs => match s.restoreFrom team slot bs with | some s => .next (s.foremanAsk t.ctx (s.slotVa t.ctx slot) bs.length) | none => .next s
  | _ => .next s

-- SHADOW_EXCHANGE (R278)

def State.shadowedTeams (s : State) (part : Nat) : List Nat := tkeys s.teams fun _ t => t.res = .shadowed && t.ctx.part = part
def State.partCores (s : State) (part : Nat) : List Nat := tkeys s.cores fun c _ => (s.part part).ownsCore c
/-- The live image of a partition as its shadow storage would hold it. -/
def State.liveImage (s : State) (part : Nat) (teams : List Nat) : Shadow :=
  let cs := s.partCores part
  ⟨(s.gangs.filter fun e => teams.contains e.1.team).map (fun (e : GangKey × Gang) => (e.1, { e.2 with preempt := .no })), cs.map (fun c => (c, (s.core c).scratch)), cs.map fun c => (c, s.msgUnit c)⟩
/-- A returning gang resumes where it stood; one that waited on something outside its core looks again. -/
def Gang.unshadow (g : Gang) : Gang := g.mapAll fun p => p.retry fun on => match on with | .gbar .. => true | .queue .. => true | .credit .. => true | _ => false
/-- A core takes a shadow image's message unit. -/
def State.takeUnit (s : State) (core : Nat) (u : MsgUnit) : State :=
  let s := s.modCore core fun c => { c with mo := u.mo, flits := u.flits, producers := u.producers }
  { s with transit := u.late ++ s.transit }
/-- Each core of the partition exchanges its live state with its shadow image. -/
def State.exchange (s : State) (part : Nat) : State :=
  let out := s.placedTeams fun t => t.ctx.part = part
  let back := s.shadowedTeams part
  let live := s.liveImage part out
  let image := ((s.part part).shadow).getD ⟨[], [], []⟩
  let s := (live.gangs.map Prod.fst).foldl (fun s k => s.leaveSlot k) s
  let s := { s with
    gangs := s.gangs.filter (fun (e : GangKey × Gang) => !out.contains e.1.team) ++ image.gangs.map (fun (e : GangKey × Gang) => (e.1, e.2.unshadow)),
    teams := s.teams.map (fun (e : Nat × Team) =>
      if out.contains e.1 then (e.1, { e.2.loseTables with res := .shadowed }) else if back.contains e.1 then (e.1, { e.2.loseTables with res := .placed }) else e),
    cores := tmap s.cores (fun c _ => (s.part part).ownsCore c) (fun (c : Core) => { c with scratch := [] }) }
  let s := (s.partCores part).foldl State.clearUnit s
  let s := (image.scratch.filter fun e => (s.part part).ownsCore e.1).foldl (fun (s : State) e => s.modCore e.1 fun c => { c with scratch := e.2 }) s
  let s := (image.units.filter fun e => (s.part part).ownsCore e.1).foldl (fun (s : State) e => s.takeUnit e.1 e.2) s
  let s := s.modPart part fun p => { p with shadow := some live, swapping := false }
  (image.gangs.map Prod.fst).foldl State.lateAnswer s
/-- A flit bound for the partition could still be delivered (R101). -/
def State.partFlits (s : State) (part : Nat) : Bool := s.someDeliverable (fun f => (s.part part).ownsCore f.core) [] s.transit
/-- SHADOW_EXCHANGE: once every gang of the partition has arrived or been stopped, every team is drained and every flit delivered. -/
def execShadowExchange (part : Nat) (s : State) : Host.Outcome State Fault Refusal :=
  if (s.part part).swapping && !s.partFlits part && (s.placedTeams fun t => t.ctx.part = part).all s.teamHalted then .next (s.exchange part) else .next s

end Sys2Proof.Machine
end

