-- ==== Sys2Proof/Machine/Host.lean ====
section
/-! DEFINITION. Replies to the fault queue (spec/12_faults.md R274) and the configuration registers (spec/14_system.md R292 to R295, R444; spec/01_organization.md R23, R26;
spec/08_memory.md R197; spec/10_async.md R231; spec/11_scheduling.md R262). -/
namespace Sys2Proof.Machine

/-- A refused write sets REJ (R295). -/
def State.reject (s : State) (part : Nat) : State := s.modPart part fun p => { p with rej := true }
/-- Every context of the partition is stopped. -/
def State.stopped (s : State) (part : Nat) : Bool := (List.range 16).all fun c => !(s.ctx ⟨part, c⟩).run

-- FQREPLY (R274)

/-- A reply to a gang that stands saved or in shadow storage is kept for its return. -/
def Gang.noteAnswer (g : Gang) (v : Bool) : Gang := { g with faultWait := g.faultWait.map fun w => { w with answer := some v } }
def State.noteAnswer (s : State) (part : Nat) (k : GangKey) (v : Bool) : State :=
  s.modPart part fun p =>
    { p with
      saved := tmap p.saved (fun x _ => x = k) fun g => g.noteAnswer v,
      shadow := p.shadow.map fun (x : Shadow) => { x with gangs := tmap x.gangs (fun y _ => y = k) fun g => g.noteAnswer v } }
/-- The source row at which a paused job faulted. -/
def State.pausedRow (s : State) (n : Nat) : Nat :=
  match tget s.jobs n with
  | some j => match s.jobFault n j with | some e => e.row | none => 0
  | none => 0
/-- The core whose queue holds an engine operation. -/
def State.coreOfOp (s : State) (order : Nat) : Option (Nat × EngineOp) :=
  s.cores.findSome? fun e => (e.2.engine.queue.find? fun o => o.order = order).map fun o => (e.1, o)
def State.answerAgent (s : State) (part : Nat) (serviced : Bool) (a : Agent) : State :=
  match a with
  | .gang k => if (tget s.gangs k).isSome then s.answerGang k serviced else s.noteAnswer part k serviced
  | .job n =>
    let s := { s with jobs := tmap s.jobs (fun i _ => i = n) fun (j : Job) => { j with paused := none } }
    if serviced then s else s.stopJob n 0x10 (s.pausedRow n)
  | .handle order =>
    match s.coreOfOp order with
    | none => s
    | some (c, o) => if serviced then s.modOp c order fun o => { o with paused := none } else s.failFetch c o
/-- A gang's place in the queue is noted with it. -/
def Gang.noteSeq (g : Gang) (seq : Option Nat) : Gang := { g with faultWait := g.faultWait.map fun w => { w with seq := seq } }
/-- The gangs of a partition, wherever they stand: on its benches, saved, or in shadow storage. -/
def State.partGangs (s : State) (part : Nat) : Tbl GangKey Gang :=
  let p := s.part part
  s.gangs.filter (fun e => (s.team e.1.team).ctx.part = part) ++ p.saved ++ match p.shadow with | some x => x.gangs | none => []
/-- A gang of the partition that waits for room in the queue takes its place, be it saved or in shadow storage (R274). -/
def State.requeueGang (s : State) (part : Nat) (e : GangKey × Gang) : State :=
  match e.2.faultWait with
  | none => s
  | some w =>
    if w.seq.isSome then s
    else
      let k := e.1
      let tm := s.team k.team
      let (s, seq) := s.queueFault (.gang k) tm.ctx w.va w.cause w.kind w.level e.2.core tm.grid
      let here (x : GangKey) (_ : Gang) : Bool := x = k
      ({ s with gangs := tmap s.gangs here fun g => g.noteSeq seq }).modPart part fun p =>
        { p with
          saved := tmap p.saved here fun g => g.noteSeq seq,
          shadow := p.shadow.map fun (x : Shadow) => { x with gangs := tmap x.gangs here fun g => g.noteSeq seq } }
/-- Faults that waited for room: gangs queue up; jobs and fetches meet their fault again. -/
def State.requeue (s : State) (part : Nat) : State :=
  let s := ((s.partGangs part).filter fun e => e.2.faultWait.isSome).foldl (fun s e => s.requeueGang part e) s
  { s with
    jobs := tmap s.jobs (fun _ j => j.ctx.part = part && j.paused = some 0) fun (j : Job) => { j with paused := none },
    cores := s.cores.map fun (e : Nat × Core) => (e.1, { e.2 with
      engine := { e.2.engine with queue := e.2.engine.queue.map fun (o : EngineOp) => if o.paused = some 0 then { o with paused := none } else o } }) }
/-- FQREPLY: a reply that names no unanswered entry is refused; any other goes to every agent of its entry. -/
def State.reply (s : State) (part seq : Nat) (serviced : Bool) : State :=
  match (s.part part).fq.find? fun e => e.seq = seq with
  | none => s.reject part
  | some e =>
    let s := s.modPart part fun p => { p with fq := p.fq.filter fun x => x.seq ≠ seq }
    (e.agents.foldl (fun s a => s.answerAgent part serviced a) s).requeue part
def execFqreplyServiced (part seq : Nat) (s : State) : Host.Outcome State Fault Refusal := .next (s.reply part seq true)
def execFqreplyRefused (part seq : Nat) (s : State) : Host.Outcome State Fault Refusal := .next (s.reply part seq false)

-- Partition registers (R295)

/-- n bytes at a physical address lie in HBM of this package that the partition owns. -/
def State.ownsRange (s : State) (part pa n : Nat) : Bool :=
  let off := pa % 2 ^ 41
  packageOf pa = s.pkg.pkgid && off + n ≤ 0x18000000000 && (s.part part).owns (off / 2 ^ 37) && (n = 0 || (s.part part).owns ((off + n - 1) / 2 ^ 37))
/-- FQBASE (R274, R295) (log 49). -/
def State.writeFqbase (s : State) (part x : Nat) : State :=
  let base := bitsAt x 17 35 * 2 ^ 17
  let kd := bitsAt x 58 6
  if !s.stopped part || !(s.part part).kdmask.getLsbD kd || bitsAt x 52 6 ≠ 0 || bitsAt x 0 17 ≠ 0 || !s.ownsRange part base (2 ^ 17) then s.reject part
  else s.modPart part fun p => { p with fqbase := some (base, kd), fqNext := 1, fq := [] }
def execFqbaseWrite (part : Nat) (x : BitVec 64) (s : State) : Host.Outcome State Fault Refusal := .next (s.writeFqbase part x.toNat)
/-- ELBASE (R282, R295) (log 49). -/
def State.writeElbase (s : State) (part x : Nat) : State :=
  let base := bitsAt x 12 40 * 2 ^ 12
  let kd := bitsAt x 58 6
  if !(s.part part).kdmask.getLsbD kd || bitsAt x 52 6 ≠ 0 || !s.ownsRange part base (4096 * bitsAt x 0 12) then s.reject part
  else s.modPart part fun p => { p with elbase := some (base, kd, bitsAt x 0 12), elNext := 0 }
def execElbaseWrite (part : Nat) (x : BitVec 64) (s : State) : Host.Outcome State Fault Refusal := .next (s.writeElbase part x.toNat)

/-- The mask of columns a to b, the top half, the bottom half or both. -/
def rectangle (a b half : Nat) : BitVec 12 :=
  ((List.range 12).filter fun h => a ≤ h / 2 && h / 2 ≤ b && (half = 2 || h % 2 = half)).foldl (fun m h => m ||| (1#12) <<< h) 0
/-- A partition shape (R23), or no half-column at all (log 102). -/
def shapeOk (m : BitVec 12) : Bool :=
  m = 0 || (List.range 6).any fun a => (List.range 6).any fun b => a ≤ b && (List.range 3).any fun h => m = rectangle a b h
/-- A physical address in half-column h of this package. -/
def State.inHalf (s : State) (h pa : Nat) : Bool := packageOf pa = s.pkg.pkgid && pa % 2 ^ 41 < 0x18000000000 && pa % 2 ^ 41 / 2 ^ 37 = h
/-- A time key of half-column h: a line of its memory, or a scratchpad block of its cores. -/
def State.timedIn (s : State) (h key : Nat) : Bool := if key ≥ 2 ^ 50 then halfColumn (dieOf ((key - 2 ^ 50) / 512)) = h else s.inHalf h (key * 1024)
/-- A partition without what it kept of a half-column: times of its lines, remote copies in its slices, shadow storage and saved message units of its cores. -/
def Part.loseHalf (p : Part) (s : State) (h : Nat) : Part :=
  let here (core : Nat) : Bool := halfColumn (dieOf core) = h
  { p with
    lineTimes := p.lineTimes.filter (fun e => !s.timedIn h e.1), rdc := p.rdc.filter (fun e => halfColumn (e.2.slice / 8) ≠ h),
    shadow := p.shadow.map (fun (x : Shadow) => { x with scratch := x.scratch.filter (fun e => !here e.1), units := x.units.filter fun e => !here e.1 }),
    units := p.units.filter fun e => !here e.1.2 }
/-- A store that has no replica left to reach is forgotten. -/
def loseReplicas (f : Nat → Bool) (lags : List Lag) : List Lag := (lags.map fun (e : Lag) => { e with dies := e.dies.filter fun d => !f d }).filter fun e => e.dies ≠ []
/-- The dirty sectors that cores of a half-column hold of lines elsewhere are written back: no cache state changes the value of an access (R195). -/
def State.flushHalf (s : State) (h : Nat) : State :=
  (tkeys s.cores fun c _ => halfColumn (dieOf c) = h).foldl (fun s c => (s.core c).dirty.foldl (fun s x => s.writeBack c x) s) s
/-- Wipe every SRAM and stack of a half-column (R26), copies of its lines elsewhere too. The cycle counters of its cores run on (log 111). -/
def State.wipeHalf (s : State) (h : Nat) : State :=
  let s := s.flushHalf h
  let here (core : Nat) : Bool := halfColumn (dieOf core) = h
  let line (sector : Nat) : Bool := s.inHalf h (sector * 256)
  let keep (c : Core) : Core := { c with l1 := c.l1.filter (fun e => !line e.1), dirty := c.dirty.filter fun x => !line x }
  { s with
    mem := s.mem.filter (fun c => !s.inHalf h c.1),
    pkg := { s.pkg with
      lineKeys := s.pkg.lineKeys.filter (fun e => !s.inHalf h (e.1 * 1024)), poisoned := s.pkg.poisoned.filter (fun x => !line x),
      fencedTeams := s.pkg.fencedTeams.filter fun t => !here t.core },
    parts := s.parts.map (fun (e : Nat × Part) => (e.1, e.2.loseHalf s h)),
    cores := s.cores.map (fun (e : Nat × Core) => (e.1, if here e.1 then { Core.initial with cycle := e.2.cycle } else keep e.2)),
    benches := s.benches.filter (fun e => !here e.1.1), clusters := s.clusters.filter (fun e => !here (8 * e.1)),
    lags := (loseReplicas (fun d => halfColumn d = h) s.lags).filter (fun e => !s.inHalf h e.addr),
    transit := s.transit.filter fun f => !(here f.fromCore || here f.core) }
/-- HCMASK (R23, R26, R295): half-columns that change owner are wiped; the barrier units under changed dies start anew (log 102). -/
def State.writeHcmask (s : State) (part x : Nat) : State :=
  let m : BitVec 12 := BitVec.ofNat 12 x
  let old := (s.part part).hcmask
  let taken := s.parts.any fun e => e.1 ≠ part && (e.2.hcmask &&& m) ≠ 0
  if !s.stopped part || !shapeOk m || taken then s.reject part
  else if m = old then s
  else
    let s := (List.range 12).foldl (fun s h => if m.getLsbD h ≠ old.getLsbD h then s.wipeHalf h else s) s
    s.modPart part fun p => { p with hcmask := m, gbars := [] }
def execHcmaskWrite (part : Nat) (x : BitVec 64) (s : State) : Host.Outcome State Fault Refusal := .next (s.writeHcmask part x.toNat)

/-- RDCWAYS (R197): a value above 8 stores 8. When ways are withdrawn the remote lines are dropped (log 103). -/
def State.writeRdcways (s : State) (part x : Nat) : State :=
  s.modPart part fun p => let n := min 8 (x % 16); { p with rdcways := n, rdc := if n < p.rdcways then [] else p.rdc }
def execRdcwaysWrite (part : Nat) (x : BitVec 64) (s : State) : Host.Outcome State Fault Refusal := .next (s.writeRdcways part x.toNat)

/-- TLBINV: every core of the partition drops the context's translations. -/
def State.writeTlbinv (s : State) (part x : Nat) : State :=
  let c := x % 16
  let s := { s with cores := tmap s.cores (fun k _ => (s.part part).ownsCore k) fun (k : Core) => { k with tlb := terase k.tlb (tlbKey ⟨part, c⟩) } }
  s.modPart part fun p => { p with tlbinv := some c }
def execTlbInvalidate (part : Nat) (x : BitVec 64) (s : State) : Host.Outcome State Fault Refusal := .next (s.writeTlbinv part x.toNat)
def execTlbInvalidateDone (part : Nat) (s : State) : Host.Outcome State Fault Refusal := .next (s.modPart part fun p => { p with tlbinv := none })

/-- GBCFG (R231): refused while the pending count differs from the expected count; a count of 0 takes the expected count away, and the phase bit stays (log 81). -/
def State.writeGbcfg (s : State) (part x : Nat) : State :=
  let g := bitsAt x 0 12
  let n := bitsAt x 16 24
  let b := s.gbar part g
  if b.pending ≠ b.expect then s.reject part
  else s.modPart part fun p => { p with gbars := tset p.gbars g ⟨b.ph, n, n, bitsAt x 12 4⟩ }
def execGbcfgWrite (part : Nat) (x : BitVec 64) (s : State) : Host.Outcome State Fault Refusal := .next (s.writeGbcfg part x.toNat)

/-- STAT: bit 63 clears REJ. -/
def State.writeStat (s : State) (part x : Nat) : State := if x.testBit 63 then s.modPart part fun p => { p with rej := false } else s
def execStatWrite (part : Nat) (x : BitVec 64) (s : State) : Host.Outcome State Fault Refusal := .next (s.writeStat part x.toNat)

/-- PCEIL (R262): MCEIL is the security processor's alone. -/
def State.writePceil (s : State) (part : Nat) (agent : CfgAgent) (x : Nat) : State :=
  s.modPart part fun p => { p with ceil := bitsAt x 0 3, mceil := if agent = .security then bitsAt x 8 3 else p.mceil }
def execPceilWrite (part : Nat) (agent : CfgAgent) (x : BitVec 64) (s : State) : Host.Outcome State Fault Refusal := .next (s.writePceil part agent x.toNat)

/-- PREEMPT (R277): scope 3, and SWAP of less than the partition, are refused. -/
def State.writePreempt (s : State) (part x : Nat) : State :=
  let c : CtxKey := ⟨part, bitsAt x 4 4⟩
  let swap := x.testBit 2
  match x % 4 with
  | 0 => if swap then s.reject part else s.requestSave fun t => t.ctx = c && t.q = bitsAt x 16 15
  | 1 => if swap then s.reject part else s.requestSave fun t => t.ctx = c
  | 2 => if swap then s.requestSwap part else s.requestSave fun t => t.ctx.part = part
  | _ => s.reject part

-- Context registers (R295)

/-- RUN 1: a stopped context starts, its device task range free; a package without good firmware stays stopped (R300) (log 104). From here on the package id stands (R19). -/
def State.runContext (s : State) (c : CtxKey) : State :=
  if (s.ctx c).run || !s.pkg.fwGood then s else (s.modCtx c fun x => { x with run := true, devUsed := [] }).modPkg fun p => { p with fabricFixed := true }
/-- RUN 0: a running context stops with the effect of teardown (R272) (log 104). -/
def State.stopContext (s : State) (c : CtxKey) : State := if (s.ctx c).run then (s.teardown c).modCtx c fun x => { x with run := false, posts := [] } else s
def execContextRun (c : CtxKey) (s : State) : Host.Outcome State Fault Refusal := .next (s.runContext c)
def execContextStop (c : CtxKey) (s : State) : Host.Outcome State Fault Refusal := .next (s.stopContext c)
/-- A value whose low bits the register does not hold. -/
def aligned (x n : Nat) : Nat := x / n * n
/-- See log 103. -/
def State.writeContext (s : State) (c : CtxKey) (off x : Nat) : State :=
  match off with
  | 0x00 => s.modCtx c fun k => { k with tbase := aligned x 65536 }
  | 0x08 => s.modCtx c fun k => { k with handler := x }
  | 0x10 => s.modCtx c fun k => { k with taskarea := aligned x 65536 }
  | 0x18 => s.modCtx c fun k => { k with savebase := aligned x slotBytes }
  | 0x20 => s.modCtx c fun k => { k with saveslots := x % 65536 }
  | 0x28 => s.hostPost c x
  | 0x30 => if x % 2 = 1 then s.runContext c else s.stopContext c
  | 0x38 => s.modCtx c fun k => { k with ceil := x % 4 }
  | 0x40 => if (s.ctx c).run then s.reject c.part else s.modCtx c fun k => { k with devbase := min 65536 (bitsAt x 0 17) }
  | 0x48 => if (s.ctx c).run then s.reject c.part else s.modCtx c fun k => { k with childrec := aligned x 65536 }
  | _ => s

-- CONFIG_REGISTER_WRITE

/-- A 64-bit write to a partition block; an offset without a register ignores it. -/
def State.writeConfig (s : State) (part off x : Nat) : State :=
  match off with
  | 0x000 => s.writeHcmask part x
  | 0x008 => s.modPart part fun p => { p with share := BitVec.ofNat 16 x }
  | 0x010 => s.modPart part fun p => { p with rdlease := max 1 (bitsAt x 0 20), wrlease := bitsAt x 32 20 }
  | 0x018 => s.writeRdcways part x
  | 0x020 => s.writeFqbase part x
  | 0x028 => s.reply part (x % 2 ^ 32) (!x.testBit 32)
  | 0x030 => s.writeElbase part x
  | 0x038 => s.writeTlbinv part x
  | 0x040 => s.writePreempt part x
  | 0x048 => s.writeGbcfg part x
  | 0x050 => if s.stopped part then s.modPart part fun p => { p with kdmask := BitVec.ofNat 64 x } else s.reject part
  | 0x058 => s.writeStat part x
  | 0x060 => s.writePceil part .host x
  | _ => if 0x1000 ≤ off && off < 0x2000 then s.writeContext ⟨part, (off - 0x1000) / 256⟩ ((off - 0x1000) % 256) x else s
def execConfigRegisterWrite (part : Nat) (off : Nat) (x : BitVec 64) (s : State) : Host.Outcome State Fault Refusal :=
  if part < 12 then .next (s.writeConfig part off x.toNat) else .next s

/-- The shadow storage holds an image with at least one team (R278). -/
def State.shadowHeld (s : State) (part : Nat) : Bool := !(s.shadowedTeams part).isEmpty
def State.readContext (s : State) (c : CtxKey) (off : Nat) : Nat :=
  let k := s.ctx c
  match off with
  | 0x00 => k.tbase
  | 0x08 => k.handler
  | 0x10 => k.taskarea
  | 0x18 => k.savebase
  | 0x20 => k.saveslots
  | 0x30 => if k.run then 1 else 0
  | 0x38 => k.ceil
  | 0x40 => k.devbase
  | 0x48 => k.childrec
  | _ => 0
/-- What a read of a partition block through BAR 0 returns: all ones until the wipe is done (R298). -/
def State.readConfig (s : State) (part off : Nat) : Nat :=
  let p := s.part part
  if s.pkg.wiping then 2 ^ 64 - 1
  else
    match off with
    | 0x000 => p.hcmask.toNat
    | 0x008 => p.share.toNat
    | 0x010 => p.rdlease + p.wrlease * 2 ^ 32
    | 0x018 => p.rdcways
    | 0x020 => match p.fqbase with | some (b, kd) => b + kd * 2 ^ 58 | none => 0
    | 0x030 => match p.elbase with | some (b, kd, n) => b + kd * 2 ^ 58 + n | none => 0
    | 0x038 => if p.tlbinv.isSome then 1 else 0
    | 0x050 => p.kdmask.toNat
    | 0x058 => (if s.stopped part then 1 else 0) + (if s.shadowHeld part then 2 else 0) + (if p.rej then 2 ^ 63 else 0)
    | 0x060 => p.mceil * 256 + p.ceil
    | _ => if 0x1000 ≤ off && off < 0x2000 then s.readContext ⟨part, (off - 0x1000) / 256⟩ ((off - 0x1000) % 256) else 0

-- The adapter (R292, R293, R252)

/-- What a read of configuration space through BAR 0 returns: a partition block's register, the mailbox's status at its first word (its layout is not given, log 103), 0 elsewhere. -/
def State.readBar0 (s : State) (off : Nat) : Nat :=
  let o := off - 0x18000000000
  if s.pkg.wiping then 2 ^ 64 - 1
  else if off = 0x1C000000000 then s.pkg.mailStatus
  else if 0x18000000000 ≤ off && o < 12 * 65536 then s.readConfig (o / 65536) (o % 65536)
  else 0
/-- The data that the mailbox's last command left; through BAR 0 it reads all ones until the wipe is done (R298). -/
def State.readMail (s : State) : List Byte := if s.pkg.wiping then s.pkg.mailData.map fun _ => 0xFF else s.pkg.mailData
/-- What a read of the adapter's own registers, at BAR 2, returns. -/
def State.readBar2 (s : State) (off : Nat) : Nat := if off = 0 && s.pkg.hatom then 1 else 0
/-- HATOM, at BAR 2. -/
def execHatomWrite (x : BitVec 64) (s : State) : Host.Outcome State Fault Refusal := .next (s.modPkg fun p => { p with hatom := x.getLsbD 0 })
/-- Every byte of a range of this package's HBM lies in a half-column that some partition holds; another one is powered down and wiped (R23). -/
def State.heldHbm (s : State) (pa n : Nat) : Bool :=
  let off := pa % 2 ^ 41
  let held (h : Nat) : Bool := s.parts.any fun e => e.2.owns h
  packageOf pa = s.pkg.pkgid && off + n ≤ 0x18000000000 && held (off / 2 ^ 37) && held ((off + n - 1) / 2 ^ 37)
/-- The partitions that keep times of a line: the one that holds its half-column. -/
def State.linePart (s : State) (line : Nat) : Option Nat := (s.parts.find? fun e => e.2.owns (line * 1024 % 2 ^ 41 / 2 ^ 37)).map Prod.fst
/-- Times of this package's lines that an agent without program time writes (log 105). -/
def State.stampLines (s : State) (pa n : Nat) : State :=
  ((List.range n).map (fun i => lineOf (pa + i))).eraseDups.foldl (fun s key =>
    match s.linePart key with | some p => (s.timeStore p (s.part p).horizon key).1 | none => s) s
/-- HOST_LINK_WRITE: bytes written at the home slice; a key domain without a key takes none. A write to a host address stays in host memory (log 13, log 105). -/
def execHostLinkWrite (pa kd : Nat) (bytes : List Byte) (s : State) : Host.Outcome State Fault Refusal :=
  if isHost pa then .next { s with mem := s.mem.writeBytes pa bytes }
  else if s.domainGone kd || !s.heldHbm pa bytes.length then .next s
  else .next ((s.keyWriteBytes kd pa bytes).stampLines pa bytes.length)

/-- A lane whose host access a PCIe completion answers: a load or an atomic, and no posted write (R292, R293). -/
def LaneAccess.completes (a : LaneAccess) : Bool :=
  (match a.loc with | .mem pa _ _ _ => isHost pa | _ => false) && match a.op with | .load .. | .atom .. | .cas .. => true | .store .. | .maint _ => false
/-- The instruction of a gang that accesses the host so, none of whose lanes has performed, no instruction of R204's kinds having issued since: only such a one has its replay slot
(R266). -/
def Gang.hostFlight (g : Gang) : Option (Flight × Replay) :=
  g.flights.findSome? fun f => if f.todo.any LaneAccess.completes then f.slot.map fun r => (f, r) else none
/-- The accesses whose completions fail: any of those that access the host, at least one (log 126). -/
def Flight.failing (f : Flight) (lanes : Mask) : List LaneAccess :=
  let host := f.todo.filter LaneAccess.completes
  match host.filter fun a => lanes.getLsbD a.lane with
  | [] => host
  | as => as
/-- The instruction whose completions have failed will be executed by its replay. -/
def Gang.failFlight (g : Gang) (id : Nat) : Gang :=
  { g with flights := g.flights.map fun (e : Flight) => if e.id = id then { e with todo := [], replaying := true } else e }
/-- HOST_COMPLETION_ERROR: DATA_UNCORRECTABLE at the lanes whose completions failed, restartably, and an error record with unit host link (R293). It is met while the gang is not parked in
the fault queue, and, where another trap waits for outstanding results, once the gang can enter (R269): that trap follows it (log 126). -/
def execHostCompletionError (g : GangKey) (s : State) : Host.Outcome State Fault Refusal :=
  match (s.gang g).hostFlight with
  | none => .next s
  | some (f, r) =>
    let x := s.gang g
    let failed := f.failing (Config.failedLanes s.freeNext)
    let s1 := s.useFree.modGang g fun y => y.failFlight f.id
    if x.faultWait.isSome || (x.pendingTrap.isSome && !(s1.gang g).trapReady) then .next s
    else
      let p := x.path (x.issuerOf f.path r.mask)
      let m := maskOf (failed.map LaneAccess.lane)
      let taddr := (failed.head?.map LaneAccess.va).getD 0
      .next (s1.takeTrap g ⟨0x60, 0, false, f.pc, p.pc, m, taddr, r.addrs.filter fun e => m.getLsbD e.1, some r, p.id⟩)

end Sys2Proof.Machine
end

