-- ==== Sys2Proof/Machine/Lanes.lean ====
section
/-! DEFINITION. The gang-collective lane instructions VOTE, SHFL, PERM, REDG (spec/17_ref_n_z.md R382, R383, R392, R393, R397, R398, R415, R416) and ELECT
(spec/16_ref_e_m.md R338, R339). -/
namespace Sys2Proof.Machine

/-- The source lane of SHFL (R398), none outside the gang. -/
def shflLane (mode : ShflMode) (w l k : Nat) : Option Nat :=
  let j : Int :=
    match mode with
    | .idx => (k : Int)
    | .up => (l : Int) - (k : Int)
    | .dn => (l : Int) + (k : Int)
    | .xor => ((l ^^^ k : Nat) : Int)
  if 0 ≤ j ∧ j < (w : Int) then some j.toNat else none

def execShfl (g : Guard) (a : ShflArgs) (s : State) : Host.Outcome State Fault Refusal :=
  s.perLane (.shfl g a) a.d a.ty.regs fun x s l =>
    x.read s a.s1 a.ty.regs .int ((shflLane a.mode x.gang.width l (x.readSrc s a.s2 1 .int l)).getD l)
def execPerm (g : Guard) (a : PermArgs) (s : State) : Host.Outcome State Fault Refusal :=
  s.perLane (.perm g a) a.d a.ty.regs fun x s l => x.read s a.s1 a.ty.regs .int (x.readSrc s a.s2 1 .int l % x.gang.width)

/-- REDG's value over the active lanes' operands (R393). -/
def redgValue (op : RedgOp) (ty : RedgTy) (xs : List Nat) : Nat :=
  let w := if ty.regs = 2 then 64 else 32
  let signed := ty = .s32 || ty = .s64
  let less (a b : Nat) : Bool := if signed then signedOf w a < signedOf w b else a % 2 ^ w < b % 2 ^ w
  match xs with
  | [] => 0
  | y :: ys =>
    match op, ty with
    | .add, .f32 => FloatFmt.fp32.rne (Exact.sum (xs.map FloatFmt.fp32.decode))
    -- one operand stands beside itself, so that a NaN alone is written canonical (R134)
    | .min, .f32 => ys.foldl FloatFmt.fp32.min (FloatFmt.fp32.min y y)
    | .max, .f32 => ys.foldl FloatFmt.fp32.max (FloatFmt.fp32.max y y)
    | .add, _ => (xs.foldl (· + ·) 0) % 2 ^ w
    | .min, _ => ys.foldl (fun m z => if less z m then z else m) y
    | .max, _ => ys.foldl (fun m z => if less m z then z else m) y
    | .and, _ => ys.foldl (· &&& ·) y
    | .or, _ => ys.foldl (· ||| ·) y
    | .xor, _ => ys.foldl (· ^^^ ·) y
def execRedg (g : Guard) (a : RedgArgs) (s : State) : Host.Outcome State Fault Refusal :=
  s.perLane (.redg g a) a.d a.ty.regs fun x s _ =>
    redgValue a.op a.ty (x.lanes.map fun l => x.read s a.s1 a.ty.regs (if a.ty = .f32 then .f32 else .int) l)

/-- VOTE's result (R416): 1 or 0, or the ballot mask. -/
def voteValue (mode : VoteMode) (lanes : List Nat) (v : Nat → Nat) : Nat :=
  match mode with
  | .all => boolNat (lanes.all fun l => v l ≠ 0)
  | .any => boolNat (lanes.any fun l => v l ≠ 0)
  | .uni => boolNat (lanes.all fun l => v l = v (lanes.headD 0))
  | .ballot => (maskOf (lanes.filter fun l => v l ≠ 0)).toNat
def execVote (g : Guard) (a : VoteArgs) (s : State) : Host.Outcome State Fault Refusal :=
  s.issueWord (.vote g a) false fun x s =>
    laneEffect a.d (if a.mode = .ballot && x.gang.width = 64 then 2 else 1) (fun x s _ => voteValue a.mode x.lanes fun l => x.read s a.s1 1 .int l) x s

/-- ELECT: the lowest active lane of the merged path (R339). -/
def execElect (g : Guard) (d : Operand) (sform : Bool) (s : State) : Host.Outcome State Fault Refusal :=
  s.perLane (.elect g d sform) d 1 fun x s l => if sform then x.special s 0 x.low else boolNat (l = x.low)

end Sys2Proof.Machine
end

