-- ==== Sys2Proof/Machine/Security.lean ====
section
/-! DEFINITION. The security processor, wiping and life cycle (spec/14_system.md R296 to R301), the fabric (R294), fencing, dropping and resetting a die and error records
(spec/12_faults.md R280 to R282; spec/01_organization.md R26). -/
namespace Sys2Proof.Machine

-- Key domains (R296, R297)

def State.mail (s : State) (status : Nat) (data : List Byte) : State := s.modPkg fun p => { p with mailStatus := status, mailData := data }
/-- LOADKEY: a domain outside KDMASK fails with status 0x02; a key that unwraps fills the slot, and the domain serves again (log 106). -/
def execLoadkey (part d : Nat) (ciphertext wrapped : List Byte) (s : State) : Host.Outcome State Fault Refusal :=
  if d ≥ 64 || !(s.part part).kdmask.getLsbD d then .next (s.mail 2 [])
  else if !Config.unwraps part ciphertext wrapped then .next (s.mail Config.mailFailed [])
  else
    let s := s.modPkg fun p => { p with keys := tset p.keys d p.keySerial, keySerial := p.keySerial + 1, revoked := p.revoked.filter fun x => x ≠ d }
    .next (s.mail Config.mailDone [])
/-- An access in flight through key domain d. -/
def Gang.touches (g : Gang) (d : Nat) : Bool := g.flights.any fun f => f.todo.any fun a => match a.loc with | .mem pa kd _ _ => !isHost pa && kd = d | _ => false
/-- A line stands under key domain d. -/
def Package.inDomain (p : Package) (d line : Nat) : Bool := match tget p.lineKeys line with | some (k, _) => k = d | none => false
/-- REVOKE's steps: accesses in flight end with the old key, later checks find the domain revoked, L1 drops its lines, dirty sectors
unwritten, and the key slot is erased. -/
def State.revokeDomain (s : State) (d : Nat) : State :=
  let s := (tkeys s.gangs fun _ g => g.touches d).foldl State.catchUp s
  let dropped (sector : Nat) : Bool := s.pkg.inDomain d (lineOf (sector * 256))
  let drop (c : Core) : Core :=
    let l1 := c.l1.filter fun x => !dropped x.1 && x.2.kd ≠ d
    { c with l1 := l1, dirty := c.dirty.filter fun x => (tget l1 x).isSome }
  let s := { s with
    cores := s.cores.map (fun (e : Nat × Core) => (e.1, drop e.2)),
    parts := s.parts.map fun (e : Nat × Part) => (e.1, { e.2 with rdc := e.2.rdc.filter fun x => x.2.sector.kd ≠ d }) }
  s.modPkg fun p => { p with revoked := d :: p.revoked.filter (fun x => x ≠ d), keys := terase p.keys d }
/-- See log 106. -/
def execRevoke (part d : Nat) (s : State) : Host.Outcome State Fault Refusal :=
  if d ≥ 64 || !(s.part part).kdmask.getLsbD d then .next (s.mail 2 []) else .next ((s.revokeDomain d).mail Config.mailDone [])

-- Attestation (R301)

/-- Exactly n bytes. -/
def fixedLength (n : Nat) (bs : List Byte) : List Byte := (bs ++ zeros n).take n
def LifeCycle.code : LifeCycle → Nat | .manufacture => 0 | .deployed => 1 | .returned => 2
/-- The quote's bytes 0 to 1,687. -/
def State.quote (s : State) (part : Nat) (nonce : List Byte) : List Byte :=
  let p := s.part part
  bytesOfNat 4 0x4F5A4151 ++ bytesOfNat 1 s.pkg.life.code ++ bytesOfNat 3 (Config.imageVersion s.pkg.firmware) ++ fixedLength 64 (Config.shake256 s.pkg.firmware)
    ++ bytesOfNat 2 p.hcmask.toNat ++ zeros 6 ++ bytesOfNat 8 p.kdmask.toNat ++ fixedLength 32 nonce ++ fixedLength 1568 (Config.kemPublicKey part)
/-- ATTEST: only a deployed package attests, with its identity key. -/
def execAttest (part : Nat) (nonce : List Byte) (s : State) : Host.Outcome State Fault Refusal :=
  if s.pkg.life ≠ .deployed || !s.pkg.idKey then .next (s.mail Config.mailFailed [])
  else
    let q := s.quote part nonce
    .next (s.mail Config.mailDone (q ++ (Config.falconSign q).take 1280))

-- Reset, wiping and life cycle (R298 to R300, R444)

/-- The verdict on a firmware image: signed, and not older than the fused counter. -/
def imageGood (image : List Byte) (fuse : Nat) : Bool := Config.imageSigned image && decide (fuse ≤ Config.imageVersion image)
/-- Every SRAM, every HBM line of this package and every key slot is wiped, and every register stands at its reset value; the host's memory and other packages' stay. The
schedule and the counters of fresh numbers go on (log 44, log 107). -/
def State.wipe (s : State) (pkg : Package) : State :=
  { State.reset with
    agenda := s.agenda, seq := s.seq, freeNext := s.freeNext, mem := s.mem.filter (fun c => packageOf c.1 ≠ s.pkg.pkgid && packageOf c.1 ≠ pkg.pkgid),
    pkg := { pkg with keySerial := s.pkg.keySerial, wiping := true } }
/-- LCSTATE: only forwards; RETURNED erases the identity key (log 107). -/
def execLcstate (code : Nat) (s : State) : Host.Outcome State Fault Refusal :=
  if code ≤ s.pkg.life.code || code > 2 then .next (s.mail Config.mailFailed [])
  else
    let life : LifeCycle := if code = 1 then .deployed else .returned
    let k := s.pkg
    .next (s.wipe { Package.initial with
      pkgid := k.pkgid, domain := k.domain, life := life, idKey := k.idKey && code ≠ 2, firmware := k.firmware, fwGood := k.fwGood, fuse := k.fuse,
      mailStatus := Config.mailDone, powered := k.powered, errors := k.errors, thot := k.thot, time := k.time, fenced := k.fenced, absent := k.absent,
      fabricFixed := k.fabricFixed, unreachable := k.unreachable })
/-- PACKAGE_RESET: the wipe starts, registers are reset, and the firmware is verified anew. -/
def execPackageReset (s : State) : Host.Outcome State Fault Refusal :=
  let k := s.pkg
  let good := imageGood k.firmware k.fuse
  .next (s.wipe { Package.initial with
    life := k.life, idKey := k.idKey, firmware := k.firmware, fwGood := good, fuse := k.fuse, mailStatus := Config.mailVerdict good, powered := k.powered })
def execHbmWipeDone (s : State) : Host.Outcome State Fault Refusal := .next (s.modPkg fun p => { p with wiping := false })
/-- FIRMWARE_IMAGE: taken while no good image is there; the verdict is the mailbox's status. -/
def execFirmwareImage (image : List Byte) (s : State) : Host.Outcome State Fault Refusal :=
  if s.pkg.fwGood then .next s
  else if imageGood image s.pkg.fuse then .next ((s.mail (Config.mailVerdict true) []).modPkg fun p => { p with firmware := image, fwGood := true })
  else .next (s.mail (Config.mailVerdict false) [])

-- The fabric (R19, R294)

/-- An address of this package under another package id (log 108). -/
def renumber (new a : Nat) : Nat := new * 2 ^ 41 + a % 2 ^ 41
/-- FABRIC_CONFIGURATION: the package's id and the packages of its domain. Its memory goes with it. It is made while every context is stopped; a second configuration of a boot, and one
after a context has run, leave the id as it is (R19: the id is constant for the life of a boot) (log 108). -/
def State.configureFabric (s : State) (pkg : Fin 1152) (members : List Nat) : State :=
  let own (a : Nat) : Bool := packageOf a = s.pkg.pkgid
  let mine := s.mem.filter fun c => own c.1
  let rest := s.mem.filter fun c => !own c.1 && packageOf c.1 ≠ pkg
  let k := s.pkg
  let line (n : Nat) : Nat := renumber pkg (n * 1024) / 1024
  let sector (n : Nat) : Nat := renumber pkg (n * 256) / 256
  { s with
    mem := mine.foldl (fun (m : Memory) c => m.write (renumber pkg c.1) c.2) rest,
    parts := s.parts.map (fun (e : Nat × Part) => (e.1, { e.2 with
      lineTimes := (e.2.lineTimes.filter fun t => t.1 ≥ 2 ^ 50 || own (t.1 * 1024)).map (fun t => if t.1 ≥ 2 ^ 50 then t else (line t.1, t.2)), rdc := [] })),
    cores := s.cores.map (fun (e : Nat × Core) => (e.1, { e.2 with
      l1 := (e.2.l1.filter fun x => own (x.1 * 256)).map (fun x => (sector x.1, x.2)), dirty := (e.2.dirty.filter fun x => own (x * 256)).map sector })),
    pkg := { k with
      pkgid := pkg, domain := pkg :: members, fabricFixed := true, unreachable := k.unreachable.filter (fun n => n ≠ pkg),
      lineKeys := ((k.lineKeys.filter fun e => own (e.1 * 1024)).map fun e => (line e.1, e.2)) ++ k.lineKeys.filter (fun e => !own (e.1 * 1024) && packageOf (e.1 * 1024) ≠ pkg),
      poisoned := k.poisoned.map sector } }
def execFabricConfiguration (pkg : Nat) (members : List Nat) (s : State) : Host.Outcome State Fault Refusal :=
  if h : pkg < 1152 then
    if (List.range 12).all s.stopped && (!s.pkg.fabricFixed || pkg = s.pkg.pkgid) then .next (s.configureFabric ⟨pkg, h⟩ members) else .next s
  else .next s

/-- An address of HBM of this package. -/
def State.ownHbm (s : State) (pa n : Nat) : Bool := packageOf pa = s.pkg.pkgid && pa % 2 ^ 41 + n ≤ 0x18000000000
/-- A read from another package takes a lease at each line's home slice (R206) (log 109). -/
def State.leaseLines (s : State) (pa n : Nat) : State :=
  (((List.range n).map fun i => lineOf (pa + i)).eraseDups).foldl (fun s key =>
    match s.linePart key with
    | none => s
    | some part =>
      (s.timeRoom part).modPart part fun p =>
        let (w, r) := tgetD p.lineTimes key (0, 0)
        { p with lineTimes := tset p.lineTimes key (w, max r (w + p.rdlease)), top := max p.top (w + p.rdlease) }) s
/-- A word of the range cannot be corrected. -/
def State.poisonedIn (s : State) (pa n : Nat) : Bool := (List.range n).any fun i => s.pkg.poisoned.contains (sectorOf (pa + i))
/-- Its home slice reports it, CONTAINED, to the partition that holds it (R281, R282). -/
def State.reportHome (s : State) (pa : Nat) : State :=
  match s.linePart (lineOf pa) with
  | some part => s.logTo part pa 0x02 0x05 ((s.part part).homeSlice 31 pa) none 0
  | none => s
/-- Bytes that another package writes through a key domain (R191): they fill poisoned sectors (R281). -/
def State.fabricWrite (s : State) (pa kd : Nat) (bs : List Byte) : State := (s.keyWriteBytes kd pa bs).stampLines pa bs.length
/-- What a load or an atomic of another package has found through a key domain goes back to it. -/
def State.answer (s : State) (pa kd n : Nat) : State :=
  s.modPkg fun k => { k with out := k.out ++ [.reply pa kd ((List.range n).map fun i => s.keyRead kd (pa + i))] }
/-- An atomic of another package on n bytes: one that meets a poisoned word has no effect (R281). -/
def State.fabricAtomic (s : State) (pa kd n : Nat) (f : Nat → Nat) : State :=
  if s.poisonedIn pa n then s.reportHome pa else (s.answer pa kd n).fabricWrite pa kd (bytesOfNat n (f (s.keyReadN kd pa n)))
/-- What another package's memory is found to hold, read through a key domain, stands there in the model, but where a dirty sector of this package holds newer bytes. -/
def State.takeReply (s : State) (pa kd : Nat) (bs : List Byte) : State :=
  bs.zipIdx.foldl (fun s b => if (s.dirtyCopy kd (pa + b.2)).isSome then s else s.keyWrite kd (pa + b.2) b.1) s
/-- The home slice serves an access of another package to n bytes: some partition holds the memory (R23), and the key domain has its key (R296, R297). -/
def State.serves (s : State) (pa kd n : Nat) : Bool := s.heldHbm pa n && !s.domainGone kd
/-- FABRIC_REMOTE_ACCESS: performed at the home slice, where some partition holds the memory (R23), or taken in at the tree node; what another package's memory is found to hold stands
there (log 13, log 109). -/
def execFabricRemoteAccess (p : RemotePacket) (s : State) : Host.Outcome State Fault Refusal :=
  match p with
  | .read pa kd n =>
    if !s.serves pa kd n then .next s
    else if s.poisonedIn pa n then .next (s.reportHome pa)
    else .next ((s.leaseLines pa n).answer pa kd n)
  | .write pa kd bs => if s.serves pa kd bs.length then .next (s.fabricWrite pa kd bs) else .next s
  | .atomic pa kd op ty x =>
    let n := if ty.regs = 2 then 8 else 4
    if s.serves pa kd n then .next (s.fabricAtomic pa kd n fun old => atomResult op ty old x.toNat) else .next s
  | .cas pa kd w cmp new => if s.serves pa kd w then .next (s.fabricAtomic pa kd w fun old => if old = cmp % 2 ^ (8 * w) then new else old) else .next s
  | .reply pa kd bs =>
    if isHost pa || (List.range bs.length).any fun i => packageOf (pa + i) = s.pkg.pkgid || isHost (pa + i) then .next s
    else .next (s.takeReply pa kd bs)
  | p => .next (s.modPkg fun k => { k with inbox := k.inbox ++ [p] })

-- Dies (R26, R281)

/-- A team on a fenced die is torn down: its record, its jobs, its grid's later fate (log 110). The place of its allocation is remembered while the die stands fenced (log 47). -/
def State.fenceTeam (s : State) (n : Nat) : State :=
  let t := s.team n
  let s := s.modPkg fun p => { p with fencedTeams := ⟨t.ctx, t.core, t.pair, t.scratchBase, (s.grid t.grid).launch.alloc⟩ :: p.fencedTeams }
  let s := s.logTo t.ctx.part 0 0x03 0x0C t.core (some t.ctx.ctx) t.x
  let s := (tkeys s.jobs fun _ j => j.team = some n).foldl (fun s j => s.stopJob j 0x12 0) s
  let s := s.leaveTeam n
  let s := { s with grids := tmap s.grids (fun g _ => g = t.grid) fun (g : Grid) => { g with failing := true } }
  s.settleGrids
/-- A dirty sector of a core's L1 is written back where its die still answers; else its home slice marks it poisoned. -/
def State.flushSector (s : State) (core sector : Nat) : State :=
  let answers := Config.dieAnswers s.freeNext sector
  let s := s.useFree
  if answers then s.writeBack core sector else s.modPkg fun p => { p with poisoned := sector :: p.poisoned.filter fun x => x ≠ sector }
def State.coresOn (s : State) (die : Nat) : List Nat := tkeys s.cores fun c _ => dieOf c = die
/-- Everything that stops on a die: its teams, its L1 copies. -/
def State.clearDie (s : State) (die : Nat) : State :=
  let s := (tkeys s.teams fun _ t => dieOf t.core = die && (t.res = .placed || t.res = .shadowed)).foldl State.fenceTeam s
  let s := (s.coresOn die).foldl (fun s c => (s.core c).dirty.foldl (fun s x => s.flushSector c x) s) s
  (s.coresOn die).foldl (fun s c => s.modCore c fun k => { k with l1 := [], dirty := [] }) s
/-- Senders parked for a credit of a binding to the die issue again, and raise DIE_FENCED. -/
def State.wakeSenders (s : State) (die : Nat) : State :=
  s.retry fun k on => match on with | .credit mo => (tget (s.core (s.gang k).core).mo mo).any fun b => dieOf b.core = die | _ => false
/-- Fence a die (R281) (log 110). -/
def State.fence (s : State) (die : Nat) : State :=
  if s.pkg.fenced.contains die then s
  else
    let s := (s.clearDie die).modPkg fun p => { p with fenced := die :: p.fenced }
    ({ s with transit := s.transit.filter fun f => dieOf f.core ≠ die }).wakeSenders die
def execDieFence (die : Nat) (s : State) : Host.Outcome State Fault Refusal := if die < 24 then .next (s.fence die) else .next s
/-- DIE_DROP: the die leaves the logical map, marked absent; what stood on it goes as at a fence. -/
def execDieDrop (die : Nat) (s : State) : Host.Outcome State Fault Refusal :=
  if die ≥ 24 || s.pkg.absent.contains die then .next s else .next ((s.fence die).modPkg fun p => { p with absent := die :: p.absent })
/-- DIE_RESET: what stood on the die goes as at a fence, its cores start from their reset state, and the fence is lifted. -/
def execDieReset (die : Nat) (s : State) : Host.Outcome State Fault Refusal :=
  if die ≥ 24 then .next s
  else
    let s := s.fence die
    let s := { s with
      cores := s.cores.filter (fun e => dieOf e.1 ≠ die), benches := s.benches.filter (fun e => dieOf e.1.1 ≠ die), clusters := s.clusters.filter fun e => e.1 / 8 ≠ die }
    .next (s.modPkg fun p => { p with fenced := p.fenced.filter (fun d => d ≠ die), fencedTeams := p.fencedTeams.filter fun t => dieOf t.core ≠ die })

-- Error records (R282, R174, R175)

/-- The partitions to whose logs an error goes. -/
def errorParts (e : HwError) : List Nat := if e.part < 12 then [e.part] else List.range 12
def State.logError (s : State) (e : HwError) (detail : Nat) : State :=
  (errorParts e).foldl (fun s p => s.logTo p e.pa.toNat e.cls.toNat e.unit.toNat e.unitId.toNat e.ctx detail) s
/-- A unit's corrected errors since its last record: the time of that record, 0 for none yet, and their count. -/
def errorUnit (e : HwError) : Nat × Nat := (e.unit.toNat, e.unitId.toNat)
def State.countCorrected (s : State) (e : HwError) : State :=
  s.modPkg fun p => let (t, n) := tgetD p.logged (errorUnit e) (0, 0); { p with logged := tset p.logged (errorUnit e) (t, n + 1) }
/-- An uncorrectable word of a bench's matrix SRAM: the engine operation that runs there meets DATA_ECC. A failed word of a leader bench's tile TB, which every bench of the span uses,
marks the bench whose SRAM failed and no other: that is the model's choice (log 54). -/
def State.benchEcc (s : State) (unitId : Nat) : State :=
  let core := unitId / 4
  let lead := if (s.core core).engine.slaved then leaderOf core else core
  let place := Config.eccPlace s.freeNext
  let hit (o : EngineOp) : EngineOp :=
    let b := unitId % 4 + (if core = lead then 0 else 4)
    { o with errs := o.errs ++ [⟨1, b, place % 16, place / 16 % 64⟩] }
  (s.modEngine lead fun e => { e with running := e.running.map hit }).useFree
/-- The job reads words of a bench's SRAM or of a core's scratchpad, named as error records name them (R282). -/
def State.jobReads (s : State) (j : Job) (unit unitId : Nat) : Bool :=
  j.accepted && match j.shape with
  | none => false
  | some sh =>
    match sh.ssp with
    | .tile | .accum => unit = 0x01 && j.team.any fun t => (s.team t).span.contains (unitId / 4, unitId % 4)
    | .local => unit = 0x02 && j.team.isSome && j.home = unitId
    | .peer => unit = 0x02 && bitsAt j.desc.src 32 11 = unitId
    | _ => false
/-- An uncorrectable word of a bench's SRAM or a scratchpad: the jobs that read there record DATA_ECC (R226) (log 54). -/
def State.jobEcc (s : State) (unit unitId : Nat) : State :=
  let row := Config.eccPlace s.freeNext
  let hit (j : Job) : Job := if j.errs.any fun e => e.code = 1 then j else { j with errs := j.errs ++ [⟨1, 0, row, 0⟩] }
  State.useFree { s with jobs := tmap s.jobs (fun _ j => s.jobReads j unit unitId) hit }
/-- A contained error: the word is poisoned at its home slice, or in a bench's SRAM or a scratchpad, where what reads it meets DATA_ECC (log 54). -/
def State.contain (s : State) (e : HwError) : State :=
  if e.unit = 0x01 then (s.benchEcc e.unitId.toNat).jobEcc 0x01 e.unitId.toNat
  else if e.unit = 0x02 then s.jobEcc 0x02 e.unitId.toNat
  else if e.pa = 0 || !s.ownHbm e.pa.toNat 1 then s
  else s.modPkg fun p => { p with poisoned := sectorOf e.pa.toNat :: p.poisoned.filter fun x => x ≠ sectorOf e.pa.toNat }
/-- A FATAL error stops the partition. -/
def State.stopPart (s : State) (part : Nat) : State := (List.range 16).foldl (fun s c => s.stopContext ⟨part, c⟩) s
/-- ERROR_DETECTED: a corrected error is counted for its unit's next record; every other class is logged at once (log 54). -/
def execErrorDetected (e : HwError) (s : State) : Host.Outcome State Fault Refusal :=
  if e.cls = 1 then .next (s.countCorrected e)
  else
    let s := s.logError e e.detail.toNat
    if e.cls = 2 then .next (s.contain e)
    else if e.cls = 5 then .next ((errorParts e).foldl State.stopPart s)
    else .next s
/-- CORRECTED_ERROR_LOG: at most once per 1 ms (1,400,000 interposer cycles) a unit's corrected errors are logged with their count. -/
def execCorrectedErrorLog (e : HwError) (s : State) : Host.Outcome State Fault Refusal :=
  let (t, n) := tgetD s.pkg.logged (errorUnit e) (0, 0)
  if n = 0 || (t ≠ 0 && s.pkg.time < t + 1400000) then .next s
  else .next ((s.logError { e with cls := 1 } n).modPkg fun p => { p with logged := tset p.logged (errorUnit e) (max 1 s.pkg.time, 0) })

end Sys2Proof.Machine
end

