-- ==== Sys2Proof/Machine/Transcend.lean ====
section
/-! DEFINITION. The special functions (spec/15_ref_a_d.md R328, spec/16_ref_e_m.md R346, spec/17_ref_n_z.md R390): each result is the exact real function rounded once to nearest even.
RCP is an exact fraction; SQRT and RSQ use the integer square root with a sticky bit; the transcendental functions are computed in fixed point with workBits fraction bits,
far below every rounding boundary of the three formats (assumption log 20). -/
namespace Sys2Proof

/-- Fraction bits of the fixed-point evaluation. -/
def workBits : Nat := 512

/-- floor(sqrt n) for n below 4^k. -/
def isqrt (n : Nat) : Nat → Nat → Nat
  | 0, acc => acc
  | k + 1, acc => isqrt n k (if (acc + 2 ^ k) * (acc + 2 ^ k) ≤ n then acc + 2 ^ k else acc)

/-- The square root of num / den x 2^exp to 200 significant bits with a sticky bit below them. -/
def sqrtExact (num den : Nat) (exp : Int) : Exact :=
  let sh : Nat := 600
  let odd := exp % 2
  let (a, b) := scaleFrac num den odd
  let n := (a <<< sh) / b
  let r := isqrt n 512 0
  let sticky := if r * r * b = a <<< sh then 0 else 1
  .fin false (2 * r + sticky) 1 ((exp - odd) / 2 - 301)

/-- Sum of x^k / k! over the terms that remain, at scale 2^workBits, in steps: term := term * num / (2^workBits * k * (k + step - 1) ...). -/
def expSeries (x : Nat) : Nat → Nat → Nat → Nat
  | 0, _, _ => 0
  | fuel + 1, k, term => term + expSeries x fuel (k + 1) ((term * x / (k + 1)) >>> workBits)

/-- e^x for x in [0, 1) at scale 2^workBits. -/
def expFix (x : Nat) : Nat := expSeries x 110 0 (2 ^ workBits)

/-- Sum over odd k of z^k / k with alternating or equal signs; z2 is z squared. -/
def oddSeries (alt : Bool) (z2 : Nat) : Nat → Nat → Nat → Bool → Int
  | 0, _, _, _ => 0
  | fuel + 1, k, p, neg =>
    let t : Int := (p / k : Nat)
    (if neg then -t else t) + oddSeries alt z2 fuel (k + 2) ((p * z2) >>> workBits) (alt && !neg)

/-- Inverse hyperbolic tangent of num / den, at most 1/3. -/
def atanhFix (num den : Nat) : Int :=
  let z := (num <<< workBits) / den
  oddSeries false ((z * z) >>> workBits) 170 1 z false
/-- Inverse tangent of 1 / n for n at least 5. -/
def atanInv (n : Nat) : Int :=
  let z := 2 ^ workBits / n
  oddSeries true ((z * z) >>> workBits) 120 1 z false

def ln2Fix : Nat := (2 * atanhFix 1 3).toNat
/-- pi by Machin's formula. -/
def piFix : Nat := (16 * atanInv 5 - 4 * atanInv 239).toNat

/-- A nonnegative value num / den x 2^exp at scale 2^workBits, rounded down. -/
def toFix (num den : Nat) (exp : Int) : Nat :=
  let (a, b) := scaleFrac num den (exp + (workBits : Int))
  a / b

/-- 2^x for a finite value (R346). -/
def exp2Exact (neg : Bool) (num den : Nat) (exp : Int) : Exact :=
  if floorLog2 num den exp > 12 then (if neg then .fin false 1 1 (-5000) else .fin false 1 1 5000)
  else
    let x : Int := if neg then -(toFix num den exp : Int) else (toFix num den exp : Int)
    let n := x >>> workBits
    let f := (x - n * 2 ^ workBits).toNat
    if f = 0 then .fin false 1 1 n
    else .fin false (expFix ((f * ln2Fix) >>> workBits)) 1 (n - (workBits : Int))

/-- log2 of a positive finite value (R346). -/
def log2Exact (num den : Nat) (exp : Int) : Exact :=
  let k := floorLog2 num den exp
  let (a, b) := scaleFrac num den (exp - k)
  if a = b then Exact.ofInt k
  else
    let frac : Int := ((2 * atanhFix (a - b) (a + b)) * 2 ^ workBits) / (ln2Fix : Int)
    let x := k * 2 ^ workBits + frac
    .fin (x < 0) x.natAbs 1 (-(workBits : Int))

/-- e^(-y) for y at scale 2^workBits below 2^(workBits + 8). -/
def expNeg (y : Nat) : Nat :=
  let n := y / ln2Fix
  let r := y % ln2Fix
  ((2 ^ (2 * workBits)) / expFix r) >>> n

/-- tanh of a finite nonzero value (R390). -/
def tanhExact (neg : Bool) (num den : Nat) (exp : Int) : Exact :=
  if floorLog2 num den exp ≥ 7 then .fin neg (2 ^ 200 - 1) 1 (-200)
  else
    let q := expNeg (2 * toFix num den exp)
    .fin neg (2 ^ workBits - q) (2 ^ workBits + q) 0

/-- Alternating series of sin and cos: term_k := -term_(k-1) x^2 / ((k+1)(k+2)). -/
def trigSeries (x2 : Nat) : Nat → Nat → Nat → Bool → Int
  | 0, _, _, _ => 0
  | fuel + 1, k, term, neg =>
    (if neg then -(term : Int) else (term : Int)) + trigSeries x2 fuel (k + 2) (((term * x2) >>> workBits) / ((k + 1) * (k + 2))) (!neg)

/-- |x| reduced modulo 2 pi, at scale 2^workBits. -/
def reduceTwoPi (num den : Nat) (exp : Int) : Nat := toFix num den exp % (2 * piFix)

def sinFix (r : Nat) : Int := trigSeries ((r * r) >>> workBits) 110 1 r false
def cosFix (r : Nat) : Int := trigSeries ((r * r) >>> workBits) 110 0 (2 ^ workBits) false

def fixExact (x : Int) : Exact := .fin (x < 0) x.natAbs 1 (-(workBits : Int))
/-- sin of a finite nonzero value; a small argument keeps its leading term. -/
def sinExact (neg : Bool) (num den : Nat) (exp : Int) : Exact :=
  (fixExact (sinFix (reduceTwoPi num den exp))).negIf neg
def cosExact (num den : Nat) (exp : Int) : Exact := fixExact (cosFix (reduceTwoPi num den exp))

/-- The eight functions of R328, R345 and R390. -/
inductive SfuFn | rcp | rsq | sqrt | exp2 | log2 | sin | cos | tanh
  deriving DecidableEq, Repr

/-- f(x) with the special values of R328, R346 and R390. -/
def SfuFn.apply (fn : SfuFn) (x : Exact) : Exact :=
  match fn, x with
  | _, .nan => .nan
  | .rcp, .inf s => .fin s 0 1 0
  | .rsq, .inf s => if s then .nan else .zero
  | .sqrt, .inf s => if s then .nan else .inf false
  | .exp2, .inf s => if s then .zero else .inf false
  | .log2, .inf s => if s then .nan else .inf false
  | .tanh, .inf s => .fin s 1 1 0
  | .sin, .inf _ => .nan
  | .cos, .inf _ => .nan
  | .rcp, .fin s n d e => if n = 0 then .inf s else .fin s d n (-e)
  | .rsq, .fin s n d e => if n = 0 then .inf s else if s then .nan else sqrtExact d n (-e)
  | .sqrt, .fin s n d e => if n = 0 then .fin s 0 1 0 else if s then .nan else sqrtExact n d e
  | .exp2, .fin s n d e => if n = 0 then .one else exp2Exact s n d e
  | .log2, .fin s n d e => if n = 0 then .inf true else if s then .nan else log2Exact n d e
  | .sin, .fin s n d e => if n = 0 then .fin s 0 1 0 else sinExact s n d e
  | .cos, .fin _ n d e => if n = 0 then .one else cosExact n d e
  | .tanh, .fin s n d e => if n = 0 then .fin s 0 1 0 else tanhExact s n d e

/-- The result of a special function on a pattern: one rounding to nearest even. -/
def SfuFn.bits (fn : SfuFn) (f : FloatFmt) (a : Nat) : Nat := f.rne (fn.apply (f.decode a))

end Sys2Proof
end

