-- ==== Sys2Proof/Machine/Sfu.lean ====
section
/-! DEFINITION. Class SFU: special functions, conversions and DBF packing (spec/15_ref_a_d.md R328, R333 to R336; spec/16_ref_e_m.md R345, R346, R352, R353;
spec/17_ref_n_z.md R390). Results are written at the end of the latency, under the lookahead window (R118); no counter tracks them. -/
namespace Sys2Proof.Machine

/-- The effect of an SFU instruction: results in flight, and whether a conversion saturated: in an active lane, or, where each half of the gang forms a block from all its lanes (R334,
R336), in any half (R142). -/
def sfuEffect (d : Operand) (n : Nat) (la : BitVec 4) (blocks : Bool) (f : Issue → State → Nat → Rounded) (x : Issue) (s : State) : Act :=
  let dest := x.gang.dest d n
  let met := if blocks then (List.range (x.gang.width / 32)).map fun h => 32 * h else x.lanes
  .done (s.addResult x none la [dest] (dest.laneWrites x.lanes fun l => (f x s l).bits) (met.any fun l => (f x s l).sat))
def State.sfu (s : State) (i : Instr) (d : Operand) (n : Nat) (la : BitVec 4) (f : Issue → State → Nat → Rounded) : Host.Outcome State Fault Refusal :=
  s.issueWord i false (sfuEffect d n la false f)
/-- One of the eight special functions, one lane. -/
def sfuLane (fn : SfuFn) (a : SfuArgs) (x : Issue) (s : State) (l : Nat) : Rounded :=
  ⟨fn.bits a.ty.fmt (x.read s a.s1 1 (readAs3 a.ty) l % (2 * a.ty.fmt.signBit)), false⟩

def execRcp (g : Guard) (a : SfuArgs) (s : State) : Host.Outcome State Fault Refusal := s.sfu (.rcp g a) a.d 1 a.la (sfuLane .rcp a)
def execRsq (g : Guard) (a : SfuArgs) (s : State) : Host.Outcome State Fault Refusal := s.sfu (.rsq g a) a.d 1 a.la (sfuLane .rsq a)
def execSqrt (g : Guard) (a : SfuArgs) (s : State) : Host.Outcome State Fault Refusal := s.sfu (.sqrt g a) a.d 1 a.la (sfuLane .sqrt a)
def execExp2 (g : Guard) (a : SfuArgs) (s : State) : Host.Outcome State Fault Refusal := s.sfu (.exp2 g a) a.d 1 a.la (sfuLane .exp2 a)
def execLog2 (g : Guard) (a : SfuArgs) (s : State) : Host.Outcome State Fault Refusal := s.sfu (.log2 g a) a.d 1 a.la (sfuLane .log2 a)
def execSin (g : Guard) (a : SfuArgs) (s : State) : Host.Outcome State Fault Refusal := s.sfu (.sin g a) a.d 1 a.la (sfuLane .sin a)
def execCos (g : Guard) (a : SfuArgs) (s : State) : Host.Outcome State Fault Refusal := s.sfu (.cos g a) a.d 1 a.la (sfuLane .cos a)
def execTanh (g : Guard) (a : SfuArgs) (s : State) : Host.Outcome State Fault Refusal := s.sfu (.tanh g a) a.d 1 a.la (sfuLane .tanh a)

def execFrnd (g : Guard) (a : FrndArgs) (s : State) : Host.Outcome State Fault Refusal :=
  s.sfu (.frnd g a) a.d 1 a.la fun x s l => ⟨a.ty.fmt.integral a.rnd (x.read s a.s1 1 (readAs3 a.ty) l % (2 * a.ty.fmt.signBit)), false⟩

/-- The 32 values of a lane's half of the gang, read whatever their activity (R334, R336). -/
def Issue.halfValues (x : Issue) (s : State) (o : Operand) (l : Nat) : List Exact :=
  (List.range 32).map fun j => FloatFmt.fp32.decode (x.read s o 1 .f32 (l / 32 * 32 + j))

/-- CVT, one lane (R334). -/
def cvtLane (a : CvtArgs) (x : Issue) (s : State) (l : Nat) : Rounded :=
  match a.form with
  | .plain sat rnd dt sty => cvtPlain sat rnd dt sty (x.read s a.s1 sty.regs (readAsR sty) l)
  | .toSlot ty fs =>
    let sl := x.launch.slot fs.toNat
    if fmtDbf sl.fmt then
      let b := sl.dbfBlock (x.halfValues s a.s1 l)
      let r := FloatFmt.fp32.round .rn sl.sat (((slotDbf sl.fmt).readElement (b.bytes (slotDbf sl.fmt)) (l % 32)).mul sl.scaleOf)
      ⟨r.bits, b.sat || r.sat⟩
    else sl.encodeReg (ty.value (x.read s a.s1 ty.regs (readAsR ty) l))
  | .fromSlot rnd ty fs => ty.write rnd (x.launch.slot fs.toNat).sat ((x.launch.slot fs.toNat).real (x.read s a.s1 1 .int l))
/-- Registers of CVT's destination. -/
def CvtForm.dregs : CvtForm → Nat
  | .plain _ _ dt _ => dt.regs
  | .toSlot _ _ => 1
  | .fromSlot _ ty _ => ty.regs
/-- CVT forms blocks when its slot is a DBF format. -/
def CvtForm.blocks (f : CvtForm) (l : Launch) : Bool := match f with | .toSlot _ fs => fmtDbf (l.slot fs.toNat).fmt | _ => false
def execCvt (g : Guard) (a : CvtArgs) (s : State) : Host.Outcome State Fault Refusal :=
  s.issueWord (.cvt g a) false fun x s => sfuEffect a.d (CvtForm.dregs a.form) a.la (CvtForm.blocks a.form x.launch) (cvtLane a) x s

def execDbfpk (g : Guard) (a : DbfpkArgs) (s : State) : Host.Outcome State Fault Refusal :=
  s.issueWord (.dbfpk g a) false <| sfuEffect a.d 1 a.la true fun x s l =>
    let sl := x.launch.slot a.fs.toNat
    let b := sl.dbfBlock (x.halfValues s a.s1 l)
    ⟨leField (b.bytes (slotDbf sl.fmt)) (4 * (l % 32)) 4, b.sat⟩
def execDbfunpk (g : Guard) (a : DbfunpkArgs) (s : State) : Host.Outcome State Fault Refusal :=
  s.sfu (.dbfunpk g a) a.d 1 a.la fun x s l =>
    let sl := x.launch.slot a.fs.toNat
    let f := slotDbf sl.fmt
    let blk := ((List.range 32).flatMap fun j => bytesOfNat 4 (x.read s a.s1 1 .int (l / 32 * 32 + j))).take f.blockBytes
    a.dt.fmt.round a.rnd sl.sat ((f.readElement blk (l % 32)).mul sl.scaleOf)

end Sys2Proof.Machine
end

