-- ==== Sys2Proof/Machine/Dispatch.lean ====
section
/-! DEFINITION. One arm for each row of spec/opcode_table.json: each calls the meaning of its row. -/
namespace Sys2Proof.Machine

def exec (i : Instr) (s : State) : Host.Outcome State Fault Refusal :=
  match i with
  | .nop => Sys2Proof.Machine.execNop s
  | .mov g a => Sys2Proof.Machine.execMov g a s
  | .iadd g a => Sys2Proof.Machine.execIadd g a s
  | .isub g a => Sys2Proof.Machine.execIsub g a s
  | .imul g a => Sys2Proof.Machine.execImul g a s
  | .imad g a => Sys2Proof.Machine.execImad g a s
  | .imin g a => Sys2Proof.Machine.execImin g a s
  | .imax g a => Sys2Proof.Machine.execImax g a s
  | .and g a => Sys2Proof.Machine.execAnd g a s
  | .andn g a => Sys2Proof.Machine.execAndn g a s
  | .or g a => Sys2Proof.Machine.execOr g a s
  | .xor g a => Sys2Proof.Machine.execXor g a s
  | .shl g a => Sys2Proof.Machine.execShl g a s
  | .shr g a => Sys2Proof.Machine.execShr g a s
  | .sar g a => Sys2Proof.Machine.execSar g a s
  | .bcnt g a => Sys2Proof.Machine.execBcnt g a s
  | .bfx g a => Sys2Proof.Machine.execBfx g a s
  | .bfi g a => Sys2Proof.Machine.execBfi g a s
  | .fadd g a => Sys2Proof.Machine.execFadd g a s
  | .fmul g a => Sys2Proof.Machine.execFmul g a s
  | .ffma g a => Sys2Proof.Machine.execFfma g a s
  | .fmin g a => Sys2Proof.Machine.execFmin g a s
  | .fmax g a => Sys2Proof.Machine.execFmax g a s
  | .icmp g a => Sys2Proof.Machine.execIcmp g a s
  | .fcmp g a => Sys2Proof.Machine.execFcmp g a s
  | .sel g a => Sys2Proof.Machine.execSel g a s
  | .plop g a => Sys2Proof.Machine.execPlop g a s
  | .shfl g a => Sys2Proof.Machine.execShfl g a s
  | .vote g a => Sys2Proof.Machine.execVote g a s
  | .perm g a => Sys2Proof.Machine.execPerm g a s
  | .redg g a => Sys2Proof.Machine.execRedg g a s
  | .lea g a => Sys2Proof.Machine.execLea g a s
  | .ld g a => Sys2Proof.Machine.execLd g a s
  | .ldPoll g a => Sys2Proof.Machine.execLdPoll g a s
  | .ldc g a => Sys2Proof.Machine.execLdc g a s
  | .lds g a => Sys2Proof.Machine.execLds g a s
  | .ldp g a => Sys2Proof.Machine.execLdp g a s
  | .st g a => Sys2Proof.Machine.execSt g a s
  | .sts g a => Sys2Proof.Machine.execSts g a s
  | .stp g a => Sys2Proof.Machine.execStp g a s
  | .atom g a => Sys2Proof.Machine.execAtom g a s
  | .atoms g a => Sys2Proof.Machine.execAtoms g a s
  | .atomp g a => Sys2Proof.Machine.execAtomp g a s
  | .red g a => Sys2Proof.Machine.execRed g a s
  | .cas g a => Sys2Proof.Machine.execCas g a s
  | .cass g a => Sys2Proof.Machine.execCass g a s
  | .prefL1 g a => Sys2Proof.Machine.execPrefL1 g a s
  | .prefLlc g a => Sys2Proof.Machine.execPrefLlc g a s
  | .fenceRepl g => Sys2Proof.Machine.execFenceRepl g s
  | .fenceHost g => Sys2Proof.Machine.execFenceHost g s
  | .fenceEng g => Sys2Proof.Machine.execFenceEng g s
  | .fenceAll g => Sys2Proof.Machine.execFenceAll g s
  | .cmntWb g a => Sys2Proof.Machine.execCmntWb g a s
  | .cmntDrop g a => Sys2Proof.Machine.execCmntDrop g a s
  | .qpush g a => Sys2Proof.Machine.execQpush g a s
  | .qpop g a => Sys2Proof.Machine.execQpop g a s
  | .qpopWait g a => Sys2Proof.Machine.execQpopWait g a s
  | .mmad g a => Sys2Proof.Machine.execMmad g a s
  | .azero g pr ac => Sys2Proof.Machine.execAzero g pr ac s
  | .tbuild g a => Sys2Proof.Machine.execTbuild g a s
  | .lutmm g a => Sys2Proof.Machine.execLutmm g a s
  | .tbinv g pr kt => Sys2Proof.Machine.execTbinv g pr kt s
  | .tbqry g a => Sys2Proof.Machine.execTbqry g a s
  | .accrd g a => Sys2Proof.Machine.execAccrd g a s
  | .accwr g a => Sys2Proof.Machine.execAccwr g a s
  | .twr g a => Sys2Proof.Machine.execTwr g a s
  | .trd g a => Sys2Proof.Machine.execTrd g a s
  | .mengq g a => Sys2Proof.Machine.execMengq g a s
  | .cpy g a => Sys2Proof.Machine.execCpy g a s
  | .tload g a => Sys2Proof.Machine.execTload g a s
  | .tstore g a => Sys2Proof.Machine.execTstore g a s
  | .tdesc g a => Sys2Proof.Machine.execTdesc g a s
  | .cpyq g a => Sys2Proof.Machine.execCpyq g a s
  | .cpycan g tk => Sys2Proof.Machine.execCpycan g tk s
  | .coll g a => Sys2Proof.Machine.execColl g a s
  | .tpost g tk => Sys2Proof.Machine.execTpost g tk s
  | .tsig g tk => Sys2Proof.Machine.execTsig g tk s
  | .braM g off => Sys2Proof.Machine.execBraM g off s
  | .braS g off => Sys2Proof.Machine.execBraS g off s
  | .brx g ra => Sys2Proof.Machine.execBrx g ra s
  | .call g sl off => Sys2Proof.Machine.execCall g sl off s
  | .callx g ra sl => Sys2Proof.Machine.execCallx g ra sl s
  | .ret g => Sys2Proof.Machine.execRet g s
  | .join => Sys2Proof.Machine.execJoin s
  | .exit g => Sys2Proof.Machine.execExit g s
  | .trap g n => Sys2Proof.Machine.execTrap g n s
  | .brk g => Sys2Proof.Machine.execBrk g s
  | .wflush g => Sys2Proof.Machine.execWflush g s
  | .wstat g d sel => Sys2Proof.Machine.execWstat g d sel s
  | .elect g d sform => Sys2Proof.Machine.execElect g d sform s
  | .launch g d ar => Sys2Proof.Machine.execLaunch g d ar s
  | .grow g d n => Sys2Proof.Machine.execGrow g d n s
  | .yield g => Sys2Proof.Machine.execYield g s
  | .gsr g d reg => Sys2Proof.Machine.execGsr g d reg s
  | .ssr g v reg => Sys2Proof.Machine.execSsr g v reg s
  | .famkillWrite g v => Sys2Proof.Machine.execFamkillWrite g v s
  | .eret g => Sys2Proof.Machine.execEret g s
  | .eretSkip g => Sys2Proof.Machine.execEretSkip g s
  | .rcp g a => Sys2Proof.Machine.execRcp g a s
  | .rsq g a => Sys2Proof.Machine.execRsq g a s
  | .sqrt g a => Sys2Proof.Machine.execSqrt g a s
  | .exp2 g a => Sys2Proof.Machine.execExp2 g a s
  | .log2 g a => Sys2Proof.Machine.execLog2 g a s
  | .sin g a => Sys2Proof.Machine.execSin g a s
  | .cos g a => Sys2Proof.Machine.execCos g a s
  | .tanh g a => Sys2Proof.Machine.execTanh g a s
  | .cvt g a => Sys2Proof.Machine.execCvt g a s
  | .frnd g a => Sys2Proof.Machine.execFrnd g a s
  | .dbfpk g a => Sys2Proof.Machine.execDbfpk g a s
  | .dbfunpk g a => Sys2Proof.Machine.execDbfunpk g a s
  | .wait g a => Sys2Proof.Machine.execWait g a s
  | .binit g a => Sys2Proof.Machine.execBinit g a s
  | .barrive g a => Sys2Proof.Machine.execBarrive g a s
  | .bwait g a => Sys2Proof.Machine.execBwait g a s
  | .btry g a => Sys2Proof.Machine.execBtry g a s
  | .binval g a => Sys2Proof.Machine.execBinval g a s
  | .bstat g a => Sys2Proof.Machine.execBstat g a s
  | .bstatClr g a => Sys2Proof.Machine.execBstatClr g a s
  | .gbarrive g a => Sys2Proof.Machine.execGbarrive g a s
  | .gbwait g a => Sys2Proof.Machine.execGbwait g a s
  | .racq g a => Sys2Proof.Machine.execRacq g a s
  | .rcommit g a => Sys2Proof.Machine.execRcommit g a s
  | .rwait g a => Sys2Proof.Machine.execRwait g a s
  | .rfree g a => Sys2Proof.Machine.execRfree g a s
  | .tsync g => Sys2Proof.Machine.execTsync g s
  | .chanbind g a => Sys2Proof.Machine.execChanbind g a s
  | .msgsend g a => Sys2Proof.Machine.execMsgsend g a s
  | .msgrecv g a => Sys2Proof.Machine.execMsgrecv g a s
  | .pwrreq g a => Sys2Proof.Machine.execPwrreq g a s
  | .pwrrel g la d => Sys2Proof.Machine.execPwrrel g la d s
  | .perflvl g s1 => Sys2Proof.Machine.execPerflvl g s1 s
  | .issueSelect core bench => Sys2Proof.Machine.execIssueSelect core bench s
  | .gangStarved g => Sys2Proof.Machine.execGangStarved g s
  | .resultWriteback g => Sys2Proof.Machine.execResultWriteback g s
  | .accessPerformed g => Sys2Proof.Machine.execAccessPerformed g s
  | .replicaPropagation die addr => Sys2Proof.Machine.execReplicaPropagation die addr s
  | .translationWalk core c va => Sys2Proof.Machine.execTranslationWalk core c va s
  | .trapEntry g => Sys2Proof.Machine.execTrapEntry g s
  | .watchdogExpiry g => Sys2Proof.Machine.execWatchdogExpiry g s
  | .watchdogGraceExpiry g => Sys2Proof.Machine.execWatchdogGraceExpiry g s
  | .formwaitExpiry team => Sys2Proof.Machine.execFormwaitExpiry team s
  | .formedGangRelease team => Sys2Proof.Machine.execFormedGangRelease team s
  | .porterSpill g => Sys2Proof.Machine.execPorterSpill g s
  | .porterRefill g => Sys2Proof.Machine.execPorterRefill g s
  | .spawnOverflowMove team => Sys2Proof.Machine.execSpawnOverflowMove team s
  | .gangEnd g => Sys2Proof.Machine.execGangEnd g s
  | .hostPost c index => Sys2Proof.Machine.execHostPost c index s
  | .taskIngest c => Sys2Proof.Machine.execTaskIngest c s
  | .gridCodebookRead grid => Sys2Proof.Machine.execGridCodebookRead grid s
  | .teamPlace part place => Sys2Proof.Machine.execTeamPlace part place s
  | .taskJobStart c index => Sys2Proof.Machine.execTaskJobStart c index s
  | .engineOpStart core => Sys2Proof.Machine.execEngineOpStart core s
  | .engineSlave core => Sys2Proof.Machine.execEngineSlave core s
  | .handleFetch core => Sys2Proof.Machine.execHandleFetch core s
  | .engineOpRetire core => Sys2Proof.Machine.execEngineOpRetire core s
  | .copyJobAccept job => Sys2Proof.Machine.execCopyJobAccept job s
  | .copyByteWrite job unit => Sys2Proof.Machine.execCopyByteWrite job unit s
  | .copyJobFault job => Sys2Proof.Machine.execCopyJobFault job s
  | .copyJobComplete job => Sys2Proof.Machine.execCopyJobComplete job s
  | .flitDelivery core mo => Sys2Proof.Machine.execFlitDelivery core mo s
  | .weighbridgeWindow cluster => Sys2Proof.Machine.execWeighbridgeWindow cluster s
  | .leaveGrant cluster => Sys2Proof.Machine.execLeaveGrant cluster s
  | .perfLevelChange cluster => Sys2Proof.Machine.execPerfLevelChange cluster s
  | .thermalSweep readings => Sys2Proof.Machine.execThermalSweep readings s
  | .timeRebase part => Sys2Proof.Machine.execTimeRebase part s
  | .preemptSaveTeam c q => Sys2Proof.Machine.execPreemptSaveTeam c q s
  | .preemptSaveContext c => Sys2Proof.Machine.execPreemptSaveContext c s
  | .preemptSavePartition part => Sys2Proof.Machine.execPreemptSavePartition part s
  | .preemptSwapPartition part => Sys2Proof.Machine.execPreemptSwapPartition part s
  | .preemptForcedStop g => Sys2Proof.Machine.execPreemptForcedStop g s
  | .shadowExchange part => Sys2Proof.Machine.execShadowExchange part s
  | .teamSave team => Sys2Proof.Machine.execTeamSave team s
  | .teamRestore team => Sys2Proof.Machine.execTeamRestore team s
  | .fqreplyServiced part seq => Sys2Proof.Machine.execFqreplyServiced part seq s
  | .fqreplyRefused part seq => Sys2Proof.Machine.execFqreplyRefused part seq s
  | .fqbaseWrite part x => Sys2Proof.Machine.execFqbaseWrite part x s
  | .elbaseWrite part x => Sys2Proof.Machine.execElbaseWrite part x s
  | .hcmaskWrite part x => Sys2Proof.Machine.execHcmaskWrite part x s
  | .rdcwaysWrite part x => Sys2Proof.Machine.execRdcwaysWrite part x s
  | .tlbInvalidate part x => Sys2Proof.Machine.execTlbInvalidate part x s
  | .tlbInvalidateDone part => Sys2Proof.Machine.execTlbInvalidateDone part s
  | .gbcfgWrite part x => Sys2Proof.Machine.execGbcfgWrite part x s
  | .statWrite part x => Sys2Proof.Machine.execStatWrite part x s
  | .pceilWrite part agent x => Sys2Proof.Machine.execPceilWrite part agent x s
  | .contextRun c => Sys2Proof.Machine.execContextRun c s
  | .contextStop c => Sys2Proof.Machine.execContextStop c s
  | .hatomWrite x => Sys2Proof.Machine.execHatomWrite x s
  | .configRegisterWrite part off x => Sys2Proof.Machine.execConfigRegisterWrite part off x s
  | .hostCompletionError g => Sys2Proof.Machine.execHostCompletionError g s
  | .loadkey part d ciphertext wrapped => Sys2Proof.Machine.execLoadkey part d ciphertext wrapped s
  | .revoke part d => Sys2Proof.Machine.execRevoke part d s
  | .attest part nonce => Sys2Proof.Machine.execAttest part nonce s
  | .lcstate code => Sys2Proof.Machine.execLcstate code s
  | .packageReset => Sys2Proof.Machine.execPackageReset s
  | .hbmWipeDone => Sys2Proof.Machine.execHbmWipeDone s
  | .firmwareImage image => Sys2Proof.Machine.execFirmwareImage image s
  | .dieFence die => Sys2Proof.Machine.execDieFence die s
  | .dieDrop die => Sys2Proof.Machine.execDieDrop die s
  | .errorDetected e => Sys2Proof.Machine.execErrorDetected e s
  | .correctedErrorLog e => Sys2Proof.Machine.execCorrectedErrorLog e s
  | .coolantAlarm => Sys2Proof.Machine.execCoolantAlarm s
  | .coolantRecover => Sys2Proof.Machine.execCoolantRecover s
  | .coolantFatal => Sys2Proof.Machine.execCoolantFatal s
  | .programTimeTick g => Sys2Proof.Machine.execProgramTimeTick g s
  | .fabricConfiguration pkg members => Sys2Proof.Machine.execFabricConfiguration pkg members s
  | .dieReset die => Sys2Proof.Machine.execDieReset die s
  | .hostLinkWrite pa kd bytes => Sys2Proof.Machine.execHostLinkWrite pa kd bytes s
  | .fabricRemoteAccess p => Sys2Proof.Machine.execFabricRemoteAccess p s

end Sys2Proof.Machine
end

