-- ==== Sys2Proof/Machine/Schedule.lean ====
section
/-! DEFINITION. One round of the machine: the turns that fill an empty agenda, in which every agent moves once (assumption log 1). A turn that cannot act changes nothing. -/
namespace Sys2Proof.Machine

/-- Cores with a gang, ascending in the gangs' order. -/
def State.busyCores (s : State) : List Nat := (s.gangs.map fun e => e.2.core).eraseDups
/-- A job's next unit in order. -/
def State.nextUnit (s : State) (j : Job) : Nat :=
  match j.shape with
  | some sh => (j.unitsLeft sh).headD 0
  | none => ((List.range (s.jobs.length + j.moved.length + 1)).find? fun u => !j.moved.contains u).getD 0
/-- A place for the next team of the first grid that fits somewhere in the partition (log 37). -/
def State.somePlace (s : State) (part : Nat) : Option Placement :=
  (s.readyOrder part).findSome? fun (gid, g) =>
    (s.part part).dies.findSome? fun d => (List.range 64).findSome? fun i => (List.range 16).findSome? fun r =>
      (0 :: ((s.teamsOn (64 * d + i)).map fun e => e.2.scratchBase + (s.grid e.2.grid).launch.alloc)).findSome? fun b =>
        if (s.placeTeam part gid g ⟨64 * d + i, r, b⟩).isSome then some ⟨64 * d + i, r, b⟩ else none

def gangEvents (k : GangKey) : List Instr :=
  [.trapEntry k, .accessPerformed k, .resultWriteback k, .gangStarved k, .watchdogExpiry k, .watchdogGraceExpiry k, .porterRefill k, .preemptForcedStop k, .gangEnd k]
def teamEvents (n : Nat) : List Instr := [.spawnOverflowMove n, .formedGangRelease n, .formwaitExpiry n, .teamSave n, .teamRestore n]
def State.jobEvents (s : State) : List Instr :=
  s.jobs.flatMap fun e => [.copyJobAccept e.1, .copyJobFault e.1, .copyByteWrite e.1 (s.nextUnit e.2), .copyJobComplete e.1]
def engineEvents (c : Nat) : List Instr := [.engineOpRetire c, .handleFetch c, .engineSlave c, .engineOpStart c]
def State.foremanEvents (s : State) : List Instr :=
  s.ctxs.map (fun e => Instr.taskIngest e.1) ++ s.grids.map (fun e => Instr.gridCodebookRead e.1) ++ s.tasks.map (fun e => Instr.taskJobStart e.1.1 e.1.2)
    ++ s.parts.flatMap fun e => (s.somePlace e.1).toList.map fun p => Instr.teamPlace e.1 p
/-- Every cluster of the package, with a gang or without: windows and levels go on in each (R258, R261). -/
def allClusters : List Nat := List.range 192
def State.clusterEvents (s : State) (c : Nat) : List Instr :=
  (if s.pkg.time % 1400 = 0 then [Instr.weighbridgeWindow c] else []) ++ [.leaveGrant c, .perfLevelChange c]
/-- One round: the agents' events, then every bench's selection and issue, then time. -/
def State.round (s : State) : List Turn :=
  let cores := s.busyCores
  let events := s.gangs.flatMap (fun e => gangEvents e.1) ++ s.teams.flatMap (fun e => teamEvents e.1) ++ s.jobEvents ++ s.cores.flatMap (fun e => engineEvents e.1)
    ++ s.transit.map (fun f => Instr.flitDelivery f.fromCore f.fromMo) ++ s.lags.flatMap (fun l => l.dies.map fun d => Instr.replicaPropagation d l.addr) ++ s.foremanEvents
    ++ (allClusters.flatMap s.clusterEvents) ++ s.parts.map fun e => Instr.shadowExchange e.1
  let issues := cores.flatMap fun c => (List.range 4).flatMap fun b => Turn.event (.issueSelect c b) :: (List.range 4).map fun k => Turn.issue c b k
  events.map Turn.event ++ issues ++ cores.map (fun c => Turn.tick c 1) ++ [.elapse 1]

end Sys2Proof.Machine
end

