-- ==== Sys2Proof/Machine/Step.lean ====
section
/-! DEFINITION. One step: the next turn of the agenda (assumption log 1), and a state in which one given word is the next to issue. -/
namespace Sys2Proof.Machine

/-- One turn. An issue turn fetches and decodes the next word of a gang in a clause slot and runs it; other turns are the other agents' steps and the passing of time. -/
def State.runTurn (s : State) (t : Turn) : Host.Outcome State Fault Refusal :=
  match t with
  | .event i => if i.isWord then .next s else exec i s
  | .issue core bench k =>
    match s.nextWord core bench k with
    | .word g w i => exec i { s.fetched g with cur := some g, word := w }
    | .other s => .next s
  | .tick core n => .next (s.tick core n)
  | .evict core sector => .next (s.evictSector core sector)
  | .elapse n => .next (s.elapse n)
  | .link pkg up => .next (s.modPkg fun p => { p with unreachable := (if up then [] else [pkg]) ++ p.unreachable.filter fun n => n ≠ pkg })

/-- A step takes the agenda's first turn; an empty agenda is filled with one round. Without module power nothing moves (R302) (log 1). -/
def step (s : State) : Host.Outcome State Fault Refusal :=
  if !s.pkg.powered then .fault .powerOff
  else
    match s.agenda with
    | [] => .next { s with agenda := s.round }
    | t :: rest => State.runTurn { s with agenda := rest } t

-- A word in place of the next to issue (assumption log 3)

def fetchVa : Nat := 0x10000
def fetchPa (s : State) : Nat := s.pkg.pkgid * 2 ^ 41 + fetchVa
/-- See log 3. -/
def fetchLaunch : Launch :=
  { Launch.empty with codeBase := fetchVa, vtop := 127, winMin := 16, winMax := 16, scratch := 4096, tiles := 8, accs := 4, tables := 4 }
/-- The header of a clause of one word (R103). -/
def fetchHeader (w : Nat) : Nat := 0xC * 2 ^ 60 + bitsAt w 61 3 * 2 ^ 57 + 2 ^ 52
def fetchKey : GangKey := ⟨0, 0⟩
def fetchGang : Gang :=
  { fetchLaunch.freshGang 0 0 0 0 0 1 0 0 with paths := [{ Path.empty with id := 1, pos := 1, mask := fullMask 8 }] }
/-- s with one gang of a loaded program in the clause slot of core 0's bench 0, the word its next to issue, and that issue the next turn (log 3). -/
def State.withFetchWord (s : State) (_nbits w : Nat) : State :=
  let m := (s.mem.writeN (fetchPa s) 8 (fetchHeader w)).writeN (fetchPa s + 8) 8 w
  let leaf : Leaf := ⟨fetchVa, 65536, fetchPa s, true, false, 0, 31, 0, 2, false⟩
  let s := { s with
    agenda := [.issue 0 0 0], mem := m,
    pkg := { s.pkg with keys := tset s.pkg.keys 0 0, revoked := s.pkg.revoked.filter fun d => d ≠ 0, lineKeys := terase s.pkg.lineKeys (lineOf (fetchPa s)) },
    grids := tset s.grids 0 { Grid.empty with launch := fetchLaunch, x := 1, next := 1 },
    teams := tset s.teams 0 Team.empty, gangs := tset s.gangs fetchKey fetchGang,
    benches := tset s.benches (0, 0) ⟨[fetchKey], bitsAt w 61 3⟩ }
  (s.modCtx ⟨0, 0⟩ fun c => { c with run := true }).modCore 0 fun c => { c with tlb := tset c.tlb 0 [leaf] }

end Sys2Proof.Machine
end

