-- ==== Sys2Proof/Safety.lean ====
section
/-! DEFINITION. What counts as a safe step: it ends in a next state. The one stop of this machine is the loss of module power (R302). -/
namespace Sys2Proof

/-- A step from s ends in a next state. -/
def Safe (s : Machine.State) : Prop := ∃ t, Machine.step s = .next t

end Sys2Proof

namespace Sys2Proof.Machine

-- When a word issues with its own effect. The statements of Sys2Proof/Certificates are made over these conditions, which read the state and the instruction alone.

/-- What a word sees when no decode cause applies to it (R123, R124), no wait of R118 to R121 holds it, and the paths of a collective, to which no cause of R371 applies before, have met and merged
(R68). -/
def State.issueOf (s : State) (i : Instr) : Option (Issue × State) :=
  match s.issuing i.guard with
  | none => none
  | some x =>
    if x.illegal i ≠ none || x.stalled i then none
    else if !i.isCollective then some (x, s)
    else if x.gatherTrap s i ≠ none then none
    else if s.gathered x.key x.path then ((s.gather x).issuing i.guard).map fun y => (y, s.gather x)
    else none
/-- The same with a lane active (R125), and the state its effect starts from: its destinations' granules are taken (R84, R436), windows are one shorter, the
weighbridge is charged (R118, R258). -/
def State.ready (s : State) (i : Instr) : Option (Issue × State) :=
  match s.issueOf i with
  | none => none
  | some (x, s0) =>
    if x.active = 0 then none
    else
      match s0.takeAll x.key ((x.dests i).flatMap Dest.granules) with
      | .ok s1 => some (x, s1.begin x i)
      | _ => none

/-- A per-lane result of n registers, written in every active lane, or from the lowest active lane into a scalar (R115). -/
def State.lanesSet (s : State) (x : Issue) (d : Operand) (n : Nat) (v : Nat → Nat) : State :=
  s.modGang x.key fun g => g.writeRegs ((x.gang.dest d n).laneWrites x.lanes v)
/-- The copies of a line that L1s hold outside leases agree with its bytes, as the coherence classes leave them (R189, R190): a dirty sector stands whole in one L1, and of the line of pa only in core's
and under domain kd. -/
def State.copiesAgree (s : State) (core kd pa : Nat) : Prop :=
  (s.cores.map Prod.fst).Nodup ∧
  (∀ e ∈ s.cores, ∀ e' ∈ s.cores, ∀ n ∈ e.2.dirty, n ∈ e'.2.dirty → e.1 = e'.1) ∧
  (∀ e ∈ s.cores, ∀ n ∈ e.2.dirty, ∃ c, tget e.2.l1 n = some c ∧ c.leased = false ∧ (n / 4 = lineOf pa → e.1 = core ∧ c.kd = kd)) ∧
  (∀ n c, n / 4 = lineOf pa → tget (s.core core).l1 n = some c → c.leased = false → c.kd = kd → c.bytes = (List.range 256).map fun i => s.keyRead kd (256 * n + i))
/-- A result that stands in flight under its lookahead window until its write-back (R118, R120). -/
def State.inFlight (s : State) (x : Issue) (c : Option Counter) (la : BitVec 4) (d : Operand) (n : Nat) (v : Nat → Nat) (sat : Bool) : State :=
  s.addResult x c la [x.gang.dest d n] ((x.gang.dest d n).laneWrites x.lanes v) sat

end Sys2Proof.Machine
end

