-- ==== Sys2Proof/Certificates/Slice0/Obligations.lean ====
section
/-! DEFINITION. The statements for the provers (OBLIGATIONS.json lists them). Statements about an instruction word speak of a word that issues now (State.issueOf, State.ready of
Sys2Proof/Safety.lean); statements about the other agents' steps name the conditions under which the step acts. -/
open Sys2Proof Sys2Proof.Machine

-- The step, decoding, reset

/-- One step takes the agenda's first turn. An issue turn on a gang whose next word can be fetched and parsed is exec of that word's instruction at that state, with the gang
and the word noted (R102, R108) and the core's translations filled by the fetch (R273); an agent's turn is exec of the agent's step; an empty agenda is filled with one round (log 1). -/
def Obligations.StepRunsTheDecodedWord : Prop :=
  (∀ (s : State) (core bench k : Nat) (g : GangKey) (p : Path) (w : Nat) (i : Instr),
    s.pkg.powered = true → (s.bench core bench).slot[k]? = some g → s.running g = some p → p.pos ≠ 0 → s.watchLets g (s.gang g) = true → p.badTarget? = none →
    s.fetchWord g ((s.launchOf g).va p.pc) = .ok w → parse (BitVec.ofNat 64 w) = .ok i →
    step { s with agenda := .issue core bench k :: s.agenda } = exec i { s.fetched g with cur := some g, word := BitVec.ofNat 64 w }) ∧
  (∀ (s : State) (g : GangKey), { s.fetched g with cores := s.cores, pkg := s.pkg } = s ∧ { (s.fetched g).pkg with out := s.pkg.out } = s.pkg ∧
    ∀ c, { (s.fetched g).core c with tlb := (s.core c).tlb } = s.core c) ∧
  (∀ (s : State) (e : Instr), s.pkg.powered = true → e.isWord = false → step { s with agenda := .event e :: s.agenda } = exec e s) ∧
  (∀ s : State, s.pkg.powered = true → s.agenda = [] → step s = .next { s with agenda := s.round })

/-- The words that the spec works out bit by bit decode to the instructions they stand for, one for every class. -/
def Obligations.SpecWordsDecode : Prop :=
  decode 0x1400_5054_585C_0028 = .ok (.ffma ⟨0, false⟩ ⟨.f32, .rz, false, false, false, .v 20, .v 21, .reg (.v 22), .v 23⟩) ∧
  decode 0x1B00_5453_CC00_006F = .ok (.shfl ⟨0, false⟩ ⟨.xor, .b32, .v 21, .v 20, .reg (.iconst 3)⟩) ∧
  decode 0x2039_0A42_0004_0004 = .ok (.ld ⟨3, true⟩ ⟨2, .v 20, .s 4, .w4, false, 0, 4⟩) ∧
  decode 0x2000_0A43_0004_0802 = .ok (.ldPoll ⟨0, false⟩ ⟨0, .v 20, .s 6, .w4, false, 0, 2⟩) ∧
  decode 0x2600_0010_0A05_0000 = .ok (.red ⟨0, false⟩ ⟨.v 32, .v 20, .add, .f32, 0⟩) ∧
  decode 0x2E00_0000_0030_0000 = .ok (.fenceEng ⟨0, false⟩) ∧
  decode 0x4000_5044_4800_2000 = .ok (.mmad ⟨0, false⟩ ⟨true, 1, 0, 1, false, .s 9, .v 0, 0, 1⟩) ∧
  decode 0x4300_4044_5800_2000 = .ok (.lutmm ⟨0, false⟩ ⟨true, 0, 1, false, 0, .s 11, .v 0, 0, 1⟩) ∧
  decode 0x4500_0000_0490_0000 = .ok (.tbqry ⟨0, false⟩ ⟨0, 0, .s 18, 0⟩) ∧
  decode 0x6000_1121_13FE_8003 = .ok (.cpy ⟨0, false⟩ ⟨.local, .global, .s 16, some (.s 9), none, 2, .bf16⟩) ∧
  decode 0x8200_0180_0000_0400 = .ok (.call ⟨0, false⟩ 3 0x400) ∧
  decode 0xA800_5054_0000_11A8 = .ok (.cvt ⟨0, false⟩ ⟨0, .v 20, .v 21, .plain true .rn .e4m3 .f32⟩) ∧
  decode 0xC200_4541_0000_0040 = .ok (.barrive ⟨0, false⟩ ⟨0, .s 10, .s 2, 0x40⟩) ∧
  decode 0xC000_0000_0000_000A = .ok (.wait ⟨0, false⟩ ⟨false, 0, 10⟩)

/-- Decoding the word that the encoder gives a well-formed instruction gives that instruction back, for every instruction and every operand value. -/
def Obligations.DecodeInvertsEncode : Prop := ∀ (i : Instr) (w : BitVec 64), i.wellFormed = true → encode i = some w → decode w = .ok i

/-- A word that decodes is the word that the encoder gives its instruction, so no two words stand for one instruction and no bit of a word is passed over. -/
def Obligations.EncodeInvertsDecode : Prop := ∀ (w : BitVec 64) (i : Instr), decode w = .ok i → encode i = some w

/-- JOIN's one word is OPC 0x85 with every other bit zero; every other word of that opcode, a guarded one too, is refused as ILLEGAL_FIELD (R362). EXIT is OPC 0x86 with
nothing but a guard (R342). ERET is OPC 0x91 with SKIP in bit 32, and any other bit below the guard refused (R340). -/
def Obligations.JoinExitEretWords : Prop :=
  (∀ w : BitVec 64, field w 56 8 = 0x85#8 → parse w = if w = 0x8500_0000_0000_0000#64 then .ok .join else .error .illegalField) ∧
  (∀ g : Guard, encode (.exit g) = some (0x86#8 ++ g.pg ++ boolBit g.pn ++ 0#51)) ∧
  (∀ w : BitVec 64, field w 56 8 = 0x86#8 → parse w = if field w 0 51 = 0#51 then .ok (.exit (guardBits w)) else .error .illegalField) ∧
  (∀ g : Guard, encode (.eret g) = some (0x91#8 ++ g.pg ++ boolBit g.pn ++ 0#51) ∧
    encode (.eretSkip g) = some (0x91#8 ++ g.pg ++ boolBit g.pn ++ 0#18 ++ 1#1 ++ 0#32)) ∧
  (∀ w : BitVec 64, field w 56 8 = 0x91#8 → parse w =
    if field w 0 51 = 0#51 then .ok (.eret (guardBits w)) else if field w 0 51 = 0#18 ++ 1#1 ++ 0#32 then .ok (.eretSkip (guardBits w)) else .error .illegalField)

/-- Memory is in canonical form at reset: the package writes zero to every line (R298), and an address that is not listed reads as 0. -/
def Obligations.ResetMemoryCanonical : Prop := State.reset.mem.wf = true ∧ State.reset.mem = []

/-- Every step that answers a next state keeps memory in canonical form: addresses strictly rising, no listed byte 0. So after any step two memories that read alike at every
address are one and the same, and every store of R203 stands in one place. -/
def Obligations.MemoryStaysCanonical : Prop :=
  ∀ s t : State, s.mem.wf = true → step s = .next t → t.mem.wf = true

/-- At reset the partition registers hold HCMASK 0xFFF in partition 0 and 0 elsewhere, SHARE 0x0101, LEASE 256 and 64 (R207), PCEIL 0x707, STAT 1, no global barrier, and
0 in every other; a context's registers hold 0, DEVTASK 65,536 (R444). LCSTATE leaves the same partition and context registers. -/
def Obligations.ResetRegisterValues : Prop :=
  (∀ p : Nat,
    State.reset.readConfig p 0x000 = (if p = 0 then 0xFFF else 0) ∧ State.reset.readConfig p 0x008 = 0x0101 ∧
    State.reset.readConfig p 0x010 = 256 + 64 * 2 ^ 32 ∧ State.reset.readConfig p 0x018 = 0 ∧ State.reset.readConfig p 0x020 = 0 ∧
    State.reset.readConfig p 0x028 = 0 ∧ State.reset.readConfig p 0x030 = 0 ∧ State.reset.readConfig p 0x040 = 0 ∧ State.reset.readConfig p 0x048 = 0 ∧
    State.reset.readConfig p 0x050 = 0 ∧ State.reset.readConfig p 0x058 = 1 ∧ State.reset.readConfig p 0x060 = 0x707 ∧
    (∀ g : Nat, State.reset.gbar p g = GBar.none)) ∧
  (∀ p c off : Nat, c < 16 → off < 256 → State.reset.readConfig p (0x1000 + 256 * c + off) = if off = 0x40 then 65536 else 0) ∧
  (∀ (s t : State) (code : Nat), s.pkg.life.code < code → code ≤ 2 → exec (.lcstate code) s = .next t →
    (∀ p, t.part p = State.reset.part p) ∧ ∀ c, t.ctx c = State.reset.ctx c)

-- When a word does not issue with its effect

/-- A word that breaks a decode rule traps with the first cause of R124's order, precisely, DETAIL its place in its clause (R123, R265). A word that must wait for a result in flight, or
whose in-flight counter is full, leaves the machine as it is (R118, R119, R121). A word with no active lane only moves its path on: no register, no memory byte, no instruction in flight (R110, R125). -/
def Obligations.WordsWithoutEffect : Prop :=
  (∀ (s : State) (i : Instr) (x : Issue) (c : Nat), i.isWord = true → s.issuing i.guard = some x → x.illegal i = some c →
    exec i s = .next (s.raise x ⟨c, x.path.pos - 1, none, 0, false⟩)) ∧
  (∀ (s : State) (i : Instr) (x : Issue), i.isWord = true → s.issuing i.guard = some x → x.illegal i = none → x.stalled i = true → exec i s = .next s) ∧
  (∀ (s s0 : State) (i : Instr) (x : Issue), i.isWord = true → i ≠ .join → s.issueOf i = some (x, s0) → x.active = 0 →
    exec i s = .next ((s0.begin x i).advance x.key x.path.id) ∧
    ((s0.begin x i).advance x.key x.path.id).mem = s0.mem ∧ ((s0.begin x i).advance x.key x.path.id).cores = s0.cores ∧
    (∀ n l, (((s0.begin x i).advance x.key x.path.id).gang x.key).readV n l = (s0.gang x.key).readV n l) ∧
    (∀ n, (((s0.begin x i).advance x.key x.path.id).gang x.key).readS n = (s0.gang x.key).readS n) ∧
    (∀ n, (((s0.begin x i).advance x.key x.path.id).gang x.key).readP n = (s0.gang x.key).readP n) ∧
    (((s0.begin x i).advance x.key x.path.id).gang x.key).flights.length = (s0.gang x.key).flights.length)

-- Registers

/-- p0 reads true in every lane, and a write to it changes nothing and raises no trap; a write of another predicate sets that one thread's bit and no other bit; a call, a trap entry and
their returns leave predicates as they are (R76). -/
def Obligations.PredicateZeroAndOthers : Prop :=
  (∀ (g : Gang) (l : Nat), l < g.width → g.width ≤ 64 → (g.readP 0).getLsbD l = true) ∧
  (∀ (g : Gang) (l : Nat) (b : Bool), g.writeReg (.pred 0 l b) = g) ∧
  (∀ (g : Gang) (n m l k : Nat) (b : Bool), n ≠ 0 → l < 64 → k < 64 →
    ((g.writeReg (.pred n l b)).readP m).getLsbD k = if m = n ∧ k = l then b else (g.readP m).getLsbD k) ∧
  (∀ (g : Gang) (ret slide : Nat) (trapFrame : Bool) (node w n : Nat),
    (g.pushFrame ret slide trapFrame node).readP n = g.readP n ∧ (g.popFrame w).readP n = g.readP n) ∧
  (∀ (x : Issue) (g : Guard) (a : ICmpArgs) (b : FCmpArgs) (c : PlopArgs), x.illegal (.icmp g { a with d := .p 0 }) = x.illegal (.icmp g { a with d := .p 1 }) ∧
    x.illegal (.fcmp g { b with d := .p 0 }) = x.illegal (.fcmp g { b with d := .p 1 }) ∧ x.illegal (.plop g { c with d := .p 0 }) = x.illegal (.plop g { c with d := .p 1 }))

/-- A granule of the ring: a static or taken one stays as it is; else one is taken while the ring has room, and the ring grows by one below its maximum if its lane quarters
have room; the registers keep their values. With no room and nothing of the gang that could be spilled, no granule is taken (R84). -/
def Obligations.FirstWriteTakesAGranule : Prop :=
  ∀ (s : State) (k : GangKey) (n : Nat),
    (n < 2 ∨ (s.gang k).taken.contains n = true → s.take k n = .ok s) ∧
    (2 ≤ n → (s.gang k).taken.contains n = false → (s.gang k).takenCount < (s.gang k).ringSize →
      ∃ t, s.take k n = .ok t ∧ (t.gang k).taken = n :: (s.gang k).taken ∧ (t.gang k).ringSize = (s.gang k).ringSize ∧ t.mem = s.mem ∧ t.cores = s.cores ∧
        (t.gang k).vregs = (s.gang k).vregs ∧ (t.gang k).frames = (s.gang k).frames ∧ ∀ j, j ≠ k → t.gang j = s.gang j) ∧
    (2 ≤ n → (s.gang k).taken.contains n = false → (s.gang k).takenCount = (s.gang k).ringSize → (s.gang k).ringSize < (s.launchOf k).winMax →
      s.ringFits (s.gang k) 1 = true →
      ∃ t, s.take k n = .ok t ∧ (t.gang k).taken = n :: (s.gang k).taken ∧ (t.gang k).ringSize = (s.gang k).ringSize + 1 ∧ t.mem = s.mem ∧ t.cores = s.cores ∧
        (t.gang k).vregs = (s.gang k).vregs ∧ (t.gang k).frames = (s.gang k).frames ∧ ∀ j, j ≠ k → t.gang j = s.gang j) ∧
    (2 ≤ n → (s.gang k).taken.contains n = false → (s.gang k).takenCount ≥ (s.gang k).ringSize →
      ((s.gang k).ringSize ≥ (s.launchOf k).winMax ∨ s.ringFits (s.gang k) 1 = false) → (s.gang k).canSpill = false → s.take k n = .overflow)

-- Class VEC

/-- Integer arithmetic: every active lane receives the sum, difference, product, multiply-sum, minimum or maximum of its operands' values, saturated under SAT, else modulo
the type's width (R359, R360). -/
def Obligations.IntegerArithmetic : Prop :=
  ∀ (s s1 : State) (x : Issue) (g : Guard),
    (∀ a : IntArgs, s.ready (.iadd g a) = some (x, s1) → exec (.iadd g a) s = .next ((s1.lanesSet x a.d a.ty.regs fun l =>
      a.ty.result a.sat (a.ty.val (x.read s1 a.s1 a.ty.regs .int l) + a.ty.val (x.readInt s1 a.s2 a.ty l))).advance x.key x.path.id)) ∧
    (∀ a : IntArgs, s.ready (.isub g a) = some (x, s1) → exec (.isub g a) s = .next ((s1.lanesSet x a.d a.ty.regs fun l =>
      a.ty.result a.sat (a.ty.val (x.read s1 a.s1 a.ty.regs .int l) - a.ty.val (x.readInt s1 a.s2 a.ty l))).advance x.key x.path.id)) ∧
    (∀ a : IMulArgs, s.ready (.imul g a) = some (x, s1) → exec (.imul g a) s = .next ((s1.lanesSet x a.d (if a.var = .wide then 2 else a.ty.regs) fun l =>
      let p := a.ty.val (x.read s1 a.s1 a.ty.regs .int l) * a.ty.val (x.readInt s1 a.s2 a.ty l)
      match a.var with
      | .lo => (p % 2 ^ a.ty.bits).toNat
      | .hi => (p / 2 ^ a.ty.bits % 2 ^ a.ty.bits).toNat
      | .wide => (p % 2 ^ (2 * a.ty.bits)).toNat).advance x.key x.path.id)) ∧
    (∀ a : IMadArgs, s.ready (.imad g a) = some (x, s1) → exec (.imad g a) s = .next ((s1.lanesSet x a.d a.ty.regs fun l =>
      a.ty.result a.sat (a.ty.val (x.read s1 a.s1 a.ty.regs .int l) * a.ty.val (x.readInt s1 a.s2 a.ty l)
        + a.ty.val (x.read s1 a.s3 a.ty.regs .int l))).advance x.key x.path.id)) ∧
    (∀ a : IMinArgs, s.ready (.imin g a) = some (x, s1) → exec (.imin g a) s = .next ((s1.lanesSet x a.d a.ty.regs fun l =>
      (min (a.ty.val (x.read s1 a.s1 a.ty.regs .int l)) (a.ty.val (x.readInt s1 a.s2 a.ty l)) % 2 ^ a.ty.bits).toNat).advance x.key x.path.id)) ∧
    (∀ a : IMinArgs, s.ready (.imax g a) = some (x, s1) → exec (.imax g a) s = .next ((s1.lanesSet x a.d a.ty.regs fun l =>
      (max (a.ty.val (x.read s1 a.s1 a.ty.regs .int l)) (a.ty.val (x.readInt s1 a.s2 a.ty l)) % 2 ^ a.ty.bits).toNat).advance x.key x.path.id)) ∧
    -- what a value and a result are
    (∀ (ty : ITy) (n : Nat), ty.val n % 2 ^ ty.bits = n % 2 ^ ty.bits ∧ ty.lo ≤ ty.val n ∧ ty.val n ≤ ty.hi) ∧
    (∀ (ty : ITy) (z : Int), ty.result false z = (z % 2 ^ ty.bits).toNat ∧ ty.val (ty.result true z) = if z < ty.lo then ty.lo else if z > ty.hi then ty.hi else z)

/-- Logic, shifts, bit counts and bit fields (R306, R314, R316, R380, R395). A shift amount at the width or above gives 0, or copies of the sign. Bit i
of what BFX extracts is the source's bit at the position and i, past the source's top its sign, or 0 of an unsigned type, and from the field's length on the field's top bit, or 0. -/
def Obligations.LogicShiftsAndFields : Prop :=
  ∀ (s s1 : State) (x : Issue) (g : Guard),
    (∀ a : LogicArgs, s.ready (.and g a) = some (x, s1) → exec (.and g a) s = .next ((s1.lanesSet x a.d a.ty.regs fun l =>
      x.read s1 a.s1 a.ty.regs .int l &&& x.readB s1 a.s2 a.ty l).advance x.key x.path.id)) ∧
    (∀ a : LogicArgs, s.ready (.andn g a) = some (x, s1) → exec (.andn g a) s = .next ((s1.lanesSet x a.d a.ty.regs fun l =>
      x.read s1 a.s1 a.ty.regs .int l &&& (2 ^ a.ty.bits - 1 - x.readB s1 a.s2 a.ty l % 2 ^ a.ty.bits)).advance x.key x.path.id)) ∧
    (∀ a : LogicArgs, s.ready (.or g a) = some (x, s1) → exec (.or g a) s = .next ((s1.lanesSet x a.d a.ty.regs fun l =>
      x.read s1 a.s1 a.ty.regs .int l ||| x.readB s1 a.s2 a.ty l).advance x.key x.path.id)) ∧
    (∀ a : LogicArgs, s.ready (.xor g a) = some (x, s1) → exec (.xor g a) s = .next ((s1.lanesSet x a.d a.ty.regs fun l =>
      x.read s1 a.s1 a.ty.regs .int l ^^^ x.readB s1 a.s2 a.ty l).advance x.key x.path.id)) ∧
    (∀ a : ShiftArgs, s.ready (.shl g a) = some (x, s1) → exec (.shl g a) s = .next ((s1.lanesSet x a.d a.ty.regs fun l =>
      x.read s1 a.s1 a.ty.regs .int l * 2 ^ x.readSrc s1 a.s2 1 .int l % 2 ^ a.ty.bits).advance x.key x.path.id)) ∧
    (∀ a : ShiftArgs, s.ready (.shr g a) = some (x, s1) → exec (.shr g a) s = .next ((s1.lanesSet x a.d a.ty.regs fun l =>
      if x.readSrc s1 a.s2 1 .int l ≥ a.ty.bits then 0 else x.read s1 a.s1 a.ty.regs .int l / 2 ^ x.readSrc s1 a.s2 1 .int l).advance x.key x.path.id)) ∧
    (∀ a : ShiftArgs, s.ready (.sar g a) = some (x, s1) → exec (.sar g a) s = .next ((s1.lanesSet x a.d a.ty.regs fun l =>
      (signedOf a.ty.bits (x.read s1 a.s1 a.ty.regs .int l) / 2 ^ x.readSrc s1 a.s2 1 .int l % 2 ^ a.ty.bits).toNat).advance x.key x.path.id)) ∧
    (∀ a : BcntArgs, s.ready (.bcnt g a) = some (x, s1) → exec (.bcnt g a) s = .next ((s1.lanesSet x a.d 1 fun l =>
      countBits a.op a.ty.bits (x.read s1 a.s1 a.ty.regs .int l)).advance x.key x.path.id)) ∧
    (∀ a : BfxArgs, s.ready (.bfx g a) = some (x, s1) → exec (.bfx g a) s = .next ((s1.lanesSet x a.d a.ty.regs fun l =>
      extractField a.ty (x.read s1 a.s1 a.ty.regs .int l) (BfxPos.at a.pl x s1 l).1 (BfxPos.at a.pl x s1 l).2).advance x.key x.path.id)) ∧
    (∀ a : BfiArgs, s.ready (.bfi g a) = some (x, s1) → exec (.bfi g a) s = .next ((s1.lanesSet x a.d a.ty.regs fun l =>
      insertField a.ty (x.read s1 a.s1 a.ty.regs .int l) (x.read s1 a.s2 a.ty.regs .int l) (x.read s1 a.s3 1 .int l)).advance x.key x.path.id)) ∧
    -- the counts and the fields
    (∀ w v : Nat, countBits .pop w v = ((List.range w).filter fun i => v.testBit i).length ∧
      (v % 2 ^ w = 0 → countBits .lzc w v = w ∧ countBits .tzc w v = w) ∧
      (v % 2 ^ w ≠ 0 → v.testBit (w - 1 - countBits .lzc w v) = true ∧ v.testBit (countBits .tzc w v) = true ∧
        (∀ i, i < countBits .tzc w v → v.testBit i = false) ∧ ∀ i, i < w → i > w - 1 - countBits .lzc w v → v.testBit i = false)) ∧
    (∀ (ty : ITy) (v pos len i : Nat),
      let n := min (len % 256) ty.bits
      let src (j : Nat) : Bool := if pos % 256 + j < ty.bits then v.testBit (pos % 256 + j) else ty.signed && v.testBit (ty.bits - 1)
      (extractField ty v pos len).testBit i = (decide (i < ty.bits ∧ n ≠ 0) && if i < n then src i else ty.signed && src (n - 1))) ∧
    (∀ (x : Issue) (t : State) (l : Nat) (a b : Operand) (p n : BitVec 8), BfxPos.at (.regs a b) x t l = (x.read t a 1 .int l, x.read t b 1 .int l) ∧
      BfxPos.at (.imm p n) x t l = (p.toNat, n.toNat)) ∧
    (∀ (ty : BTy) (v y pl i : Nat), (insertField ty v y pl).testBit i =
      (decide (i < ty.bits) && if pl % 256 ≤ i ∧ i < pl % 256 + min (pl / 256 % 256) ty.bits then y.testBit (i - pl % 256) else v.testBit i))

/-- Binary floating point. FADD, FMUL and FFMA give every active lane the sum, the product, or the product and sum of its operands, each negated as the instruction asks, rounded once (R348). FMIN and FMAX
give the operand that is no NaN, the canonical NaN of two NaNs, and else the lesser or the greater, -0 below +0 (R134, R351). A packed type does so in each half on its own. -/
def Obligations.FloatingPoint : Prop :=
  (∀ (s s1 : State) (x : Issue) (g : Guard),
    (∀ a : FArgs, s.ready (.fadd g a) = some (x, s1) → exec (.fadd g a) s = .next ((s1.lanesSet x a.d 1 fun l =>
      a.ty.lift2 (floatAdd a.ty.fmt a.rnd a.n1 a.n2) (x.read s1 a.s1 1 (readAsF a.ty) l) (x.readSrc s1 a.s2 1 (readAsF a.ty) l)).advance x.key x.path.id)) ∧
    (∀ a : FArgs, s.ready (.fmul g a) = some (x, s1) → exec (.fmul g a) s = .next ((s1.lanesSet x a.d 1 fun l =>
      a.ty.lift2 (floatMul a.ty.fmt a.rnd a.n1 a.n2) (x.read s1 a.s1 1 (readAsF a.ty) l) (x.readSrc s1 a.s2 1 (readAsF a.ty) l)).advance x.key x.path.id)) ∧
    (∀ a : FmaArgs, s.ready (.ffma g a) = some (x, s1) → exec (.ffma g a) s = .next ((s1.lanesSet x a.d 1 fun l =>
      a.ty.lift3 (floatFma a.ty.fmt a.rnd a.n1 a.n2 a.n3) (x.read s1 a.s1 1 (readAsF a.ty) l) (x.readSrc s1 a.s2 1 (readAsF a.ty) l)
        (x.read s1 a.s3 1 (readAsF a.ty) l)).advance x.key x.path.id)) ∧
    (∀ a : FMinArgs, s.ready (.fmin g a) = some (x, s1) → exec (.fmin g a) s = .next ((s1.lanesSet x a.d 1 fun l =>
      a.ty.lift2 a.ty.fmt.min (x.read s1 a.s1 1 (readAsF a.ty) l) (x.readSrc s1 a.s2 1 (readAsF a.ty) l)).advance x.key x.path.id)) ∧
    (∀ a : FMinArgs, s.ready (.fmax g a) = some (x, s1) → exec (.fmax g a) s = .next ((s1.lanesSet x a.d 1 fun l =>
      a.ty.lift2 a.ty.fmt.max (x.read s1 a.s1 1 (readAsF a.ty) l) (x.readSrc s1 a.s2 1 (readAsF a.ty) l)).advance x.key x.path.id))) ∧
  -- a packed type's halves, a narrow and a wide type
  (∀ (h : Nat → Nat → Nat) (y z : Nat), (∀ a b, h a b < 65536) →
    (∀ t : FTy, t = .f16x2 ∨ t = .bf16x2 → t.lift2 h y z % 65536 = h (y % 65536) (z % 65536) ∧ t.lift2 h y z / 65536 = h (y / 65536 % 65536) (z / 65536 % 65536)) ∧
    ∀ t : FTy, t = .f16 ∨ t = .bf16 → t.lift2 h y z = h (y % 65536) (z % 65536)) ∧
  (∀ (h : Nat → Nat → Nat) (y z : Nat), FTy.lift2 .f32 h y z = h (y % 2 ^ 32) (z % 2 ^ 32)) ∧
  (∀ (h : Nat → Nat → Nat → Nat) (y z u : Nat), (∀ a b c, h a b c < 65536) →
    (∀ t : FTy, t = .f16x2 ∨ t = .bf16x2 → t.lift3 h y z u % 65536 = h (y % 65536) (z % 65536) (u % 65536) ∧
      t.lift3 h y z u / 65536 = h (y / 65536 % 65536) (z / 65536 % 65536) (u / 65536 % 65536)) ∧
    ∀ t : FTy, t = .f16 ∨ t = .bf16 → t.lift3 h y z u = h (y % 65536) (z % 65536) (u % 65536)) ∧
  (∀ (h : Nat → Nat → Nat → Nat) (y z u : Nat), FTy.lift3 .f32 h y z u = h (y % 2 ^ 32) (z % 2 ^ 32) (u % 2 ^ 32)) ∧
  -- one rounding of the exact result
  (∀ (f : FloatFmt) (rnd : Rnd) (n1 n2 n3 : Bool) (y z u : Nat),
    let v (n : Bool) (b : Nat) : Exact := if n then (f.decode b).neg else f.decode b
    floatAdd f rnd n1 n2 y z = (f.round rnd false (Exact.add rnd (v n1 y) (v n2 z))).bits ∧
    floatMul f rnd n1 n2 y z = (f.round rnd false (Exact.mul (v n1 y) (v n2 z))).bits ∧
    floatFma f rnd n1 n2 n3 y z u = (f.round rnd false (Exact.add rnd (Exact.mul (v n1 y) (v n2 z)) (v n3 u))).bits) ∧
  -- FMIN and FMAX
  (∀ (f : FloatFmt) (y z : Nat),
    ((f.decode y).isNaN = true → (f.decode z).isNaN = true → f.min y z = f.nan ∧ f.max y z = f.nan) ∧
    ((f.decode y).isNaN = true → (f.decode z).isNaN = false → f.min y z = z ∧ f.max y z = z) ∧
    ((f.decode y).isNaN = false → (f.decode z).isNaN = true → f.min y z = y ∧ f.max y z = y) ∧
    ((f.decode y).isNaN = false → (f.decode z).isNaN = false → (f.decode y).cmp (f.decode z) < 0 → f.min y z = y ∧ f.max y z = z) ∧
    ((f.decode y).isNaN = false → (f.decode z).isNaN = false → (f.decode y).cmp (f.decode z) > 0 → f.min y z = z ∧ f.max y z = y)) ∧
  (∀ (t : F3), t.fmt.min 0 t.fmt.signBit = t.fmt.signBit ∧ t.fmt.min t.fmt.signBit 0 = t.fmt.signBit ∧ t.fmt.max 0 t.fmt.signBit = 0 ∧ t.fmt.max t.fmt.signBit 0 = 0)

/-- FCMP writes the outcome of its condition on the operands' exact values, in every active lane: into a predicate, or 1 or 0 into a register (R350). A condition holds
as its order says on the values: on rational ones by their order, 0 and minus 0 alike, an infinity beyond every other; a NaN meets only .NE and .NAN (R349). -/
def Obligations.FcmpWritesTheOutcome : Prop :=
  (∀ (s s1 : State) (x : Issue) (g : Guard) (a : FCmpArgs), s.ready (.fcmp g a) = some (x, s1) →
    exec (.fcmp g a) s = .next ((s1.lanesSet x a.d 1 fun l =>
      if a.cond.holds (f3Value a.ty (x.read s1 a.s1 1 (readAs3 a.ty) l)) (f3Value a.ty (x.read s1 a.s2 1 (readAs3 a.ty) l)) then 1 else 0).advance x.key x.path.id)) ∧
  (∀ (c : FCond) (y z : Exact), y.isNaN = true ∨ z.isNaN = true → c.holds y z = decide (c = .ne ∨ c = .nan)) ∧
  (∀ (b b' : Bool) (n n' d d' : Nat) (e e' : Int), 0 < d → 0 < d' →
    let v : ℚ := (if b then -1 else 1) * n / d * (2 : ℚ) ^ e
    let v' : ℚ := (if b' then -1 else 1) * n' / d' * (2 : ℚ) ^ e'
    let y : Exact := .fin b n d e
    let z : Exact := .fin b' n' d' e'
    (FCond.holds .eq y z = true ↔ v = v') ∧ (FCond.holds .ne y z = true ↔ v ≠ v') ∧ (FCond.holds .lt y z = true ↔ v < v') ∧ (FCond.holds .le y z = true ↔ v ≤ v') ∧
    (FCond.holds .gt y z = true ↔ v > v') ∧ (FCond.holds .ge y z = true ↔ v ≥ v') ∧ FCond.holds .num y z = true ∧ FCond.holds .nan y z = false) ∧
  (∀ (c : FCond) (b b' b2 : Bool) (n d : Nat) (e : Int),
    let less := decide (c = .ne ∨ c = .lt ∨ c = .le ∨ c = .num)
    let more := decide (c = .ne ∨ c = .gt ∨ c = .ge ∨ c = .num)
    c.holds (.inf b) (.fin b' n d e) = (if b then less else more) ∧ c.holds (.fin b' n d e) (.inf b) = (if b then more else less) ∧
    c.holds (.inf b) (.inf b2) = if b = b2 then decide (c = .eq ∨ c = .le ∨ c = .ge ∨ c = .num) else if b then less else more)

/-- Comparison, choice and moves: ICMP by the order of its operands' values as integers (R361), SEL by its predicate (R396), PLOP by the bit of its table that the three predicates number (R384), MOV of
a register, constant or immediate (R375, R376), LEA's scaled sum (R369), NOP (R379). A flit that stands in mi n goes to every active lane, and its sender's credit returns; a value moved to mo n
goes out as a flit of the lowest active lane's value, with the binding's credit (R240, R241). -/
def Obligations.CompareChooseMove : Prop :=
  (∀ (s s1 : State) (x : Issue) (g : Guard),
    (∀ a : ICmpArgs, s.ready (.icmp g a) = some (x, s1) → exec (.icmp g a) s = .next ((s1.lanesSet x a.d 1 fun l =>
      if a.cond.holds (a.ty.val (x.read s1 a.s1 a.ty.regs .int l)) (a.ty.val (x.read s1 a.s2 a.ty.regs .int l)) then 1 else 0).advance x.key x.path.id)) ∧
    (∀ y z : Int, ICond.holds .eq y z = decide (y = z) ∧ ICond.holds .ne y z = decide (y ≠ z) ∧ ICond.holds .lt y z = decide (y < z) ∧ ICond.holds .le y z = decide (y ≤ z) ∧
      ICond.holds .gt y z = decide (z < y) ∧ ICond.holds .ge y z = decide (z ≤ y)) ∧
    (∀ a : SelArgs, s.ready (.sel g a) = some (x, s1) → exec (.sel g a) s = .next ((s1.lanesSet x a.d a.ty.regs fun l =>
      if x.read s1 a.s3 1 .int l = 1 then x.read s1 a.s1 a.ty.regs .int l else x.read s1 a.s2 a.ty.regs .int l).advance x.key x.path.id)) ∧
    (∀ a : PlopArgs, s.ready (.plop g a) = some (x, s1) → exec (.plop g a) s = .next ((s1.lanesSet x a.d 1 fun l =>
      if a.lut.getLsbD (4 * x.read s1 a.s1 1 .int l + 2 * x.read s1 a.s2 1 .int l + x.read s1 a.s3 1 .int l) then 1 else 0).advance x.key x.path.id)) ∧
    (∀ a : MovArgs, s.ready (.mov g a) = some (x, s1) → (∀ n, a.d ≠ .mo n) → (∀ n, a.s1 ≠ .reg (.mi n)) →
      exec (.mov g a) s = .next ((s1.lanesSet x a.d a.ty.regs fun l => x.readB s1 a.s1 a.ty l).advance x.key x.path.id)) ∧
    (∀ a : LeaArgs, s.ready (.lea g a) = some (x, s1) → exec (.lea g a) s = .next ((s1.lanesSet x a.d (if a.n32 then 1 else 2) fun l =>
      let base := x.read s1 a.s1 (if a.n32 then 1 else 2) .int l
      let index := x.readSrc s1 a.s2 1 .int l
      if a.n32 then Int.toNat (((base : Int) + (if a.sx then signedOf 32 index else ((index % 2 ^ 32 : Nat) : Int)) * 2 ^ a.sh.toNat) % 2 ^ 32)
      else Int.toNat (((base : Int) + (if a.sx then signedOf 32 index else ((index % 2 ^ 32 : Nat) : Int)) * 2 ^ a.sh.toNat) % 2 ^ 64)).advance x.key x.path.id)) ∧
    (s.ready .nop = some (x, s1) → exec .nop s = .next (s1.advance x.key x.path.id))) ∧
  (∀ (s s1 : State) (x : Issue) (g : Guard) (a : MovArgs) (n : BitVec 2), s.ready (.mov g a) = some (x, s1) →
    (∀ f : Flit, a.s1 = .reg (.mi n) → (∀ m, a.d ≠ .mo m) → tget (s1.core (s1.gang x.key).core).flits n.toNat = some f →
      exec (.mov g a) s = .next (((s1.takeFlit x.key n.toNat f).lanesSet x a.d a.ty.regs fun _ => f.value).advance x.key x.path.id)) ∧
    (∀ b : Binding, a.d = .mo n → (∀ m, a.s1 ≠ .reg (.mi m)) → tget (s1.core (s1.gang x.key).core).mo n.toNat = some b → b.owner = x.key → b.credit = true →
      s1.pkg.fenced.contains (dieOf b.core) = false →
      exec (.mov g a) s = .next ((s1.sendFlit x.key n.toNat b (x.readB s1 a.s1 a.ty x.low)).advance x.key x.path.id)) ∧
    (a.s1 = .reg (.mi n) → tget (s1.core (s1.gang x.key).core).flits n.toNat = none → tgetD (s1.core (s1.gang x.key).core).producers n.toNat 0 ≠ 0 →
      ∃ s0, s.issueOf (.mov g a) = some (x, s0) ∧ exec (.mov g a) s = .next (s0.park x.key x.path.id (.receive n.toNat))) ∧
    (a.s1 = .reg (.mi n) → tget (s1.core (s1.gang x.key).core).flits n.toNat = none → tgetD (s1.core (s1.gang x.key).core).producers n.toNat 0 = 0 →
      ∃ s0, s.issueOf (.mov g a) = some (x, s0) ∧ exec (.mov g a) s = .next (s0.raise x (.of 0x3A))))

/-- The lane instructions of the whole gang, once its paths have met (R68). SHFL gives each active lane the value of the lane its mode names, or its own outside the gang (R398); PERM that of its index
modulo the width (R383); VOTE answers over the active lanes (R416). REDG combines them (R393): integer .ADD modulo the width, .MIN and .MAX one of the values, none below or above it, bitwise results bit
by bit, .F32 .ADD one rounding of the sum, .F32 .MIN and .MAX those of R134. ELECT marks the lowest active lane in a predicate, and gives its home lane in a scalar (R339). -/
def Obligations.LaneExchange : Prop :=
  (∀ (s s1 : State) (x : Issue) (g : Guard),
    (∀ a : ShflArgs, s.ready (.shfl g a) = some (x, s1) → exec (.shfl g a) s = .next ((s1.lanesSet x a.d a.ty.regs fun l =>
      let k := x.readSrc s1 a.s2 1 .int l
      let j : Int := match a.mode with | .idx => (k : Int) | .up => (l : Int) - k | .dn => (l : Int) + k | .xor => ((l ^^^ k : Nat) : Int)
      x.read s1 a.s1 a.ty.regs .int (if 0 ≤ j ∧ j < x.gang.width then j.toNat else l)).advance x.key x.path.id)) ∧
    (∀ a : PermArgs, s.ready (.perm g a) = some (x, s1) → exec (.perm g a) s = .next ((s1.lanesSet x a.d a.ty.regs fun l =>
      x.read s1 a.s1 a.ty.regs .int (x.readSrc s1 a.s2 1 .int l % x.gang.width)).advance x.key x.path.id)) ∧
    (∀ a : VoteArgs, s.ready (.vote g a) = some (x, s1) →
      exec (.vote g a) s = .next ((s1.lanesSet x a.d (if a.mode = .ballot ∧ x.gang.width = 64 then 2 else 1) fun _ =>
        let v (l : Nat) : Nat := x.read s1 a.s1 1 .int l
        match a.mode with
        | .all => if x.lanes.all (fun l => v l ≠ 0) then 1 else 0
        | .any => if x.lanes.any (fun l => v l ≠ 0) then 1 else 0
        | .uni => if x.lanes.all (fun l => v l = v x.low) then 1 else 0
        | .ballot => (maskOf (x.lanes.filter fun l => v l ≠ 0)).toNat).advance x.key x.path.id)) ∧
    (∀ a : RedgArgs, s.ready (.redg g a) = some (x, s1) → exec (.redg g a) s = .next ((s1.lanesSet x a.d a.ty.regs fun _ =>
      redgValue a.op a.ty (x.lanes.map fun l => x.read s1 a.s1 a.ty.regs (if a.ty = .f32 then .f32 else .int) l)).advance x.key x.path.id)) ∧
    (∀ (d : Operand) (sform : Bool), s.ready (.elect g d sform) = some (x, s1) → exec (.elect g d sform) s = .next ((s1.lanesSet x d 1 fun l =>
      if sform then (x.gang.homeOf x.key x.low).2 else if l = x.low then 1 else 0).advance x.key x.path.id))) ∧
  -- what REDG combines
  (∀ (ty : RedgTy) (y : Nat) (ys : List Nat),
    let w := if ty.regs = 2 then 64 else 32
    let v (n : Nat) : Int := if ty = .s32 ∨ ty = .s64 then signedOf w n else ((n % 2 ^ w : Nat) : Int)
    (ty ≠ .f32 →
      redgValue .add ty (y :: ys) = (y :: ys).sum % 2 ^ w ∧
      redgValue .min ty (y :: ys) ∈ y :: ys ∧ (∀ z ∈ y :: ys, v (redgValue .min ty (y :: ys)) ≤ v z) ∧
      redgValue .max ty (y :: ys) ∈ y :: ys ∧ (∀ z ∈ y :: ys, v z ≤ v (redgValue .max ty (y :: ys)))) ∧
    (∀ i, (redgValue .and ty (y :: ys)).testBit i = (y :: ys).all fun z => z.testBit i) ∧
    (∀ i, (redgValue .or ty (y :: ys)).testBit i = (y :: ys).any fun z => z.testBit i) ∧
    (∀ i, (redgValue .xor ty (y :: ys)).testBit i = decide (((y :: ys).filter fun z => z.testBit i).length % 2 = 1))) ∧
  (∀ (y : Nat) (ys : List Nat),
    redgValue .add .f32 (y :: ys) = FloatFmt.fp32.rne (Exact.sum ((y :: ys).map FloatFmt.fp32.decode)) ∧
    redgValue .min .f32 (y :: ys) = ys.foldl FloatFmt.fp32.min (FloatFmt.fp32.min y y) ∧
    redgValue .max .f32 (y :: ys) = ys.foldl FloatFmt.fp32.max (FloatFmt.fp32.max y y))

/-- What a per-lane result does to the state (R74, R76, R115): each active lane's registers hold its value, low word first; a scalar holds the lowest active lane's; a predicate
other than p0 its bit 0. Every other register, lane, gang and byte is as before. -/
def Obligations.LaneResultReadsBack : Prop :=
  ∀ (s : State) (x : Issue) (d : Operand) (n : Nat) (v : Nat → Nat),
    (∀ (r : BitVec 7) (i l : Nat), d = .v r → i < n → l ∈ x.lanes → tget ((s.lanesSet x d n v).gang x.key).vregs (x.gang.place r.toNat + i, l) = some (wordAt (v l) i)) ∧
    (∀ (r : BitVec 7) (a l : Nat), d = .v r → (l ∉ x.lanes ∨ a < x.gang.place r.toNat ∨ x.gang.place r.toNat + n ≤ a) →
      tget ((s.lanesSet x d n v).gang x.key).vregs (a, l) = tget (s.gang x.key).vregs (a, l)) ∧
    ((∀ r, d ≠ .v r) → ((s.lanesSet x d n v).gang x.key).vregs = (s.gang x.key).vregs) ∧
    (∀ (r : BitVec 6) (i : Nat), d = .s r → i < n → x.lanes ≠ [] → ((s.lanesSet x d n v).gang x.key).readS (r.toNat + i) = wordAt (v x.low) i) ∧
    (∀ (r : BitVec 6) (m : Nat), d = .s r → (m < r.toNat ∨ r.toNat + n ≤ m) → ((s.lanesSet x d n v).gang x.key).readS m = (s.gang x.key).readS m) ∧
    ((∀ r, d ≠ .s r) → ((s.lanesSet x d n v).gang x.key).sregs = (s.gang x.key).sregs) ∧
    (∀ (r : BitVec 4) (l : Nat), d = .p r → r ≠ 0 → l < 64 →
      (((s.lanesSet x d n v).gang x.key).readP r.toNat).getLsbD l = if l ∈ x.lanes then decide (v l % 2 = 1) else ((s.gang x.key).readP r.toNat).getLsbD l) ∧
    (∀ m : Nat, (∀ r : BitVec 4, d = .p r → r = 0 ∨ m ≠ r.toNat) → ((s.lanesSet x d n v).gang x.key).readP m = (s.gang x.key).readP m) ∧
    (∀ k, k ≠ x.key → (s.lanesSet x d n v).gang k = s.gang k) ∧
    { s.lanesSet x d n v with gangs := s.gangs } = s ∧
    { (s.lanesSet x d n v).gang x.key with vregs := (s.gang x.key).vregs, sregs := (s.gang x.key).sregs, preds := (s.gang x.key).preds } = s.gang x.key

/-- Two frames. Class VEC but for MOV on message registers, ELECT, GSR and WSTAT: beside the destination, the path and the clause slot, the step changes nothing of the state from which the effect
starts: no other register or lane, no other gang, no memory byte, no scratchpad, no special register, no trap state, no instruction in flight. Class SFU, the memory instructions with every lane's address
legal, TRD and TBQRY: one instruction in flight more, aimed at the destination, and translations cached; no register, no memory or scratchpad byte, no other gang's state; of the package, only the requests
that table walks send another one (R115, R118, R120, R273). -/
def Obligations.RegisterAndFlightFrames : Prop :=
  (∀ (s s1 t : State) (x : Issue) (i : Instr), i.isWord = true → (i.cls = 0 ∨ (∃ g d f, i = .elect g d f) ∨ (∃ g d r, i = .gsr g d r) ∨ ∃ g d w, i = .wstat g d w) →
    (∀ g a, i = .mov g a → (∀ n, a.d ≠ .mo n) ∧ ∀ n, a.s1 ≠ .reg (.mi n)) → s.ready i = some (x, s1) → exec i s = .next t →
    (∀ a l, (∀ d ∈ x.dests i, ∀ p n, d = .vec p n → l ∉ x.lanes ∨ a < p ∨ p + n ≤ a) → tget (t.gang x.key).vregs (a, l) = tget (s1.gang x.key).vregs (a, l)) ∧
    (∀ m, (∀ d ∈ x.dests i, ∀ p n, d = .scal p n → m < p ∨ p + n ≤ m) → (t.gang x.key).readS m = (s1.gang x.key).readS m) ∧
    (∀ m, (∀ d ∈ x.dests i, d ≠ .pred m) → (t.gang x.key).readP m = (s1.gang x.key).readP m) ∧
    { t.gang x.key with
      vregs := (s1.gang x.key).vregs, sregs := (s1.gang x.key).sregs, preds := (s1.gang x.key).preds, paths := (s1.gang x.key).paths } = s1.gang x.key ∧
    (∀ k, k ≠ x.key → t.gang k = s1.gang k) ∧ { t with gangs := s1.gangs, benches := s1.benches } = s1) ∧
  (∀ (s s1 t : State) (x : Issue) (i : Instr), s.ready i = some (x, s1) → exec i s = .next t →
    ((i.isWord = true ∧ i.cls = 5) ∨ (∃ g a, i = .trd g a) ∨ (∃ g a, i = .tbqry g a ∧ x.engineWait s1 (fun _ o => o.usesTable a.kt.toNat) = false) ∨
      ∃ m ls, i.memOp = some m ∧ s1.checkLanes x.key m ((if m.once then x.lanes.take 1 else x.lanes).map fun l => (l, x.address s1 m l)) = .ok ls) →
    { t.gang x.key with flights := (s1.gang x.key).flights, paths := (s1.gang x.key).paths } = s1.gang x.key ∧
    (∃ f, (t.gang x.key).flights = (s1.gang x.key).flights ++ [f] ∧ f.counter = i.counter ∧ f.dest = x.dests i) ∧
    (∀ k, k ≠ x.key → t.gang k = s1.gang k) ∧ (∀ c, (t.core c).scratch = (s1.core c).scratch) ∧
    { t with gangs := s1.gangs, benches := s1.benches, cores := s1.cores, seq := s1.seq, pkg := s1.pkg } = s1 ∧ { t.pkg with out := s1.pkg.out } = s1.pkg)

-- Class SFU and write-back

/-- Every instruction of class SFU puts each active lane's result in flight under its lookahead window, with no counter, for its RESULT_WRITEBACK to write (R118, R120). A special function rounds its exact
value once, to nearest even, and gives the special values of R328, R346 and R390. FRND keeps zeros and infinities and makes a NaN canonical (R353). CVT gives each lane the conversion of its own value,
or of its half's block (R334); DBFPK gives each lane its four bytes of its half's block, DBFUNPK its element of the block that its half's lanes hold (R336). A conversion that saturates in an
active lane, or in any half that forms a block, is noted with the result (R142). -/
def Obligations.SfuResultsStandInFlight : Prop :=
  (∀ (s s1 : State) (x : Issue) (g : Guard),
    (∀ (c : Guard → SfuArgs → Instr) (fn : SfuFn) (a : SfuArgs),
      (c = .rcp ∧ fn = .rcp) ∨ (c = .rsq ∧ fn = .rsq) ∨ (c = .sqrt ∧ fn = .sqrt) ∨ (c = .exp2 ∧ fn = .exp2) ∨ (c = .log2 ∧ fn = .log2) ∨
        (c = .sin ∧ fn = .sin) ∨ (c = .cos ∧ fn = .cos) ∨ (c = .tanh ∧ fn = .tanh) →
      s.ready (c g a) = some (x, s1) → exec (c g a) s = .next ((s1.inFlight x none a.la a.d 1
        (fun l => a.ty.fmt.rne (fn.apply (a.ty.fmt.decode (x.read s1 a.s1 1 (readAs3 a.ty) l % (2 * a.ty.fmt.signBit))))) false).advance x.key x.path.id)) ∧
    (∀ a : FrndArgs, s.ready (.frnd g a) = some (x, s1) → exec (.frnd g a) s = .next ((s1.inFlight x none a.la a.d 1
      (fun l => a.ty.fmt.integral a.rnd (x.read s1 a.s1 1 (readAs3 a.ty) l % (2 * a.ty.fmt.signBit))) false).advance x.key x.path.id)) ∧
    (∀ a : CvtArgs, s.ready (.cvt g a) = some (x, s1) →
      let met := if CvtForm.blocks a.form x.launch then (List.range (x.gang.width / 32)).map fun h => 32 * h else x.lanes
      exec (.cvt g a) s = .next ((s1.inFlight x none a.la a.d (CvtForm.dregs a.form) (fun l => (cvtLane a x s1 l).bits) (met.any fun l => (cvtLane a x s1 l).sat)).advance x.key x.path.id)) ∧
    (∀ a : DbfpkArgs, s.ready (.dbfpk g a) = some (x, s1) →
      let sl := x.launch.slot a.fs.toNat
      let blk (h : Nat) : DbfBlock := sl.dbfBlock ((List.range 32).map fun j => FloatFmt.fp32.decode (x.read s1 a.s1 1 .f32 (32 * h + j)))
      exec (.dbfpk g a) s = .next ((s1.inFlight x none a.la a.d 1 (fun l => leField ((blk (l / 32)).bytes (slotDbf sl.fmt)) (4 * (l % 32)) 4)
        ((List.range (x.gang.width / 32)).any fun h => (blk h).sat)).advance x.key x.path.id)) ∧
    (∀ a : DbfunpkArgs, s.ready (.dbfunpk g a) = some (x, s1) →
      let sl := x.launch.slot a.fs.toNat
      let v (l : Nat) : Rounded :=
        let blk := ((List.range 32).flatMap fun j => bytesOfNat 4 (x.read s1 a.s1 1 .int (l / 32 * 32 + j))).take (slotDbf sl.fmt).blockBytes
        a.dt.fmt.round a.rnd sl.sat (((slotDbf sl.fmt).readElement blk (l % 32)).mul sl.scaleOf)
      exec (.dbfunpk g a) s = .next ((s1.inFlight x none a.la a.d 1 (fun l => (v l).bits) (x.lanes.any fun l => (v l).sat)).advance x.key x.path.id))) ∧
  -- special values
  (∀ t : F3,
    let f := t.fmt
    let z := 0
    let mz := f.signBit
    let i := f.infinity
    let mi := f.signBit + f.infinity
    let one := f.bias * 2 ^ f.fbits
    let at' (fn : SfuFn) (n : Nat) : Nat := f.rne (fn.apply (f.decode n))
    (∀ fn n, (f.decode n).isNaN = true → at' fn n = f.nan) ∧
    (at' .rcp z = i ∧ at' .rcp mz = mi ∧ at' .rcp i = z ∧ at' .rcp mi = mz) ∧ (at' .rsq z = i ∧ at' .rsq mz = mi ∧ at' .rsq i = z ∧ at' .rsq mi = f.nan) ∧
    (at' .sqrt z = z ∧ at' .sqrt mz = mz ∧ at' .sqrt i = i ∧ at' .sqrt mi = f.nan) ∧ (at' .exp2 z = one ∧ at' .exp2 mz = one ∧ at' .exp2 i = i ∧ at' .exp2 mi = z) ∧
    (at' .log2 z = mi ∧ at' .log2 mz = mi ∧ at' .log2 i = i ∧ at' .log2 mi = f.nan ∧ at' .log2 one = z) ∧
    (at' .sin z = z ∧ at' .sin mz = mz ∧ at' .sin i = f.nan ∧ at' .sin mi = f.nan) ∧ (at' .cos z = one ∧ at' .cos mz = one ∧ at' .cos i = f.nan ∧ at' .cos mi = f.nan) ∧
    (at' .tanh z = z ∧ at' .tanh mz = mz ∧ at' .tanh i = one ∧ at' .tanh mi = mz + one) ∧
    (∀ n, (f.decode n).isNaN = false → (f.decode n).isZero = false → (f.decode n).negative = true → at' .rsq n = f.nan ∧ at' .sqrt n = f.nan ∧ at' .log2 n = f.nan) ∧
    (∀ rnd n, (f.decode n).isNaN = true → f.integral rnd n = f.nan) ∧
    ∀ rnd, f.integral rnd z = z ∧ f.integral rnd mz = mz ∧ f.integral rnd i = i ∧ f.integral rnd mi = mi) ∧
  -- conversions through a slot that forms no block (R149)
  (∀ (a : CvtArgs) (x : Issue) (s : State) (l : Nat),
    (∀ ty fs, a.form = .toSlot ty fs → fmtDbf (x.launch.slot fs.toNat).fmt = false →
      cvtLane a x s l = (x.launch.slot fs.toNat).encodeReg (ty.value (x.read s a.s1 ty.regs (readAsR ty) l))) ∧
    (∀ rnd ty fs, a.form = .fromSlot rnd ty fs →
      let sl := x.launch.slot fs.toNat
      cvtLane a x s l = ty.write rnd sl.sat ((sl.stored (x.read s a.s1 1 .int l)).mul sl.scaleOf)))

/-- RESULT_WRITEBACK writes the oldest known result of a gang, all its registers and lanes in one step, a lane that has exited left out (R118, R343); it ORs the result's saturation into NSTAT.SAT (R142),
counts the instruction as returned (R121) and merges the paths that now may. No other gang, memory byte or scratchpad changes; with no result to write nothing does. -/
def Obligations.ResultWritebackWritesOnce : Prop :=
  (∀ (s : State) (k : GangKey), (s.gang k).flights.find? Flight.writable = none → exec (.resultWriteback k) s = .next s) ∧
  (∀ (s : State) (k : GangKey) (f : Flight), (s.gang k).flights.find? Flight.writable = some f → (s.gang k).flights.find? (fun e => e.id = f.id) = some f →
    let w := (s.gang k).writeback f.id
    let t := (s.modGang k fun g => g.writeback f.id).mergePaths k
    exec (.resultWriteback k) s = .next t ∧ w.nstat = ((s.gang k).nstat || f.sat) ∧
      w.vregs = ((s.gang k).writeRegs (f.results.filter (s.gang k).wanted)).vregs ∧
      w.sregs = ((s.gang k).writeRegs (f.results.filter (s.gang k).wanted)).sregs ∧
      w.preds = ((s.gang k).writeRegs (f.results.filter (s.gang k).wanted)).preds ∧
      (∀ e ∈ w.flights, e.id = f.id → e.returned = true) ∧ (∀ e ∈ (s.gang k).flights, e.returned = false → e.id ≠ f.id → e ∈ w.flights) ∧
      ((∀ n ∈ w.nodes, w.nodeDone n = false) → t.gang k = w) ∧
      t.mem = s.mem ∧ t.cores = s.cores ∧ ∀ j, j ≠ k → t.gang j = s.gang j) ∧
  (∀ (g : Gang) (l a n : Nat) (v : Word) (b : Bool), (g.wanted (.vec a l v) = !g.exited.getLsbD l) ∧ (g.wanted (.pred n l b) = !g.exited.getLsbD l) ∧ g.wanted (.scal n v) = true)

-- Class MEM

/-- LD, LD.POLL, LDC, LDS, LDP, ST, STS, STP, ATOM, ATOMS, ATOMP, RED, CAS, CASS, CMNT.WB and CMNT.DROP: with every lane's address legal, the instruction's accesses stand in flight
in ascending lane order, LDC's one of the lowest active lane, its counter one higher, to be performed one by one (R118, R120, R308, R326, R366, R401). An address is the lane's base plus the offset
scaled by the width, in 64 bits, for LOCAL in 32 (R184, R308, R366). -/
def Obligations.MemoryInstructionsStandInFlight : Prop :=
  (∀ (g : Guard) (l : LoadArgs) (a : StoreArgs) (o : AtomArgs) (r : RedArgs) (c : CasArgs) (n : LineArgs) (i : Instr),
    i = .ld g l ∨ i = .ldPoll g l ∨ i = .ldc g l ∨ i = .lds g l ∨ i = .ldp g l ∨ i = .st g a ∨ i = .sts g a ∨ i = .stp g a ∨ i = .atom g o ∨ i = .atoms g o ∨ i = .atomp g o ∨
      i = .red g r ∨ i = .cas g c ∨ i = .cass g c ∨ i = .cmntWb g n ∨ i = .cmntDrop g n → i.memOp.isSome = true) ∧
  ∀ (s s1 : State) (x : Issue) (i : Instr) (m : MemOp) (ls : List (Nat × Nat × Loc)), i.memOp = some m → s.ready i = some (x, s1) →
    let addrs := (if m.once then x.lanes.take 1 else x.lanes).map fun l => (l, x.address s1 m l)
    let data := x.lanes.map fun l => (l, x.dataAt s1 m l)
    s1.checkLanes x.key m addrs = .ok ls →
    let s2 := if m.translated then s1.fillTlbs x.key (addrs.map Prod.snd) else s1
    let s3 := s2.addFlight x.key { x.flight s2.seq i.counter i.lookahead (x.dests i) with
        todo := ls.map fun e => ⟨e.1, e.2.1, e.2.2, i.accessOp (tgetD data e.1 0)⟩, lanes := if m.once then x.active else 0, slot := some ⟨s2.word, x.active, addrs, data, some s2.seq⟩ }
    exec i s = .next (s3.advance x.key x.path.id) ∧
    (∀ c, (s3.gang x.key).counter c = (s1.gang x.key).counter c + if i.counter = some c then 1 else 0) ∧
    (∀ l, (x.address s1 m l : Int) = if m.space = .local then ((x.read s1 m.ab 1 .int l : Int) + signedOf 11 m.off.toNat * m.w) % 2 ^ 32
      else ((x.read s1 m.ab 2 .int l : Int) + signedOf 11 m.off.toNat * m.w) % 2 ^ 64) ∧
    (ls.map (fun e => (e.1, e.2.1)) = addrs ∧ (addrs.map Prod.fst).Pairwise (· < ·)) ∧
    (m.once = true ↔ ∃ g a, i = .ldc g a)

/-- The same instructions with a lane whose address is not legal take one cause, the first of R189's and their entries' order that any lane met, with the lanes that met it; no lane accesses memory (R266,
R270). Every cause but DIE_FENCED is restartable: the instruction stands in flight for its replay, its path at the next word (R267). A LOCAL address is barred outside the team's allocation, then when it is no
multiple of the width (R182, R198). A PEER value needs zero bits, a core of the partition and an allocation there of a team of the context that holds the offset; then a die that is not fenced, then
alignment (R309, R368). DIE_FENCED is precise: it is raised at the word, with each such lane's address. What rests on the model's reading is in its log: offsets count from the scratchpad's start (log 42),
DATA_UNCORRECTABLE stands last in the order (log 45), an extent is tested by its first byte (log 46), and the allocation of a team that a fence tore down still counts (log 47). -/
def Obligations.MemoryFaultsAreRestartable : Prop :=
  (∀ (s s1 : State) (x : Issue) (i : Instr) (m : MemOp) (f : LaneFault), i.memOp = some m → s.ready i = some (x, s1) →
    let addrs := (if m.once then x.lanes.take 1 else x.lanes).map fun l => (l, x.address s1 m l)
    let data := x.lanes.map fun l => (l, x.dataAt s1 m l)
    s1.checkLanes x.key m addrs = .error f →
    (f.cause ≠ 0x61 → exec i s = .next (s1.memFault x i.lookahead (f.trap addrs data m.kind i.counter (x.dests i)))) ∧
    (f.cause = 0x61 → ∃ s0, s.issueOf i = some (x, s0) ∧ exec i s = .next (s0.takeTrap x.key { x.info ⟨0x61, 0, some f.mask, f.taddr, false⟩ x.path.pc with addrs := f.faulting })) ∧
    (∀ l va, (l, va) ∈ f.faulting ↔ (l, va) ∈ addrs ∧ ∃ e, s1.checkLane x.key m va = .error e ∧ e.cause = f.cause) ∧
    (∀ l va, (l, va) ∈ addrs → l < 64 → (f.mask.getLsbD l = true ↔ ∃ e, s1.checkLane x.key m va = .error e ∧ e.cause = f.cause)) ∧
    (∀ l va e, (l, va) ∈ addrs → s1.checkLane x.key m va = .error e → causeRank f.cause ≤ causeRank e.cause)) ∧
  (∀ (s : State) (k : GangKey) (m : MemOp) (va : Nat),
    (m.space = .local → s.checkLane k m va =
      if (s.team k.team).holds (s.grid (s.team k.team).grid).launch va = false then .error ⟨0x11, none⟩
      else if va % m.w ≠ 0 then .error ⟨0x14, none⟩ else .ok (.scratch (s.team k.team).core va)) ∧
    (m.space = .peer →
      let c := (s.team k.team).ctx
      let core := bitsAt va 32 11
      let off := va % 2 ^ 19
      let legal := bitsAt va 19 13 = 0 ∧ bitsAt va 43 21 = 0 ∧ (s.part c.part).ownsCore core = true ∧
        ((∃ e ∈ s.teams, e.2.ctx = c ∧ e.2.core = core ∧ e.2.res = .placed ∧ e.2.holds (s.grid e.2.grid).launch off = true) ∨
          ∃ e ∈ s.pkg.fencedTeams, e.ctx = c ∧ e.core = core ∧ e.base ≤ off ∧ off < e.base + e.size)
      (¬ legal → s.checkLane k m va = .error ⟨0x11, none⟩) ∧
      (legal → s.pkg.fenced.contains (dieOf core) = true → s.checkLane k m va = .error ⟨0x61, none⟩) ∧
      (legal → s.pkg.fenced.contains (dieOf core) = false → s.checkLane k m va = if va % m.w ≠ 0 then .error ⟨0x14, none⟩ else .ok (.scratch core off))))

/-- ACCESS_PERFORMED takes the next request of a memory instruction in flight: one lane, or of a RED the next lanes that one slice serves, applied in ascending order (R199, R200, R430). A load's result is
the value read, extended by SX (R366). A store's bytes stand at its address, low byte first, whole (R401). An atomic's word takes the operation's result, a compare-and-swap's its new value when the word
equals its comparand, and the lane's result is the old value, in a scratchpad, on a page or a host page (R307, R308, R324). CMNT leaves no dirty sector of the line, dropped under .DROP, and changes no value (R326).
Every other byte of memory, as the access's key domain reads it, and of every scratchpad is as before. -/
def Obligations.AccessesPerformed : Prop :=
  (∀ (s : State) (k : GangKey), exec (.accessPerformed k) s = .next (s.performLanes k (s.requestLanes k)) ∧
    ((s.gang k).nextAccess = none → exec (.accessPerformed k) s = .next s) ∧
    s.performLanes k 0 = s ∧ (∀ n, s.performLanes k (n + 1) = (s.performLane k).performLanes k n) ∧
    (∀ (f : Flight) (a : LaneAccess) (rest : List LaneAccess), (s.gang k).nextAccess = some f → f.todo = a :: rest →
      1 ≤ s.requestLanes k ∧ s.requestLanes k ≤ f.todo.length ∧ ((f.dest ≠ [] ∨ ∀ op ty v, a.op ≠ .atom op ty v) → s.requestLanes k = 1))) ∧
  -- one lane
  (∀ (s : State) (k : GangKey) (f : Flight) (a : LaneAccess) (rest : List LaneAccess), (s.gang k).nextAccess = some f → f.todo = a :: rest →
    let core := (s.gang k).core
    let t := s.performLane k
    let ends (v : Nat) : Prop := f.dest ≠ [] → ∃ e ∈ (t.gang k).flights, e.id = f.id ∧ e.todo = rest ∧ e.results = f.results ++ f.resultsOf (s.gang k) a v
    -- the bytes that change: w of them hold x when c says so, of a scratchpad, of a page and of the host
    let puts (c : Bool) (w x : Nat) : Prop :=
      (∀ d off, a.loc = .scratch d off → t.mem = s.mem ∧ ∀ d' b, (t.core d').scratch.read b =
        if c = true ∧ d' = d ∧ off ≤ b ∧ b < off + w then BitVec.ofNat 8 (x >>> (8 * (b - off))) else (s.core d').scratch.read b) ∧
      (∀ pa kd coh ra, a.loc = .mem pa kd coh ra → isHost pa = false → pa % w = 0 → s.copiesAgree core kd pa → (∀ d, (t.core d).scratch = (s.core d).scratch) ∧
        ∀ b, t.keyRead kd b = if c = true ∧ pa ≤ b ∧ b < pa + w then BitVec.ofNat 8 (x >>> (8 * (b - pa))) else s.keyRead kd b) ∧
      (∀ pa kd coh ra, a.loc = .mem pa kd coh ra → isHost pa = true → (∀ d, (t.core d).scratch = (s.core d).scratch) ∧
        ∀ b, t.mem.read b = if c = true ∧ pa ≤ b ∧ b < pa + w then BitVec.ofNat 8 (x >>> (8 * (b - pa))) else s.mem.read b)
    -- the word as it stands: in the scratchpad, on the host's page, or through the key domain
    let stands (v w : Nat) : Prop :=
      (∀ d off, a.loc = .scratch d off → v = (s.core d).scratch.readN off w) ∧
      (∀ pa kd coh ra, a.loc = .mem pa kd coh ra → isHost pa = true → v = s.mem.readN pa w) ∧
      (∀ pa kd coh ra, a.loc = .mem pa kd coh ra → isHost pa = false → v = s.keyReadN kd pa w)
    (∀ w sx poll ch, a.op = .load w sx poll ch → w ∈ [1, 2, 4, 8, 16] →
      let v := (s.loadLoc k core a.loc w poll ch ((s.gang k).threadsOf k f a)).2
      ends v ∧ puts false w 0 ∧ ((∀ pa kd coh ra, a.loc = .mem pa kd coh ra → coh < 2) → stands v w) ∧
      accessValue a v = if w < 4 ∧ sx = true then (signedOf (8 * w) v % 2 ^ 32).toNat else v) ∧
    (∀ w v ch, a.op = .store w v ch → w ∈ [1, 2, 4, 8, 16] → puts true w v) ∧
    (∀ op ty v, a.op = .atom op ty v → ∃ old, ((∀ pa kd coh ra, a.loc = .mem pa kd coh ra → isHost pa = false → s.copiesAgree core kd pa) → stands old (if ty.regs = 2 then 8 else 4)) ∧ ends old ∧
      puts true (if ty.regs = 2 then 8 else 4) (atomResult op ty old v)) ∧
    (∀ w cmp new, a.op = .cas w cmp new → w ∈ [4, 8] → ∃ old, ((∀ pa kd coh ra, a.loc = .mem pa kd coh ra → isHost pa = false → s.copiesAgree core kd pa) → stands old w) ∧ ends old ∧
      puts (decide (old = cmp % 2 ^ (8 * w))) w new) ∧
    (∀ drop, a.op = .maint drop → puts false 1 0 ∧
      ∀ pa kd coh ra, a.loc = .mem pa kd coh ra → isHost pa = false → (∀ n ∈ (t.core core).dirty, n / 4 ≠ lineOf pa) ∧
        (drop = true → ∀ e ∈ (t.core core).l1, e.1 / 4 ≠ lineOf pa)))

/-- PREF.L1 fills the lines that its lanes name where a load could, changes no byte as its key domain reads it and never faults; PREF.LLC fills a slice, which no state shows (R385). A FENCE goes on when its condition holds, the ENG
kinds then seeing what the engines wrote (R212, R215), and else holds its path until it does (R212). -/
def Obligations.PrefetchAndFence : Prop :=
  ∀ (s s1 : State) (x : Issue) (g : Guard),
    (∀ a : LineArgs, s.ready (.prefL1 g a) = some (x, s1) →
      exec (.prefL1 g a) s = .next ((x.lanes.foldl (fun t l => t.prefetch x.key (x.address t a.memOp l)) s1).advance x.key x.path.id)) ∧
    (∀ (t : State) (k : GangKey) (va : Nat), (∀ c, ((t.prefetch k va).core c).scratch = (t.core c).scratch) ∧
      (∀ pa kd coh ra, t.translate (t.team k.team).ctx (some (t.gang k).core) .load none va = .ok (.mem pa kd coh ra) → t.copiesAgree (t.gang k).core kd pa →
        ∀ b, (t.prefetch k va).keyRead kd b = t.keyRead kd b) ∧
      (∀ pa kd coh ra, t.translate (t.team k.team).ctx (some (t.gang k).core) .load none va = .ok (.mem pa kd coh ra) → packageOf pa ≠ t.pkg.pkgid → t.prefetch k va = t) ∧
      ∀ e, t.translate (t.team k.team).ctx (some (t.gang k).core) .load none va = .error e → t.prefetch k va = t) ∧
    (∀ a : LineArgs, s.ready (.prefLlc g a) = some (x, s1) → exec (.prefLlc g a) s = .next (s1.advance x.key x.path.id)) ∧
    (∀ (i : Instr) (kinds : Nat), (i = .fenceRepl g ∧ kinds = 1) ∨ (i = .fenceHost g ∧ kinds = 2) ∨ (i = .fenceEng g ∧ kinds = 4) ∨ (i = .fenceAll g ∧ kinds = 7) →
      s.ready i = some (x, s1) →
      (s1.fenceMet x.key kinds = true → exec i s = .next ((if kinds < 4 then s1 else s1.observe x.key).advance x.key x.path.id)) ∧
      (s1.fenceMet x.key kinds = false → ∃ s0, s.issueOf i = some (x, s0) ∧ exec i s = .next (s0.hold x.key x.path.id (.fence kinds)))) ∧
    -- what each kind waits for
    (∀ (t : State) (k : GangKey),
      (t.fenceMet k 7 = (t.fenceMet k 1 && t.fenceMet k 2 && t.fenceMet k 4)) ∧
      (t.fenceMet k 1 = true → (∀ e ∈ t.lags, e.gang ≠ some k) ∧
        ∀ f ∈ (t.gang k).flights, ∀ a ∈ f.todo, a.op.writes = true → ∀ pa kd ra, a.loc ≠ .mem pa kd 3 ra) ∧
      (t.fenceMet k 2 = true → ∀ f ∈ (t.gang k).flights, ∀ a ∈ f.todo, ∀ pa kd coh ra, a.loc = .mem pa kd coh ra → isHost pa = false) ∧
      (t.fenceMet k 4 = true → (∀ e ∈ t.jobs, e.2.gang = some k → e.2.kind.isRequest = true) ∧ t.fetching k = false))

/-- QPUSH, QPOP and QPOP.WAIT act at the issue, behind every earlier access of the gang, once every lane's descriptor and element pass R387's checks; else they fault with no lane's action, the first cause of R387's order that any lane meets, each lane
of that cause with the address that met it. The active lanes
act one after another in ascending order (R387): a push stores its data at the tail and raises it, a pop reads the element at the head and raises it, one without room or element changes no byte (R237).
Each lane's predicate says whether it acted, and a popped element goes to its registers. A QPOP.WAIT that lacks elements writes what it popped and parks for the rest, or, with 64 paths
waiting, gives the rest false and is demoted (R238). -/
def Obligations.QueueOperations : Prop :=
  (∀ (s s1 : State) (x : Issue) (g : Guard) (a : QueueArgs) (i : Instr) (o : QueueOp),
    (i = .qpush g a ∧ o = pushOp a) ∨ (i = .qpop g a ∧ o = popOp false a) ∨ (i = .qpopWait g a ∧ o = popOp true a) → s.ready i = some (x, s1) →
    let s2 := s1.catchUp x.key
    let addrs := (queueActive o x).map fun l => (l, x.read s2 o.ab 2 .int l)
    let data := (queueActive o x).map fun l => (l, if o.push then x.read s2 o.data o.regs .int l else 0)
    let r := (s2.fillTlbs x.key (addrs.map Prod.snd)).queueRun x.key o data o.wait addrs
    let d := (o.dests x.gang).1
    let pq := (o.dests x.gang).2
    (∀ f, s2.checkQueues x.key o addrs = some f → f.cause ≠ 0x61 ∧ exec i s = .next (s1.memFault x a.la (f.trap addrs data .atomic (some .ld) (queueList o d pq)))) ∧
    (s2.checkQueues x.key o addrs = none → (o.wait = false ∨ r.2.map Prod.fst = queueActive o x) →
      exec i s = .next ((r.1.addResult x (some .ld) a.la (queueList o d pq) (scalarOnce d (queueWrites o d pq r.2)) false).advance x.key x.path.id)) ∧
    (∀ l rest, s2.checkQueues x.key o addrs = none → (queueActive o x).filter (fun l => !(r.2.any fun e => e.1 = l)) = l :: rest →
      (r.1.queueWaiters (r.1.queuePa x.key (tgetD addrs l 0)) < 64 →
        exec i s = .next (r.1.queueWait x.key x.path.id (if x.path.since = 0 then r.1.seq else x.path.since) (r.1.queuePa x.key (tgetD addrs l 0))
          (maskOf (l :: rest)) (scalarOnce d (queueWrites o d pq r.2)))) ∧
      (64 ≤ r.1.queueWaiters (r.1.queuePa x.key (tgetD addrs l 0)) →
        exec i s = .next (((r.1.addResult x (some .ld) a.la (queueList o d pq)
          (scalarOnce d (queueWrites o d pq r.2) ++ (l :: rest).flatMap fun l => pq.writes l 0) false).advance x.key x.path.id).demote x.key x.path.id)))) ∧
  -- the lanes, in ascending order, each from the state the one before it left
  (∀ (o : QueueOp) (x : Issue), (queueActive o x).Pairwise (· < ·) ∧ (o.wait = false → queueActive o x = x.lanes)) ∧
  (∀ (s : State) (k : GangKey) (o : QueueOp) (data : Tbl Nat Nat) (stop : Bool) (l va : Nat) (rest : Tbl Nat Nat),
    let one := s.queueLane k o l va (tgetD data l 0)
    s.queueRun k o data stop [] = (s, []) ∧
    (stop = true → one.2.1 = false → s.queueRun k o data stop ((l, va) :: rest) = (one.1, [])) ∧
    (stop = false ∨ one.2.1 = true → s.queueRun k o data stop ((l, va) :: rest) =
      ((one.1.queueRun k o data stop rest).1, (l, one.2) :: (one.1.queueRun k o data stop rest).2))) ∧
  -- one lane's push or pop
  (∀ (s : State) (k : GangKey) (o : QueueOp) (lane va v : Nat) (l : Loc) (q : QueueDesc),
    let c := (s.team k.team).ctx
    let core := (s.gang k).core
    let ts := [(s.gang k).threadAt k lane]
    let one := s.queueLane k o lane va v
    s.translate c (some core) .atomic none va = .ok l → (s.queueAt l).2 = some q →
    ((o.push = true ∧ q.capacity ≤ q.count) ∨ (o.push = false ∧ q.count = 0) → one.2.1 = false ∧ (∀ e, (one.1.core e).scratch = (s.core e).scratch) ∧
      ∀ pa kd coh ra, l = .mem pa kd coh ra → s.copiesAgree core kd pa → ∀ b, one.1.keyRead kd b = s.keyRead kd b) ∧
    (∀ e, o.push = true → q.count < q.capacity → s.translate c (some core) .store none (q.elem q.tail) = .ok e → one.2.1 = true ∧
      one.1 = (((((s.beforeAtomic core l 24 ts).queueStore k core e o.w v ts).queueStore k core (l.plus 20) 4 ((q.tail + 1) % 2 ^ 32) ts).sliceTouch k core l ts).progress k).wakeQueue l.pa) ∧
    (∀ e, o.push = false → q.count ≠ 0 → s.translate c (some core) .load none (q.elem q.head) = .ok e → one.2.1 = true ∧
      ∀ pa kd coh ra pa' kd' coh' ra', l = .mem pa kd coh ra → e = .mem pa' kd' coh' ra' → s.copiesAgree core kd pa → s.copiesAgree core kd' pa' → one.2.2 = s.homeRead e o.w)) ∧
  (∀ (s : State) (k : GangKey) (core : Nat) (pa kd coh w v b : Nat) (ra : Bool) (ts : List ThreadKey), isHost pa = false → w ∈ [4, 8, 16] → pa % w = 0 → s.copiesAgree core kd pa →
    (s.queueStore k core (.mem pa kd coh ra) w v ts).keyRead kd b =
    if pa ≤ b ∧ b < pa + w then BitVec.ofNat 8 (v >>> (8 * (b - pa))) else s.keyRead kd b) ∧
  -- what the lanes that acted write
  (∀ (o : QueueOp) (d pq : Dest) (l n : Nat) (ok : Bool) (rs : List (Nat × Bool × Nat)), queueWrites o d pq ((l, ok, n) :: rs) =
    (if o.push = false ∧ ok = true then d.writes l n else []) ++ pq.writes l (if ok then 1 else 0) ++ queueWrites o d pq rs)

-- Class MAT and the engine's steps

/-- MMAD, LUTMM, TBUILD, AZERO and TBINV enter the queue of their engine, the leader's for a pair form (R154, R371, R374, R405, R310, R402). First, before the paths meet, a pair form outside a pair's leader
core traps PAIR_ROLE, and a wrong barrier operand its cause. Then, without leave for the units of R259 the gang asks (R178); with a full queue or barrier the word waits, its leave held; else the operation
stands last in the queue, its handle's operand bytes added to the barrier's (R163). A LUTMM that may start at once has its tables checked, and it starts or traps TABLE_STALE with nothing queued; else the
path is held until the check (R171). -/
def Obligations.EngineOperationsEnterTheQueue : Prop :=
  (∀ (s : State) (x : Issue) (g : Guard) (i : Instr) (pr : Bool) (bs : Option Operand),
    ((∃ a : MmadArgs, i = .mmad g a ∧ pr = a.pr ∧ bs = some a.bs) ∨ (∃ a : LutmmArgs, i = .lutmm g a ∧ pr = a.pr ∧ bs = some a.bs) ∨
      (∃ a : TbuildArgs, i = .tbuild g a ∧ pr = a.pr ∧ bs = some a.bs) ∨ (∃ ac, i = .azero g pr ac ∧ bs = none) ∨ (∃ kt, i = .tbinv g pr kt ∧ bs = none)) →
    s.issuing i.guard = some x → x.illegal i = none → x.stalled i = false → x.active ≠ 0 →
    (x.pairRole pr = true → exec i s = .next (s.raise x (.of 0x31))) ∧
    (∀ c, x.pairRole pr = false → x.jobNames s bs none = .error c → exec i s = .next (s.raise x c))) ∧
  (∀ (x : Issue) (s : State) (b : Operand), (x.pairRole true = true ↔ x.team.pair = false ∨ x.gang.core ≠ x.team.core) ∧ x.pairRole false = false ∧
    let o := x.once s b 1
    x.jobNames s (some b) none =
      if o % 16 ≠ 0 then .error (.of 0x39) else if x.team.holds x.launch o = false then .error (.of 0x11) else .ok (some (x.team.core, o), none)) ∧
  (∀ (s s1 : State) (x : Issue) (g : Guard) (i : Instr) (k : EngineKind) (pr : Bool) (bs : Option Operand),
    ((∃ a : MmadArgs, i = .mmad g a ∧ pr = a.pr ∧ bs = some a.bs ∧
        k = .mmad a.ac.toNat a.ta.toNat a.tb.toNat a.fa.toNat a.fb.toNat (x.handleOf s1 a.hb a.hs)) ∨
      (∃ a : LutmmArgs, i = .lutmm g a ∧ pr = a.pr ∧ bs = some a.bs ∧
        k = .lutmm a.ac.toNat a.kt.toNat a.tb.toNat a.fa.toNat a.fb.toNat (x.handleOf s1 a.hb a.hs)) ∨
      (∃ a : TbuildArgs, i = .tbuild g a ∧ pr = a.pr ∧ bs = some a.bs ∧ k = .tbuild a.kt.toNat a.ta.toNat a.fa.toNat a.fb.toNat a.kq.toNat) ∨
      (∃ ac, i = .azero g pr ac ∧ bs = none ∧ k = .azero ac.toNat) ∨ (∃ kt, i = .tbinv g pr kt ∧ bs = none ∧ k = .tbinv kt.toNat)) →
    s.ready i = some (x, s1) →
    let core := x.queueCore pr
    let units := (if pr then 8 else 4) * s1.leaveUnits x.launch x.key.team core (if pr then 8 else 4) k
    let left := if k.handle.isSome then 4 * k.quarterBytes x.launch else 0
    let own := x.ownCharge s1 k.opcode
    (∀ (bar : Option (Nat × Nat)), x.pairRole pr = false → x.jobNames s1 bs none = .ok (bar, none) → units ≠ 0 → s1.leaveNow x.key units own = none →
      ∃ s0, s.issueOf i = some (x, s0) ∧ exec i s = .next (s0.askLeave x.key units)) ∧
    (∀ (bar : Option (Nat × Nat)), x.pairRole pr = false → x.jobNames s1 bs none = .ok (bar, none) → (4 ≤ (s1.core core).engine.queue.length ∨ s1.bytesFull bar left = true) →
      (units = 0 ∨ s1.leaveNow x.key units own ≠ none) →
      ∃ s0, s.issueOf i = some (x, s0) ∧ exec i s = .next (s0.waitWord x (if units = 0 ∨ (s1.gang x.key).leave = .granted then none else some units))) ∧
    (∀ (bar : Option (Nat × Nat)) (s2 : State), x.pairRole pr = false → x.jobNames s1 bs none = .ok (bar, none) →
      (s1.core core).engine.queue.length < 4 → s1.bytesFull bar left = false → (units = 0 ∧ s2 = s1 ∨ units ≠ 0 ∧ s1.leaveNow x.key units own = some s2) →
      let s3 := s2.catchUp x.key
      let s4 := match bar with | some (c, off) => s3.addBytes c off left | none => s3
      let sq := s4.enqueue core (x.engineOp k pr bar s4.seq left)
      (sq.core core).engine.queue = (s4.core core).engine.queue ++ [x.engineOp k pr bar s4.seq left] ∧
      ((∀ a, i ≠ .lutmm g a) → exec i s = .next (sq.advance x.key x.path.id)) ∧
      ((∃ a, i = .lutmm g a) →
        (∀ o, sq.startable core = some o → o.order + 1 = sq.seq → sq.tableOk core o = true → exec i s = .next ((sq.startOp core o).advance x.key x.path.id)) ∧
        (∀ o, sq.startable core = some o → o.order + 1 = sq.seq → sq.tableOk core o = false → ∃ s0, s.issueOf i = some (x, s0) ∧ exec i s = .next (s0.raise x (.of 0x30))) ∧
        (sq.startable core = none ∨ (∃ o, sq.startable core = some o ∧ o.order + 1 ≠ sq.seq) → exec i s = .next (sq.hold x.key x.path.id .check))))) ∧
  -- what the check asks
  (∀ (t : State) (c kt fa fb ac tb : Nat) (h : Option (Nat × Nat)) (o : EngineOp) (u : Team), o.kind = .lutmm ac kt tb fa fb h → o.fault = false → tget t.teams o.gang.team = some u →
    (t.tableOk c o = true ↔ ∀ b, b < o.benches →
      let r := tgetD u.records (u.baseSpan c + b, kt) .empty
      (r.st = .valid ∨ r.st = .lost) ∧ r.fa = fa ∧ r.fb = fb))

/-- ACCRD, TRD, TBQRY and MENGQ put what they read at issue in flight under counter SP, in every active lane; ACCWR and TWR write each active lane's element or word and stand in SP until they return
(R305, R372, R403, R413). ACCRD and ACCWR, TWR and TBQRY wait for the engine operations that R176 names; ACCRD of a poisoned accumulator traps ACC_POISON (R175), MENGQ of a solo team's other core PAIR_ROLE (R372). -/
def Obligations.EngineRegistersReadAndWritten : Prop :=
  ∀ (s s1 : State) (x : Issue) (g : Guard),
    (∀ (i : Instr) (f : Nat → EngineOp → Bool),
      ((∃ a, (i = .accrd g a ∨ i = .accwr g a) ∧ f = fun c o => o.covers (s1.team x.key.team) c x.span && o.kind.writesAcc a.ac.toNat) ∨
        (∃ a, i = .twr g a ∧ f = fun c o => o.covers (s1.team x.key.team) c x.span && o.readsTile (s1.team x.key.team) c x.span a.ta.toNat) ∨
        (∃ a, i = .tbqry g a ∧ f = fun _ o => o.usesTable a.kt.toNat)) →
      s.ready i = some (x, s1) → x.engineWait s1 f = true → ∃ s0, s.issueOf i = some (x, s0) ∧ exec i s = .next (s0.waitWord x none)) ∧
    (∀ a : AccArgs, s.ready (.accrd g a) = some (x, s1) → x.engineWait s1 (fun c o => o.covers (s1.team x.key.team) c x.span && o.kind.writesAcc a.ac.toNat) = false →
      let t := s1.team x.key.team
      let v (l : Nat) : Rounded := (x.launch.slot a.fa.toNat).encodeReg (FloatFmt.fp32.decode (t.accs.readN (x.span * 2 ^ 14 + a.ac.toNat * 2 ^ 12 + 4 * (64 * a.row.toNat + (16 * a.cb.toNat + l))) 4))
      (t.poison.contains (x.span, a.ac.toNat) = false →
        exec (.accrd g a) s = .next ((s1.inFlight x (some .sp) a.la a.r 1 (fun l => (v l).bits) (x.lanes.any fun l => (v l).sat)).advance x.key x.path.id)) ∧
      (t.poison.contains (x.span, a.ac.toNat) = true → ∃ s0, s.issueOf (.accrd g a) = some (x, s0) ∧ exec (.accrd g a) s = .next (s0.raise x (.of 0x32)))) ∧
    (∀ a : AccArgs, s.ready (.accwr g a) = some (x, s1) → x.engineWait s1 (fun c o => o.covers (s1.team x.key.team) c x.span && o.kind.writesAcc a.ac.toNat) = false →
      let sl := x.launch.slot a.fa.toNat
      let v (l : Nat) : Rounded := FloatFmt.fp32.round .rn sl.sat (sl.real (x.read s1 a.r 1 .int l))
      ∃ t : State, exec (.accwr g a) s = .next ((t.addResult x (some .sp) 0 [] [] (x.lanes.any fun l => (v l).sat)).advance x.key x.path.id) ∧
        t.teams = (s1.modTeam x.key.team fun t => { t with
          accs := x.lanes.foldl (fun m l => m.writeN (x.span * 2 ^ 14 + a.ac.toNat * 2 ^ 12 + 4 * (64 * a.row.toNat + (16 * a.cb.toNat + l))) 4 (v l).bits) t.accs }).teams ∧
        t.gangs = s1.gangs ∧ t.mem = s1.mem ∧ (∀ c, (t.core c).scratch = (s1.core c).scratch) ∧ ∀ c, (t.core c).engine.queue = (s1.core c).engine.queue) ∧
    (∀ a : TileArgs, s.ready (.trd g a) = some (x, s1) →
      exec (.trd g a) s = .next ((s1.inFlight x (some .sp) a.la a.r 1 (fun l => (s1.team x.key.team).tiles.readN (x.tileByte a l) 4) false).advance x.key x.path.id)) ∧
    (∀ a : TileArgs, s.ready (.twr g a) = some (x, s1) →
      x.engineWait s1 (fun c o => o.covers (s1.team x.key.team) c x.span && o.readsTile (s1.team x.key.team) c x.span a.ta.toNat) = false →
      ∃ t : State, exec (.twr g a) s = .next ((t.addResult x (some .sp) 0 [] [] false).advance x.key x.path.id) ∧
        t.teams = ((s1.modTeam x.key.team fun t => { t with tiles := x.lanes.foldl (fun m l => m.writeN (x.tileByte a l) 4 (x.read s1 a.r 1 .int l)) t.tiles }).tileWritten
          x.key.team x.span a.ta.toNat).teams ∧
        t.gangs = s1.gangs ∧ t.mem = s1.mem ∧ (∀ c, (t.core c).scratch = (s1.core c).scratch) ∧ ∀ c, (t.core c).engine.queue = (s1.core c).engine.queue) ∧
    (∀ (a : TileArgs) (l : Nat), x.tileByte a l = x.span * 2 ^ 16 + a.ta.toNat * 2 ^ 13 + 128 * (a.row.toNat + l / 32) + 4 * (l % 32)) ∧
    (∀ a : TbqryArgs, s.ready (.tbqry g a) = some (x, s1) → x.engineWait s1 (fun _ o => o.usesTable a.kt.toNat) = false →
      exec (.tbqry g a) s = .next ((s1.inFlight x (some .sp) a.la a.d 1
        (fun _ => (tgetD (s1.team x.key.team).records (a.bench.toNat, a.kt.toNat) .empty).word) false).advance x.key x.path.id)) ∧
    (∀ a : MengqArgs, s.ready (.mengq g a) = some (x, s1) →
      (a.pr = true → x.team.pair = false → ∃ s0, s.issueOf (.mengq g a) = some (x, s0) ∧ exec (.mengq g a) s = .next (s0.raise x (.of 0x31))) ∧
      (a.pr = true → x.team.pair = true → exec (.mengq g a) s = .next ((s1.inFlight x (some .sp) a.la a.d 1
        (fun _ => s1.figure x.key.team (if x.gang.core = x.team.core then x.team.core + 1 else x.team.core) a.query.toNat) false).advance x.key x.path.id)) ∧
      (a.pr = false → exec (.mengq g a) s = .next ((s1.inFlight x (some .sp) a.la a.d 1 (fun _ => s1.figure x.key.team x.gang.core a.query.toNat) false).advance x.key x.path.id)))

/-- The engine's own steps: a pair at the head of its leader's queue slaves a free follower (R156); the operation at the head starts when it may (R154), or leaves the queue with TABLE_STALE (R171); a
handle's operand lands whole (R163), or its fetch fails when the slot no longer held the handle's generation or the size is wrong, and a fault of an operand byte stops or pauses the fetch (R163, R227, R274);
the running operation retires (R173), and without one nothing happens. -/
def Obligations.EngineStepsAct : Prop :=
  ∀ (s : State) (core : Nat),
    (core % 2 = 0 → (s.core core).engine.running = none → (s.core core).engine.slaved = false → (∃ o q, (s.core core).engine.queue = o :: q ∧ o.pair = true) →
      (s.core (core + 1)).engine.running = none → (s.core (core + 1)).engine.slaved = false →
      ∃ t, exec (.engineSlave core) s = .next t ∧ (t.core (core + 1)).engine = { (s.core (core + 1)).engine with slaved := true } ∧
        (∀ c, c ≠ core + 1 → t.core c = s.core c) ∧ { t with cores := s.cores } = s) ∧
    (∀ o, s.startable core = some o → s.tableOk core o = true → ∃ t, exec (.engineOpStart core) s = .next t ∧ t = s.startOp core o ∧
      (t.core core).engine.queue = (s.core core).engine.queue.tail ∧ ∃ r, (t.core core).engine.running = some r ∧ { r with touched := o.touched } = o) ∧
    (∀ o, s.startable core = some o → s.tableOk core o = false → exec (.engineOpStart core) s = .next (s.staleTrap core o)) ∧
    (s.startable core = none → exec (.engineOpStart core) s = .next s) ∧
    ((s.core core).engine.queue.find? (fun o => !o.landed && o.paused.isNone) = none → exec (.handleFetch core) s = .next s) ∧
    (∀ o slot gen, (s.core core).engine.queue.find? (fun o => !o.landed && o.paused.isNone) = some o → o.kind.handle = some (slot, gen) →
      let q := o.kind.quarterBytes (s.grid (s.team o.gang.team).grid).launch
      (∀ h m, o.operand q = some h → s.handleBytes core o h q (4 * q) [] = .ok m → exec (.handleFetch core) s = .next ((s.askHandle core o h q).landFetch core o m)) ∧
      (∀ h va f, o.operand q = some h → s.handleBytes core o h q (4 * q) [] = .error (va, f) → exec (.handleFetch core) s = .next (s.faultFetch core o va f)) ∧
      (o.operand q = none → exec (.handleFetch core) s = .next (s.failFetch core o)) ∧
      (∀ h, o.operand q = some h ↔ o.desc = some h ∧ h.desc.rows * h.desc.cols = 4 * q ∧ q ≠ 0)) ∧
    (∀ (x : Issue) (k : EngineKind) (pr : Bool) (bar : Option (Nat × Nat)) (order left slot gen : Nat) (h : Handle), k.handle = some (slot, gen) →
      ((x.engineOp k pr bar order left).desc = some h ↔ tget x.team.handles slot = some h ∧ h.gen = gen)) ∧
    (∀ o, (s.core core).engine.running = some o → exec (.engineOpRetire core) s = .next (s.retireOp core o)) ∧
    ((s.core core).engine.running = none → exec (.engineOpRetire core) s = .next s)

/-- What an operation leaves in its benches: AZERO zeros and no poison (R175, R310); MMAD and LUTMM every element of their accumulator as R150's blocks add to it, each block's exact
sum of products or of selected entries rounded once with the scales' product and once more in the sum (R162, R168, R374); TBINV an EMPTY record (R402); TBUILD its table's 32 KiB, entry by entry (R165, R166),
and a VALID record of its source, FA, FB and KQ, STALE when the tile was written meanwhile (R169, R170), and on a bench that a hardware error has hit an EMPTY one (R405). An accumulator
that was poisoned, or that a hardware error has hit, stays as it is and is poisoned, the first recorded as ACC_POISON (R175). -/
def Obligations.EngineOperationLeaves : Prop :=
  (∀ (o : EngineOp) (t0 t : Team) (g : Grid) (base b : Nat) (errs : List Err),
    let u := (o.bench t0 g base b t errs).1
    let hit := o.errs.any fun e => e.bench = b
    (∀ ac, o.kind = .azero ac → ac < 4 →
      u.poison.contains (base + b, ac) = false ∧ { u with accs := t.accs, poison := t.poison } = t ∧
      ∀ a, u.accs.read a = if (base + b) * 2 ^ 14 + ac * 2 ^ 12 ≤ a ∧ a < (base + b) * 2 ^ 14 + (ac + 1) * 2 ^ 12 then 0 else t.accs.read a) ∧
    (∀ ac ta tb fa fb h, o.kind = .mmad ac ta tb fa fb h → ac < 4 → hit = false → t.poison.contains (base + b, ac) = false →
      { u with accs := t.accs } = t ∧ (o.bench t0 g base b t errs).2 = errs ∧
      (∀ r j, r < 16 → j < 64 → u.accs.readN ((base + b) * 2 ^ 14 + ac * 2 ^ 12 + 4 * (64 * r + j)) 4 =
        o.dense t0 (g.launch.slot fa) (g.launch.slot fb) base (base + b) ta tb r j (t0.accs.readN ((base + b) * 2 ^ 14 + ac * 2 ^ 12 + 4 * (64 * r + j)) 4) % 2 ^ 32) ∧
      ∀ a, ¬((base + b) * 2 ^ 14 + ac * 2 ^ 12 ≤ a ∧ a < (base + b) * 2 ^ 14 + (ac + 1) * 2 ^ 12) → u.accs.read a = t.accs.read a) ∧
    (∀ ac kt tb fa fb h, o.kind = .lutmm ac kt tb fa fb h → ac < 4 → hit = false → t.poison.contains (base + b, ac) = false →
      { u with accs := t.accs } = t ∧ (o.bench t0 g base b t errs).2 = errs ++ o.rangeErrs t0 (g.launch.slot fb) base tb b ∧
      (∀ r j, r < 16 → j < 64 → u.accs.readN ((base + b) * 2 ^ 14 + ac * 2 ^ 12 + 4 * (64 * r + j)) 4 =
        o.lookup t0 (g.launch.slot fa) (g.launch.slot fb) base (base + b) kt tb r j (t0.accs.readN ((base + b) * 2 ^ 14 + ac * 2 ^ 12 + 4 * (64 * r + j)) 4) % 2 ^ 32) ∧
      ∀ a, ¬((base + b) * 2 ^ 14 + ac * 2 ^ 12 ≤ a ∧ a < (base + b) * 2 ^ 14 + (ac + 1) * 2 ^ 12) → u.accs.read a = t.accs.read a) ∧
    (∀ ac kt tb fa fb h, o.kind = .lutmm ac kt tb fa fb h → (hit = true ∨ t.poison.contains (base + b, ac) = true) →
      u.accs = t.accs ∧ u.poison.contains (base + b, ac) = true ∧
      (o.bench t0 g base b t errs).2 = (if t.poison.contains (base + b, ac) then errs ++ [⟨0x05, b, 0, 0⟩] else errs) ++ o.rangeErrs t0 (g.launch.slot fb) base tb b) ∧
    (∀ ac ta tb fa fb h, o.kind = .mmad ac ta tb fa fb h → (hit = true ∨ t.poison.contains (base + b, ac) = true) →
      u.accs = t.accs ∧ u.poison.contains (base + b, ac) = true ∧
      (o.bench t0 g base b t errs).2 = if t.poison.contains (base + b, ac) then errs ++ [⟨0x05, b, 0, 0⟩] else errs) ∧
    (∀ kt, o.kind = .tbinv kt → tget u.records (base + b, kt) = none ∧ { u with records := t.records } = t ∧ ∀ q, q ≠ (base + b, kt) → tget u.records q = tget t.records q) ∧
    (∀ kt ta fa fb kq, o.kind = .tbuild kt ta fa fb kq → hit = false →
      tget u.records (base + b, kt) = some ⟨if o.touched.contains (base + b) then .stale else .valid, ta, fa, fb, kq⟩ ∧ { u with records := t.records, tables := t.tables } = t ∧
      (let f := (g.launch.slot fb).fmt
      ∀ r n e, r < 16 → n < lutGroups f → e < lutEntries f → u.tables.readN ((base + b) * 2 ^ 17 + kt * 2 ^ 15 + 4 * ((r * lutGroups f + n) * lutEntries f + e)) 4 =
        buildEntry t0 g (g.launch.slot fa) (g.launch.slot fb) (base + b) ta fb kq r n e % 2 ^ 32) ∧
      ∀ a, ¬((base + b) * 2 ^ 17 + kt * 2 ^ 15 ≤ a ∧ a < (base + b) * 2 ^ 17 + (kt + 1) * 2 ^ 15) → u.tables.read a = t.tables.read a) ∧
    (∀ kt ta fa fb kq, o.kind = .tbuild kt ta fa fb kq → hit = true → tget u.records (base + b, kt) = none ∧ { u with records := t.records } = t)) ∧
  -- R150: S once, and two roundings for each block of 32 k
  (∀ (o : EngineOp) (t : Team) (sa sb : Slot) (base span ta tb k r j c : Nat),
    let f32 := FloatFmt.fp32
    let S := f32.decode (f32.rne (sa.scaleOf.mul sb.scaleOf))
    let block (c : Nat) (D : Exact) : Nat := f32.rne (Exact.add .rn (f32.decode c) (f32.decode (f32.rne (D.mul S))))
    let row := tileAt span ta + r * copyOff sa.fmt 0 (matK sa.fmt)
    let B (i : Nat) : Exact := let q := i / (matK sb.fmt / 4); sb.elementAt (o.operandAt t base tb q).1 ((o.operandAt t base tb q).2 + j * copyOff sb.fmt 0 (matK sb.fmt / 4)) (i % (matK sb.fmt / 4))
    o.dense t sa sb base span ta tb r j c = (List.range (matK sa.fmt / 32)).foldl (fun c n =>
      block c (Exact.sum ((List.range 32).map fun i => (sa.elementAt t.tiles row (32 * n + i)).mul (B (32 * n + i))))) c ∧
    (let entry (n p : Nat) : Exact := lutEntry t sb span k r n (o.code t base tb sb.fmt p n j)
    (sb.fmt = 0x20 → o.lookup t sa sb base span k tb r j c = (List.range 8).foldl (fun c n =>
      block c (Exact.sum ((List.range 8).flatMap fun i => (List.range sb.planes).map fun p => (entry (8 * n + i) p).mul (.fin false 1 1 p)))) c) ∧
    (sb.fmt ≠ 0x20 → o.lookup t sa sb base span k tb r j c = (List.range (lutK sb.fmt / 32)).foldl (fun c n =>
      block c (Exact.sum ((List.range (32 / lutSize sb.fmt)).map fun i => (entry (32 / lutSize sb.fmt * n + i) 0).mul (.fin false 1 1 0)))) c))) ∧
  -- R165, R167, R168: an entry as it is built, and as a code selects it
  (∀ (t : Team) (g : Grid) (sa sb : Slot) (span ta fb k kq r n e c : Nat),
    let a (i : Nat) : Exact := sa.elementAt t.tiles (tileAt span ta + r * copyOff sa.fmt 0 256) (64 * kq + lutSize sb.fmt * n + i)
    let stored (e : Nat) : Exact := FloatFmt.fp32.decode (t.tables.readN (tableAt span k sb.fmt r n e) 4)
    (sb.fmt = 0x20 → buildEntry t g sa sb span ta fb kq r n e = FloatFmt.fp32.rne (Exact.sum ((List.range 4).map fun i => if (8 + e).testBit i then a i else (a i).neg))) ∧
    (sb.fmt ≠ 0x20 → e < sb.cbSize →
      buildEntry t g sa sb span ta fb kq r n e = FloatFmt.fp32.rne (Exact.sum ((List.range (lutSize sb.fmt)).map fun i => (a i).mul (centroid g fb sb.fmt e i)))) ∧
    (sb.fmt ≠ 0x20 → sb.cbSize ≤ e → buildEntry t g sa sb span ta fb kq r n e = 0) ∧
    (sb.fmt = 0x20 → lutEntry t sb span k r n c = if c < 8 then (stored (7 - c)).neg else stored (c - 8)) ∧
    (sb.fmt ≠ 0x20 → lutEntry t sb span k r n c = if c < sb.cbSize then stored c else .zero))

-- Class CPY and jobs

/-- CPY, TLOAD and TSTORE with a descriptor that passes R222's checks hand their job to the engine of R223: the barrier gains the destination bytes, CP rises until the job's acceptance, and the job stands
under its own number (R120, R221, R330, R408, R409). In R330's order a descriptor traps ILLEGAL_FIELD, a barrier or task operand its cause, a misaligned one MISALIGNED, an extent outside R182
PROTECTION; a barrier without room for the bytes makes the word wait (R221). -/
def Obligations.CopiesHandOverJobs : Prop :=
  ∀ (s s1 : State) (x : Issue) (g : Guard) (i : Instr) (kind : JobKind) (dsp ssp : Space) (f : CopyFmt) (parts : Nat) (ds : Operand) (bs tk : Option Operand),
    ((∃ a : CpyArgs, i = .cpy g a ∧ dsp = a.dsp ∧ ssp = a.ssp ∧ f = x.fmtOf a.srcf a.fs ∧ parts = 0 ∧ ds = a.ds ∧ bs = a.bs ∧ tk = a.tk ∧ kind = .copy a.dsp a.ssp a.srcf f.slot) ∨
      (∃ a : TileCpyArgs, i = .tload g a ∧ dsp = .tile ∧ ssp = a.sp ∧ f = x.fmtOf a.srcf a.fs ∧ parts = splitParts a.split x.team ∧ ds = a.ds ∧ bs = a.bs ∧ tk = a.tk ∧
        kind = .tiles true a.sp a.srcf f.slot parts) ∨
      (∃ a : TileCpyArgs, i = .tstore g a ∧ dsp = a.sp ∧ ssp = .tile ∧ f = x.fmtOf a.srcf a.fs ∧ parts = splitParts a.split x.team ∧ ds = a.ds ∧ bs = a.bs ∧ tk = a.tk ∧
        kind = .tiles false a.sp a.srcf f.slot parts)) →
    s.ready i = some (x, s1) →
    let d := parseDesc (x.descWords ds)
    let tileAddr := if dsp = .tile then d.dst else d.src
    let fieldsOk := descOk dsp ssp f (x.descWords ds) = true ∧ (parts ≠ 0 → d.rows % parts = 0 ∧ d.tr = false ∧ bitsAt tileAddr 16 3 = 0)
    let rangesOk := (parts ≠ 0 → splitFits f d parts (decide (dsp = .tile)) = true) ∧ s1.rangesAllowed x ssp (allReads f d (tileParts ssp parts)) = true ∧
      s1.rangesAllowed x dsp (allWrites f d (tileParts dsp parts)) = true
    (¬ fieldsOk → ∃ s0, s.issueOf i = some (x, s0) ∧ exec i s = .next (s0.raise x ⟨0x02, x.path.pos - 1, none, 0, false⟩)) ∧
    (∀ c, fieldsOk → x.jobNames s1 bs tk = .error c → ∃ s0, s.issueOf i = some (x, s0) ∧ exec i s = .next (s0.raise x c)) ∧
    (∀ bar task, fieldsOk → x.jobNames s1 bs tk = .ok (bar, task) →
      (descAligned f d = false → ∃ s0, s.issueOf i = some (x, s0) ∧ exec i s = .next (s0.raise x (.of 0x14))) ∧
      (descAligned f d = true → ¬ rangesOk → ∃ s0, s.issueOf i = some (x, s0) ∧ exec i s = .next (s0.raise x (.of 0x11))) ∧
      (descAligned f d = true → rangesOk → s1.bytesFull bar (destBytes f d) = false →
        exec i s = .next ((s1.submit x kind d (jobEngine dsp ssp x.gang x.team) bar task (destBytes f d)).advance x.key x.path.id)) ∧
      (descAligned f d = true → rangesOk → s1.bytesFull bar (destBytes f d) = true → ∃ s0, s.issueOf i = some (x, s0) ∧ exec i s = .next s0))

/-- Handing a job over, once the gang's earlier accesses are performed: the job is new, unaccepted and unmoved with every byte owed; the gang's CP stands one higher; a barrier in its allocation gains the
bytes, and no register or other gang changes (R120, R221). Its life: accepted when no earlier job of its engine waits (R223), at once complete when it is empty (R330); each unit moved once, from and to
the places its descriptor gives, the bytes unconverted, or each element converted with one
rounding, standing at its destination's places and no other byte changed (R219, R220); a fault pauses it in the fault queue or stops it with COPY_FAULT (R224); complete when every unit is moved (R225). -/
def Obligations.JobsStandAndMove : Prop :=
  (∀ (s : State) (x : Issue) (kind : JobKind) (d : Desc) (engine : Nat) (bar : Option (Nat × Nat)) (task : Option Nat) (left : Nat),
    let u := s.catchUp x.key
    let t := s.submit x kind d engine bar task left
    (∃ j, tget t.jobs u.seq = some j ∧ j.kind = kind ∧ j.desc = d ∧ j.engine = engine ∧ j.bar = bar ∧ j.task = task ∧ j.left = left ∧ j.accepted = false ∧ j.moved = [] ∧
      j.gang = some x.key ∧ j.errs = []) ∧
    (∀ n, n ≠ u.seq → tget t.jobs n = tget u.jobs n) ∧ t.seq = u.seq + 1 ∧ (t.gang x.key).counter .cp = (u.gang x.key).counter .cp + 1 ∧
    (∀ c, c ≠ .cp → (t.gang x.key).counter c = (u.gang x.key).counter c) ∧
    (t.gang x.key).vregs = (u.gang x.key).vregs ∧ (t.gang x.key).sregs = (u.gang x.key).sregs ∧ (t.gang x.key).preds = (u.gang x.key).preds ∧
    (∀ k, k ≠ x.key → t.gang k = u.gang k) ∧ t.mem = u.mem ∧
    (bar = none → t.cores = u.cores) ∧
    (∀ c off, bar = some (c, off) → u.objWord c off 0 ≠ 0xFFFFFFFF → u.objWord c off 1 + left < 2 ^ 32 →
      t.objWord c off 1 = u.objWord c off 1 + left ∧ ∀ e b, (e ≠ c ∨ b < off + 4 ∨ off + 8 ≤ b) → (t.core e).scratch.read b = (u.core e).scratch.read b) ∧
    ((s.gang x.key).accessesLeft = 0 → u = s)) ∧
  (∀ (s : State) (n : Nat) (j : Job), tget s.jobs n = some j →
    (j.accepted = false → s.jobBlocked j = false → exec (.copyJobAccept n) s = .next (s.acceptJob n j)) ∧
    (j.accepted = true ∨ s.jobBlocked j = true → exec (.copyJobAccept n) s = .next s) ∧
    (∀ (sh : CopyShape), j.shape = some sh → destBytes sh.fmt j.desc = 0 → s.acceptJob n j = ((s.setJob n { j with accepted := true }).returnFlight j).finishJob n) ∧
    (∀ (sh : CopyShape) (u : Nat) (rs : List (List Place)) (ws : List Place), j.accepted = true → j.paused = none → j.stopped = false → j.shape = some sh → j.owes sh u = true →
      s.unitPlaces j sh u = .ok (rs, ws) → exec (.copyByteWrite n u) s = .next (s.moveUnit n j sh u rs ws)) ∧
    (∀ (sh : CopyShape) (u : Nat), j.shape = some sh → j.owes sh u = false → exec (.copyByteWrite n u) s = .next s) ∧
    (∀ (e : JobFault), j.accepted = true → j.paused = none → j.stopped = false → s.jobFault n j = some e → exec (.copyJobFault n) s = .next (s.faultJob n j e)) ∧
    (∀ (e : JobFault), e.f.missing = none → e.f.cause ≠ 0x60 → s.faultJob n j e = s.stopJob n 0x10 e.row) ∧
    (∀ (sh : CopyShape), j.accepted = true → j.paused = none → j.stopped = false → j.shape = some sh → j.unitsLeft sh = [] →
      exec (.copyJobComplete n) s = .next (s.finishJob n)) ∧
    (∀ (sh : CopyShape) (u : Nat), j.shape = some sh → u ∈ j.unitsLeft sh → exec (.copyJobComplete n) s = .next s)) ∧
  -- a unit's move: its bytes are set where it writes, then counted
  (∀ (s : State) (id : Nat) (j : Job) (sh : CopyShape) (n : Nat) (rs : List (List Place)) (ws : List Place), ∃ (v : State) (es : List Err),
    s.moveUnit id j sh n rs ws = ((v.setPlaces j.ctx.part ws (unitResult sh.fmt j.desc n (rs.map fun ps => ps.map s.jobByte) (ws.map s.placeByte)).1).useFree.setJob id
      { j with moved := n :: j.moved, errs := j.errs ++ es }).jobBytes id (unitWritten sh.fmt j.desc n) ∧
    v.teams = s.teams ∧ (∀ c, (v.core c).scratch = (s.core c).scratch) ∧ ((∀ ps ∈ rs, ∀ l, .loc l ∈ ps → s.uncorrectable l .load = false) → v.mem = s.mem)) ∧
  (∀ (s : State) (part : Nat) (ws : List Place) (bs : List Byte) (kd coh : Nat) (ra : Bool), ws.Nodup → ws.length = bs.length →
    (∀ pa kd' coh' ra', .loc (.mem pa kd' coh' ra') ∈ ws → kd' = kd ∧ coh' = coh ∧ ra' = ra) →
    (∀ e ∈ s.cores, ∀ n ∈ e.2.dirty, ∀ c, tget e.2.l1 n = some c → c.leased = false ∧ c.bytes.length = 256) →
    let t := s.setPlaces part ws bs
    (∀ (i : Nat) (b : Byte), bs[i]? = some b →
      (∀ c off, ws[i]? = some (.loc (.scratch c off)) → (t.core c).scratch.read off = b) ∧
      (∀ pa, ws[i]? = some (.loc (.mem pa kd coh ra)) → if isHost pa then t.mem.read pa = b else t.keyRead kd pa = b) ∧
      (∀ n a, ws[i]? = some (.tile n a) → (t.team n).tiles.read a = b) ∧ (∀ n a, ws[i]? = some (.acc n a) → (t.team n).accs.read a = b)) ∧
    (∀ c off, .loc (.scratch c off) ∉ ws → (t.core c).scratch.read off = (s.core c).scratch.read off) ∧
    (∀ pa, .loc (.mem pa kd coh ra) ∉ ws → if isHost pa then t.mem.read pa = s.mem.read pa else t.keyRead kd pa = s.keyRead kd pa) ∧
    (∀ n a, .tile n a ∉ ws → (t.team n).tiles.read a = (s.team n).tiles.read a) ∧ (∀ n a, .acc n a ∉ ws → (t.team n).accs.read a = (s.team n).accs.read a)) ∧
  -- the elements of a unit: where they stand, which are written, and as what
  (∀ (f : CopyFmt) (d : Desc) (n i c : Nat) (bs : List (List Byte)) (old : List Byte),
    let r := (unitPos f d n).1
    let valid (t : Nat) : Bool := d.valid r ((unitPos f d n).2 + t)
    let all := List.range f.unit
    let value (t : Nat) : Exact := if valid t then unitValue f bs t else .zero
    srcAddr f d 0 i c = d.src + i * d.sstr + copyOff f.src d.esz c ∧
    dstAddr f d 0 i c = (if d.tr then d.dst + c * d.dstr + i * copyOff f.dst d.esz 1 else d.dst + i * d.dstr + copyOff f.dst d.esz c) ∧
    unitTouched f d n = (if d.zf = true ∨ (fmtDbf f.dst = true ∧ all.any valid = true) then all else all.filter valid) ∧
    (f.src = 0 → (unitResult f d n bs old).1 = (unitTouched f d n).flatMap fun t => if valid t then bs.getD t [] else List.replicate (2 ^ d.esz) 0) ∧
    (f.src ≠ 0 → fmtDbf f.dst = true → (unitResult f d n bs old).1 = (f.slot.dbfBlock (all.map value)).bytes (slotDbf f.dst)) ∧
    (f.src ≠ 0 → fmtDbf f.dst = false → f.dst ≠ 0x11 → (unitResult f d n bs old).1 =
      (unitTouched f d n).flatMap fun t => bytesOfNat (fmtBits f.dst / 8) (if valid t then (f.slot.encode (unitValue f bs t)).bits else 0)) ∧
    (∀ t, unitValue f bs t = if fmtDbf f.src then (slotDbf f.src).readElement (bs.headD []) t
      else if f.src = 0x10 then Exact.ofInt (signedOf 8 (natOfBytes (bs.getD t []))) else (slotFloat f.src).decode (natOfBytes (bs.getD t []))))

/-- COLL with a legal descriptor and group table hands its job over once leave of 64 units is given (R247, R327, R259), and else traps ILLEGAL_FIELD, asks for leave, or takes its operand's cause. TDESC sets a
handle slot under a new generation and gives the handle (R227, R407). CPYQ gives the foreman's copy of a task record, or faults restartably where none can be read (R332). CPYCAN, TPOST and TSIG
hand their request to the foreman (R331, R410). A task index of 65,536 or above traps PROTECTION. -/
def Obligations.CopyRequestsAndHandles : Prop :=
  ∀ (s s1 : State) (x : Issue) (g : Guard),
    (∀ a : CollArgs, s.ready (.coll g a) = some (x, s1) →
      let w := x.descWords a.ds
      let c := parseColl w
      let s2 := s1.catchUp x.key
      let members := (s2.tableHead x.team.ctx (some x.gang.core) c.table).map Prod.snd
      let legal := collFieldsOk w = true ∧ ∀ n, members = some n → 1 ≤ n ∧ n ≤ 1152
      let bytes := c.total (members.getD 0) * collSize c.ty
      (¬ legal → ∃ s0, s.issueOf (.coll g a) = some (x, s0) ∧ exec (.coll g a) s = .next (s0.raise x ⟨0x02, x.path.pos - 1, none, 0, false⟩)) ∧
      (∀ t, legal → x.jobNames s2 a.bs a.tk = .error t → ∃ s0, s.issueOf (.coll g a) = some (x, s0) ∧ exec (.coll g a) s = .next (s0.raise x t)) ∧
      (∀ bar task s3, legal → x.jobNames s2 a.bs a.tk = .ok (bar, task) → s2.bytesFull bar bytes = false → s2.leaveNow x.key 64 (x.ownCharge s2 0x66) = some s3 →
        let r := s3.numberColl x.team.ctx (some x.gang.core) c
        exec (.coll g a) s = .next (((r.1.submit x r.2.kind (collDesc w) (jobEngine .global .global x.gang x.team) bar task bytes).noteWaiting x.team.ctx r.2 r.1.seq).advance
          x.key x.path.id)) ∧
      (∀ bar task, legal → x.jobNames s2 a.bs a.tk = .ok (bar, task) → s2.bytesFull bar bytes = true → ∃ s0, s.issueOf (.coll g a) = some (x, s0) ∧ exec (.coll g a) s = .next s0) ∧
      (∀ bar task, legal → x.jobNames s2 a.bs a.tk = .ok (bar, task) → s2.bytesFull bar bytes = false → s2.leaveNow x.key 64 (x.ownCharge s2 0x66) = none →
        ∃ s0, s.issueOf (.coll g a) = some (x, s0) ∧ exec (.coll g a) s = .next (s0.askLeave x.key 64))) ∧
    (∀ a : TdescArgs, s.ready (.tdesc g a) = some (x, s1) →
      (handleOk a.ssp (x.descWords a.ds) = true →
        let gen := match tget x.team.handles a.slot.toNat with | some h => (h.gen + 1) % 2 ^ 32 | none => 1
        exec (.tdesc g a) s = .next (((s1.modTeam x.key.team fun t => { t with handles := tset t.handles a.slot.toNat ⟨gen, a.ssp, parseDesc (x.descWords a.ds)⟩ }).addResult x (some .cp)
          a.la [x.gang.dest a.hd 2] ((x.gang.dest a.hd 2).writes x.low (a.slot.toNat + 2 ^ 32 * gen)) false).advance x.key x.path.id)) ∧
      (handleOk a.ssp (x.descWords a.ds) = false → ∃ s0, s.issueOf (.tdesc g a) = some (x, s0) ∧ exec (.tdesc g a) s = .next (s0.raise x ⟨0x02, x.path.pos - 1, none, 0, false⟩))) ∧
    (∀ a : CpyqArgs, s.ready (.cpyq g a) = some (x, s1) →
      let i := x.once s1 a.tk 1
      let s2 := s1.catchUp x.key
      let d := x.gang.dest a.ds 8
      (65536 ≤ i → ∃ s0, s.issueOf (.cpyq g a) = some (x, s0) ∧ exec (.cpyq g a) s = .next (s0.raise x (.of 0x11))) ∧
      (∀ bs, i < 65536 → s2.queryTask x.team.ctx i = .ok bs → exec (.cpyq g a) s = .next (((s2.askQuery x.team.ctx i).addResult x (some .cp) a.la [d] (d.writes x.low (natOfBytes bs)) false).advance x.key x.path.id)) ∧
      (∀ e, i < 65536 → s2.queryTask x.team.ctx i = .error e → exec (.cpyq g a) s = .next (s1.memFault x a.la (cpyqFault x e (s2.taskVa x.team.ctx i) i d)))) ∧
    (∀ (i : Instr) (tk : Operand) (kind : Nat → JobKind),
      (i = .cpycan g tk ∧ kind = .cancel) ∨ (i = .tpost g tk ∧ kind = .post) ∨ (i = .tsig g tk ∧ kind = .signal) → s.ready i = some (x, s1) →
      (x.once s1 tk 1 < 65536 → exec i s = .next ((s1.submit x (kind (x.once s1 tk 1)) .none foremanEngine none none 0).advance x.key x.path.id)) ∧
      (65536 ≤ x.once s1 tk 1 → ∃ s0, s.issueOf i = some (x, s0) ∧ exec i s = .next (s0.raise x (.of 0x11))))

-- Class CTL

/-- BRA with its guard in every unexited lane jumps and moves its path alone; a bad target traps BAD_TARGET with the path's lanes and PATHF (R270, R318). A diverging BRA
looks its clause, targets and reconvergence PC up (R56): a missing entry traps NOT_SAFE_TARGET, a fault restarts the branch; else its path divides, not-taken lanes first (R57, R318). BRA.S
sends the smaller side, the taken one on a tie, to spawn memory, waits for loads and SFU and MAT results, and divides as BRA.M where a thread of it has departed four times (R58 to R60);
an older entry that it cannot move to memory for room is a SPILL_FAULT (R59). BRX
jumps to one common target and else divides into the guard-false lanes and one path for each target, ascending by lowest lane, a bad target's path to trap alone (R70, R320). That TADDR is the bad target's
address at a BRA and a BRX is the model's choice (log 55), and so is what a split waits for within the spawn memory (log 60). -/
def Obligations.BranchesDividePaths : Prop :=
  ∀ (s s1 : State) (x : Issue) (g : Guard),
    let fall := x.live &&& ~~~x.active
    let next := (x.path.hdr + 8 * (x.path.cnt + 1)) % 2 ^ 64
    (∀ (i : Instr) (off : BitVec 32), i = .braM g off ∨ i = .braS g off → s.ready i = some (x, s1) →
      let target := (((x.path.hdr : Int) + signedOf 32 off.toNat) % 2 ^ 64).toNat
      let good : Prop := off.toNat % 8 = 0 ∧ s1.fetchable x.key target = true
      (¬ good → ∃ s0, s.issueOf i = some (x, s0) ∧ exec i s = .next (s0.raise x ⟨0x23, 0, some x.live, (x.launch.codeBase + target) % 2 ^ 64, true⟩)) ∧
      (good → fall = 0 → exec i s = .next (s1.jump x.key x.path.id target)) ∧
      (∀ t, good → fall ≠ 0 → s1.divergeCheck x [target, next] none = (t, .missing) → ∃ s0, s.issueOf i = some (x, s0) ∧ exec i s = .next (s0.raise x (.of 0x24))) ∧
      (∀ t va f, good → fall ≠ 0 → s1.divergeCheck x [target, next] none = (t, .fault va f) →
        ∃ s0, s.issueOf i = some (x, s0) ∧ exec i s = .next (s0.restartTrap x ⟨f.cause, 0, none, va, false⟩ f.missing)) ∧
      (∀ t rpc, good → fall ≠ 0 → s1.divergeCheck x [target, next] none = (t, .ok rpc) →
        let smaller := if popcount x.active ≤ popcount fall then x.active else fall
        let gone := if popcount x.active ≤ popcount fall then target else next
        let stay := if popcount x.active ≤ popcount fall then next else target
        (i = .braM g off ∨ x.deepDepart smaller = true → exec i s = .next (t.branch x rpc [⟨some next, fall, .ready⟩, ⟨some target, x.active, .ready⟩])) ∧
        (i = .braS g off → x.deepDepart smaller = false → x.gang.splitReady = false → ∃ s0, s.issueOf i = some (x, s0) ∧ exec i s = .next s0) ∧
        (∀ (u v : State) (e : SafeEntry), i = .braS g off → x.deepDepart smaller = false → x.gang.splitReady = true → t.safeEntry x.key gone = (u, .ok (some e)) →
          let node := rpc.map fun _ => pathNode x.path u.seq .split (popcount smaller)
          let es := (lanesOf smaller x.gang.width).map fun l => u.spawnEntry x e gone rpc ((node.map Node.id).getD 0) l
          let room := u.spawnRoom x.gang.core ((es.map Spawn.bytes).foldl (· + ·) 0) ((u.spawnOn x.gang.core).length + 1)
          (room = .ok v → exec i s = .next (v.depart x smaller es node rpc ⟨some stay, x.live &&& ~~~smaller, .ready⟩)) ∧
          (∀ va f k, room = .fault v va f k → exec i s = .next (v.spillFault x va f k)) ∧
          (room = .stall ∨ room = .overflow → ∃ s0, s.issueOf i = some (x, s0) ∧ exec i s = .next s0)) ∧
        (∀ u, i = .braS g off → x.deepDepart smaller = false → x.gang.splitReady = true →
          (t.safeEntry x.key gone = (u, .ok none) → ∃ s0, s.issueOf i = some (x, s0) ∧ exec i s = .next (s0.raise x (.of 0x24))) ∧
          (∀ va f, t.safeEntry x.key gone = (u, .error (va, f)) →
            ∃ s0, s.issueOf i = some (x, s0) ∧ exec i s = .next (s0.restartTrap x ⟨f.cause, 0, none, va, false⟩ f.missing))))) ∧
    (∀ (ra : Operand), s.ready (.brx g ra) = some (x, s1) →
      let ts := x.targets s1 ra
      let falls : List Branch := if fall = 0 then [] else [⟨some next, fall, .ready⟩]
      (∀ t m, fall = 0 → ts = [(t, m)] →
        (s1.landing x.key t = true → exec (.brx g ra) s = .next (s1.jump x.key x.path.id t)) ∧
        (s1.landing x.key t = false → ∃ s0, s.issueOf (.brx g ra) = some (x, s0) ∧
          exec (.brx g ra) s = .next (s0.raise x ⟨0x23, 0, some x.live, (x.launch.codeBase + t) % 2 ^ 64, true⟩))) ∧
      (fall ≠ 0 ∨ 2 ≤ ts.length → ∀ t c, s1.divergeCheck x (ts.map Prod.fst ++ falls.filterMap Branch.hdr) none = (t, c) →
        (c = .missing → ∃ s0, s.issueOf (.brx g ra) = some (x, s0) ∧ exec (.brx g ra) s = .next (s0.raise x (.of 0x24))) ∧
        (∀ va f, c = .fault va f → ∃ s0, s.issueOf (.brx g ra) = some (x, s0) ∧ exec (.brx g ra) s = .next (s0.restartTrap x ⟨f.cause, 0, none, va, false⟩ f.missing)) ∧
        (∀ rpc, c = .ok rpc → exec (.brx g ra) s = .next (t.branch x rpc (falls ++ ts.map fun p =>
          if t.landing x.key p.1 then ⟨some p.1, p.2, .ready⟩ else ⟨none, p.2, .badTarget p.1⟩)))))

/-- A division's paths (R57, R440): the children stand in the divided path's place in the order given, numbered afresh, each with its lanes at its header, or at the branch for a bad target; with a
reconvergence PC they carry it and link to a node that keeps the divided path's own number, PC and link, without one they keep that link. The gang leaves the clause slot; nothing else changes. A
split's children are its staying lanes alone, in the same path number; the departing threads' records are pushed on their stacks and their lanes are away (R59, R60). The numbers are the model's
(log 30). -/
def Obligations.DividedPathsStand : Prop :=
  ∀ (s : State) (x : Issue) (rpc : Option Nat) (ps qs : List Path),
    (s.gang x.key).paths = ps ++ x.path :: qs → (∀ p ∈ ps ++ qs, p.id ≠ x.path.id) →
    (∀ (cs : List Branch),
      let t := s.branch x rpc cs
      (t.gang x.key).paths.length = ps.length + cs.length + qs.length ∧ (t.gang x.key).paths.take ps.length = ps ∧ (t.gang x.key).paths.drop (ps.length + cs.length) = qs ∧
      (∀ i c, cs[i]? = some c → ∃ p, (t.gang x.key).paths[ps.length + i]? = some p ∧ p.id = s.seq + i ∧ p.mask = c.mask ∧ p.st = c.st ∧ p.rpc = rpc ∧
        p.link = (if rpc.isSome then x.path.id else x.path.link) ∧ (∀ h, c.hdr = some h → p.hdr = h % 2 ^ 64 ∧ p.pos = 0) ∧ (c.hdr = none → p.hdr = x.path.hdr ∧ p.pos = x.path.pos)) ∧
      (t.gang x.key).nodes = (if rpc.isSome then [⟨x.path.id, x.path.id, x.path.rpc, x.path.link, .branch, 0⟩] else []) ++ (s.gang x.key).nodes ∧
      { t.gang x.key with paths := (s.gang x.key).paths, nodes := (s.gang x.key).nodes } = s.gang x.key ∧ (∀ k, k ≠ x.key → t.gang k = s.gang k) ∧
      (∀ c b, x.key ∉ (t.bench c b).slot) ∧ { t with gangs := s.gangs, benches := s.benches, seq := s.seq } = s) ∧
    (∀ (m : Mask) (es : List Spawn) (node : Option Node) (stay : Branch) (h : Nat), (s.gang x.key).accessesLeft = 0 → stay.hdr = some h →
      let t := s.depart x m es node rpc stay
      (∃ p, (t.gang x.key).paths = ps ++ p :: qs ∧ p.id = x.path.id ∧ p.mask = stay.mask ∧ p.st = stay.st ∧ p.rpc = rpc ∧ p.link = ((node.map Node.id).getD x.path.link) ∧
        p.hdr = h % 2 ^ 64 ∧ p.pos = 0) ∧
      (t.gang x.key).nodes = node.toList ++ (s.gang x.key).nodes ∧ (t.gang x.key).away = (s.gang x.key).away ||| m ∧ (t.gang x.key).vregs = (s.gang x.key).vregs ∧
      (t.team x.key.team).spawn = (s.team x.key.team).spawn ++ es ∧ t.mem = s.mem ∧
      (∀ e, es = [e] → tgetD (t.team x.key.team).departs (e.homeGang, e.homeLane) [] = e.depart :: tgetD (s.team x.key.team).departs (e.homeGang, e.homeLane) []) ∧
      ∀ k, k ≠ x.key → t.gang k = s.gang k)

/-- CALL and CALLX (R71, R79, R80, R322): at WDEPTH 65,535, or where a thread's spill stack has no room for 8 SL + 2 more slots, WINDOW_OVERFLOW (R82, R91); a stopped spill of the porter
raises SPILL_FAULT at its address, or parks where the walk met V = 0 (R94); a misaligned or unfetchable CALL target, or any CALLX target that is no landing header, BAD_TARGET
with the lanes and the lowest lane's target (R70); a diverging CALLX without an entry NOT_SAFE_TARGET. Each leaves the window as it was. Else the call is made: one frame record with the return point, the slide and the LD and SP
counters, the reserve higher by 8 SL + 2, each target's lanes in the divided path's place at their target, the lanes outside the guard WAITING at the return point; with one target the path keeps
its number (R56). No register, granule or byte of memory changes. The path numbers are the model's (log 30). -/
def Obligations.CallsPushFrames : Prop :=
  (∀ (s s1 : State) (x : Issue) (g : Guard) (i : Instr) (sl : BitVec 4) (targets : List (Nat × Mask)),
    let ret := (x.path.hdr + 8 * (x.path.cnt + 1)) % 2 ^ 64
    ((∃ off : BitVec 32, i = .call g sl off ∧ targets = [(x.target off, x.active)]) ∨ (∃ ra, i = .callx g ra sl ∧ targets = x.targets s1 ra)) →
    s.ready i = some (x, s1) →
    let room : Prop := x.gang.depth ≠ 65535 ∧ s1.reserveOk x.key (8 * sl.toNat + 2) = true
    (¬ room → ∃ s0, s.issueOf i = some (x, s0) ∧ exec i s = .next (s0.raise x (.of 0x20))) ∧
    (∀ va c miss, room → x.gang.spillStopped = some (va, c, miss) →
      exec i s = .next ((s1.modGang x.key fun e => { e with spillStopped := none }).spillFault x va ⟨c, miss⟩ .spill)) ∧
    (∀ off : BitVec 32, i = .call g sl off → room → x.gang.spillStopped = none →
      (off.toNat % 8 = 0 → s1.fetchable x.key (x.target off) = true → exec i s = .next (s1.call x sl.toNat targets)) ∧
      (off.toNat % 8 ≠ 0 ∨ s1.fetchable x.key (x.target off) = false →
        ∃ s0, s.issueOf i = some (x, s0) ∧ exec i s = .next (s0.raise x ⟨0x23, 0, none, (x.launch.codeBase + x.target off) % 2 ^ 64, false⟩))) ∧
    (∀ ra, i = .callx g ra sl → room → x.gang.spillStopped = none →
      let bad := targets.filter fun t => !s1.landing x.key t.1
      let m := bad.foldl (fun a t => a ||| t.2) 0
      let first := ((targets.find? fun t => t.2.getLsbD (lowest m)).map Prod.fst).getD 0
      (bad ≠ [] → ∃ s0, s.issueOf i = some (x, s0) ∧ exec i s = .next (s0.raise x ⟨0x23, 0, some m, (x.launch.codeBase + first) % 2 ^ 64, false⟩)) ∧
      (bad = [] → targets.length ≤ 1 → exec i s = .next (s1.call x sl.toNat targets)) ∧
      (bad = [] → 2 ≤ targets.length → ∀ t c, s1.divergeCheck x (targets.map Prod.fst) (some ret) = (t, c) →
        (∀ rpc, c = .ok rpc → exec i s = .next (t.call x sl.toNat targets)) ∧
        (c = .missing → ∃ s0, s.issueOf i = some (x, s0) ∧ exec i s = .next (s0.raise x (.of 0x24))) ∧
        (∀ va f, c = .fault va f → ∃ s0, s.issueOf i = some (x, s0) ∧ exec i s = .next (s0.restartTrap x ⟨f.cause, 0, none, va, false⟩ f.missing))))) ∧
  (∀ (s : State) (x : Issue) (slide : Nat) (ts : List (Nat × Mask)) (ps qs : List Path),
    (s.gang x.key).paths = ps ++ x.path :: qs → (∀ p ∈ ps ++ qs, p.id ≠ x.path.id) →
    let ret := (x.path.hdr + 8 * (x.path.cnt + 1)) % 2 ^ 64
    let off := x.live &&& ~~~x.active
    let g := s.gang x.key
    let t := s.call x slide ts
    let e := t.gang x.key
    let id := if ts.length ≤ 1 then s.seq else x.path.id
    e.frames = g.frames ++ [⟨ret, slide, false, g.counter .ld, g.counter .sp, id, [], false, none⟩] ∧
    e.reserve = g.reserve + (8 * slide + 2) ∧ e.depth = g.depth + 1 ∧
    (∃ kids stays, e.paths = ps ++ kids ++ stays ++ qs ∧ kids.length = ts.length ∧
      (∀ i c, ts[i]? = some c → ∃ p, kids[i]? = some p ∧ p.id = (if ts.length ≤ 1 then x.path.id else s.seq + 1 + i) ∧ p.hdr = c.1 % 2 ^ 64 ∧ p.pos = 0 ∧ p.mask = c.2 ∧ p.st = .ready ∧
        p.link = id ∧ (2 ≤ ts.length ∨ off ≠ 0 → p.rpc = some ret)) ∧
      (off = 0 → stays = []) ∧ (off ≠ 0 → ∃ p, stays = [p] ∧ p.hdr = ret ∧ p.mask = off ∧ p.st = .waiting ∧ p.link = id)) ∧
    e.nodes = ⟨id, x.path.id, x.path.rpc, x.path.link, .call (x.gang.depth + 1), 0⟩ :: g.nodes ∧
    e.vregs = g.vregs ∧ e.taken = g.taken ∧ e.sregs = g.sregs ∧ e.preds = g.preds ∧ (∀ k, k ≠ x.key → t.gang k = s.gang k) ∧ t.mem = s.mem ∧ t.cores = s.cores)

/-- RET (R81, R394): at WDEPTH 0, or while a thread that departed at its depth or deeper is away, UNJOINED_RETURN (R61, R64); from a trap frame ILLEGAL_OPERAND with the word's index
(R83). Else its lanes wait at the return point, the guard-false lanes going on first, and while another path of the frame is live the frame stays (R71). With the last of them RET waits for results aimed at
vector registers since the call, refills the caller's frame, a refill's fault raising SPILL_FAULT (R94), then the paths merge and the frame slides out: WDEPTH and the reserve fall, the granules below
the caller's names keep their values. A return point without LAND traps BAD_TARGET after that, with TNEXT there (R265, R394); a path made of a call's keeps the PC of a RET it came from. A frame whose slide word in memory
was changed is none of this statement's figures (log 52); that a RET gives a path without reconvergence the return point is the model's reading (log 118). -/
def Obligations.ReturnsPopFrames : Prop :=
  (∀ (s s1 : State) (x : Issue) (g : Guard), s.ready (.ret g) = some (x, s1) →
    (x.gang.frames = [] → ∃ s0, s.issueOf (.ret g) = some (x, s0) ∧ exec (.ret g) s = .next (s0.raise x (.of 0x22))) ∧
    (s1.departedBelow x.key = true → ∃ s0, s.issueOf (.ret g) = some (x, s0) ∧ exec (.ret g) s = .next (s0.raise x (.of 0x22))) ∧
    (∀ f, x.gang.frames.getLast? = some f → s1.departedBelow x.key = false →
      (f.trapFrame = true → ∃ s0, s.issueOf (.ret g) = some (x, s0) ∧ exec (.ret g) s = .next (s0.raise x ⟨0x04, x.path.pos - 1, none, 0, false⟩)) ∧
      (f.trapFrame = false →
        let e := (x.gang.returnPath x f s1.seq).prune (x.gang.nodes.length + 1)
        let last := (e.nodes.find? fun n => n.id = f.node).any e.nodeArrived
        (last = false → exec (.ret g) s =
          .next ((((s1.setGang x.key ((s1.gang x.key).returnPath x f s1.seq)).bump).mergePaths x.key).leaveSlot x.key)) ∧
        (last = true → x.gang.returnBlocked x.gang.depth = true → ∃ s0, s.issueOf (.ret g) = some (x, s0) ∧ exec (.ret g) s = .next s0) ∧
        (∀ t va e kind, last = true → x.gang.returnBlocked x.gang.depth = false → s1.refillTo x.key (x.gang.depth - 1) (14 * (x.gang.depth + 1)) = .fault t va e kind →
          exec (.ret g) s = .next (t.spillFault x va e kind)) ∧
        (∀ t, last = true → x.gang.returnBlocked x.gang.depth = false → s1.refillTo x.key (x.gang.depth - 1) (14 * (x.gang.depth + 1)) = .ok t →
          let fr := ((t.gang x.key).frames.getLast?).getD f
          exec (.ret g) s = .next ((((t.modGang x.key fun e => (e.returnPath x fr t.seq).prune (e.nodes.length + 1)).bump.mergePaths x.key).leaveSlot x.key).checkReturn x fr.ret
            (x.gang.nodePath fr.node)))))) ∧
  (∀ (e : Gang) (x : Issue) (f : Frame) (n : Nat) (ps qs : List Path), e.paths = ps ++ x.path :: qs → (∀ p ∈ ps ++ qs, p.id ≠ x.path.id) →
    ∃ p stays, (e.returnPath x f n).paths = ps ++ stays ++ p :: qs ∧ p.hdr = f.ret % 2 ^ 64 ∧ p.mask = x.active ∧ p.st = .waiting ∧ p.link = f.node ∧ p.rpc = some f.ret ∧ p.ret = some x.path.pc ∧
      (x.live &&& ~~~x.active = 0 → stays = []) ∧
      (x.live &&& ~~~x.active ≠ 0 → ∃ q, stays = [q] ∧ q.hdr = (x.path.hdr + 8 * (x.path.cnt + 1)) % 2 ^ 64 ∧ q.mask = x.live &&& ~~~x.active ∧ q.st = .ready)) ∧
  (∀ (e : Gang) (n : Node) (q : Path) (m : Mask) (inCall : Bool) (d : Nat), n.kind = .call d →
    n.merged inCall q m = { q with id := n.path, mask := m, rpc := n.rpc, link := n.link, st := .ready } ∧
    (e.nodeDone n = true → e.nodeArrived n = true ∧ d = e.depth ∧ e.returnBlocked d = false)) ∧
  (∀ (e : Gang) (winMin : Nat) (f : Frame) (fs : List Frame), e.frames = fs ++ [f] → f.loose = none →
    let b := e.popFrame winMin
    b.frames = fs ∧ b.depth + 1 = e.depth ∧ b.reserve = e.reserve - (8 * f.slide + 2) ∧ b.shift = e.shift ∧ b.sregs = e.sregs ∧ b.preds = e.preds ∧
    ∀ a l, a / 8 < 2 + b.baseGranule + 14 → tget b.vregs (a, l) = tget e.vregs (a, l)) ∧
  (∀ (s : State) (x : Issue) (ret path : Nat),
    let t := s.modPath x.key path fun p => { p with ret := none }
    s.checkReturn x ret path = if t.landing x.key ret then t else t.takeTrap x.key ⟨0x23#8, 0#16, false, x.path.pc, ret, x.active, 0, [], none, path⟩)

/-- JOIN (R363): in a formed gang at WDEPTH 0 the threads whose departure stack's top names this PC return, once no register result is outstanding: their stacks pop, their live vector and predicate
registers go into their lanes of the gang they left, whose scalar registers stay (R65); their lanes leave the formed gang. A fault of the live-mask lookup restarts JOIN, one of the porter raises
SPILL_FAULT, a porter's wait holds the slot; threads whose lookup finds no entry return with nothing written back (log 58). Then, or with no such thread, the path waits at its reconvergence PC and merges as R57 and R66 give, and away from it, or in a call's path, goes on. A
node has arrived when no thread is away, none of its paths runs on and no node links to it; its paths merge into one of all their lanes with the node's number, PC and link. That threads in a path
without reconvergence return is the model's reading (log 58), and so are the path numbers (log 30). -/
def Obligations.JoinMergesPaths : Prop :=
  (∀ (s s1 : State) (x : Issue), s.ready .join = some (x, s1) →
    let after (u : State) : State :=
      if (u.gang x.key).paths.any (fun p => p.id = x.path.id) = false then (u.leaveSlot x.key).mergePaths x.key
      else if x.path.rpc = some x.path.hdr ∧ (u.gang x.key).callLink x.path.link = false then ((u.modPath x.key x.path.id fun p => { p with st := .waiting }).leaveSlot x.key).mergePaths x.key
      else u.advance x.key x.path.id
    (x.returners = [] → exec .join s = .next (after s1)) ∧
    (x.returners ≠ [] → x.gang.resultPending = true → ∃ s0, s.issueOf .join = some (x, s0) ∧ exec .join s = .next s0) ∧
    (x.returners ≠ [] → x.gang.resultPending = false → ∀ u r, (s1.catchUp x.key).safeEntry x.key x.path.hdr = (u, r) →
      (∀ e, r = .error e → ∃ s0, s.issueOf .join = some (x, s0) ∧ exec .join s = .next (s0.restartTrap x ⟨e.2.cause, 0, none, e.1, false⟩ e.2.missing)) ∧
      (∀ e, r = .ok e →
        (∀ t, u.returnAll x (e.getD ⟨noRpc, 0, 0, 0⟩) x.returners = .ok t →
          exec .join s = .next (after (t.modGang x.key fun g => g.dismiss (maskOf (x.returners.map Prod.fst))))) ∧
        (∀ t va f kind, u.returnAll x (e.getD ⟨noRpc, 0, 0, 0⟩) x.returners = .fault t va f kind → exec .join s = .next (u.spillFault x va f kind)) ∧
        (u.returnAll x (e.getD ⟨noRpc, 0, 0, 0⟩) x.returners = .stall → ∃ s0, s.issueOf .join = some (x, s0) ∧ exec .join s = .next s0)))) ∧
  (∀ (x : Issue) (l : Nat) (d : Depart), (l, d) ∈ x.returners ↔ 32 ≤ x.key.idx ∧ x.gang.depth = 0 ∧ l ∈ lanesOf x.live x.gang.width ∧
    (tgetD x.team.departs (x.gang.homeOf x.key l) []).head? = some d ∧ d.rpc = some x.path.hdr) ∧
  (∀ (s : State) (x : Issue) (e : SafeEntry) (lane : Nat) (d : Depart),
    let left : GangKey := ⟨x.key.team, d.gangLeft⟩
    let g := s.gang left
    let t := s.returnThread x e lane d
    let vs := (List.range (x.launch.vtop + 1)).filter e.vregs.testBit
    let ps := (List.range 16).filter e.preds.testBit
    tgetD (t.team x.key.team).departs (x.gang.homeOf x.key lane) [] = (tgetD (s.team x.key.team).departs (x.gang.homeOf x.key lane) []).tail ∧
    (t.gang left).sregs = g.sregs ∧ (∀ k, k ≠ left → t.gang k = s.gang k) ∧ t.mem = s.mem ∧
    ((∀ n ∈ g.nodes, ∀ c, n.kind ≠ .call c) →
      (t.gang left).vregs = (g.writeRegs (vs.map fun n => .vec (g.placeAt d.depth n) d.laneLeft (x.gang.readV n lane))).vregs ∧
      (t.gang left).preds = (g.writeRegs (ps.map fun n => .pred n d.laneLeft ((x.gang.readP n).getLsbD lane))).preds)) ∧
  (∀ (g : Gang) (n : Node), g.nodeArrived n = true ↔
    n.away = 0 ∧ (∀ m ∈ g.nodes, m.link ≠ n.id) ∧ ∀ p ∈ g.paths, p.link = n.id → p.st = .waiting) ∧
  (∀ (g : Gang) (winMin : Nat) (n : Node) (q : Path) (ps qs rs : List Path), (∀ d, n.kind ≠ .call d) →
    g.paths = ps ++ q :: qs → q.link = n.id → (∀ p ∈ ps, p.link ≠ n.id ∧ p.id ≠ q.id) → (∀ p ∈ qs, p.id ≠ q.id) → rs = qs.filter (fun p => p.link ≠ n.id) →
    let inCall : Bool := g.nodes.any fun m => m.id = n.link && m.id ≠ n.id && m.ofCall
    ∃ m, (g.mergeNode winMin n).paths = ps ++ m :: rs ∧ m.id = n.path ∧ m.rpc = n.rpc ∧ m.link = n.link ∧
      m.mask = (qs.filter fun p => p.link = n.id).foldl (fun a p => a ||| p.mask) q.mask ∧
      (n.rpc = some q.hdr → inCall = false → m.hdr = q.hdr ∧ m.st = .waiting) ∧
      (n.rpc ≠ some q.hdr ∨ inCall = true → m.st = .ready ∧ (q.pos < q.cnt → m.hdr = q.hdr ∧ m.pos = q.pos + 1)) ∧
      (g.mergeNode winMin n).vregs = g.vregs ∧ (g.mergeNode winMin n).frames = g.frames)

/-- EXIT takes its lanes out of every path and of those suspended below, its threads exit, and the guard-false lanes go on at the next clause header (R343); TRAP and BRK take TRAP with DETAIL n,
and BREAKPOINT, TMASK the active lanes and TNEXT the next clause header (R319, R411); YIELD puts its path, at the next clause header, behind the gang's others when one of those can run, neither
demotes nor resets the count towards starvation, and makes the gang clause-ready from the next cycle (R420). Each leaves the clause slot. -/
def Obligations.ClauseEndingInstructions : Prop :=
  ∀ (s s1 : State) (x : Issue) (g : Guard),
    let next := (x.path.hdr + 8 * (x.path.cnt + 1)) % 2 ^ 64
    let u := s1.modPath x.key x.path.id fun p => p.goto p.after
    (s.ready (.exit g) = some (x, s1) → exec (.exit g) s = .next ((u.leaveSlot x.key).exitThreads x.key x.active)) ∧
    (∀ n : BitVec 16, s.ready (.trap g n) = some (x, s1) → exec (.trap g n) s = .next (u.takeTrap x.key ⟨0x50#8, n, false, x.path.pc, next, x.active, 0, [], none, x.path.id⟩)) ∧
    (s.ready (.brk g) = some (x, s1) → exec (.brk g) s = .next (u.takeTrap x.key ⟨0x51#8, 0#16, false, x.path.pc, next, x.active, 0, [], none, x.path.id⟩)) ∧
    (s.ready (.yield g) = some (x, s1) →
      let e := u.gang x.key
      let others := e.paths.filter fun p => p.id ≠ x.path.id
      let t := (u.setGang x.key { e with paths := (if others.any (u.canRun x.key) then others ++ e.paths.filter (fun p => p.id = x.path.id) else e.paths), readySince := some ((u.core e.core).cycle + 1) }).leaveSlot x.key
      exec (.yield g) s = .next t ∧ (t.gang x.key).demoted = (s1.gang x.key).demoted ∧ (t.gang x.key).passed = (s1.gang x.key).passed ∧
      (t.gang x.key).vregs = (s1.gang x.key).vregs ∧ t.mem = s1.mem ∧ t.cores = s1.cores ∧ ∀ k, k ≠ x.key → t.gang k = s1.gang k) ∧
    (∀ p : Path, (p.goto p.after).hdr = (p.hdr + 8 * (p.cnt + 1)) % 2 ^ 64 ∧ (p.goto p.after).pos = 0 ∧ (p.goto p.after).mask = p.mask) ∧
    (∀ (e : Gang) (m : Mask) (l : Nat), l < 64 → (e.exitLanes m).exited.getLsbD l = (e.exited.getLsbD l || m.getLsbD l) ∧
      (∀ p ∈ (e.exitLanes m).paths, p.mask ≠ 0 ∧ (m.getLsbD l = true → p.mask.getLsbD l = false)) ∧
      ∀ t ∈ (e.exitLanes m).traps, ∀ p ∈ t.paths, p.mask ≠ 0 ∧ (m.getLsbD l = true → p.mask.getLsbD l = false))

/-- GSR writes the system register it names, read at its issue, into its destination, TLADDR into every active lane (R357, R358); SSR writes the registers that take a value, FORMWAIT and the ceiling
clamped, a written TNEXT clearing RPL (R399); WSTAT writes the figure its MOD4 selects (R419); SSR of FAMKILL with bit 0 set ends every thread of the families the gang serves and goes on, with
bit 0 clear it does nothing (R276, R399). The registers' values are R358's; the per-lane and shared ones stand where R142, R262, R270 and R275 put them. What the ending of a family takes with it is
the model's reading (log 63). -/
def Obligations.SystemRegistersReadAndWritten : Prop :=
  ∀ (s s1 : State) (x : Issue) (g : Guard),
    (∀ (d : Operand) (r : SysReg), s.ready (.gsr g d r) = some (x, s1) → r ≠ .tladdr →
      exec (.gsr g d r) s = .next ((s1.modGang x.key fun e => e.writeRegs ((x.gang.dest d (SysReg.width r)).writes x.low (s1.sysReg x.key r))).advance x.key x.path.id)) ∧
    (∀ (d : Operand), s.ready (.gsr g d .tladdr) = some (x, s1) →
      exec (.gsr g d .tladdr) s = .next ((s1.lanesSet x d 2 fun l => tgetD x.gang.topTrap.addrs l 0).advance x.key x.path.id)) ∧
    (∀ (v : Operand) (r : SysReg), s.ready (.ssr g v r) = some (x, s1) → exec (.ssr g v r) s = .next ((s1.writeSys x.key r (x.once s1 v 1)).advance x.key x.path.id)) ∧
    (∀ (d : Operand) (sel : WSel), s.ready (.wstat g d sel) = some (x, s1) →
      exec (.wstat g d sel) s = .next ((s1.modGang x.key fun e => e.writeRegs ((x.gang.dest d 1).writes x.low (x.gang.wstat sel))).advance x.key x.path.id)) ∧
    (∀ (v : Operand), s.ready (.famkillWrite g v) = some (x, s1) → x.once s1 v 1 % 2 = 0 → exec (.famkillWrite g v) s = .next (s1.advance x.key x.path.id)) ∧
    (∀ (v : Operand), s.ready (.famkillWrite g v) = some (x, s1) → x.once s1 v 1 % 2 = 1 → exec (.famkillWrite g v) s =
      .next ((((x.gang.families x.key).eraseDups).foldl (fun t h => t.killFamily x.key.team h) (s1.modPath x.key x.path.id Path.next)).leaveSlot x.key)) ∧
    -- what reads and writes give
    (∀ (t : State) (k : GangKey),
      let e := t.gang k
      let c := (t.team k.team).ctx
      let p := t.part c.part
      t.sysReg k .nstat = (if e.nstat then 1 else 0) ∧ t.sysReg k .cycle = (t.core e.core).cycle ∧ t.sysReg k .formwait = (t.ctx c).formwait ∧
      t.sysReg k .rdlease = p.rdlease ∧ t.sysReg k .wrlease = p.wrlease ∧ t.sysReg k .rdcways = p.rdcways ∧
      t.sysReg k .pceil = p.mceil * 256 + p.ceil ∧ t.sysReg k .thot = t.pkg.thot.toNat ∧ t.sysReg k .wdlimit = (t.ctx c).wdlimit.toNat ∧
      t.sysReg k .wdgrace = (t.ctx c).wdgrace.toNat ∧ t.sysReg k .famkill = 0 ∧
      (∀ tr rest, e.traps = tr :: rest → t.sysReg k .tcause = tr.tcause.toNat ∧ t.sysReg k .tpc = tr.tpc.toNat ∧ t.sysReg k .tnext = tr.tnext.toNat ∧
        t.sysReg k .tmask = tr.tmask.toNat ∧ t.sysReg k .taddr = tr.taddr.toNat) ∧
      e.wstat .depth = e.frames.length ∧ e.wstat .reserve = e.reserve ∧ e.wstat .spillcnt = e.spillcnt.toNat ∧ e.wstat .refillcnt = e.refillcnt.toNat ∧
      ∀ v, ((t.writeSys k .nstat v).gang k).nstat = decide (v % 2 = 1) ∧ ((t.writeSys k .formwait v).ctx c).formwait = max 16 (min 65535 v) ∧
        ((t.writeSys k .pceil v).part c.part).ceil = min 7 v ∧ ((t.writeSys k .pceil v).part c.part).mceil = p.mceil ∧
        ((t.writeSys k .wdlimit v).ctx c).wdlimit = BitVec.ofNat 32 v ∧ ((t.writeSys k .wdgrace v).ctx c).wdgrace = BitVec.ofNat 32 v ∧
        (∀ tr rest, e.traps = tr :: rest → ∃ tr', ((t.writeSys k .tnext v).gang k).traps = tr' :: rest ∧ tr'.tnext = BitVec.ofNat 32 v ∧ tr'.tcause.getLsbD 8 = false))

/-- In USER mode FAMKILL, both ERETs, an SSR of any register but NSTAT, a GSR of a trap register and an EXIT from a trap frame meet PRIVILEGE, the last of the decode causes (R123, R124, R268, R358,
R399), and in HANDLER mode no word does. A word that meets a decode cause traps with it, its index in the clause as DETAIL, and has no effect (R270). -/
def Obligations.PrivilegeGuardsTheHandler : Prop :=
  (∀ (x : Issue) (i : Instr), x.gang.handlerMode = true → x.illegal i ≠ some 0x06) ∧
  (∀ (x : Issue) (i : Instr), x.gang.handlerMode = false → i.shapeOk = true → i.launchFieldOk x.launch x.team.pair = true → i.operandsOk = true →
    i.launchOperandsOk x.launch = true → i.roleOk x.gang.role = true →
    (((∃ g v, i = .famkillWrite g v) ∨ (∃ g, i = .eret g) ∨ (∃ g, i = .eretSkip g) ∨ (∃ g v r, i = .ssr g v r ∧ r ≠ .nstat) ∨
      (∃ g d r, i = .gsr g d r ∧ (r = .tcause ∨ r = .tpc ∨ r = .tnext ∨ r = .tmask ∨ r = .taddr ∨ r = .tladdr ∨ r = .famkill)) ∨
      (∃ g f, i = .exit g ∧ x.gang.frames.getLast? = some f ∧ f.trapFrame = true)) ↔
    x.illegal i = some 0x06)) ∧
  (∀ (s : State) (x : Issue) (i : Instr) (c : Nat), i.isWord = true → s.issuing i.guard = some x → x.illegal i = some c →
    exec i s = .next (s.raise x ⟨c, x.path.pos - 1, none, 0, false⟩))

/-- LAUNCH acts once the gang's earlier accesses are performed (R43): 2 from a gang other than gang 0, 1 at depth 10, 4 from a record that R251 refuses or a misaligned address, 3 without a free index,
else the child's task index in bits 31:16, the lowest free one of the device range, the statuses tested in this order (R41, R244, R364); the record is read as an access of the lowest lane's thread, a memory fault on it restartable
(R43, R267). That a misaligned address gets 4 without a read is the model's reading (log 35). GROW adds to a growable grid's X and gives the old one, else GROW_LIMIT with no effect (R45, R356). WFLUSH spills every frame
below the current one and bars refills, in HANDLER mode opening the spill range (R95, R418); a result still aimed at such a granule holds the path, and a porter's fault is SPILL_FAULT. -/
def Obligations.LaunchGrowAndWflush : Prop :=
  (∀ (s s1 : State) (x : Issue) (g : Guard) (d a : Operand),
    (s.ready (.launch g d a) = some (x, s1) →
      (∀ t st, (s1.catchUp x.key).launchAt x.key (x.once s1 a 2) = .status t st →
        exec (.launch g d a) s = .next ((t.modGang x.key fun e => e.writeRegs ((x.gang.dest d 1).writes x.low st)).advance x.key x.path.id)) ∧
      (∀ va f kind, (s1.catchUp x.key).launchAt x.key (x.once s1 a 2) = .fault va f kind →
        exec (.launch g d a) s = .next (s1.memFault x 0 ⟨f.cause, laneBit x.low, va, [(x.low, va)], [(x.low, x.once s1 a 2)], f.missing, kind, none, [x.gang.dest d 1], [(x.low, va)]⟩))) ∧
    (∀ (t : State) (k : GangKey) (addr : Nat),
      let c := (t.team k.team).ctx
      (k.idx ≠ 0 → t.launchAt k addr = .status t 0x02) ∧
      (k.idx = 0 → (t.grid (t.team k.team).grid).depth = 10 → t.launchAt k addr = .status t 0x01) ∧
      (k.idx = 0 → (t.grid (t.team k.team).grid).depth ≠ 10 → addr % 64 ≠ 0 → t.launchAt k addr = .status t 0x04) ∧
      (∀ e, k.idx = 0 → (t.grid (t.team k.team).grid).depth ≠ 10 → addr % 64 = 0 → t.locs c (some (t.gang k).core) .load none addr 512 = .error e →
        t.launchAt k addr = .fault e.1 e.2 .load) ∧
      (∀ ls, k.idx = 0 → (t.grid (t.team k.team).grid).depth ≠ 10 → addr % 64 = 0 → t.locs c (some (t.gang k).core) .load none addr 512 = .ok ls →
        let r := t.gangRead k c addr ls
        let good := r.launchOk c.part (ls.map t.locByte) addr
        (good = false → t.launchAt k addr = .status r 0x04) ∧
        (good = true → r.freeDevice c = none → t.launchAt k addr = .status r 0x03) ∧
        (∀ i, good = true → r.freeDevice c = some i → t.launchAt k addr = (r.observe k).postChild k (ls.map t.locByte) i ∧
          ∀ u st, (r.observe k).postChild k (ls.map t.locByte) i = .status u st → st = i * 65536))) ∧
    (∀ (t : State) (c : CtxKey),
      (∀ i, t.freeDevice c = some i → (t.ctx c).devbase ≤ i ∧ i < 65536 ∧ (t.ctx c).devUsed.contains i = false ∧
        ∀ j, (t.ctx c).devbase ≤ j → j < i → (t.ctx c).devUsed.contains j = true) ∧
      (t.freeDevice c = none → ∀ j, (t.ctx c).devbase ≤ j → j < 65536 → (t.ctx c).devUsed.contains j = true)) ∧
    (s.ready (.grow g d a) = some (x, s1) →
      let gr := s1.grid x.team.grid
      let n := x.once s1 a 1
      (gr.launch.growable = true → gr.x + n ≤ 2 ^ 32 - 1 → exec (.grow g d a) s = .next ((((s1.catchUp x.key).setGrid x.team.grid { gr with x := gr.x + n }).modGang x.key fun e =>
        e.writeRegs ((x.gang.dest d 1).writes x.low gr.x)).advance x.key x.path.id)) ∧
      (gr.launch.growable = false ∨ 2 ^ 32 - 1 < gr.x + n → ∃ s0, s.issueOf (.grow g d a) = some (x, s0) ∧ exec (.grow g d a) s = .next (s0.raise x (.of 0x41))))) ∧
  (∀ (s s1 : State) (x : Issue) (g : Guard), s.ready (.wflush g) = some (x, s1) →
    (x.gang.flushBlocked = true → ∃ s0, s.issueOf (.wflush g) = some (x, s0) ∧ exec (.wflush g) s = .next (s0.hold x.key x.path.id .flush)) ∧
    (∀ t, x.gang.flushBlocked = false → s1.spillAll x.key x.gang.spillFuel = .ok t →
      exec (.wflush g) s = .next ((t.modGang x.key fun e => { e with refillOff := true, spillOpen := e.handlerMode }).advance x.key x.path.id)) ∧
    (∀ t va f kind, x.gang.flushBlocked = false → s1.spillAll x.key x.gang.spillFuel = .fault t va f kind → exec (.wflush g) s = .next (t.spillFault x va f kind))) ∧
  (∀ (t : State) (k : GangKey), ((t.gang k).nextSpill = none ↔ ∀ f ∈ (t.gang k).frames, f.recSpilled = true) ∧
    ((t.gang k).nextSpill = none → ∀ n, t.spillAll k n = .ok t) ∧
    (∀ n e, (t.gang k).nextSpill = some e → t.spillAll k (n + 1) = match (t.spillItem k).1 with | .ok u => u.spillAll k n | r => r))

-- Traps

/-- Taking a trap (R265, R269, R270): a precise cause saves the word's PC as TPC and TNEXT, cause, detail, mode and replay flag as TCAUSE, TMASK and TADDR; with every outstanding result written the gang
enters HANDLER mode in a slide-4 trap frame, its return PC TNEXT, on one path at the handler's clause with the faulting path's unexited lanes, its other paths suspended with the state; before
that the trap waits. Every register is as it was, but with VTOP = 127 the frame's v126 and v127, which take the lanes' faulting addresses. An uncorrectable word's record and a failed task query's
are written first (R282, R441), else no byte of memory changes. A trap at trap depth 4, at WDEPTH 65,535, past the spill stack, or to a handler without LAND = 1 is a double fault: the context is torn
down (R82, R269, R271, R272). That a handler header with V = 0 is one at once, and that a trap still waiting when another enters waits on below it, are the model's readings (log 123, log 126). -/
def Obligations.TrapEntrySavesAndEnters : Prop :=
  (∀ (s : State) (x : Issue) (c : Trap), s.raise x c =
    s.takeTrap x.key ⟨BitVec.ofNat 8 c.cause, BitVec.ofNat 16 c.detail, c.pathf, x.path.pc, x.path.pc, c.mask.getD x.active, c.taddr, [], none, x.path.id⟩) ∧
  (∀ (s : State) (k : GangKey) (i : TrapInfo),
    let u := (s.leaveSlot k).recordTrap k i
    ((u.gang k).trapReady = true → s.takeTrap k i = u.enterTrap k i) ∧
    ((u.gang k).trapReady = false → s.takeTrap k i = u.modGang k fun e => { e with pendingTrap := some i }) ∧
    (i.cause ≠ 0x60#8 → i.cause ≠ 0x21#8 → i.replay = none → u = s.leaveSlot k)) ∧
  (∀ (s : State) (k : GangKey) (i : TrapInfo),
    let hdr := ((s.ctx (s.team k.team).ctx).handler + 2 ^ 64 - (s.launchOf k).codeBase) % 2 ^ 64
    let e := s.gang k
    let t := s.enterTrap k i
    (s.canEnter k hdr = true → (s.launchOf k).vtop ≠ 127 →
      (t.gang k).handlerMode = true ∧ (t.gang k).pendingTrap = none ∧
      (∃ tr, (t.gang k).traps = tr :: e.traps ∧ tr.tpc = BitVec.ofNat 32 i.tpc ∧ tr.tnext = BitVec.ofNat 32 i.tnext ∧ tr.tmask = i.tmask ∧ tr.taddr = BitVec.ofNat 64 i.taddr ∧
        tr.addrs = i.addrs ∧ tr.handlerMode = e.handlerMode ∧ tr.paths = e.paths ∧ tr.nodes = e.nodes ∧ tr.replay = i.replay ∧ tr.tnextWritten = false ∧ tr.path = i.path ∧
        tr.pending = (if e.pendingTrap = some i then none else e.pendingTrap) ∧
        tr.tcause = i.detail ++ (0#5 ++ BitVec.ofBool i.pathf ++ BitVec.ofBool e.handlerMode ++ BitVec.ofBool i.replay.isSome ++ i.cause)) ∧
      (∃ p, (t.gang k).paths = [p] ∧ p.hdr = hdr ∧ p.pos = 0 ∧ p.mask = (e.path i.path).mask &&& ~~~e.exited ∧ p.st = .ready) ∧
      (∃ f, (t.gang k).frames = e.frames ++ [f] ∧ f.slide = 4 ∧ f.trapFrame = true ∧ f.ret = i.tnext) ∧ (t.gang k).reserve = e.reserve + 34 ∧
      (i.cause = 0x48#8 → (t.gang k).watch = .grace (s.ctx (s.team k.team).ctx).wdgrace.toNat) ∧
      (t.gang k).vregs = e.vregs ∧ (t.gang k).sregs = e.sregs ∧ (t.gang k).preds = e.preds ∧ (t.gang k).flights = e.flights ∧ (t.gang k).exited = e.exited ∧
      t.mem = s.mem ∧ t.cores = s.cores ∧ (∀ j, j ≠ k → t.gang j = s.gang j)) ∧
    (s.canEnter k hdr = true → (s.launchOf k).vtop = 127 → ∃ u : State, (u.gang k).handlerMode = true ∧ (u.gang k).vregs = e.vregs ∧
      t = match u.take k (granuleOf ((u.gang k).place 126)) with
        | .ok v => v.modGang k fun a => a.writeTrapAddrs i.addrs
        | _ => s.teardown (s.team k.team).ctx) ∧
    (4 ≤ e.traps.length ∨ 65535 ≤ e.frames.length ∨ s.reserveOk k 34 = false ∨ s.landing k hdr = false → t = s.teardown (s.team k.team).ctx))

/-- ERET waits until every other handler path is at this ERET or gone; a top frame that is no trap frame is ILLEGAL_OPERAND with the word's index, a written TNEXT without LAND = 1 BAD_TARGET (R83, R271,
R341). Else, once the results since the entry are written and the trapped frame is refilled, a porter's fault being SPILL_FAULT, the trap frame goes, mode and paths are restored, the trapped
path at TNEXT when it was written, without its header's wait; the replay slot is replayed while RPL = 1, by ERET.SKIP its counter entry returned without effect, so that it leaves the counter in issue order (R121, R267); after WATCHDOG the family's counter is 0 (R275). That the
whole trapped path returns with a guarded ERET is the model's reading (log 66), and a frame whose slide word in memory was changed is none of this statement's figures (log 52). -/
def Obligations.EretRestoresTheTrappedPaths : Prop :=
  (∀ (s s1 : State) (x : Issue) (i : Instr) (g : Guard) (replay : Bool), (i = .eret g ∧ replay = true) ∨ (i = .eretSkip g ∧ replay = false) → s.ready i = some (x, s1) →
    let waits := x.gang.paths.any fun p => p.id ≠ x.path.id && !(p.st = .atEret && p.hdr = x.path.hdr && p.pos = x.path.pos)
    let d := x.gang.depth
    (waits = true → exec i s = .next ((s1.modGang x.key fun e =>
      { e.modPath x.path.id fun p => { p with st := .atEret } with refillOff := false, spillOpen := false }).leaveSlot x.key)) ∧
    (waits = false → (∀ f, x.gang.frames.getLast? = some f → f.trapFrame = false) →
      ∃ s0, s.issueOf i = some (x, s0) ∧ exec i s = .next (s0.raise x ⟨0x04, x.path.pos - 1, none, 0, false⟩)) ∧
    (∀ f, waits = false → x.gang.frames.getLast? = some f → f.trapFrame = true →
      let bad := x.gang.topTrap.tnextWritten = true ∧ s1.landing x.key x.gang.topTrap.tnext.toNat = false
      (bad → ∃ s0, s.issueOf i = some (x, s0) ∧ exec i s = .next (s0.raise x (.of 0x23))) ∧
      (¬ bad → x.gang.returnBlocked d = true → ∃ s0, s.issueOf i = some (x, s0) ∧ exec i s = .next s0) ∧
      (∀ t, ¬ bad → x.gang.returnBlocked d = false → s1.refillTo x.key (d - 1) (14 * (d + 1)) = .ok t → exec i s = .next (t.leaveWith x replay)) ∧
      (∀ t va e kind, ¬ bad → x.gang.returnBlocked d = false → s1.refillTo x.key (d - 1) (14 * (d + 1)) = .fault t va e kind → exec i s = .next (t.spillFault x va e kind)))) ∧
  (∀ (e : Gang) (winMin : Nat) (tr : TrapState) (rest : List TrapState) (fs : List Frame) (f : Frame), e.traps = tr :: rest → e.frames = fs ++ [f] →
    let b := e.leaveHandler winMin
    b.traps = rest ∧ b.handlerMode = tr.handlerMode ∧ b.pendingTrap = tr.pending ∧ b.frames = fs ∧ b.nodes = tr.nodes ∧ b.sregs = e.sregs ∧ b.preds = e.preds ∧ b.flights = e.flights ∧
    (f.loose = none → b.reserve = e.reserve - (8 * f.slide + 2)) ∧
    b.paths.length = tr.paths.length ∧
    (∀ (n : Nat) (p : Path), tr.paths[n]? = some p → p.id ≠ tr.path → b.paths[n]? = some p) ∧
    (∀ (n : Nat) (p : Path), tr.paths[n]? = some p → p.id = tr.path → tr.tnextWritten = false → b.paths[n]? = some { p with resumed := true }) ∧
    (∀ (n : Nat) (p : Path), tr.paths[n]? = some p → p.id = tr.path → tr.tnextWritten = true → ∃ q, b.paths[n]? = some q ∧ q.hdr = tr.tnext.toNat ∧ q.pos = 0 ∧ q.resumed = true ∧ q.mask = p.mask)) ∧
  (∀ (s : State) (x : Issue) (replay : Bool),
    let tr := x.gang.topTrap
    let u := (s.leaveTrap x.key).leaveSlot x.key
    let t := if tr.tcause.toNat % 256 = 0x48 then u.modGang x.key (fun e => { e with watch := .counting, wdCycles := 0 }) else u
    (tr.replay = none → s.leaveWith x replay = t) ∧
    (∀ r, tr.replay = some r → s.leaveWith x replay =
      if replay = true ∧ tr.tcause.getLsbD 8 = true then t.replay x.key r tr else t.modGang x.key fun e => e.dropFlight r.flight))

-- Class SYN

/-- WAIT encodes as R417 gives and completes when each selected counter is at or below its threshold and, with RES, no register result is outstanding; else its path is held, and the gang cannot run
until that holds. Its examples decode so (R417). -/
def Obligations.WaitWatchesTheCounters : Prop :=
  (∀ (g : Guard) (a : WaitArgs), encode (.wait g a) = some (0xC0#8 ++ g.pg ++ boolBit g.pn ++ 0#40 ++ boolBit a.res ++ a.thr ++ a.mask)) ∧
  (∀ w : BitVec 64, field w 56 8 = 0xC0#8 → parse w = if field w 11 40 = 0#40 then
    .ok (.wait (guardBits w) ⟨field w 10 1 = 1#1, field w 4 6, field w 0 4⟩) else .error .illegalField) ∧
  (∀ (s s1 : State) (x : Issue) (g : Guard) (a : WaitArgs), s.ready (.wait g a) = some (x, s1) →
    let e := s1.gang x.key
    let met : Prop := (a.mask.getLsbD 3 = true → e.counter .ld ≤ a.thr.toNat) ∧ (a.mask.getLsbD 2 = true → e.counter .st ≤ a.thr.toNat) ∧
      (a.mask.getLsbD 1 = true → e.counter .sp ≤ a.thr.toNat) ∧ (a.mask.getLsbD 0 = true → e.counter .cp ≤ a.thr.toNat) ∧
      (a.res = true → ∀ f ∈ e.flights, f.returned = true ∨ f.dest = [] ∨ f.replaying = true)
    (met → exec (.wait g a) s = .next (s1.advance x.key x.path.id)) ∧
    (¬ met → ∃ s0, s.issueOf (.wait g a) = some (x, s0) ∧
      exec (.wait g a) s = .next (s0.hold x.key x.path.id (.wait a.res a.thr.toNat a.mask.toNat)))) ∧
  (∀ (s : State) (k : GangKey) (p : Path) (res : Bool) (thr mask : Nat), p.st = .held (.wait res thr mask) → s.canRun k p = (s.gang k).waitMet res thr mask) ∧
  (∀ (s : State) (k : GangKey) (p : Path) (ps : List Path) (res : Bool) (thr mask : Nat), (s.gang k).paths = p :: ps → p.st = .held (.wait res thr mask) →
    (s.gang k).waitMet res thr mask = false → s.running k = none ∧ s.clauseReady k = false) ∧
  decode 0xC000_0000_0000_000A = .ok (.wait ⟨0, false⟩ ⟨false, 0, 10⟩) ∧ decode 0xC000_0000_0000_0400 = .ok (.wait ⟨0, false⟩ ⟨true, 0, 0⟩)

/-- Barrier objects (R228 to R230, R311 to R313): BINIT sets phase 0 and both counts and clears words 1 and 2, flipping the phase at once with n = 0 (R230), n above 32,767 being ILLEGAL_OPERAND; it leaves word 3 as it
stands, the model's choice (log 125); BINVAL makes the object invalid; both raise BARRIER_BUSY
while it is in use; BARRIVE gives the phase before its arrival; BWAIT passes when the phase differs from its operand and else parks; BTRY says which; the three raise BARRIER_BUSY on an invalid object;
BSTAT gives word 2, and .CLR clears it. A misaligned offset raises BARRIER_ALIGN, one outside the allocation PROTECTION. -/
def Obligations.BarrierInstructions : Prop :=
  ∀ (s s1 : State) (x : Issue) (g : Guard),
    (∀ c off,
      let busy := (s1.syncPoint x.key).barrierBusy c off
      let t := s1.syncPoint x.key
      let u := s1.catchUp x.key
      let phase (w : Nat) : Bool := decide (w ≥ 2 ^ 31)
      (∀ a : BarPhArgs, s.ready (.binit g a) = some (x, s1) → x.barrierOf s1 a.s1 a.off = .ok (c, off) → x.once s1 a.s2 1 % 2 ^ 32 ≤ 32767 →
        (busy = false → exec (.binit g a) s = .next (((t.initBarrier c off (x.once s1 a.s2 1 % 2 ^ 32)).observe x.key).advance x.key x.path.id)) ∧
        (busy = true → ∃ s0, s.issueOf (.binit g a) = some (x, s0) ∧ exec (.binit g a) s = .next (s0.raise x (.of 0x38)))) ∧
      (∀ a : BarArgs, s.ready (.binval g a) = some (x, s1) → x.barrierOf s1 a.s1 a.off = .ok (c, off) →
        (busy = false → exec (.binval g a) s = .next (((t.setObjWord c off 0 0xFFFFFFFF).observe x.key).advance x.key x.path.id)) ∧
        (busy = true → ∃ s0, s.issueOf (.binval g a) = some (x, s0) ∧ exec (.binval g a) s = .next (s0.raise x (.of 0x38)))) ∧
      (∀ a : BarDstArgs, s.ready (.barrive g a) = some (x, s1) → x.barrierOf s1 a.s1 a.off = .ok (c, off) →
        (t.objWord c off 0 ≠ 0xFFFFFFFF → exec (.barrive g a) s =
          .next (((((t.arrive c off).observe x.key).progress x.key).giveAll x a.la a.d (if phase (t.objWord c off 0) then 1 else 0)).advance x.key x.path.id)) ∧
        (t.objWord c off 0 = 0xFFFFFFFF → ∃ s0, s.issueOf (.barrive g a) = some (x, s0) ∧ exec (.barrive g a) s = .next (s0.raise x (.of 0x38)))) ∧
      (∀ a : BarPhArgs, s.ready (.bwait g a) = some (x, s1) → x.barrierOf s1 a.s1 a.off = .ok (c, off) →
        let w := u.objWord c off 0
        let ph := decide (x.once u a.s2 1 % 2 = 1)
        (w ≠ 0xFFFFFFFF → phase w ≠ ph → exec (.bwait g a) s = .next ((u.observe x.key).advance x.key x.path.id)) ∧
        (w ≠ 0xFFFFFFFF → phase w = ph → ∃ s0, s.issueOf (.bwait g a) = some (x, s0) ∧ exec (.bwait g a) s = .next (s0.park x.key x.path.id (.barrier c off ph))) ∧
        (w = 0xFFFFFFFF → ∃ s0, s.issueOf (.bwait g a) = some (x, s0) ∧ exec (.bwait g a) s = .next (s0.raise x (.of 0x38)))) ∧
      (∀ a : BtryArgs, s.ready (.btry g a) = some (x, s1) → x.barrierOf s1 a.s1 a.off = .ok (c, off) →
        let w := u.objWord c off 0
        (w ≠ 0xFFFFFFFF → exec (.btry g a) s = .next (((u.observe x.key).giveAll x a.la a.d
          (if phase w ≠ decide (x.once u a.s2 1 % 2 = 1) then 1 else 0)).advance x.key x.path.id)) ∧
        (w = 0xFFFFFFFF → ∃ s0, s.issueOf (.btry g a) = some (x, s0) ∧ exec (.btry g a) s = .next (s0.raise x (.of 0x38)))) ∧
      (∀ a : BarDstArgs, x.barrierOf s1 a.s1 a.off = .ok (c, off) →
        (s.ready (.bstat g a) = some (x, s1) → exec (.bstat g a) s = .next ((t.giveAll x a.la a.d (t.objWord c off 2)).advance x.key x.path.id)) ∧
        (s.ready (.bstatClr g a) = some (x, s1) →
          exec (.bstatClr g a) s = .next ((((t.setObjWord c off 2 0).observe x.key).giveAll x a.la a.d (t.objWord c off 2)).advance x.key x.path.id)))) ∧
    (∀ a : BarPhArgs, s.ready (.binit g a) = some (x, s1) → 32767 < x.once s1 a.s2 1 % 2 ^ 32 →
      ∃ s0, s.issueOf (.binit g a) = some (x, s0) ∧ exec (.binit g a) s = .next (s0.raise x ⟨0x04, x.path.pos - 1, none, 0, false⟩)) ∧
    -- the causes of the object's address
    (∀ (i : Instr) (b : Operand) (off : BitVec 16) (c : Trap), (∃ a : BarPhArgs, b = a.s1 ∧ off = a.off ∧ (i = .bwait g a ∨ (i = .binit g a ∧ x.once s1 a.s2 1 % 2 ^ 32 ≤ 32767))) ∨
        (∃ a : BarArgs, b = a.s1 ∧ off = a.off ∧ i = .binval g a) ∨ (∃ a : BtryArgs, b = a.s1 ∧ off = a.off ∧ i = .btry g a) ∨
        (∃ a : BarDstArgs, b = a.s1 ∧ off = a.off ∧ (i = .barrive g a ∨ i = .bstat g a ∨ i = .bstatClr g a)) →
      s.ready i = some (x, s1) → x.barrierOf s1 b off = .error c → ∃ s0, s.issueOf i = some (x, s0) ∧ exec i s = .next (s0.raise x c)) ∧
    (∀ (o : Operand) (off : BitVec 16),
      let b := x.once s1 o 1 % 2 ^ 32 + off.toNat
      let mine := x.team.scratchBase ≤ b ∧ b < x.team.scratchBase + x.launch.alloc
      (b % 16 ≠ 0 → x.barrierOf s1 o off = .error (.of 0x39)) ∧ (b % 16 = 0 → ¬ mine → x.barrierOf s1 o off = .error (.of 0x11)) ∧
      (b % 16 = 0 → mine → x.barrierOf s1 o off = .ok (x.team.core, b))) ∧
    -- the words written, and nothing beside them
    (∀ (t : State) (c off i v : Nat),
      let u := t.setObjWord c off i v
      u.objWord c off i = v % 2 ^ 32 ∧ (∀ d b, (d ≠ c ∨ b < off + 4 * i ∨ off + 4 * i + 4 ≤ b) → (u.core d).scratch.read b = (t.core d).scratch.read b) ∧
      u.mem = t.mem ∧ ∀ k, (u.gang k).paths = (t.gang k).paths ∧ (u.gang k).vregs = (t.gang k).vregs ∧ (u.gang k).sregs = (t.gang k).sregs ∧ (u.gang k).preds = (t.gang k).preds) ∧
    (∀ (t : State) (c off n : Nat), n ≤ 32767 →
      let u := t.initBarrier c off n
      u.objWord c off 0 = (if n = 0 then 2 ^ 31 else n * 2 ^ 16 + n) ∧ u.objWord c off 1 = 0 ∧ u.objWord c off 2 = 0 ∧
      (∀ d b, (d ≠ c ∨ b < off ∨ off + 12 ≤ b) → (u.core d).scratch.read b = (t.core d).scratch.read b) ∧ u.mem = t.mem ∧
      ∀ k, (u.gang k).vregs = (t.gang k).vregs ∧ (u.gang k).sregs = (t.gang k).sregs ∧ (u.gang k).preds = (t.gang k).preds ∧
        (n ≠ 0 → (u.gang k).paths = (t.gang k).paths))

/-- One arrival at a valid object (R228, R230): with arrivals left over the pending count falls by one and the phase stays; the last arrival with no bytes pending flips the phase and reloads the count;
with bytes pending it waits for them; one too many is recorded as error 0x20. Only the object's own 12 bytes change. -/
def Obligations.ArrivalsFlipTheBarrier : Prop :=
  ∀ (s : State) (c off : Nat) (ph : Bool) (exp pnd : Nat), exp < 2 ^ 15 → pnd < 2 ^ 16 →
    s.objWord c off 0 = (if ph then 2 ^ 31 else 0) + exp * 2 ^ 16 + pnd → s.objWord c off 0 ≠ 0xFFFFFFFF →
    let t := s.arrive c off
    (2 ≤ pnd ∨ (pnd = 1 ∧ s.objWord c off 1 ≠ 0) → t.objWord c off 0 = (if ph then 2 ^ 31 else 0) + exp * 2 ^ 16 + (pnd - 1) ∧ ∀ k, (t.gang k).paths = (s.gang k).paths) ∧
    (pnd = 1 → s.objWord c off 1 = 0 → t.objWord c off 0 = (if ph then 0 else 2 ^ 31) + exp * 2 ^ 16 + exp) ∧
    (pnd = 0 → t.objWord c off 0 = s.objWord c off 0 ∧ t.objWord c off 2 ≥ 2 ^ 31 ∧ (s.objWord c off 2 < 2 ^ 31 → bitsAt (t.objWord c off 2) 24 7 = 0x20)) ∧
    (t.objWord c off 1 = s.objWord c off 1) ∧
    (∀ d b, (d ≠ c ∨ b < off ∨ off + 12 ≤ b) → (t.core d).scratch.read b = (s.core d).scratch.read b) ∧ t.mem = s.mem

/-- GBARRIVE arrives once and gives the phase before it, GBWAIT passes when the phase differs and else parks; a number above 4,095, or a barrier of another context or without an expected count, raises
PROTECTION (R232, R354, R355); the arrival that reaches zero flips the phase and reloads the count. RACQ, RWAIT, RCOMMIT and RFREE pass a ring's stages on, EMPTY, ACQUIRED, FULL, HELD, EMPTY, and RACQ and
RWAIT park until theirs is ready; a ring at or above the team's count, a bad block, a stage at or above the depth or in another state raises RING_STATE (R233 to R235, R388, R389). TSYNC waits in its slot until
the gang's results are written (R414). -/
def Obligations.GlobalBarriersRingsAndTsync : Prop :=
  ∀ (s s1 : State) (x : Issue) (g : Guard),
    (∀ (a : GbarriveArgs), s.ready (.gbarrive g a) = some (x, s1) →
      let t := s1.syncPoint x.key
      (∀ n, x.gbarOf s1 a.s1 a.imm = some n →
        exec (.gbarrive g a) s = .next ((((t.gbarArrive x.team.ctx.part n).progress x.key).giveAll x a.la a.d (if (t.gbar x.team.ctx.part n).ph then 1 else 0)).advance x.key x.path.id)) ∧
      (x.gbarOf s1 a.s1 a.imm = none → ∃ s0, s.issueOf (.gbarrive g a) = some (x, s0) ∧ exec (.gbarrive g a) s = .next (s0.raise x (.of 0x11)))) ∧
    (∀ (a : GbwaitArgs), s.ready (.gbwait g a) = some (x, s1) →
      let ph := decide (x.once s1 a.s2 1 % 2 = 1)
      (∀ n, x.gbarOf s1 a.s1 a.imm = some n →
        ((s1.gbar x.team.ctx.part n).ph ≠ ph → exec (.gbwait g a) s = .next ((s1.syncPoint x.key).advance x.key x.path.id)) ∧
        ((s1.gbar x.team.ctx.part n).ph = ph → ∃ s0, s.issueOf (.gbwait g a) = some (x, s0) ∧ exec (.gbwait g a) s = .next (s0.park x.key x.path.id (.gbar n ph)))) ∧
      (x.gbarOf s1 a.s1 a.imm = none → ∃ s0, s.issueOf (.gbwait g a) = some (x, s0) ∧ exec (.gbwait g a) s = .next (s0.raise x (.of 0x11)))) ∧
    (∀ (o : Operand) (imm : BitVec 12),
      let n := (x.once s1 o 1 + imm.toNat) % 2 ^ 32
      let b := s1.gbar x.team.ctx.part n
      x.gbarOf s1 o imm = if 4095 < n ∨ b.owner ≠ x.team.ctx.ctx ∨ b.expect = 0 then none else some n) ∧
    (∀ (t : State) (part n : Nat),
      let b := t.gbar part n
      (b.pending ≤ 1 → (t.gbarArrive part n).gbar part n = { b with ph := !b.ph, pending := b.expect }) ∧
      (1 < b.pending → (t.gbarArrive part n).gbar part n = { b with pending := b.pending - 1 }) ∧
      ∀ m, m ≠ n → (t.gbarArrive part n).gbar part m = t.gbar part m) ∧
    (∀ (a : RingDstArgs),
      let t := s1.syncPoint x.key
      (∀ c off, x.ringAt t a.ring = some (c, off) →
        let w0 := t.objWord c off 0
        let w1 := t.objWord c off 1
        let p := bitsAt w0 6 3
        let q := bitsAt w0 3 3
        (s.ready (.racq g a) = some (x, s1) →
          (ringStage w1 p = 0 → exec (.racq g a) s = .next ((((t.setRing c off ((p + 1) % (w0 % 8 + 1)) q (w0 % 8) (setRingStage w1 p 1)).observe x.key).giveAll x a.la a.d p).advance x.key x.path.id)) ∧
          (ringStage w1 p ≠ 0 → ∃ s0, s.issueOf (.racq g a) = some (x, s0) ∧ exec (.racq g a) s = .next (s0.park x.key x.path.id (.ringAcquire c off)))) ∧
        (s.ready (.rwait g a) = some (x, s1) →
          (ringStage w1 q = 2 → exec (.rwait g a) s = .next ((((t.setRing c off p ((q + 1) % (w0 % 8 + 1)) (w0 % 8) (setRingStage w1 q 3)).observe x.key).giveAll x a.la a.d q).advance x.key x.path.id)) ∧
          (ringStage w1 q ≠ 2 → ∃ s0, s.issueOf (.rwait g a) = some (x, s0) ∧ exec (.rwait g a) s = .next (s0.park x.key x.path.id (.ringWait c off))))) ∧
      (∀ i, i = .racq g a ∨ i = .rwait g a → s.ready i = some (x, s1) → x.ringAt t a.ring = none → ∃ s0, s.issueOf i = some (x, s0) ∧ exec i s = .next (s0.raise x (.of 0x3B)))) ∧
    (∀ (i : Instr) (a : RingStageArgs) (old new : Nat), (i = .rcommit g a ∧ old = 1 ∧ new = 2) ∨ (i = .rfree g a ∧ old = 3 ∧ new = 0) → s.ready i = some (x, s1) →
      let t := s1.syncPoint x.key
      let st := x.once t a.s1 1
      (∀ c off, x.ringAt t a.ring = some (c, off) →
        let w0 := t.objWord c off 0
        let good := st < w0 % 8 + 1 ∧ ringStage (t.objWord c off 1) st = old
        (good → exec i s = .next (((t.setRing c off (bitsAt w0 6 3) (bitsAt w0 3 3) (w0 % 8) (setRingStage (t.objWord c off 1) st new)).observe x.key).advance x.key x.path.id)) ∧
        (¬ good → ∃ s0, s.issueOf i = some (x, s0) ∧ exec i s = .next (s0.raise x (.of 0x3B)))) ∧
      (x.ringAt t a.ring = none → ∃ s0, s.issueOf i = some (x, s0) ∧ exec i s = .next (s0.raise x (.of 0x3B)))) ∧
    (∀ (t : State) (r : BitVec 2), (x.launch.rings.length ≤ r.toNat → x.ringAt t r = none) ∧
      (∀ c off, x.ringAt t r = some (c, off) → c = x.team.core ∧ off = x.team.scratchBase + x.launch.ringOff r.toNat ∧ 1 ≤ t.objWord c off 0 % 8 ∧
        bitsAt (t.objWord c off 0) 6 3 ≤ t.objWord c off 0 % 8 ∧ bitsAt (t.objWord c off 0) 3 3 ≤ t.objWord c off 0 % 8)) ∧
    (∀ (w1 st new i : Nat), st < 8 → i < 8 → new < 4 → w1 < 65536 → ringStage (setRingStage w1 st new) i = if i = st then new else ringStage w1 i) ∧
    (s.ready (.tsync g) = some (x, s1) → ((s1.gang x.key).drained = true → exec (.tsync g) s = .next (s1.advance x.key x.path.id)) ∧
      ((s1.gang x.key).drained = false → ∃ s0, s.issueOf (.tsync g) = some (x, s0) ∧ exec (.tsync g) s = .next s0))

/-- CHANBIND binds a send register to a receive register of a core: PROTECTION for a core outside the partition or without a team of the context, then DIE_FENCED, then CHANNEL_CLOSED for a register of another
gang (R239, R325). MSGSEND sends the lowest lane's value with its credit, or parks without one, CHANNEL_CLOSED without a binding of its own, DIE_FENCED to a fenced die (R240, R378). MSGRECV gives every lane
the flit and true; on a closed channel, or with .NB on an empty one, false alone; else it parks (R241, R378). MOV from, to and between channels does the same, a send without credit holding its slot, CHANNEL_CLOSED and
DIE_FENCED as MSGSEND (R376). A flit lands in order, in a free register: none sent earlier between the two cores that could land is passed (R13, R240), and its reader's credit goes back to the register that sent it,
one that is saved too (R240). That a team on a fenced die's core counts as there is the model's reading (log 47), and so are what a flit that cannot land holds back (log 79) and where one lands whose receiver is saved
(log 100). -/
def Obligations.ChannelsAndMessages : Prop :=
  ∀ (s s1 : State) (x : Issue) (g : Guard),
    (∀ a : ChanbindArgs, s.ready (.chanbind g a) = some (x, s1) →
      let c := x.once s1 a.s1 1
      let there : Prop := (s1.part x.team.ctx.part).ownsCore c = true ∧ s1.coreHasTeam x.team.ctx c = true
      (¬ there → ∃ s0, s.issueOf (.chanbind g a) = some (x, s0) ∧ exec (.chanbind g a) s = .next (s0.raise x (.of 0x11))) ∧
      (there → s1.pkg.fenced.contains (dieOf c) = true → ∃ s0, s.issueOf (.chanbind g a) = some (x, s0) ∧ exec (.chanbind g a) s = .next (s0.raise x (.of 0x61))) ∧
      (there → s1.pkg.fenced.contains (dieOf c) = false →
        ((∀ b, tget (s1.core x.gang.core).mo a.mo.toNat = some b → b.owner = x.key) → exec (.chanbind g a) s = .next ((s1.bind x.key a.mo.toNat c a.mi.toNat).advance x.key x.path.id)) ∧
        (∀ b, tget (s1.core x.gang.core).mo a.mo.toNat = some b → b.owner ≠ x.key →
          ∃ s0, s.issueOf (.chanbind g a) = some (x, s0) ∧ exec (.chanbind g a) s = .next (s0.raise x (.of 0x3A))))) ∧
    (∀ (t : State) (mo core mi : Nat), 
      (tget ((t.bind x.key mo core mi).core (t.gang x.key).core).mo mo).map (fun b => (b.owner, b.core, b.mi, b.credit)) = some (x.key, core, mi, true) ∧
      tgetD ((t.bind x.key mo core mi).core core).producers mi 0 = tgetD (t.core core).producers mi 0 + 1) ∧
    (∀ (a : MsgsendArgs) (n : BitVec 2), s.ready (.msgsend g a) = some (x, s1) → a.d = .mo n →
      (∀ b, s1.sendCheck x.key n.toNat = .ready b → exec (.msgsend g a) s = .next ((s1.sendFlit x.key n.toNat b (x.once s1 a.s1 (if a.b64 then 2 else 1))).advance x.key x.path.id)) ∧
      (s1.sendCheck x.key n.toNat = .full → ∃ s0, s.issueOf (.msgsend g a) = some (x, s0) ∧ exec (.msgsend g a) s = .next (s0.park x.key x.path.id (.credit n.toNat))) ∧
      (s1.sendCheck x.key n.toNat = .closed → ∃ s0, s.issueOf (.msgsend g a) = some (x, s0) ∧ exec (.msgsend g a) s = .next (s0.raise x (.of 0x3A))) ∧
      (s1.sendCheck x.key n.toNat = .fenced → ∃ s0, s.issueOf (.msgsend g a) = some (x, s0) ∧ exec (.msgsend g a) s = .next (s0.raise x (.of 0x61)))) ∧
    (∀ (t : State) (k : GangKey) (n : Nat), t.sendCheck k n = match tget (t.core (t.gang k).core).mo n with
      | none => .closed
      | some b => if b.owner ≠ k then .closed else if t.pkg.fenced.contains (dieOf b.core) = true then .fenced else if b.credit = false then .full else .ready b) ∧
    (∀ (a : MsgrecvArgs) (n : BitVec 2), s.ready (.msgrecv g a) = some (x, s1) → a.s1 = .mi n →
      let d := x.gang.dest a.d 2
      let pq := Dest.pred a.pq.toNat
      let flit := tget (s1.core (s1.gang x.key).core).flits n.toNat
      let open' : Prop := tgetD (s1.core (s1.gang x.key).core).producers n.toNat 0 ≠ 0
      (∀ f, flit = some f → exec (.msgrecv g a) s = .next (((s1.takeFlit x.key n.toNat f).addResult x (some .sp) a.la [d, pq]
        (d.laneWrites x.lanes (fun _ => f.value) ++ pq.laneWrites x.lanes fun _ => 1) false).advance x.key x.path.id)) ∧
      (flit = none → (¬ open' ∨ a.nb = true) →
        exec (.msgrecv g a) s = .next ((s1.addResult x (some .sp) a.la [d, pq] (pq.laneWrites x.lanes fun _ => 0) false).advance x.key x.path.id)) ∧
      (flit = none → open' → a.nb = false → ∃ s0, s.issueOf (.msgrecv g a) = some (x, s0) ∧ exec (.msgrecv g a) s = .next (s0.park x.key x.path.id (.receive n.toNat)))) ∧
    (∀ (a : MovArgs) (n : BitVec 2), s.ready (.mov g a) = some (x, s1) → a.s1 = .reg (.mi n) → (∀ m, a.d ≠ .mo m) →
      let flit := tget (s1.core (s1.gang x.key).core).flits n.toNat
      let open' : Prop := tgetD (s1.core (s1.gang x.key).core).producers n.toNat 0 ≠ 0
      (∀ f, flit = some f → exec (.mov g a) s = .next (((s1.takeFlit x.key n.toNat f).lanesSet x a.d a.ty.regs fun _ => f.value).advance x.key x.path.id)) ∧
      (flit = none → open' → ∃ s0, s.issueOf (.mov g a) = some (x, s0) ∧ exec (.mov g a) s = .next (s0.park x.key x.path.id (.receive n.toNat))) ∧
      (flit = none → ¬ open' → ∃ s0, s.issueOf (.mov g a) = some (x, s0) ∧ exec (.mov g a) s = .next (s0.raise x (.of 0x3A)))) ∧
    (∀ (a : MovArgs) (m : BitVec 2), s.ready (.mov g a) = some (x, s1) → (∀ n, a.s1 ≠ .reg (.mi n)) → a.d = .mo m →
      (∀ b, s1.sendCheck x.key m.toNat = .ready b → exec (.mov g a) s = .next ((s1.sendFlit x.key m.toNat b (x.readB s1 a.s1 a.ty x.low)).advance x.key x.path.id)) ∧
      (s1.sendCheck x.key m.toNat = .full → ∃ s0, s.issueOf (.mov g a) = some (x, s0) ∧ exec (.mov g a) s = .next s0)) ∧
    (∀ (a : MovArgs) (n m : BitVec 2), s.ready (.mov g a) = some (x, s1) → a.s1 = .reg (.mi n) → a.d = .mo m →
      let flit := tget (s1.core (s1.gang x.key).core).flits n.toNat
      let open' : Prop := tgetD (s1.core (s1.gang x.key).core).producers n.toNat 0 ≠ 0
      (∀ f b, flit = some f → s1.sendCheck x.key m.toNat = .ready b →
        exec (.mov g a) s = .next (((s1.takeFlit x.key n.toNat f).sendFlit x.key m.toNat b f.value).advance x.key x.path.id)) ∧
      (∀ f, flit = some f → s1.sendCheck x.key m.toNat = .full → ∃ s0, s.issueOf (.mov g a) = some (x, s0) ∧ exec (.mov g a) s = .next s0) ∧
      (flit = none → open' → ∃ s0, s.issueOf (.mov g a) = some (x, s0) ∧ exec (.mov g a) s = .next (s0.park x.key x.path.id (.receive n.toNat))) ∧
      (flit = none → ¬ open' → ∃ s0, s.issueOf (.mov g a) = some (x, s0) ∧ exec (.mov g a) s = .next (s0.raise x (.of 0x3A)))) ∧
    (∀ (a : MovArgs) (m : BitVec 2), s.ready (.mov g a) = some (x, s1) → a.d = .mo m →
      (∀ n, a.s1 = .reg (.mi n) → (tget (s1.core (s1.gang x.key).core).flits n.toNat).isSome = true) →
      (s1.sendCheck x.key m.toNat = .closed → ∃ s0, s.issueOf (.mov g a) = some (x, s0) ∧ exec (.mov g a) s = .next (s0.raise x (.of 0x3A))) ∧
      (s1.sendCheck x.key m.toNat = .fenced → ∃ s0, s.issueOf (.mov g a) = some (x, s0) ∧ exec (.mov g a) s = .next (s0.raise x (.of 0x61)))) ∧
    (∀ (core mo : Nat) (f : Flit) (rest : List Flit), s.nextFlit core mo [] s.transit = some (f, rest) → s.pkg.fenced.contains (dieOf f.core) = false →
      ∃ t : State, exec (.flitDelivery core mo) s = .next t ∧ t.transit = rest ∧ t.mem = s.mem ∧
        (s.savedUnit f = none →
          (f.data.isSome = true → tget (t.core f.core).flits f.mi = some f) ∧
          (f.data = none → tgetD (t.core f.core).producers f.mi 0 = tgetD (s.core f.core).producers f.mi 0 - 1)) ∧
        (∀ part u, s.savedUnit f = some (part, u) → t.cores = s.cores ∧ t.gangs = s.gangs ∧
          ∀ v, tget (s.part part).units u = some v → (tget (t.part part).units u).map MsgUnit.late = some (v.late ++ [f])) ∧
        f.fromCore = core ∧ f.fromMo = mo ∧
        ∃ before after, s.transit = before ++ f :: after ∧ rest = before ++ after ∧
          (∀ e ∈ before, ¬(e.core = f.core ∧ e.fromCore = f.fromCore ∧ (e.mi = f.mi ∨ s.mayLand e = true))) ∧
          (f.data.isSome = true → s.savedUnit f = none → tget (s.core f.core).flits f.mi = none)) ∧
    -- a credit goes back to the register that sent the flit, also while its team is saved
    (∀ (t : State) (f : Flit) (b : Binding), tget (t.core f.fromCore).mo f.fromMo = some b → b.id = f.id →
      (tget ((t.returnCredit f).core f.fromCore).mo f.fromMo).map Binding.credit = some true) ∧
    (∀ (t : State) (f : Flit) (part : Nat) (p : Part) (u : Nat × Nat) (v : MsgUnit) (b : Binding), tget t.parts part = some p → tget p.units u = some v → u.2 = f.fromCore →
      tget v.mo f.fromMo = some b → b.id = f.id →
      ((tget ((t.returnCredit f).part part).units u).bind fun w => tget w.mo f.fromMo).map Binding.credit = some true)

/-- PWRREQ adds its units to the gang's reservation and gives them, or gives 0 when they are 0, above 65,535, or would take the cluster's reservations past half of ILIM; PWRREL
gives the reservation back; PERFLVL sets the team's level, at most 7 (R260, R381). A weighbridge window starts with the standing reservations, and grants the oldest request that ILIM alone does not
hold; LEAVE_GRANT grants the oldest whose remainder fits (R258 to R260; the order among the requests that fit is the model's choice, log 93). A cluster runs at the least of what is asked and every
clamp, at 0 without a team (R261); a sweep moves a clamp by one, never below 1, and THOT names the reading (R262); a rebase lowers a partition's program times by one amount and changes no byte (R210);
coolant alarms set and lift MCEIL, and at 70 C every error log gains a record and power goes (R302). -/
def Obligations.PowerRequestsAndSteps : Prop :=
  (∀ (s s1 : State) (x : Issue) (g : Guard),
    (∀ a : PwrreqArgs, s.ready (.pwrreq g a) = some (x, s1) →
      let n := x.once s1 a.s1 1
      let ok : Prop := 1 ≤ n ∧ n ≤ 65535 ∧ 2 * (s1.reserved (clusterOf x.gang.core) + n) ≤ Config.ilim s1.pkg.firmware
      (ok → exec (.pwrreq g a) s = .next (((s1.modGang x.key fun e => { e with reservation := e.reservation + n }).inFlight x (some .sp) a.la a.d 1 (fun _ => n) false).advance x.key x.path.id)) ∧
      (¬ ok → exec (.pwrreq g a) s = .next ((s1.inFlight x (some .sp) a.la a.d 1 (fun _ => 0) false).advance x.key x.path.id))) ∧
    (∀ (la : BitVec 4) (d : Operand), s.ready (.pwrrel g la d) = some (x, s1) → exec (.pwrrel g la d) s =
      .next (((s1.modGang x.key fun e => { e with reservation := 0, resLeft := 0 }).inFlight x (some .sp) la d 1 (fun _ => x.gang.reservation) false).advance x.key x.path.id)) ∧
    (∀ (o : Operand), s.ready (.perflvl g o) = some (x, s1) →
      exec (.perflvl g o) s = .next ((s1.modTeam x.key.team fun t => { t with level := min 7 (x.once s1 o 1) }).advance x.key x.path.id))) ∧
  (∀ (s : State),
    (∀ n,
      let u := { (s.setCluster n { s.cluster n with charge := s.reserved n }) with
        gangs := s.gangs.map fun (e : GangKey × Gang) => if clusterOf e.2.core = n then (e.1, { e.2 with resLeft := e.2.reservation }) else e }
      let big := u.oldestRequest n fun k units => (u.gang k).leaveRest units > Config.ilim s.pkg.firmware
      (big = none → exec (.weighbridgeWindow n) s = .next u) ∧
      (∀ k o units since, big = some (k, o, units, since) → exec (.weighbridgeWindow n) s = .next (u.grant k units since))) ∧
    (∀ n k o u since, s.oldestRequest n (s.leaveFits 0) = some (k, o, u, since) → exec (.leaveGrant n) s = .next (s.grant k u since)) ∧
    (∀ n, s.oldestRequest n (s.leaveFits 0) = none → exec (.leaveGrant n) s = .next s) ∧
    (∀ k units since, ((s.grant k units since).gang k).leave = .granted ∧ ((s.grant k units since).cluster (clusterOf (s.gang k).core)).charge =
      (s.cluster (clusterOf (s.gang k).core)).charge + (units - (s.gang k).resLeft) ∧ ((s.grant k units since).gang k).resLeft = (s.gang k).resLeft - units) ∧
    (∀ n, ∃ t : State, exec (.perfLevelChange n) s = .next t ∧ { t with clusters := s.clusters } = s ∧ (∀ m, m ≠ n → t.cluster m = s.cluster m) ∧
      (t.cluster n).charge = (s.cluster n).charge ∧ (t.cluster n).thermal = (s.cluster n).thermal ∧ (t.cluster n).slack = (s.cluster n).slack ∧
      ((s.clusterTeams n) = [] → (t.cluster n).level = 0) ∧
      ((s.clusterTeams n) ≠ [] → (t.cluster n).level = min (s.requested n) (min (min (s.partOfCluster n).ceil (s.partOfCluster n).mceil) (min (s.cluster n).thermal (s.cluster n).slack)))) ∧
    (∀ r, ∃ t : State, exec (.thermalSweep [r]) s = .next t ∧ t.pkg.thot = BitVec.ofNat 16 r.hottestBench ++ r.temp ∧
      (t.cluster r.cluster).thermal = (if r.temp.toInt ≥ Config.tripTemp s.pkg.firmware then max 1 ((s.cluster r.cluster).thermal - 1)
        else if r.temp.toInt < Config.holdTemp s.pkg.firmware then min 7 ((s.cluster r.cluster).thermal + 1) else (s.cluster r.cluster).thermal) ∧
      (∀ m, m ≠ r.cluster → t.cluster m = s.cluster m) ∧ t.mem = s.mem ∧ t.gangs = s.gangs) ∧
    (∀ p, ∃ t : State, exec (.timeRebase p) s = .next t ∧ t.mem = s.mem ∧
      ∀ k g, tget s.gangs k = some g → tget t.gangs k = some (if (s.team k.team).ctx.part = p then { g with pt := g.pt - s.rebaseBy p } else g)) ∧
    (∃ t : State, exec .coolantAlarm s = .next t ∧ (∀ p, p < 12 → t.part p = { s.part p with mceil := 1 }) ∧ { t with parts := s.parts } = s) ∧
    (∃ t : State, exec .coolantRecover s = .next t ∧ (∀ p, p < 12 → t.part p = { s.part p with mceil := 7 }) ∧ { t with parts := s.parts } = s) ∧
    (∃ t : State, exec .coolantFatal s = .next t ∧ t.pkg.powered = false ∧ (∀ p, p < 12 → tgetD t.pkg.errors p 0 = tgetD s.pkg.errors p 0 + 1) ∧ t.gangs = s.gangs ∧
      step t = .fault .powerOff))

-- The other agents' steps

/-- ISSUE_SELECT with its clause slot free gives it to the gang that R256's order picks among the clause-ready ones that the throttle lets through, a wide one alone, a narrow one with those it then picks by the same order for the free lane quarters, of one ENG (R50), and with a gang in the slot, or none to
pick, changes no slot (R49, R256, R258); the order: pre-emption, starvation, priority, no demotion, the earliest ready (R256). A gang passed over 48 times is starved (R52). TRANSLATION_WALK keeps a
translation in a TLB of the context's partition, and one that meets a cause keeps nothing (R12, R273); REPLICA_PROPAGATION lets the oldest store of an address reach a die's replica (R211); PROGRAM_TIME_TICK raises a program time by 1, and the
partition rebases before its 48 bits are short (R208, R210). What rule 6's gang number is, what a passed-over slot counts, and the rebase's amount are the model's choices (log 117, log 64, log 14). -/
def Obligations.CoreEventsAct : Prop :=
  (∀ (s : State) (core bench : Nat),
    let t := s.noteReady core
    let ready := t.readyOn core bench
    let ks := ready.filter fun k => !t.throttled core (t.clauseEng k)
    ((t.bench core bench).slot ≠ [] → exec (.issueSelect core bench) s = .next t) ∧
    ((t.bench core bench).slot = [] → ks = [] → exec (.issueSelect core bench) s = .next t) ∧
    (∀ k, (t.bench core bench).slot = [] → t.pick false ks = some k → 16 < (t.gang k).width →
      exec (.issueSelect core bench) s = .next ((if (t.gang k).preempted then t else t.passOver ready [k]).enterSlot core bench k)) ∧
    (∀ k, (t.bench core bench).slot = [] → t.pick false ks = some k → (t.gang k).width ≤ 16 →
      ∃ more : List GangKey, exec (.issueSelect core bench) s =
          .next ((k :: more).foldl (fun u j => u.enterSlot core bench j) (if (t.gang k).preempted then t else t.passOver ready (k :: more))) ∧
        more.length ≤ 3 ∧ (∀ j ∈ more, j ∈ ks ∧ j ≠ k ∧ (t.gang j).width ≤ 16 ∧ t.clauseEng j = t.clauseEng k) ∧
        (k :: more).Pairwise (fun i j => ∀ q ∈ (t.gang i).quarters, q ∉ (t.gang j).quarters) ∧
        (let fits (chosen : List GangKey) : List GangKey := ks.filter fun j => !chosen.contains j && (t.gang j).width ≤ 16 && t.clauseEng j = t.clauseEng k &&
          (t.gang j).quarters.all fun q => chosen.all fun i => !(t.gang i).quarters.contains q
        (∀ before j after, more = before ++ j :: after → t.pick (t.steering core) (fits (k :: before)) = some j) ∧
        (more.length < 3 → t.pick (t.steering core) (fits (k :: more)) = none))) ∧
    (∀ k, t.pick false ks = some k → k ∈ ks) ∧ (∀ k ∈ s.readyOn core bench, s.clauseReady k = true)) ∧
  (∀ (s : State) (a b : GangKey),
    let x := s.gang a
    let y := s.gang b
    let before (p q : Bool) (rest : Prop) : Prop := (p = true → q = false → s.selects false a b = true) ∧ (p = false → q = true → s.selects false a b = false) ∧ (p = q → rest)
    before x.preempted y.preempted (before x.starved y.starved (x.starved = false →
      before (decide (s.gangPrio b < s.gangPrio a)) (decide (s.gangPrio a < s.gangPrio b)) (before (!x.demoted) (!y.demoted)
        ((x.readySince.getD 0 < y.readySince.getD 0 → s.selects false a b = true) ∧ (y.readySince.getD 0 < x.readySince.getD 0 → s.selects false a b = false)))))) ∧
  (∀ (s : State) (k : GangKey) (g : Gang), tget s.gangs k = some g →
    (48 ≤ g.passed → ∃ t : State, exec (.gangStarved k) s = .next t ∧ t.gang k = { g with starved := true } ∧ (∀ j, j ≠ k → t.gang j = s.gang j) ∧ { t with gangs := s.gangs } = s) ∧
    (g.passed < 48 → exec (.gangStarved k) s = .next s) ∧
    (∃ u : State, exec (.programTimeTick k) s = .next (u.timeRoom (s.partOf k)) ∧ u.gang k = { g with pt := g.pt + 1 } ∧ (∀ j, j ≠ k → u.gang j = s.gang j) ∧
      (u.part (s.partOf k)).top = max (s.part (s.partOf k)).top (g.pt + 1) ∧ { u with gangs := s.gangs, parts := s.parts } = s)) ∧
  (∀ (s : State) (p : Nat), ((s.part p).top + 2 ^ 21 < 2 ^ 48 → s.timeRoom p = s) ∧ (2 ^ 48 ≤ (s.part p).top + 2 ^ 21 → s.timeRoom p = s.rebase p)) ∧
  (∀ (s : State) (core : Nat) (c : CtxKey) (va : Nat),
    ((s.part c.part).ownsCore core = false → exec (.translationWalk core c va) s = .next s) ∧
    (∀ f, s.lookup (some core) c va = .error f → exec (.translationWalk core c va) s = .next s) ∧
    (∀ l : Leaf, (s.part c.part).ownsCore core = true → s.lookup (some core) c va = .ok l →
      ∃ t : State, exec (.translationWalk core c va) s = .next t ∧ t.mem = s.mem ∧ t.gangs = s.gangs ∧ l ∈ tgetD (t.core core).tlb (tlbKey c) [] ∧
        (∀ d, d ≠ core → t.core d = s.core d) ∧ (t.core core).scratch = (s.core core).scratch)) ∧
  (∀ (s : State) (die addr : Nat) (before after : List Lag) (e : Lag),
    let meets (l : Lag) : Prop := die ∈ l.dies ∧ l.addr ≤ addr ∧ addr < l.addr + l.olds.length
    s.lags = before ++ e :: after → meets e → (∀ b ∈ before, ¬ meets b) →
    exec (.replicaPropagation die addr) s = .next { s with lags := before ++ (if (e.dies.filter (fun d => d ≠ die)) = [] then [] else [{ e with dies := e.dies.filter fun d => d ≠ die }]) ++ after })

/-- TRAP_ENTRY takes a waiting trap once the gang's results are written (R119, R269). WATCHDOG comes to a placed home gang whose family has run LIMIT cycles without progress, on the path at a clause boundary
or one that waits, unparked, with TPC and TNEXT its position (R265, R275, R276); a handler whose grace has run out has its context torn down (R276). FQREPLY: a number without an unanswered entry sets REJ and
changes nothing else (R295); otherwise the entry goes and every agent parked on it hears the verdict: a serviced gang replays, or issues its word again, a refused one takes its trap (R274). Which path of a
waiting gang takes WATCHDOG, that a home gang without a path takes none, and that a page fault's entry stays, are the model's reading (log 69). -/
def Obligations.TrapWatchdogAndReplySteps : Prop :=
  (∀ (s : State) (k : GangKey),
    (∀ i, (s.gang k).pendingTrap = some i → (s.gang k).trapReady = true → exec (.trapEntry k) s = .next (s.enterTrap k i)) ∧
    (∀ i, (s.gang k).pendingTrap = some i → (s.gang k).trapReady = false → exec (.trapEntry k) s = .next s) ∧
    ((s.gang k).pendingTrap = none → exec (.trapEntry k) s = .next s) ∧
    (∀ (g : Gang), tget s.gangs k = some g → k.idx < 32 → (s.team k.team).res = .placed → g.watch = .counting →
      let lim := (s.ctx (s.team k.team).ctx).wdlimit
      let cycles := if lim = 0 then 2 ^ 32 else lim.toNat
      (g.wdCycles < cycles → exec (.watchdogExpiry k) s = .next s) ∧
      (cycles ≤ g.wdCycles → g.pendingTrap = none → exec (.watchdogExpiry k) s = .next ((s.modGang k fun x => { x with watch := .expired }).deliverWatch k)) ∧
      (cycles ≤ g.wdCycles → g.pendingTrap.isSome = true → exec (.watchdogExpiry k) s = .next (s.modGang k fun x => { x with watch := .expired }))) ∧
    (s.watchPath k = none → s.deliverWatch k = s) ∧
    (∀ (p : Path), s.watchPath k = some p → (s.gang k).faultWait = none → s.deliverWatch k =
      (s.modPath k p.id fun q => if q.isParked then { q with st := .ready, resumed := true } else q).takeTrap k
        ⟨0x48, 0, false, ((s.gang k).path p.id).pc, ((s.gang k).path p.id).pc, ((s.gang k).path p.id).mask &&& ~~~(s.gang k).exited, 0, [], none, p.id⟩) ∧
    (∀ (g : Gang), tget s.gangs k = some g → g.watch = .grace 0 → exec (.watchdogGraceExpiry k) s = .next (s.teardown (s.team k.team).ctx)) ∧
    (∀ (g : Gang) (n : Nat), tget s.gangs k = some g → g.watch = .grace (n + 1) → exec (.watchdogGraceExpiry k) s = .next s)) ∧
  (∀ (s : State) (p n : Nat) (i : Instr) (ok : Bool), (i = .fqreplyServiced p n ∧ ok = true) ∨ (i = .fqreplyRefused p n ∧ ok = false) →
    ((∀ e ∈ (s.part p).fq, e.seq ≠ n) → ∃ t : State, exec i s = .next t ∧ t.part p = { s.part p with rej := true } ∧ (∀ q, q ≠ p → t.part q = s.part q) ∧ { t with parts := s.parts } = s) ∧
    (∀ e, (s.part p).fq.find? (fun e => e.seq = n) = some e →
      exec i s = .next ((e.agents.foldl (fun t a => t.answerAgent p ok a) (s.modPart p fun x => { x with fq := x.fq.filter fun y => y.seq ≠ n })).requeue p)) ∧
    (∀ (k : GangKey) (g : Gang) (w : PageWait), tget s.gangs k = some g → g.faultWait = some w →
      let u := s.modGang k fun g => { g.modPath w.info.path (fun q => if q.st = .parked .service then { q with st := .ready, resumed := false } else q) with faultWait := none }
      (ok = false → s.answerAgent p ok (.gang k) = u.takeTrap k w.info) ∧
      (∀ r, ok = true → w.info.replay = some r → s.answerAgent p ok (.gang k) = u.replaySlot k r ⟨w.info.tpc, w.info.tnext, w.info.path⟩) ∧
      (ok = true → w.info.replay = none → s.answerAgent p ok (.gang k) = u)))

/-- The former releases the first key that can be released among those whose threads fill a gang, and, when every gang of the team waits, is parked or has ended, any (R62); or one whose oldest thread is FORMWAIT
cycles old. Its oldest threads, all in spawn memory, become the lanes of a fresh gang at their target with their carried scalars (R62, R63). An overflow entry returns when its core's spawn memory has
room (R93); the porter spills or refills one item, a fault stopping its spills until an instruction needs the space, and a fault of a refill that a finished call or handler waits for trapping, or parking, the first live path (R85, R86, R94, R274); a gang without threads and with LD, ST and SP at 0 ends (R343), and its
team with the last (R54). That only threads of one role form a gang, and that it takes the lowest free index and the first bench with room, are the model's reading (log 62). -/
def Obligations.FormerPorterAndGangEnd : Prop :=
  ∀ (s : State),
    (∀ (team : Nat), exec (.formedGangRelease team) s =
        .next (s.releaseFirst team ((s.spawnKeys team).filter (s.keyFull team) ++ if s.teamIdle team then s.spawnKeys team else [])) ∧
      exec (.formwaitExpiry team) s = .next (s.releaseFirst team ((s.spawnKeys team).filter (s.keyOld team)))) ∧
    (∀ (team : Nat) (no rest : List SpawnKey) (key : SpawnKey) (t : State), (∀ k ∈ no, s.release team k = none) →
      s.releaseFirst team no = s ∧ (s.release team key = some t → s.releaseFirst team (no ++ key :: rest) = t)) ∧
    (∀ (team : Nat) (key : SpawnKey) (t : State), s.release team key = some t →
      let es := (s.underKey team key).take (s.grid (s.team team).grid).launch.width
      (s.team team).res = .placed ∧ es ≠ [] ∧ (∀ e ∈ es, e.cell = none) ∧
      ∃ i, 32 ≤ i ∧ i < 64 ∧ tget s.gangs ⟨team, i⟩ = none ∧
        let g := t.gang ⟨team, i⟩
        g.home = es.map (fun e => (e.homeGang, e.homeLane)) ∧ g.live = maskOf (List.range es.length) ∧ g.exited = 0 ∧ g.frames = [] ∧ g.sregs = key.2.1 ∧
        (∃ p, g.paths = [p] ∧ p.hdr = key.1 ∧ p.pos = 0 ∧ p.mask = g.live ∧ p.st = .ready)) ∧
    (∀ (team : Nat) (key : SpawnKey) (e : Spawn) (es : List Spawn), s.underKey team key = e :: es →
      (s.keyOld team key = true ↔ (s.ctx (s.team team).ctx).formwait ≤ e.age) ∧
      (s.keyFull team key = true ↔ (s.grid (s.team team).grid).launch.width ≤ es.length + 1)) ∧
    (∀ (team : Nat),
      (s.nextBack team (s.team team).spawn [] = none → exec (.spawnOverflowMove team) s = .next s) ∧
      (∀ e, s.nextBack team (s.team team).spawn [] = some e →
        let core := (s.gang ⟨team, e.depart.gangLeft⟩).core
        e ∈ (s.team team).spawn ∧ e.cell.isSome = true ∧ s.spawnUse core + e.bytes ≤ 131072 ∧
        (∀ ls, s.locs (s.team team).ctx (some core) .refill none (s.cellAddr team (e.cell.getD 0)) e.bytes = .ok ls →
          exec (.spawnOverflowMove team) s =
            .next (((s.fillRange (some core) (s.team team).ctx (s.cellAddr team (e.cell.getD 0)) e.bytes).askRemote ls).putSpawn team (e.reload (ls.map s.locByte)))) ∧
        (∀ f, s.locs (s.team team).ctx (some core) .refill none (s.cellAddr team (e.cell.getD 0)) e.bytes = .error f → exec (.spawnOverflowMove team) s = .next s))) ∧
    (∀ (k : GangKey) (g : Gang), tget s.gangs k = some g →
      (∀ t, g.spillStopped = none → (s.spillItem k).1 = .ok t → exec (.porterSpill k) s = .next t) ∧
      (∀ t va f kind, g.spillStopped = none → (s.spillItem k).1 = .fault t va f kind →
        exec (.porterSpill k) s = .next (s.modGang k fun x => { x with spillStopped := some (va, f.cause, f.missing) })) ∧
      (g.spillStopped.isSome = true ∨ (s.spillItem k).1 = .stall ∨ (s.spillItem k).1 = .overflow → exec (.porterSpill k) s = .next s) ∧
      (∀ t, g.wantsRefill = true → s.refillItem k = .ok t → exec (.porterRefill k) s = .next ((t.modGang k fun x => x.closeFrame (t.launchOf k).winMin).mergePaths k)) ∧
      (∀ t va f kind, g.wantsRefill = true → s.refillItem k = .fault t va f kind → exec (.porterRefill k) s =
        .next (if (t.gang k).callOver = true ∨ (t.gang k).closing = true then t.porterFault k va f kind else t)) ∧
      (g.wantsRefill = false → exec (.porterRefill k) s = .next s) ∧
      (g.over = true → (s.team k.team).res = .placed → exec (.gangEnd k) s = .next (s.endGang k)) ∧
      (g.over = false ∨ (s.team k.team).res ≠ .placed → exec (.gangEnd k) s = .next s) ∧
      (g.over = true ↔ g.live &&& ~~~g.exited = 0 ∧ g.counter .ld = 0 ∧ g.counter .st = 0 ∧ g.counter .sp = 0)) ∧
    (∀ (k : GangKey) (p : Path) (va : Nat) (f : MFault) (kind : AccessKind), (s.gang k).paths.find? (fun p => p.mask &&& ~~~(s.gang k).exited ≠ 0) = some p →
      (s.gang k).faultWait = none → (s.gang k).pendingTrap = none →
      let info : TrapInfo := ⟨0x21, 0, false, p.pc, p.pc, p.mask &&& ~~~(s.gang k).exited, va, [], none, p.id⟩
      (f.missing = none → s.porterFault k va f kind = s.takeTrap k info) ∧
      (∀ level, f.missing = some level → s.porterFault k va f kind = s.pageFault k ⟨info, va, 0x21, kind, level, none, none⟩)) ∧
    (∀ (k j : GangKey) (g : Gang), j ≠ k → j.team = k.team → tget s.gangs j = some g →
      tget (s.endGang k).gangs k = none ∧ (∀ i, i ≠ k → tget (s.endGang k).gangs i = tget s.gangs i) ∧ (s.endGang k).teams = s.teams) ∧
    (∀ (k : GangKey), (∀ j, j ≠ k → j.team = k.team → tget s.gangs j = none) → (s.team k.team).spawn = [] →
      ∃ u : State, s.endGang k = u.retireTeam k.team ∧ u.gangs = terase s.gangs k ∧ u.mem = s.mem)

/-- The foreman: a post of a running context joins its posts, but for an index of the device range (R244, R252); a stopped context, and a package in its wipe, takes none (R298); the oldest post is
ingested (R243). A READY grid's codebooks are read once, and a fault there fails its task (R148, R251). The first grid of the ready order with a team that fits gets the place (R255); a READY copy, collective
or signal task starts (R245, R246). -/
def Obligations.ForemanEvents : Prop :=
  ∀ (s : State),
    (∀ (c : CtxKey) (i : Nat), (s.ctx c).run = true → s.pkg.wiping = false → i < (s.ctx c).devbase →
      ∃ t : State, exec (.hostPost c i) s = .next t ∧ (t.ctx c).posts = (s.ctx c).posts ++ [i] ∧ { t with ctxs := s.ctxs } = s ∧ ∀ d, d ≠ c → t.ctx d = s.ctx d) ∧
    (∀ (c : CtxKey) (i : Nat), (s.ctx c).run = false ∨ s.pkg.wiping = true ∨ (s.ctx c).devbase ≤ i → exec (.hostPost c i) s = .next s) ∧
    (∀ (c : CtxKey) (i : Nat) (rest : List Nat), (s.ctx c).posts = i :: rest → exec (.taskIngest c) s = .next ((s.modCtx c fun x => { x with posts := rest }).ingest c i)) ∧
    (∀ (c : CtxKey), (s.ctx c).posts = [] → exec (.taskIngest c) s = .next s) ∧
    (∀ (n : Nat) (g : Grid) (k : Task), tget s.grids n = some g → tget s.tasks (g.ctx, g.task) = some k →
      let books := s.readBooks g.ctx ((List.range 8).map fun i => (i, g.launch.slot i))
      (g.codebooks = none → g.x * g.launch.y * g.launch.z ≠ 0 → k.status = .ready →
        (∀ t, books = .ok t → exec (.gridCodebookRead n) s = .next ((s.askBooks g.ctx ((List.range 8).map g.launch.slot)).setGrid n { g with codebooks := some t })) ∧
        (∀ e, books = .error e → ∃ u : State, exec (.gridCodebookRead n) s = .next u.settleGrids ∧
          u = State.finishTask { (s.foremanError g.ctx g.task) with grids := terase (s.foremanError g.ctx g.task).grids n } g.ctx g.task .failed)) ∧
      (g.codebooks.isSome = true ∨ k.status ≠ .ready ∨ g.x * g.launch.y * g.launch.z = 0 → exec (.gridCodebookRead n) s = .next s)) ∧
    (∀ (part : Nat) (p : Placement) (no rest : List (Nat × Grid)) (n : Nat) (g : Grid),
      s.readyOrder part = no ++ (n, g) :: rest → (∀ e ∈ no, s.placeTeam part e.1 e.2 p = none ∧ s.fitsSomewhere part e.1 e.2 = false) →
      (∀ t, s.placeTeam part n g p = some t → exec (.teamPlace part p) s = .next t) ∧
      (s.placeTeam part n g p = none → s.fitsSomewhere part n g = true → exec (.teamPlace part p) s = .next s)) ∧
    (∀ (part : Nat) (p : Placement), s.readyOrder part = [] → exec (.teamPlace part p) s = .next s) ∧
    (∀ (c : CtxKey) (i : Nat) (k : Task), tget s.tasks (c, i) = some k →
      (k.status = .ready → k.job = none → exec (.taskJobStart c i) s = .next (s.startTask c i k)) ∧
      (k.status ≠ .ready ∨ k.job.isSome = true → exec (.taskJobStart c i) s = .next s))

/-- Without module power every step stops with powerOff, and nothing else stops a step (R302). -/
def Obligations.OnlyPowerOffStops : Prop :=
 ∀ s : State, (s.pkg.powered = false → step s = .fault .powerOff) ∧ (s.pkg.powered = true → ∃ t, step s = .next t)

/-- A pre-emption request marks the placed teams it names: their gangs take rule 1 and run to a safe point (R277). A gang not arrived 140,000 interposer cycles later, which are 100 us, is stopped at its next
clause boundary (R277). Once its gangs have halted and its engine work is done a team is saved in the lowest free slot, and without one its request fails; a saved team comes back when there is room (R279). A partition halted
so is exchanged with its shadow; with none there, its live gangs go and no byte of memory changes (R278). That a spill which faults makes the save wait, and that a slot that cannot be written fails the request, are the
model's choices (log 97). -/
def Obligations.PreemptionEventsAct : Prop :=
  ∀ (s : State),
    (∀ (i : Instr) (f : Team → Bool), (∃ c q, i = .preemptSaveTeam c q ∧ f = fun (t : Team) => decide (t.ctx = c) && decide (16 * t.core + t.resident = q)) ∨
        (∃ c, i = .preemptSaveContext c ∧ f = fun (t : Team) => decide (t.ctx = c)) ∨ (∃ p, i = .preemptSavePartition p ∧ f = fun (t : Team) => decide (t.ctx.part = p)) →
      ∃ t : State, exec i s = .next t ∧ t.mem = s.mem ∧ t.cores = s.cores ∧
        (∀ k g, tget s.gangs k = some g → g.preempt = .no → k.team ∈ s.placedTeams f → tget t.gangs k = some { g with preempt := .pending 0 }) ∧
        (∀ k g, tget s.gangs k = some g → k.team ∉ s.placedTeams f → tget t.gangs k = some g) ∧
        (∀ n, n ∈ s.placedTeams f → (t.team n).preempting = true)) ∧
    (∀ p, ∃ t : State, exec (.preemptSwapPartition p) s = .next t ∧ t.mem = s.mem ∧ (t.part p).swapping = true ∧
      ∀ k g, tget s.gangs k = some g → g.preempt = .no → k.team ∈ s.placedTeams (fun (t : Team) => t.ctx.part = p) → tget t.gangs k = some { g with preempt := .pending 0 }) ∧
    (∀ (k : GangKey) (n : Nat), (s.gang k).preempt = .pending n →
      (140000 ≤ n → s.arrived k = false → s.atBoundary k = true → exec (.preemptForcedStop k) s = .next ((s.modGang k fun x => { x with preempt := .stopped }).leaveSlot k)) ∧
      (n < 140000 ∨ s.arrived k = true ∨ s.atBoundary k = false → exec (.preemptForcedStop k) s = .next s)) ∧
    (∀ (n : Nat) (t : Team), tget s.teams n = some t → t.preempting = true → t.res = .placed → s.teamHalted n = true → s.flitsDue n = false →
      (s.freeSlot t.ctx = none → exec (.teamSave n) s = .next (s.saveFails n)) ∧
      (∀ slot s2, s.freeSlot t.ctx = some slot → s.spillTeam n = .ok s2 →
        let put := s2.foremanWrite t.ctx ((s.ctx t.ctx).savebase + 2 ^ 23 * slot) (s2.slotImage n)
        (∀ s3, put = .ok s3 → exec (.teamSave n) s = .next (s3.leaveForSlot n slot)) ∧ (∀ e, put = .error e → exec (.teamSave n) s = .next (s.saveFails n))) ∧
      (∀ slot s2, s.freeSlot t.ctx = some slot → s.spillTeam n = .error s2 → exec (.teamSave n) s = .next s2)) ∧
    (∀ (n : Nat) (t : Team), tget s.teams n = some t → t.preempting = false ∨ s.teamHalted n = false ∨ s.flitsDue n = true → exec (.teamSave n) s = .next s) ∧
    (∀ (n slot : Nat) (t : Team) (h bs : List Byte), tget s.teams n = some t → t.res = .saved slot →
      s.foremanRead t.ctx ((s.ctx t.ctx).savebase + 2 ^ 23 * slot) 64 = .ok h → s.foremanRead t.ctx ((s.ctx t.ctx).savebase + 2 ^ 23 * slot) (leField h 36 4) = .ok bs →
      (∀ s2, s.restoreFrom n slot bs = some s2 → exec (.teamRestore n) s = .next (s2.foremanAsk t.ctx ((s.ctx t.ctx).savebase + 2 ^ 23 * slot) bs.length)) ∧ (s.restoreFrom n slot bs = none → exec (.teamRestore n) s = .next s)) ∧
    (∀ (p : Nat),
      let ready : Prop := (s.part p).swapping = true ∧ s.partFlits p = false ∧ ∀ n ∈ s.placedTeams (fun (t : Team) => t.ctx.part = p), s.teamHalted n = true
      (ready → exec (.shadowExchange p) s = .next (s.exchange p)) ∧ (¬ ready → exec (.shadowExchange p) s = .next s) ∧
      ((s.part p).shadow = none →
        let out := s.placedTeams fun (t : Team) => t.ctx.part = p
        let t := s.exchange p
        (t.part p).shadow = some (s.liveImage p out) ∧ (t.part p).swapping = false ∧ t.mem = s.mem ∧ (∀ k, k.team ∈ out → tget t.gangs k = none) ∧
        ∀ k, k.team ∉ out → tget t.gangs k = tget s.gangs k))

/-- The partition registers (R295): FQBASE, ELBASE, HCMASK, KDMASK and GBCFG take a legal value, FQBASE, HCMASK and KDMASK while every context is stopped, and set REJ otherwise. A new HCMASK leaves every
byte of the half-columns that change hands zero (R26), the gangs, the teams and other partitions' masks alone; that the partition's global barriers start anew is the model's choice (log 102). RDCWAYS
takes at most 8 (R197), and ways withdrawn drop the remote lines, which is the model's choice (log 103); TLBINV drops the context's translations and shows bit 0 until it is done; GBCFG sets an idle barrier up, or takes its expected
count away, and leaves the phase (R231; log 81); STAT's bit 63 clears REJ; PCEIL takes CEIL, and MCEIL from the security processor (R262). PREEMPT refuses scope 3 and SWAP of less than the partition;
FQREPLY answers an entry (R274). RUN 1 starts a stopped context while good firmware is there (R300), RUN 0 tears a running one down (R272) and drops its posts, the model's choice (log 104); HATOM takes bit 0 (R293). A configuration
write goes to the register at its offset, and to none where there is none; that a LEASE of 0 holds 1, and that TBASE, TASKAREA, SAVEBASE and CHILDREC drop their low bits, are the model's choices (log 103). -/
def Obligations.RegisterWrites : Prop :=
  (∀ (s : State) (p : Nat) (v : BitVec 64),
    (let base := bitsAt v.toNat 17 35 * 2 ^ 17
      let kd := bitsAt v.toNat 58 6
      let ok := s.stopped p = true ∧ (s.part p).kdmask.getLsbD kd = true ∧ bitsAt v.toNat 52 6 = 0 ∧ bitsAt v.toNat 0 17 = 0 ∧ s.ownsRange p base (2 ^ 17) = true
      (ok → exec (.fqbaseWrite p v) s = .next (s.modPart p fun x => { x with fqbase := some (base, kd), fqNext := 1, fq := [] })) ∧
      (¬ ok → exec (.fqbaseWrite p v) s = .next (s.modPart p fun x => { x with rej := true }))) ∧
    (let base := bitsAt v.toNat 12 40 * 2 ^ 12
      let kd := bitsAt v.toNat 58 6
      let n := bitsAt v.toNat 0 12
      let ok := (s.part p).kdmask.getLsbD kd = true ∧ bitsAt v.toNat 52 6 = 0 ∧ s.ownsRange p base (4096 * n) = true
      (ok → exec (.elbaseWrite p v) s = .next (s.modPart p fun x => { x with elbase := some (base, kd, n), elNext := 0 })) ∧
      (¬ ok → exec (.elbaseWrite p v) s = .next (s.modPart p fun x => { x with rej := true }))) ∧
    (let m : BitVec 12 := BitVec.ofNat 12 v.toNat
      let old := (s.part p).hcmask
      let ok := s.stopped p = true ∧ shapeOk m = true ∧ (∀ e ∈ s.parts, e.1 ≠ p → e.2.hcmask &&& m = 0)
      (ok → m = old → exec (.hcmaskWrite p v) s = .next s) ∧
      (ok → m ≠ old → ∃ t : State, exec (.hcmaskWrite p v) s = .next t ∧ (t.part p).hcmask = m ∧ (t.part p).gbars = [] ∧ (∀ q, q ≠ p → (t.part q).hcmask = (s.part q).hcmask) ∧
        t.gangs = s.gangs ∧ t.teams = s.teams ∧
        let turned (h : Nat) : Prop := m.getLsbD h ≠ old.getLsbD h
        ∀ a, (packageOf a = s.pkg.pkgid ∧ a % 2 ^ 41 < 0x18000000000 ∧ turned (a % 2 ^ 41 / 2 ^ 37) → t.mem.read a = 0) ∧
          -- what an L1 of such a half-column still holds for other memory is written back first (R190)
          (¬ (packageOf a = s.pkg.pkgid ∧ a % 2 ^ 41 < 0x18000000000 ∧ turned (a % 2 ^ 41 / 2 ^ 37)) →
            (∀ e ∈ s.cores, turned (halfColumn (dieOf e.1)) → ∀ n ∈ e.2.dirty, n / 4 ≠ lineOf a) → t.mem.read a = s.mem.read a)) ∧
      (¬ ok → exec (.hcmaskWrite p v) s = .next (s.modPart p fun x => { x with rej := true }))) ∧
    (let n := min 8 (v.toNat % 16);
      exec (.rdcwaysWrite p v) s = .next (s.modPart p fun x => { x with rdcways := n, rdc := if n < x.rdcways then [] else x.rdc })) ∧
    (∃ t : State, exec (.tlbInvalidate p v) s = .next t ∧ (t.part p).tlbinv = some (v.toNat % 16) ∧ t.mem = s.mem ∧ t.gangs = s.gangs ∧
      ∀ c, (s.part p).ownsCore c = true → tget (t.core c).tlb (tlbKey ⟨p, v.toNat % 16⟩) = none) ∧
    (exec (.tlbInvalidateDone p) s = .next (s.modPart p fun x => { x with tlbinv := none })) ∧
    (let b := s.gbar p (bitsAt v.toNat 0 12)
      let n := bitsAt v.toNat 16 24
      (b.pending = b.expect → ∃ t : State, exec (.gbcfgWrite p v) s = .next t ∧ t.gbar p (bitsAt v.toNat 0 12) = ⟨b.ph, n, n, bitsAt v.toNat 12 4⟩ ∧
        (∀ m, m ≠ bitsAt v.toNat 0 12 → t.gbar p m = s.gbar p m) ∧ { t with parts := s.parts } = s) ∧
      (b.pending ≠ b.expect → exec (.gbcfgWrite p v) s = .next (s.modPart p fun x => { x with rej := true }))) ∧
    (v.toNat.testBit 63 = true → exec (.statWrite p v) s = .next (s.modPart p fun x => { x with rej := false })) ∧
    (v.toNat.testBit 63 = false → exec (.statWrite p v) s = .next s) ∧
    (∀ ag, exec (.pceilWrite p ag v) s = .next (s.modPart p fun x => { x with ceil := bitsAt v.toNat 0 3, mceil := if ag = .security then bitsAt v.toNat 8 3 else x.mceil }))) ∧
  (∀ (s : State),
    (∀ c, (s.ctx c).run = false → s.pkg.fwGood = true →
      exec (.contextRun c) s = .next ((s.modCtx c fun x => { x with run := true, devUsed := [] }).modPkg fun k => { k with fabricFixed := true })) ∧
    (∀ c, (s.ctx c).run = true ∨ s.pkg.fwGood = false → exec (.contextRun c) s = .next s) ∧
    (∀ c, (s.ctx c).run = true → ∃ t : State, exec (.contextStop c) s = .next t ∧ (t.ctx c).run = false ∧ (t.ctx c).posts = [] ∧
      t = ((s.teardown c).modCtx c fun x => { x with run := false, posts := [] })) ∧
    (∀ c, (s.ctx c).run = false → exec (.contextStop c) s = .next s) ∧
    (∀ v, ∃ t : State, exec (.hatomWrite v) s = .next t ∧ t.pkg.hatom = v.getLsbD 0 ∧ { t with pkg := s.pkg } = s) ∧
    (∀ (p : Nat) (v : BitVec 64), p < 12 →
      (∀ i off, (off = 0x000 ∧ i = .hcmaskWrite p v) ∨ (off = 0x018 ∧ i = .rdcwaysWrite p v) ∨ (off = 0x020 ∧ i = .fqbaseWrite p v) ∨ (off = 0x030 ∧ i = .elbaseWrite p v) ∨
        (off = 0x038 ∧ i = .tlbInvalidate p v) ∨ (off = 0x048 ∧ i = .gbcfgWrite p v) ∨ (off = 0x058 ∧ i = .statWrite p v) ∨ (off = 0x060 ∧ i = .pceilWrite p .host v) ∨
        (off = 0x028 ∧ v.toNat.testBit 32 = false ∧ i = .fqreplyServiced p (v.toNat % 2 ^ 32)) ∨ (off = 0x028 ∧ v.toNat.testBit 32 = true ∧ i = .fqreplyRefused p (v.toNat % 2 ^ 32)) →
        exec (.configRegisterWrite p off v) s = exec i s) ∧
      (exec (.configRegisterWrite p 0x008 v) s = .next (s.modPart p fun x => { x with share := BitVec.ofNat 16 v.toNat })) ∧
      (exec (.configRegisterWrite p 0x010 v) s = .next (s.modPart p fun x => { x with rdlease := max 1 (bitsAt v.toNat 0 20), wrlease := bitsAt v.toNat 32 20 })) ∧
      (v.toNat % 4 = 3 ∨ (v.toNat.testBit 2 = true ∧ v.toNat % 4 ≠ 2) →
        exec (.configRegisterWrite p 0x040 v) s = .next (s.modPart p fun x => { x with rej := true })) ∧
      (v.toNat.testBit 2 = false →
        let c : CtxKey := ⟨p, bitsAt v.toNat 4 4⟩
        (v.toNat % 4 = 0 → exec (.configRegisterWrite p 0x040 v) s = .next (s.requestSave fun t => t.ctx = c && t.q = bitsAt v.toNat 16 15)) ∧
        (v.toNat % 4 = 1 → exec (.configRegisterWrite p 0x040 v) s = .next (s.requestSave fun t => t.ctx = c)) ∧
        (v.toNat % 4 = 2 → exec (.configRegisterWrite p 0x040 v) s = .next (s.requestSave fun t => t.ctx.part = p))) ∧
      (v.toNat.testBit 2 = true → v.toNat % 4 = 2 → exec (.configRegisterWrite p 0x040 v) s = .next (s.requestSwap p)) ∧
      (s.stopped p = true → exec (.configRegisterWrite p 0x050 v) s = .next (s.modPart p fun x => { x with kdmask := v })) ∧
      (s.stopped p = false → exec (.configRegisterWrite p 0x050 v) s = .next (s.modPart p fun x => { x with rej := true })) ∧
      (∀ c, c < 16 →
        let k : CtxKey := ⟨p, c⟩
        let at_ (off : Nat) := exec (.configRegisterWrite p (0x1000 + 256 * c + off) v) s
        at_ 0x00 = .next (s.modCtx k fun x => { x with tbase := v.toNat / 65536 * 65536 }) ∧
        at_ 0x08 = .next (s.modCtx k fun x => { x with handler := v.toNat }) ∧
        at_ 0x10 = .next (s.modCtx k fun x => { x with taskarea := v.toNat / 65536 * 65536 }) ∧
        at_ 0x18 = .next (s.modCtx k fun x => { x with savebase := v.toNat / slotBytes * slotBytes }) ∧
        at_ 0x20 = .next (s.modCtx k fun x => { x with saveslots := v.toNat % 65536 }) ∧
        at_ 0x28 = exec (.hostPost k v.toNat) s ∧
        at_ 0x30 = (if v.toNat % 2 = 1 then exec (.contextRun k) s else exec (.contextStop k) s) ∧
        at_ 0x38 = .next (s.modCtx k fun x => { x with ceil := v.toNat % 4 }) ∧
        ((s.ctx k).run = false → at_ 0x40 = .next (s.modCtx k fun x => { x with devbase := min 65536 (bitsAt v.toNat 0 17) }) ∧
          at_ 0x48 = .next (s.modCtx k fun x => { x with childrec := v.toNat / 65536 * 65536 })) ∧
        ((s.ctx k).run = true → at_ 0x40 = .next (s.modPart p fun x => { x with rej := true }) ∧ at_ 0x48 = .next (s.modPart p fun x => { x with rej := true })) ∧
        (∀ off, off < 256 → off % 8 ≠ 0 ∨ 0x48 < off → at_ off = .next s)) ∧
      (∀ off, off < 0x1000 → off % 8 ≠ 0 ∨ 0x60 < off → exec (.configRegisterWrite p off v) s = .next s)) ∧
    (∀ (p off : Nat) (v : BitVec 64), 12 ≤ p ∨ 0x2000 ≤ off → exec (.configRegisterWrite p off v) s = .next s))

/-- The security processor: LOADKEY gives a domain of KDMASK a fresh key and lifts its revocation, a key that does not unwrap gives none, REVOKE erases the key and marks the domain (R296, R297), a domain
outside KDMASK answers status 2; ATTEST answers only when DEPLOYED with its identity key (R299, R301); LCSTATE only forwards, RETURNED erasing the identity key (R299); a reset and a change of life-cycle
state wipe the package's memory (R298), and the boot's verdict stands in the mailbox status (R300); an image is taken when signed and no older than the fuse, while none is there (R300). That the schedule
and other packages' bytes stay in a wipe is the model's choice (log 107). -/
def Obligations.SecurityEvents : Prop :=
  ∀ (s : State),
    (∀ (p d : Nat) (c w : List Byte), 64 ≤ d ∨ (s.part p).kdmask.getLsbD d = false →
      ∀ i, i = .loadkey p d c w ∨ i = .revoke p d → ∃ t : State, exec i s = .next t ∧ t.pkg.mailStatus = 2 ∧ t.pkg.keys = s.pkg.keys ∧ t.pkg.revoked = s.pkg.revoked ∧ { t with pkg := s.pkg } = s) ∧
    (∀ (p d : Nat) (c w : List Byte), d < 64 → (s.part p).kdmask.getLsbD d = true → Config.unwraps p c w = true →
      ∃ t : State, exec (.loadkey p d c w) s = .next t ∧ tget t.pkg.keys d = some s.pkg.keySerial ∧ t.pkg.keySerial = s.pkg.keySerial + 1 ∧ t.pkg.revoked.contains d = false ∧
        (∀ e, e ≠ d → tget t.pkg.keys e = tget s.pkg.keys e) ∧ { t with pkg := s.pkg } = s) ∧
    (∀ (p d : Nat) (c w : List Byte), d < 64 → (s.part p).kdmask.getLsbD d = true → Config.unwraps p c w = false →
      ∃ t : State, exec (.loadkey p d c w) s = .next t ∧ t.pkg.keys = s.pkg.keys ∧ t.pkg.revoked = s.pkg.revoked ∧ { t with pkg := s.pkg } = s) ∧
    (∀ (p d : Nat), d < 64 → (s.part p).kdmask.getLsbD d = true →
      ∃ t : State, exec (.revoke p d) s = .next t ∧ tget t.pkg.keys d = none ∧ t.pkg.revoked.contains d = true ∧ t.domainGone d = true) ∧
    (∀ (p : Nat) (n : List Byte), s.pkg.life ≠ .deployed ∨ s.pkg.idKey = false → ∃ t : State, exec (.attest p n) s = .next t ∧ t.pkg.mailData = [] ∧ { t with pkg := s.pkg } = s) ∧
    (∀ (p : Nat) (n : List Byte), s.pkg.life = .deployed → s.pkg.idKey = true →
      ∃ t : State, exec (.attest p n) s = .next t ∧ t.pkg.mailData = s.quote p n ++ (Config.falconSign (s.quote p n)).take 1280 ∧ { t with pkg := s.pkg } = s) ∧
    (∀ (code : Nat), code ≤ s.pkg.life.code ∨ 2 < code → ∃ t : State, exec (.lcstate code) s = .next t ∧ t.pkg.life = s.pkg.life ∧ { t with pkg := s.pkg } = s) ∧
    (∀ (code : Nat), s.pkg.life.code < code → code ≤ 2 →
      ∃ t : State, exec (.lcstate code) s = .next t ∧ t.pkg.life.code = code ∧ (code = 2 → t.pkg.idKey = false) ∧ (code = 1 → t.pkg.idKey = s.pkg.idKey) ∧ t.pkg.keys = [] ∧ t.pkg.wiping = true ∧
        t.pkg.pkgid = s.pkg.pkgid ∧ t.gangs = [] ∧ t.cores = [] ∧ t.benches = [] ∧ (∀ a, t.mem.read a = if packageOf a = s.pkg.pkgid then 0 else s.mem.read a)) ∧
    (∃ t : State, exec .packageReset s = .next t ∧ t.pkg.wiping = true ∧ t.pkg.life = s.pkg.life ∧ t.pkg.keys = [] ∧ t.gangs = [] ∧ t.cores = [] ∧ t.benches = [] ∧ t.teams = [] ∧
      t.parts = State.reset.parts ∧ t.ctxs = [] ∧ t.pkg.pkgid = 0 ∧
      t.pkg.fwGood = imageGood s.pkg.firmware s.pkg.fuse ∧ t.pkg.mailStatus = Config.mailVerdict (imageGood s.pkg.firmware s.pkg.fuse) ∧
      (∀ a, t.mem.read a = if packageOf a = s.pkg.pkgid ∨ packageOf a = 0 then 0 else s.mem.read a)) ∧
    (∃ t : State, exec .hbmWipeDone s = .next t ∧ t.pkg.wiping = false ∧ { t with pkg := s.pkg } = s) ∧
    (∀ image : List Byte, s.pkg.fwGood = false → Config.imageSigned image = true → s.pkg.fuse ≤ Config.imageVersion image →
      ∃ t : State, exec (.firmwareImage image) s = .next t ∧ t.pkg.firmware = image ∧ t.pkg.fwGood = true ∧ { t with pkg := s.pkg } = s) ∧
    (∀ image : List Byte, s.pkg.fwGood = false → (Config.imageSigned image = false ∨ Config.imageVersion image < s.pkg.fuse) →
      ∃ t : State, exec (.firmwareImage image) s = .next t ∧ t.pkg.firmware = s.pkg.firmware ∧ t.pkg.fwGood = false ∧ { t with pkg := s.pkg } = s) ∧
    (∀ image : List Byte, s.pkg.fwGood = true → exec (.firmwareImage image) s = .next s)

/-- The links: a host write lands in HBM that some partition holds, under its key domain, or in host memory (R23, R293, R296), and nowhere else, one outside being discarded as the model reads it (log 105); an access of
another package is performed at the home slice under its key domain: a load and an atomic send back what they find, a store and an atomic write, and a poisoned word is reported in place of both (R281, R294);
that one which no partition's HBM or no live domain answers has no effect, and that a reply's bytes stand for the other package's memory, are the model's readings (log 109); a tree packet is taken in (R248).
FABRIC_CONFIGURATION gives the package its id and its domain (R19), in the model while every context is stopped alone, and leaving an id that stands once a context has run (log 108). An error from the host
raises DATA_UNCORRECTABLE at the lanes it comes for, restartably (R293); which lanes' completions fail together is open, and what waits in front of that trap is the model's reading (log 126). -/
def Obligations.LinkEvents : Prop :=
  -- the bytes of a write stand in memory under its key domain, and are what an agent reads there unless an L1 still holds a sector that is to be written back
  let lands (s t : State) (kd pa : Nat) (bs : List Byte) : Prop :=
    (∀ a, t.memByte kd a = if pa ≤ a ∧ a < pa + bs.length then bs.getD (a - pa) 0 else s.memByte kd a) ∧
    ∀ a, (∀ e ∈ s.cores, sectorOf a ∉ e.2.dirty) → t.keyRead kd a = if pa ≤ a ∧ a < pa + bs.length then bs.getD (a - pa) 0 else s.keyRead kd a
  ∀ (s : State),
    (∀ (pa kd : Nat) (bs : List Byte), isHost pa = true →
      ∃ t : State, exec (.hostLinkWrite pa kd bs) s = .next t ∧ (∀ a, t.mem.read a = if pa ≤ a ∧ a < pa + bs.length then bs.getD (a - pa) 0 else s.mem.read a) ∧ { t with mem := s.mem } = s) ∧
    (∀ (pa kd : Nat) (bs : List Byte), isHost pa = false → s.domainGone kd = false → s.heldHbm pa bs.length = true →
      ∃ t : State, exec (.hostLinkWrite pa kd bs) s = .next t ∧ lands s t kd pa bs ∧ t.teams = s.teams) ∧
    (∀ (pa kd : Nat) (bs : List Byte), isHost pa = false → (s.domainGone kd = true ∨ s.heldHbm pa bs.length = false) → exec (.hostLinkWrite pa kd bs) s = .next s) ∧
    (∀ (pa kd : Nat) (bs : List Byte), s.heldHbm pa bs.length = true → s.domainGone kd = false →
      ∃ t : State, exec (.fabricRemoteAccess (.write pa kd bs)) s = .next t ∧ lands s t kd pa bs ∧
        (∀ i, i < bs.length → t.pkg.poisoned.contains ((pa + i) / 256) = false) ∧ t.teams = s.teams) ∧
    (∀ (pa kd n : Nat), s.heldHbm pa n = true → s.domainGone kd = false → s.poisonedIn pa n = false → (∀ e ∈ s.cores, ∀ m ∈ e.2.dirty, ∀ c, tget e.2.l1 m = some c → c.leased = false) →
      ∃ t : State, exec (.fabricRemoteAccess (.read pa kd n)) s = .next t ∧ t.mem = s.mem ∧ t.pkg.out = s.pkg.out ++ [.reply pa kd ((List.range n).map fun i => s.keyRead kd (pa + i))] ∧
        t.teams = s.teams) ∧
    (∀ (pa kd n new : Nat) (p : RemotePacket), s.heldHbm pa n = true → s.domainGone kd = false → s.poisonedIn pa n = false →
      ((∃ op ty x, p = .atomic pa kd op ty x ∧ n = (if ty.regs = 2 then 8 else 4) ∧ new = atomResult op ty (s.keyReadN kd pa n) x.toNat) ∨
        (∃ cmp y, p = .cas pa kd n cmp y ∧ new = if s.keyReadN kd pa n = cmp % 2 ^ (8 * n) then y else s.keyReadN kd pa n)) →
      ∃ t : State, exec (.fabricRemoteAccess p) s = .next t ∧ t.pkg.out = s.pkg.out ++ [.reply pa kd ((List.range n).map fun i => s.keyRead kd (pa + i))] ∧
        lands s t kd pa (bytesOfNat n new)) ∧
    (∀ (pa kd n : Nat) (p : RemotePacket), p = .read pa kd n ∨ (∃ op ty x, p = .atomic pa kd op ty x ∧ n = if ty.regs = 2 then 8 else 4) ∨ (∃ cmp y, p = .cas pa kd n cmp y) →
      (s.heldHbm pa n = false ∨ s.domainGone kd = true → exec (.fabricRemoteAccess p) s = .next s) ∧
      (s.heldHbm pa n = true → s.domainGone kd = false → s.poisonedIn pa n = true →
        ∃ part, exec (.fabricRemoteAccess p) s = .next (s.logTo part pa 0x02 0x05 ((s.part part).homeSlice 31 pa) none 0))) ∧
    (∀ (pa kd : Nat) (bs : List Byte), s.heldHbm pa bs.length = false ∨ s.domainGone kd = true → exec (.fabricRemoteAccess (.write pa kd bs)) s = .next s) ∧
    (∀ (pa kd : Nat) (bs : List Byte), isHost pa = false → (∀ i, i < bs.length → packageOf (pa + i) ≠ s.pkg.pkgid ∧ isHost (pa + i) = false) →
      ∃ t : State, exec (.fabricRemoteAccess (.reply pa kd bs)) s = .next t ∧
        (∀ a, t.memByte kd a = if pa ≤ a ∧ a < pa + bs.length ∧ s.dirtyCopy kd a = none then bs.getD (a - pa) 0 else s.memByte kd a) ∧
        t.gangs = s.gangs ∧ t.teams = s.teams ∧ t.parts = s.parts) ∧
    (∀ (pa kd : Nat) (bs : List Byte), isHost pa = true ∨ (∃ i, i < bs.length ∧ (packageOf (pa + i) = s.pkg.pkgid ∨ isHost (pa + i) = true)) →
      exec (.fabricRemoteAccess (.reply pa kd bs)) s = .next s) ∧
    (∀ (g q r : Nat) (d e : List (BitVec 32)) (p : RemotePacket), p = .collUp g q r d e ∨ p = .collDown g q d e →
      ∃ t : State, exec (.fabricRemoteAccess p) s = .next t ∧ t.pkg.inbox = s.pkg.inbox ++ [p] ∧ { t with pkg := s.pkg } = s) ∧
    (∀ (n : Nat) (ms : List Nat),
      let ok := n < 1152 ∧ (∀ p, p < 12 → s.stopped p = true) ∧ (s.pkg.fabricFixed = false ∨ n = s.pkg.pkgid)
      (ok → ∃ t : State, exec (.fabricConfiguration n ms) s = .next t ∧ t.pkg.pkgid = n ∧ t.pkg.domain = n :: ms ∧ t.pkg.fabricFixed = true ∧ t.gangs = s.gangs ∧ t.teams = s.teams) ∧
      (¬ ok → exec (.fabricConfiguration n ms) s = .next s)) ∧
    (∀ (k : GangKey) (f : Flight) (r : Replay), (s.gang k).hostFlight = some (f, r) →
      let p := (s.gang k).path ((s.gang k).issuerOf f.path r.mask)
      let lanes := f.failing (Config.failedLanes s.freeNext)
      let m := maskOf (lanes.map LaneAccess.lane)
      let u := s.useFree.modGang k fun y => { y with flights := y.flights.map fun (e : Flight) => if e.id = f.id then { e with todo := [], replaying := true } else e }
      let held : Prop := (s.gang k).faultWait.isSome = true ∨ ((s.gang k).pendingTrap.isSome = true ∧ (u.gang k).trapReady = false)
      lanes ≠ [] ∧ (∀ a ∈ lanes, a ∈ f.todo ∧ a.completes = true) ∧
      (∀ a ∈ f.todo, a.completes = true → (Config.failedLanes s.freeNext).getLsbD a.lane = true → a ∈ lanes) ∧
      (held → exec (.hostCompletionError k) s = .next s) ∧
      (¬ held → exec (.hostCompletionError k) s = .next (u.takeTrap k
        ⟨0x60, 0, false, f.pc, p.pc, m, (lanes.head?.map LaneAccess.va).getD 0, r.addrs.filter fun e => m.getLsbD e.1, some r, p.id⟩))) ∧
    (∀ (k : GangKey), (s.gang k).hostFlight = none → exec (.hostCompletionError k) s = .next s)

/-- Dies and errors: a fence stops what stands on the die and marks it fenced (R281), a drop marks it absent too (R26), a reset clears its cores and benches and lifts the fence. A corrected error is only
counted, and logged with its count at most once in 1,400,000 interposer cycles (R282); a contained one poisons its sector, one in a bench's SRAM or a scratchpad stands in the status of what reads it there
(R174, R226), and a fatal one stops the partition's contexts. Which operation and job meet an error in SRAM is the model's choice (log 54). -/
def Obligations.DieAndErrorEvents : Prop :=
  ∀ (s : State),
    (∀ d, d < 24 → s.pkg.fenced.contains d = true → exec (.dieFence d) s = .next s) ∧
    (∀ d, d < 24 → s.pkg.fenced.contains d = false → ∃ t : State, exec (.dieFence d) s = .next t ∧ t = s.fence d ∧ t.pkg.fenced.contains d = true ∧
      ∀ f ∈ t.transit, dieOf f.core ≠ d) ∧
    (∀ d, d < 24 → s.pkg.absent.contains d = false →
      ∃ t : State, exec (.dieDrop d) s = .next t ∧ t.pkg.absent.contains d = true ∧ { t with pkg := { t.pkg with absent := (s.fence d).pkg.absent } } = s.fence d) ∧
    (∀ d, d < 24 → s.pkg.absent.contains d = true → exec (.dieDrop d) s = .next s) ∧
    (∀ d, 24 ≤ d → ∀ i, i = .dieFence d ∨ i = .dieDrop d ∨ i = .dieReset d → exec i s = .next s) ∧
    (∀ d, d < 24 → ∃ t : State, exec (.dieReset d) s = .next t ∧ t.pkg.fenced.contains d = false ∧
      (∀ c, dieOf c = d → t.core c = Core.initial ∧ ∀ b, t.bench c b = Bench.initial) ∧ (∀ c, dieOf c ≠ d → t.core c = (s.fence d).core c) ∧
      t.gangs = (s.fence d).gangs ∧ t.mem = (s.fence d).mem) ∧
    (∀ e : HwError, e.cls = 1 → ∃ t : State, exec (.errorDetected e) s = .next t ∧
      tgetD t.pkg.logged (errorUnit e) (0, 0) = ((tgetD s.pkg.logged (errorUnit e) (0, 0)).1, (tgetD s.pkg.logged (errorUnit e) (0, 0)).2 + 1) ∧ t.mem = s.mem ∧ t.pkg.errors = s.pkg.errors) ∧
    (∀ e : HwError, e.cls = 2 → e.unit ≠ 1 → e.unit ≠ 2 → e.pa ≠ 0 → s.ownHbm e.pa.toNat 1 = true → e.part < 12 →
      ∃ t : State, exec (.errorDetected e) s = .next t ∧ t.pkg.poisoned.contains (e.pa.toNat / 256) = true ∧ tgetD t.pkg.errors e.part 0 = tgetD s.pkg.errors e.part 0 + 1 ∧ t.gangs = s.gangs) ∧
    (∀ e : HwError, e.cls = 2 → e.unit = 1 ∨ e.unit = 2 → ∃ t : State, exec (.errorDetected e) s = .next t ∧ t.gangs = s.gangs ∧
      (∀ (n : Nat) (j : Job), tget s.jobs n = some j → s.jobReads j e.unit.toNat e.unitId.toNat = true → ∃ j', tget t.jobs n = some j' ∧ ∃ x ∈ j'.errs, x.code = 1) ∧
      (∀ (o : EngineOp), e.unit = 1 → (s.core (e.unitId.toNat / 4)).engine.slaved = false → (s.core (e.unitId.toNat / 4)).engine.running = some o →
        ∃ row col, (t.core (e.unitId.toNat / 4)).engine.running = some { o with errs := o.errs ++ [⟨1, e.unitId.toNat % 4, row, col⟩] })) ∧
    (∀ e : HwError, e.cls = 5 → ∃ u : State, exec (.errorDetected e) s = .next ((errorParts e).foldl State.stopPart u) ∧ u = s.logError e e.detail.toNat) ∧
    (∀ (e : HwError) (t0 n : Nat), tgetD s.pkg.logged (errorUnit e) (0, 0) = (t0, n) →
      (n ≠ 0 → (t0 = 0 ∨ t0 + 1400000 ≤ s.pkg.time) → ∃ t : State, exec (.correctedErrorLog e) s = .next t ∧
        t = ((s.logError { e with cls := 1 } n).modPkg fun k => { k with logged := tset k.logged (errorUnit e) (max 1 s.pkg.time, 0) }) ∧
        tgetD t.pkg.logged (errorUnit e) (0, 0) = (max 1 s.pkg.time, 0) ∧ t.gangs = s.gangs) ∧
      (n = 0 ∨ (t0 ≠ 0 ∧ s.pkg.time < t0 + 1400000) → exec (.correctedErrorLog e) s = .next s))
end

