-- ==== Sys2Proof/Laws/State.lean ====
section
/-! SUPPORT. What each update of State leaves in each field, and the tables it is made of: one lemma per field per update. -/
namespace Sys2Proof.Machine

@[simp] theorem State.setGang_agenda (s : State) (k : GangKey) (g : Gang) : (s.setGang k g).agenda = s.agenda := rfl
@[simp] theorem State.setGang_cur (s : State) (k : GangKey) (g : Gang) : (s.setGang k g).cur = s.cur := rfl
@[simp] theorem State.setGang_word (s : State) (k : GangKey) (g : Gang) : (s.setGang k g).word = s.word := rfl
@[simp] theorem State.setGang_seq (s : State) (k : GangKey) (g : Gang) : (s.setGang k g).seq = s.seq := rfl
@[simp] theorem State.setGang_freeNext (s : State) (k : GangKey) (g : Gang) : (s.setGang k g).freeNext = s.freeNext := rfl
@[simp] theorem State.setGang_mem (s : State) (k : GangKey) (g : Gang) : (s.setGang k g).mem = s.mem := rfl
@[simp] theorem State.setGang_pkg (s : State) (k : GangKey) (g : Gang) : (s.setGang k g).pkg = s.pkg := rfl
@[simp] theorem State.setGang_parts (s : State) (k : GangKey) (g : Gang) : (s.setGang k g).parts = s.parts := rfl
@[simp] theorem State.setGang_ctxs (s : State) (k : GangKey) (g : Gang) : (s.setGang k g).ctxs = s.ctxs := rfl
@[simp] theorem State.setGang_grids (s : State) (k : GangKey) (g : Gang) : (s.setGang k g).grids = s.grids := rfl
@[simp] theorem State.setGang_tasks (s : State) (k : GangKey) (g : Gang) : (s.setGang k g).tasks = s.tasks := rfl
@[simp] theorem State.setGang_teams (s : State) (k : GangKey) (g : Gang) : (s.setGang k g).teams = s.teams := rfl
@[simp] theorem State.setGang_gangs (s : State) (k : GangKey) (g : Gang) : (s.setGang k g).gangs = tset s.gangs k g := rfl
@[simp] theorem State.setGang_jobs (s : State) (k : GangKey) (g : Gang) : (s.setGang k g).jobs = s.jobs := rfl
@[simp] theorem State.setGang_cores (s : State) (k : GangKey) (g : Gang) : (s.setGang k g).cores = s.cores := rfl
@[simp] theorem State.setGang_benches (s : State) (k : GangKey) (g : Gang) : (s.setGang k g).benches = s.benches := rfl
@[simp] theorem State.setGang_clusters (s : State) (k : GangKey) (g : Gang) : (s.setGang k g).clusters = s.clusters := rfl
@[simp] theorem State.setGang_lags (s : State) (k : GangKey) (g : Gang) : (s.setGang k g).lags = s.lags := rfl
@[simp] theorem State.setGang_transit (s : State) (k : GangKey) (g : Gang) : (s.setGang k g).transit = s.transit := rfl

@[simp] theorem State.setTeam_agenda (s : State) (n : Nat) (x : Team) : (s.setTeam n x).agenda = s.agenda := rfl
@[simp] theorem State.setTeam_cur (s : State) (n : Nat) (x : Team) : (s.setTeam n x).cur = s.cur := rfl
@[simp] theorem State.setTeam_word (s : State) (n : Nat) (x : Team) : (s.setTeam n x).word = s.word := rfl
@[simp] theorem State.setTeam_seq (s : State) (n : Nat) (x : Team) : (s.setTeam n x).seq = s.seq := rfl
@[simp] theorem State.setTeam_freeNext (s : State) (n : Nat) (x : Team) : (s.setTeam n x).freeNext = s.freeNext := rfl
@[simp] theorem State.setTeam_mem (s : State) (n : Nat) (x : Team) : (s.setTeam n x).mem = s.mem := rfl
@[simp] theorem State.setTeam_pkg (s : State) (n : Nat) (x : Team) : (s.setTeam n x).pkg = s.pkg := rfl
@[simp] theorem State.setTeam_parts (s : State) (n : Nat) (x : Team) : (s.setTeam n x).parts = s.parts := rfl
@[simp] theorem State.setTeam_ctxs (s : State) (n : Nat) (x : Team) : (s.setTeam n x).ctxs = s.ctxs := rfl
@[simp] theorem State.setTeam_grids (s : State) (n : Nat) (x : Team) : (s.setTeam n x).grids = s.grids := rfl
@[simp] theorem State.setTeam_tasks (s : State) (n : Nat) (x : Team) : (s.setTeam n x).tasks = s.tasks := rfl
@[simp] theorem State.setTeam_teams (s : State) (n : Nat) (x : Team) : (s.setTeam n x).teams = tset s.teams n x := rfl
@[simp] theorem State.setTeam_gangs (s : State) (n : Nat) (x : Team) : (s.setTeam n x).gangs = s.gangs := rfl
@[simp] theorem State.setTeam_jobs (s : State) (n : Nat) (x : Team) : (s.setTeam n x).jobs = s.jobs := rfl
@[simp] theorem State.setTeam_cores (s : State) (n : Nat) (x : Team) : (s.setTeam n x).cores = s.cores := rfl
@[simp] theorem State.setTeam_benches (s : State) (n : Nat) (x : Team) : (s.setTeam n x).benches = s.benches := rfl
@[simp] theorem State.setTeam_clusters (s : State) (n : Nat) (x : Team) : (s.setTeam n x).clusters = s.clusters := rfl
@[simp] theorem State.setTeam_lags (s : State) (n : Nat) (x : Team) : (s.setTeam n x).lags = s.lags := rfl
@[simp] theorem State.setTeam_transit (s : State) (n : Nat) (x : Team) : (s.setTeam n x).transit = s.transit := rfl

@[simp] theorem State.setGrid_agenda (s : State) (n : Nat) (x : Grid) : (s.setGrid n x).agenda = s.agenda := rfl
@[simp] theorem State.setGrid_cur (s : State) (n : Nat) (x : Grid) : (s.setGrid n x).cur = s.cur := rfl
@[simp] theorem State.setGrid_word (s : State) (n : Nat) (x : Grid) : (s.setGrid n x).word = s.word := rfl
@[simp] theorem State.setGrid_seq (s : State) (n : Nat) (x : Grid) : (s.setGrid n x).seq = s.seq := rfl
@[simp] theorem State.setGrid_freeNext (s : State) (n : Nat) (x : Grid) : (s.setGrid n x).freeNext = s.freeNext := rfl
@[simp] theorem State.setGrid_mem (s : State) (n : Nat) (x : Grid) : (s.setGrid n x).mem = s.mem := rfl
@[simp] theorem State.setGrid_pkg (s : State) (n : Nat) (x : Grid) : (s.setGrid n x).pkg = s.pkg := rfl
@[simp] theorem State.setGrid_parts (s : State) (n : Nat) (x : Grid) : (s.setGrid n x).parts = s.parts := rfl
@[simp] theorem State.setGrid_ctxs (s : State) (n : Nat) (x : Grid) : (s.setGrid n x).ctxs = s.ctxs := rfl
@[simp] theorem State.setGrid_grids (s : State) (n : Nat) (x : Grid) : (s.setGrid n x).grids = tset s.grids n x := rfl
@[simp] theorem State.setGrid_tasks (s : State) (n : Nat) (x : Grid) : (s.setGrid n x).tasks = s.tasks := rfl
@[simp] theorem State.setGrid_teams (s : State) (n : Nat) (x : Grid) : (s.setGrid n x).teams = s.teams := rfl
@[simp] theorem State.setGrid_gangs (s : State) (n : Nat) (x : Grid) : (s.setGrid n x).gangs = s.gangs := rfl
@[simp] theorem State.setGrid_jobs (s : State) (n : Nat) (x : Grid) : (s.setGrid n x).jobs = s.jobs := rfl
@[simp] theorem State.setGrid_cores (s : State) (n : Nat) (x : Grid) : (s.setGrid n x).cores = s.cores := rfl
@[simp] theorem State.setGrid_benches (s : State) (n : Nat) (x : Grid) : (s.setGrid n x).benches = s.benches := rfl
@[simp] theorem State.setGrid_clusters (s : State) (n : Nat) (x : Grid) : (s.setGrid n x).clusters = s.clusters := rfl
@[simp] theorem State.setGrid_lags (s : State) (n : Nat) (x : Grid) : (s.setGrid n x).lags = s.lags := rfl
@[simp] theorem State.setGrid_transit (s : State) (n : Nat) (x : Grid) : (s.setGrid n x).transit = s.transit := rfl

@[simp] theorem State.setCore_agenda (s : State) (n : Nat) (x : Core) : (s.setCore n x).agenda = s.agenda := rfl
@[simp] theorem State.setCore_cur (s : State) (n : Nat) (x : Core) : (s.setCore n x).cur = s.cur := rfl
@[simp] theorem State.setCore_word (s : State) (n : Nat) (x : Core) : (s.setCore n x).word = s.word := rfl
@[simp] theorem State.setCore_seq (s : State) (n : Nat) (x : Core) : (s.setCore n x).seq = s.seq := rfl
@[simp] theorem State.setCore_freeNext (s : State) (n : Nat) (x : Core) : (s.setCore n x).freeNext = s.freeNext := rfl
@[simp] theorem State.setCore_mem (s : State) (n : Nat) (x : Core) : (s.setCore n x).mem = s.mem := rfl
@[simp] theorem State.setCore_pkg (s : State) (n : Nat) (x : Core) : (s.setCore n x).pkg = s.pkg := rfl
@[simp] theorem State.setCore_parts (s : State) (n : Nat) (x : Core) : (s.setCore n x).parts = s.parts := rfl
@[simp] theorem State.setCore_ctxs (s : State) (n : Nat) (x : Core) : (s.setCore n x).ctxs = s.ctxs := rfl
@[simp] theorem State.setCore_grids (s : State) (n : Nat) (x : Core) : (s.setCore n x).grids = s.grids := rfl
@[simp] theorem State.setCore_tasks (s : State) (n : Nat) (x : Core) : (s.setCore n x).tasks = s.tasks := rfl
@[simp] theorem State.setCore_teams (s : State) (n : Nat) (x : Core) : (s.setCore n x).teams = s.teams := rfl
@[simp] theorem State.setCore_gangs (s : State) (n : Nat) (x : Core) : (s.setCore n x).gangs = s.gangs := rfl
@[simp] theorem State.setCore_jobs (s : State) (n : Nat) (x : Core) : (s.setCore n x).jobs = s.jobs := rfl
@[simp] theorem State.setCore_cores (s : State) (n : Nat) (x : Core) : (s.setCore n x).cores = tset s.cores n x := rfl
@[simp] theorem State.setCore_benches (s : State) (n : Nat) (x : Core) : (s.setCore n x).benches = s.benches := rfl
@[simp] theorem State.setCore_clusters (s : State) (n : Nat) (x : Core) : (s.setCore n x).clusters = s.clusters := rfl
@[simp] theorem State.setCore_lags (s : State) (n : Nat) (x : Core) : (s.setCore n x).lags = s.lags := rfl
@[simp] theorem State.setCore_transit (s : State) (n : Nat) (x : Core) : (s.setCore n x).transit = s.transit := rfl

@[simp] theorem State.setBench_agenda (s : State) (c b : Nat) (x : Bench) : (s.setBench c b x).agenda = s.agenda := rfl
@[simp] theorem State.setBench_cur (s : State) (c b : Nat) (x : Bench) : (s.setBench c b x).cur = s.cur := rfl
@[simp] theorem State.setBench_word (s : State) (c b : Nat) (x : Bench) : (s.setBench c b x).word = s.word := rfl
@[simp] theorem State.setBench_seq (s : State) (c b : Nat) (x : Bench) : (s.setBench c b x).seq = s.seq := rfl
@[simp] theorem State.setBench_freeNext (s : State) (c b : Nat) (x : Bench) : (s.setBench c b x).freeNext = s.freeNext := rfl
@[simp] theorem State.setBench_mem (s : State) (c b : Nat) (x : Bench) : (s.setBench c b x).mem = s.mem := rfl
@[simp] theorem State.setBench_pkg (s : State) (c b : Nat) (x : Bench) : (s.setBench c b x).pkg = s.pkg := rfl
@[simp] theorem State.setBench_parts (s : State) (c b : Nat) (x : Bench) : (s.setBench c b x).parts = s.parts := rfl
@[simp] theorem State.setBench_ctxs (s : State) (c b : Nat) (x : Bench) : (s.setBench c b x).ctxs = s.ctxs := rfl
@[simp] theorem State.setBench_grids (s : State) (c b : Nat) (x : Bench) : (s.setBench c b x).grids = s.grids := rfl
@[simp] theorem State.setBench_tasks (s : State) (c b : Nat) (x : Bench) : (s.setBench c b x).tasks = s.tasks := rfl
@[simp] theorem State.setBench_teams (s : State) (c b : Nat) (x : Bench) : (s.setBench c b x).teams = s.teams := rfl
@[simp] theorem State.setBench_gangs (s : State) (c b : Nat) (x : Bench) : (s.setBench c b x).gangs = s.gangs := rfl
@[simp] theorem State.setBench_jobs (s : State) (c b : Nat) (x : Bench) : (s.setBench c b x).jobs = s.jobs := rfl
@[simp] theorem State.setBench_cores (s : State) (c b : Nat) (x : Bench) : (s.setBench c b x).cores = s.cores := rfl
@[simp] theorem State.setBench_benches (s : State) (c b : Nat) (x : Bench) : (s.setBench c b x).benches = tset s.benches (c, b) x := rfl
@[simp] theorem State.setBench_clusters (s : State) (c b : Nat) (x : Bench) : (s.setBench c b x).clusters = s.clusters := rfl
@[simp] theorem State.setBench_lags (s : State) (c b : Nat) (x : Bench) : (s.setBench c b x).lags = s.lags := rfl
@[simp] theorem State.setBench_transit (s : State) (c b : Nat) (x : Bench) : (s.setBench c b x).transit = s.transit := rfl

@[simp] theorem State.setCluster_agenda (s : State) (n : Nat) (x : Cluster) : (s.setCluster n x).agenda = s.agenda := rfl
@[simp] theorem State.setCluster_cur (s : State) (n : Nat) (x : Cluster) : (s.setCluster n x).cur = s.cur := rfl
@[simp] theorem State.setCluster_word (s : State) (n : Nat) (x : Cluster) : (s.setCluster n x).word = s.word := rfl
@[simp] theorem State.setCluster_seq (s : State) (n : Nat) (x : Cluster) : (s.setCluster n x).seq = s.seq := rfl
@[simp] theorem State.setCluster_freeNext (s : State) (n : Nat) (x : Cluster) : (s.setCluster n x).freeNext = s.freeNext := rfl
@[simp] theorem State.setCluster_mem (s : State) (n : Nat) (x : Cluster) : (s.setCluster n x).mem = s.mem := rfl
@[simp] theorem State.setCluster_pkg (s : State) (n : Nat) (x : Cluster) : (s.setCluster n x).pkg = s.pkg := rfl
@[simp] theorem State.setCluster_parts (s : State) (n : Nat) (x : Cluster) : (s.setCluster n x).parts = s.parts := rfl
@[simp] theorem State.setCluster_ctxs (s : State) (n : Nat) (x : Cluster) : (s.setCluster n x).ctxs = s.ctxs := rfl
@[simp] theorem State.setCluster_grids (s : State) (n : Nat) (x : Cluster) : (s.setCluster n x).grids = s.grids := rfl
@[simp] theorem State.setCluster_tasks (s : State) (n : Nat) (x : Cluster) : (s.setCluster n x).tasks = s.tasks := rfl
@[simp] theorem State.setCluster_teams (s : State) (n : Nat) (x : Cluster) : (s.setCluster n x).teams = s.teams := rfl
@[simp] theorem State.setCluster_gangs (s : State) (n : Nat) (x : Cluster) : (s.setCluster n x).gangs = s.gangs := rfl
@[simp] theorem State.setCluster_jobs (s : State) (n : Nat) (x : Cluster) : (s.setCluster n x).jobs = s.jobs := rfl
@[simp] theorem State.setCluster_cores (s : State) (n : Nat) (x : Cluster) : (s.setCluster n x).cores = s.cores := rfl
@[simp] theorem State.setCluster_benches (s : State) (n : Nat) (x : Cluster) : (s.setCluster n x).benches = s.benches := rfl
@[simp] theorem State.setCluster_clusters (s : State) (n : Nat) (x : Cluster) : (s.setCluster n x).clusters = tset s.clusters n x := rfl
@[simp] theorem State.setCluster_lags (s : State) (n : Nat) (x : Cluster) : (s.setCluster n x).lags = s.lags := rfl
@[simp] theorem State.setCluster_transit (s : State) (n : Nat) (x : Cluster) : (s.setCluster n x).transit = s.transit := rfl

@[simp] theorem State.setPart_agenda (s : State) (n : Nat) (x : Part) : (s.setPart n x).agenda = s.agenda := rfl
@[simp] theorem State.setPart_cur (s : State) (n : Nat) (x : Part) : (s.setPart n x).cur = s.cur := rfl
@[simp] theorem State.setPart_word (s : State) (n : Nat) (x : Part) : (s.setPart n x).word = s.word := rfl
@[simp] theorem State.setPart_seq (s : State) (n : Nat) (x : Part) : (s.setPart n x).seq = s.seq := rfl
@[simp] theorem State.setPart_freeNext (s : State) (n : Nat) (x : Part) : (s.setPart n x).freeNext = s.freeNext := rfl
@[simp] theorem State.setPart_mem (s : State) (n : Nat) (x : Part) : (s.setPart n x).mem = s.mem := rfl
@[simp] theorem State.setPart_pkg (s : State) (n : Nat) (x : Part) : (s.setPart n x).pkg = s.pkg := rfl
@[simp] theorem State.setPart_parts (s : State) (n : Nat) (x : Part) : (s.setPart n x).parts = tset s.parts n x := rfl
@[simp] theorem State.setPart_ctxs (s : State) (n : Nat) (x : Part) : (s.setPart n x).ctxs = s.ctxs := rfl
@[simp] theorem State.setPart_grids (s : State) (n : Nat) (x : Part) : (s.setPart n x).grids = s.grids := rfl
@[simp] theorem State.setPart_tasks (s : State) (n : Nat) (x : Part) : (s.setPart n x).tasks = s.tasks := rfl
@[simp] theorem State.setPart_teams (s : State) (n : Nat) (x : Part) : (s.setPart n x).teams = s.teams := rfl
@[simp] theorem State.setPart_gangs (s : State) (n : Nat) (x : Part) : (s.setPart n x).gangs = s.gangs := rfl
@[simp] theorem State.setPart_jobs (s : State) (n : Nat) (x : Part) : (s.setPart n x).jobs = s.jobs := rfl
@[simp] theorem State.setPart_cores (s : State) (n : Nat) (x : Part) : (s.setPart n x).cores = s.cores := rfl
@[simp] theorem State.setPart_benches (s : State) (n : Nat) (x : Part) : (s.setPart n x).benches = s.benches := rfl
@[simp] theorem State.setPart_clusters (s : State) (n : Nat) (x : Part) : (s.setPart n x).clusters = s.clusters := rfl
@[simp] theorem State.setPart_lags (s : State) (n : Nat) (x : Part) : (s.setPart n x).lags = s.lags := rfl
@[simp] theorem State.setPart_transit (s : State) (n : Nat) (x : Part) : (s.setPart n x).transit = s.transit := rfl

@[simp] theorem State.setCtx_agenda (s : State) (c : CtxKey) (x : Context) : (s.setCtx c x).agenda = s.agenda := rfl
@[simp] theorem State.setCtx_cur (s : State) (c : CtxKey) (x : Context) : (s.setCtx c x).cur = s.cur := rfl
@[simp] theorem State.setCtx_word (s : State) (c : CtxKey) (x : Context) : (s.setCtx c x).word = s.word := rfl
@[simp] theorem State.setCtx_seq (s : State) (c : CtxKey) (x : Context) : (s.setCtx c x).seq = s.seq := rfl
@[simp] theorem State.setCtx_freeNext (s : State) (c : CtxKey) (x : Context) : (s.setCtx c x).freeNext = s.freeNext := rfl
@[simp] theorem State.setCtx_mem (s : State) (c : CtxKey) (x : Context) : (s.setCtx c x).mem = s.mem := rfl
@[simp] theorem State.setCtx_pkg (s : State) (c : CtxKey) (x : Context) : (s.setCtx c x).pkg = s.pkg := rfl
@[simp] theorem State.setCtx_parts (s : State) (c : CtxKey) (x : Context) : (s.setCtx c x).parts = s.parts := rfl
@[simp] theorem State.setCtx_ctxs (s : State) (c : CtxKey) (x : Context) : (s.setCtx c x).ctxs = tset s.ctxs c x := rfl
@[simp] theorem State.setCtx_grids (s : State) (c : CtxKey) (x : Context) : (s.setCtx c x).grids = s.grids := rfl
@[simp] theorem State.setCtx_tasks (s : State) (c : CtxKey) (x : Context) : (s.setCtx c x).tasks = s.tasks := rfl
@[simp] theorem State.setCtx_teams (s : State) (c : CtxKey) (x : Context) : (s.setCtx c x).teams = s.teams := rfl
@[simp] theorem State.setCtx_gangs (s : State) (c : CtxKey) (x : Context) : (s.setCtx c x).gangs = s.gangs := rfl
@[simp] theorem State.setCtx_jobs (s : State) (c : CtxKey) (x : Context) : (s.setCtx c x).jobs = s.jobs := rfl
@[simp] theorem State.setCtx_cores (s : State) (c : CtxKey) (x : Context) : (s.setCtx c x).cores = s.cores := rfl
@[simp] theorem State.setCtx_benches (s : State) (c : CtxKey) (x : Context) : (s.setCtx c x).benches = s.benches := rfl
@[simp] theorem State.setCtx_clusters (s : State) (c : CtxKey) (x : Context) : (s.setCtx c x).clusters = s.clusters := rfl
@[simp] theorem State.setCtx_lags (s : State) (c : CtxKey) (x : Context) : (s.setCtx c x).lags = s.lags := rfl
@[simp] theorem State.setCtx_transit (s : State) (c : CtxKey) (x : Context) : (s.setCtx c x).transit = s.transit := rfl

@[simp] theorem State.setJob_agenda (s : State) (n : Nat) (x : Job) : (s.setJob n x).agenda = s.agenda := rfl
@[simp] theorem State.setJob_cur (s : State) (n : Nat) (x : Job) : (s.setJob n x).cur = s.cur := rfl
@[simp] theorem State.setJob_word (s : State) (n : Nat) (x : Job) : (s.setJob n x).word = s.word := rfl
@[simp] theorem State.setJob_seq (s : State) (n : Nat) (x : Job) : (s.setJob n x).seq = s.seq := rfl
@[simp] theorem State.setJob_freeNext (s : State) (n : Nat) (x : Job) : (s.setJob n x).freeNext = s.freeNext := rfl
@[simp] theorem State.setJob_mem (s : State) (n : Nat) (x : Job) : (s.setJob n x).mem = s.mem := rfl
@[simp] theorem State.setJob_pkg (s : State) (n : Nat) (x : Job) : (s.setJob n x).pkg = s.pkg := rfl
@[simp] theorem State.setJob_parts (s : State) (n : Nat) (x : Job) : (s.setJob n x).parts = s.parts := rfl
@[simp] theorem State.setJob_ctxs (s : State) (n : Nat) (x : Job) : (s.setJob n x).ctxs = s.ctxs := rfl
@[simp] theorem State.setJob_grids (s : State) (n : Nat) (x : Job) : (s.setJob n x).grids = s.grids := rfl
@[simp] theorem State.setJob_tasks (s : State) (n : Nat) (x : Job) : (s.setJob n x).tasks = s.tasks := rfl
@[simp] theorem State.setJob_teams (s : State) (n : Nat) (x : Job) : (s.setJob n x).teams = s.teams := rfl
@[simp] theorem State.setJob_gangs (s : State) (n : Nat) (x : Job) : (s.setJob n x).gangs = s.gangs := rfl
@[simp] theorem State.setJob_jobs (s : State) (n : Nat) (x : Job) : (s.setJob n x).jobs = tset s.jobs n x := rfl
@[simp] theorem State.setJob_cores (s : State) (n : Nat) (x : Job) : (s.setJob n x).cores = s.cores := rfl
@[simp] theorem State.setJob_benches (s : State) (n : Nat) (x : Job) : (s.setJob n x).benches = s.benches := rfl
@[simp] theorem State.setJob_clusters (s : State) (n : Nat) (x : Job) : (s.setJob n x).clusters = s.clusters := rfl
@[simp] theorem State.setJob_lags (s : State) (n : Nat) (x : Job) : (s.setJob n x).lags = s.lags := rfl
@[simp] theorem State.setJob_transit (s : State) (n : Nat) (x : Job) : (s.setJob n x).transit = s.transit := rfl

@[simp] theorem State.setTask_agenda (s : State) (c : CtxKey) (n : Nat) (x : Task) : (s.setTask c n x).agenda = s.agenda := rfl
@[simp] theorem State.setTask_cur (s : State) (c : CtxKey) (n : Nat) (x : Task) : (s.setTask c n x).cur = s.cur := rfl
@[simp] theorem State.setTask_word (s : State) (c : CtxKey) (n : Nat) (x : Task) : (s.setTask c n x).word = s.word := rfl
@[simp] theorem State.setTask_seq (s : State) (c : CtxKey) (n : Nat) (x : Task) : (s.setTask c n x).seq = s.seq := rfl
@[simp] theorem State.setTask_freeNext (s : State) (c : CtxKey) (n : Nat) (x : Task) : (s.setTask c n x).freeNext = s.freeNext := rfl
@[simp] theorem State.setTask_mem (s : State) (c : CtxKey) (n : Nat) (x : Task) : (s.setTask c n x).mem = s.mem := rfl
@[simp] theorem State.setTask_pkg (s : State) (c : CtxKey) (n : Nat) (x : Task) : (s.setTask c n x).pkg = s.pkg := rfl
@[simp] theorem State.setTask_parts (s : State) (c : CtxKey) (n : Nat) (x : Task) : (s.setTask c n x).parts = s.parts := rfl
@[simp] theorem State.setTask_ctxs (s : State) (c : CtxKey) (n : Nat) (x : Task) : (s.setTask c n x).ctxs = s.ctxs := rfl
@[simp] theorem State.setTask_grids (s : State) (c : CtxKey) (n : Nat) (x : Task) : (s.setTask c n x).grids = s.grids := rfl
@[simp] theorem State.setTask_tasks (s : State) (c : CtxKey) (n : Nat) (x : Task) : (s.setTask c n x).tasks = tset s.tasks (c, n) x := rfl
@[simp] theorem State.setTask_teams (s : State) (c : CtxKey) (n : Nat) (x : Task) : (s.setTask c n x).teams = s.teams := rfl
@[simp] theorem State.setTask_gangs (s : State) (c : CtxKey) (n : Nat) (x : Task) : (s.setTask c n x).gangs = s.gangs := rfl
@[simp] theorem State.setTask_jobs (s : State) (c : CtxKey) (n : Nat) (x : Task) : (s.setTask c n x).jobs = s.jobs := rfl
@[simp] theorem State.setTask_cores (s : State) (c : CtxKey) (n : Nat) (x : Task) : (s.setTask c n x).cores = s.cores := rfl
@[simp] theorem State.setTask_benches (s : State) (c : CtxKey) (n : Nat) (x : Task) : (s.setTask c n x).benches = s.benches := rfl
@[simp] theorem State.setTask_clusters (s : State) (c : CtxKey) (n : Nat) (x : Task) : (s.setTask c n x).clusters = s.clusters := rfl
@[simp] theorem State.setTask_lags (s : State) (c : CtxKey) (n : Nat) (x : Task) : (s.setTask c n x).lags = s.lags := rfl
@[simp] theorem State.setTask_transit (s : State) (c : CtxKey) (n : Nat) (x : Task) : (s.setTask c n x).transit = s.transit := rfl

@[simp] theorem State.modGang_agenda (s : State) (k : GangKey) (f : Gang → Gang) : (s.modGang k f).agenda = s.agenda := rfl
@[simp] theorem State.modGang_cur (s : State) (k : GangKey) (f : Gang → Gang) : (s.modGang k f).cur = s.cur := rfl
@[simp] theorem State.modGang_word (s : State) (k : GangKey) (f : Gang → Gang) : (s.modGang k f).word = s.word := rfl
@[simp] theorem State.modGang_seq (s : State) (k : GangKey) (f : Gang → Gang) : (s.modGang k f).seq = s.seq := rfl
@[simp] theorem State.modGang_freeNext (s : State) (k : GangKey) (f : Gang → Gang) : (s.modGang k f).freeNext = s.freeNext := rfl
@[simp] theorem State.modGang_mem (s : State) (k : GangKey) (f : Gang → Gang) : (s.modGang k f).mem = s.mem := rfl
@[simp] theorem State.modGang_pkg (s : State) (k : GangKey) (f : Gang → Gang) : (s.modGang k f).pkg = s.pkg := rfl
@[simp] theorem State.modGang_parts (s : State) (k : GangKey) (f : Gang → Gang) : (s.modGang k f).parts = s.parts := rfl
@[simp] theorem State.modGang_ctxs (s : State) (k : GangKey) (f : Gang → Gang) : (s.modGang k f).ctxs = s.ctxs := rfl
@[simp] theorem State.modGang_grids (s : State) (k : GangKey) (f : Gang → Gang) : (s.modGang k f).grids = s.grids := rfl
@[simp] theorem State.modGang_tasks (s : State) (k : GangKey) (f : Gang → Gang) : (s.modGang k f).tasks = s.tasks := rfl
@[simp] theorem State.modGang_teams (s : State) (k : GangKey) (f : Gang → Gang) : (s.modGang k f).teams = s.teams := rfl
@[simp] theorem State.modGang_gangs (s : State) (k : GangKey) (f : Gang → Gang) : (s.modGang k f).gangs = tset s.gangs k (f (s.gang k)) := rfl
@[simp] theorem State.modGang_jobs (s : State) (k : GangKey) (f : Gang → Gang) : (s.modGang k f).jobs = s.jobs := rfl
@[simp] theorem State.modGang_cores (s : State) (k : GangKey) (f : Gang → Gang) : (s.modGang k f).cores = s.cores := rfl
@[simp] theorem State.modGang_benches (s : State) (k : GangKey) (f : Gang → Gang) : (s.modGang k f).benches = s.benches := rfl
@[simp] theorem State.modGang_clusters (s : State) (k : GangKey) (f : Gang → Gang) : (s.modGang k f).clusters = s.clusters := rfl
@[simp] theorem State.modGang_lags (s : State) (k : GangKey) (f : Gang → Gang) : (s.modGang k f).lags = s.lags := rfl
@[simp] theorem State.modGang_transit (s : State) (k : GangKey) (f : Gang → Gang) : (s.modGang k f).transit = s.transit := rfl

@[simp] theorem State.modTeam_agenda (s : State) (n : Nat) (f : Team → Team) : (s.modTeam n f).agenda = s.agenda := rfl
@[simp] theorem State.modTeam_cur (s : State) (n : Nat) (f : Team → Team) : (s.modTeam n f).cur = s.cur := rfl
@[simp] theorem State.modTeam_word (s : State) (n : Nat) (f : Team → Team) : (s.modTeam n f).word = s.word := rfl
@[simp] theorem State.modTeam_seq (s : State) (n : Nat) (f : Team → Team) : (s.modTeam n f).seq = s.seq := rfl
@[simp] theorem State.modTeam_freeNext (s : State) (n : Nat) (f : Team → Team) : (s.modTeam n f).freeNext = s.freeNext := rfl
@[simp] theorem State.modTeam_mem (s : State) (n : Nat) (f : Team → Team) : (s.modTeam n f).mem = s.mem := rfl
@[simp] theorem State.modTeam_pkg (s : State) (n : Nat) (f : Team → Team) : (s.modTeam n f).pkg = s.pkg := rfl
@[simp] theorem State.modTeam_parts (s : State) (n : Nat) (f : Team → Team) : (s.modTeam n f).parts = s.parts := rfl
@[simp] theorem State.modTeam_ctxs (s : State) (n : Nat) (f : Team → Team) : (s.modTeam n f).ctxs = s.ctxs := rfl
@[simp] theorem State.modTeam_grids (s : State) (n : Nat) (f : Team → Team) : (s.modTeam n f).grids = s.grids := rfl
@[simp] theorem State.modTeam_tasks (s : State) (n : Nat) (f : Team → Team) : (s.modTeam n f).tasks = s.tasks := rfl
@[simp] theorem State.modTeam_teams (s : State) (n : Nat) (f : Team → Team) : (s.modTeam n f).teams = tset s.teams n (f (s.team n)) := rfl
@[simp] theorem State.modTeam_gangs (s : State) (n : Nat) (f : Team → Team) : (s.modTeam n f).gangs = s.gangs := rfl
@[simp] theorem State.modTeam_jobs (s : State) (n : Nat) (f : Team → Team) : (s.modTeam n f).jobs = s.jobs := rfl
@[simp] theorem State.modTeam_cores (s : State) (n : Nat) (f : Team → Team) : (s.modTeam n f).cores = s.cores := rfl
@[simp] theorem State.modTeam_benches (s : State) (n : Nat) (f : Team → Team) : (s.modTeam n f).benches = s.benches := rfl
@[simp] theorem State.modTeam_clusters (s : State) (n : Nat) (f : Team → Team) : (s.modTeam n f).clusters = s.clusters := rfl
@[simp] theorem State.modTeam_lags (s : State) (n : Nat) (f : Team → Team) : (s.modTeam n f).lags = s.lags := rfl
@[simp] theorem State.modTeam_transit (s : State) (n : Nat) (f : Team → Team) : (s.modTeam n f).transit = s.transit := rfl

@[simp] theorem State.modCore_agenda (s : State) (n : Nat) (f : Core → Core) : (s.modCore n f).agenda = s.agenda := rfl
@[simp] theorem State.modCore_cur (s : State) (n : Nat) (f : Core → Core) : (s.modCore n f).cur = s.cur := rfl
@[simp] theorem State.modCore_word (s : State) (n : Nat) (f : Core → Core) : (s.modCore n f).word = s.word := rfl
@[simp] theorem State.modCore_seq (s : State) (n : Nat) (f : Core → Core) : (s.modCore n f).seq = s.seq := rfl
@[simp] theorem State.modCore_freeNext (s : State) (n : Nat) (f : Core → Core) : (s.modCore n f).freeNext = s.freeNext := rfl
@[simp] theorem State.modCore_mem (s : State) (n : Nat) (f : Core → Core) : (s.modCore n f).mem = s.mem := rfl
@[simp] theorem State.modCore_pkg (s : State) (n : Nat) (f : Core → Core) : (s.modCore n f).pkg = s.pkg := rfl
@[simp] theorem State.modCore_parts (s : State) (n : Nat) (f : Core → Core) : (s.modCore n f).parts = s.parts := rfl
@[simp] theorem State.modCore_ctxs (s : State) (n : Nat) (f : Core → Core) : (s.modCore n f).ctxs = s.ctxs := rfl
@[simp] theorem State.modCore_grids (s : State) (n : Nat) (f : Core → Core) : (s.modCore n f).grids = s.grids := rfl
@[simp] theorem State.modCore_tasks (s : State) (n : Nat) (f : Core → Core) : (s.modCore n f).tasks = s.tasks := rfl
@[simp] theorem State.modCore_teams (s : State) (n : Nat) (f : Core → Core) : (s.modCore n f).teams = s.teams := rfl
@[simp] theorem State.modCore_gangs (s : State) (n : Nat) (f : Core → Core) : (s.modCore n f).gangs = s.gangs := rfl
@[simp] theorem State.modCore_jobs (s : State) (n : Nat) (f : Core → Core) : (s.modCore n f).jobs = s.jobs := rfl
@[simp] theorem State.modCore_cores (s : State) (n : Nat) (f : Core → Core) : (s.modCore n f).cores = tset s.cores n (f (s.core n)) := rfl
@[simp] theorem State.modCore_benches (s : State) (n : Nat) (f : Core → Core) : (s.modCore n f).benches = s.benches := rfl
@[simp] theorem State.modCore_clusters (s : State) (n : Nat) (f : Core → Core) : (s.modCore n f).clusters = s.clusters := rfl
@[simp] theorem State.modCore_lags (s : State) (n : Nat) (f : Core → Core) : (s.modCore n f).lags = s.lags := rfl
@[simp] theorem State.modCore_transit (s : State) (n : Nat) (f : Core → Core) : (s.modCore n f).transit = s.transit := rfl

@[simp] theorem State.modPart_agenda (s : State) (n : Nat) (f : Part → Part) : (s.modPart n f).agenda = s.agenda := rfl
@[simp] theorem State.modPart_cur (s : State) (n : Nat) (f : Part → Part) : (s.modPart n f).cur = s.cur := rfl
@[simp] theorem State.modPart_word (s : State) (n : Nat) (f : Part → Part) : (s.modPart n f).word = s.word := rfl
@[simp] theorem State.modPart_seq (s : State) (n : Nat) (f : Part → Part) : (s.modPart n f).seq = s.seq := rfl
@[simp] theorem State.modPart_freeNext (s : State) (n : Nat) (f : Part → Part) : (s.modPart n f).freeNext = s.freeNext := rfl
@[simp] theorem State.modPart_mem (s : State) (n : Nat) (f : Part → Part) : (s.modPart n f).mem = s.mem := rfl
@[simp] theorem State.modPart_pkg (s : State) (n : Nat) (f : Part → Part) : (s.modPart n f).pkg = s.pkg := rfl
@[simp] theorem State.modPart_parts (s : State) (n : Nat) (f : Part → Part) : (s.modPart n f).parts = tset s.parts n (f (s.part n)) := rfl
@[simp] theorem State.modPart_ctxs (s : State) (n : Nat) (f : Part → Part) : (s.modPart n f).ctxs = s.ctxs := rfl
@[simp] theorem State.modPart_grids (s : State) (n : Nat) (f : Part → Part) : (s.modPart n f).grids = s.grids := rfl
@[simp] theorem State.modPart_tasks (s : State) (n : Nat) (f : Part → Part) : (s.modPart n f).tasks = s.tasks := rfl
@[simp] theorem State.modPart_teams (s : State) (n : Nat) (f : Part → Part) : (s.modPart n f).teams = s.teams := rfl
@[simp] theorem State.modPart_gangs (s : State) (n : Nat) (f : Part → Part) : (s.modPart n f).gangs = s.gangs := rfl
@[simp] theorem State.modPart_jobs (s : State) (n : Nat) (f : Part → Part) : (s.modPart n f).jobs = s.jobs := rfl
@[simp] theorem State.modPart_cores (s : State) (n : Nat) (f : Part → Part) : (s.modPart n f).cores = s.cores := rfl
@[simp] theorem State.modPart_benches (s : State) (n : Nat) (f : Part → Part) : (s.modPart n f).benches = s.benches := rfl
@[simp] theorem State.modPart_clusters (s : State) (n : Nat) (f : Part → Part) : (s.modPart n f).clusters = s.clusters := rfl
@[simp] theorem State.modPart_lags (s : State) (n : Nat) (f : Part → Part) : (s.modPart n f).lags = s.lags := rfl
@[simp] theorem State.modPart_transit (s : State) (n : Nat) (f : Part → Part) : (s.modPart n f).transit = s.transit := rfl

@[simp] theorem State.modCtx_agenda (s : State) (c : CtxKey) (f : Context → Context) : (s.modCtx c f).agenda = s.agenda := rfl
@[simp] theorem State.modCtx_cur (s : State) (c : CtxKey) (f : Context → Context) : (s.modCtx c f).cur = s.cur := rfl
@[simp] theorem State.modCtx_word (s : State) (c : CtxKey) (f : Context → Context) : (s.modCtx c f).word = s.word := rfl
@[simp] theorem State.modCtx_seq (s : State) (c : CtxKey) (f : Context → Context) : (s.modCtx c f).seq = s.seq := rfl
@[simp] theorem State.modCtx_freeNext (s : State) (c : CtxKey) (f : Context → Context) : (s.modCtx c f).freeNext = s.freeNext := rfl
@[simp] theorem State.modCtx_mem (s : State) (c : CtxKey) (f : Context → Context) : (s.modCtx c f).mem = s.mem := rfl
@[simp] theorem State.modCtx_pkg (s : State) (c : CtxKey) (f : Context → Context) : (s.modCtx c f).pkg = s.pkg := rfl
@[simp] theorem State.modCtx_parts (s : State) (c : CtxKey) (f : Context → Context) : (s.modCtx c f).parts = s.parts := rfl
@[simp] theorem State.modCtx_ctxs (s : State) (c : CtxKey) (f : Context → Context) : (s.modCtx c f).ctxs = tset s.ctxs c (f (s.ctx c)) := rfl
@[simp] theorem State.modCtx_grids (s : State) (c : CtxKey) (f : Context → Context) : (s.modCtx c f).grids = s.grids := rfl
@[simp] theorem State.modCtx_tasks (s : State) (c : CtxKey) (f : Context → Context) : (s.modCtx c f).tasks = s.tasks := rfl
@[simp] theorem State.modCtx_teams (s : State) (c : CtxKey) (f : Context → Context) : (s.modCtx c f).teams = s.teams := rfl
@[simp] theorem State.modCtx_gangs (s : State) (c : CtxKey) (f : Context → Context) : (s.modCtx c f).gangs = s.gangs := rfl
@[simp] theorem State.modCtx_jobs (s : State) (c : CtxKey) (f : Context → Context) : (s.modCtx c f).jobs = s.jobs := rfl
@[simp] theorem State.modCtx_cores (s : State) (c : CtxKey) (f : Context → Context) : (s.modCtx c f).cores = s.cores := rfl
@[simp] theorem State.modCtx_benches (s : State) (c : CtxKey) (f : Context → Context) : (s.modCtx c f).benches = s.benches := rfl
@[simp] theorem State.modCtx_clusters (s : State) (c : CtxKey) (f : Context → Context) : (s.modCtx c f).clusters = s.clusters := rfl
@[simp] theorem State.modCtx_lags (s : State) (c : CtxKey) (f : Context → Context) : (s.modCtx c f).lags = s.lags := rfl
@[simp] theorem State.modCtx_transit (s : State) (c : CtxKey) (f : Context → Context) : (s.modCtx c f).transit = s.transit := rfl

@[simp] theorem State.modPkg_agenda (s : State) (f : Package → Package) : (s.modPkg f).agenda = s.agenda := rfl
@[simp] theorem State.modPkg_cur (s : State) (f : Package → Package) : (s.modPkg f).cur = s.cur := rfl
@[simp] theorem State.modPkg_word (s : State) (f : Package → Package) : (s.modPkg f).word = s.word := rfl
@[simp] theorem State.modPkg_seq (s : State) (f : Package → Package) : (s.modPkg f).seq = s.seq := rfl
@[simp] theorem State.modPkg_freeNext (s : State) (f : Package → Package) : (s.modPkg f).freeNext = s.freeNext := rfl
@[simp] theorem State.modPkg_mem (s : State) (f : Package → Package) : (s.modPkg f).mem = s.mem := rfl
@[simp] theorem State.modPkg_pkg (s : State) (f : Package → Package) : (s.modPkg f).pkg = f s.pkg := rfl
@[simp] theorem State.modPkg_parts (s : State) (f : Package → Package) : (s.modPkg f).parts = s.parts := rfl
@[simp] theorem State.modPkg_ctxs (s : State) (f : Package → Package) : (s.modPkg f).ctxs = s.ctxs := rfl
@[simp] theorem State.modPkg_grids (s : State) (f : Package → Package) : (s.modPkg f).grids = s.grids := rfl
@[simp] theorem State.modPkg_tasks (s : State) (f : Package → Package) : (s.modPkg f).tasks = s.tasks := rfl
@[simp] theorem State.modPkg_teams (s : State) (f : Package → Package) : (s.modPkg f).teams = s.teams := rfl
@[simp] theorem State.modPkg_gangs (s : State) (f : Package → Package) : (s.modPkg f).gangs = s.gangs := rfl
@[simp] theorem State.modPkg_jobs (s : State) (f : Package → Package) : (s.modPkg f).jobs = s.jobs := rfl
@[simp] theorem State.modPkg_cores (s : State) (f : Package → Package) : (s.modPkg f).cores = s.cores := rfl
@[simp] theorem State.modPkg_benches (s : State) (f : Package → Package) : (s.modPkg f).benches = s.benches := rfl
@[simp] theorem State.modPkg_clusters (s : State) (f : Package → Package) : (s.modPkg f).clusters = s.clusters := rfl
@[simp] theorem State.modPkg_lags (s : State) (f : Package → Package) : (s.modPkg f).lags = s.lags := rfl
@[simp] theorem State.modPkg_transit (s : State) (f : Package → Package) : (s.modPkg f).transit = s.transit := rfl

@[simp] theorem State.bump_agenda (s : State) : (s.bump).agenda = s.agenda := rfl
@[simp] theorem State.bump_cur (s : State) : (s.bump).cur = s.cur := rfl
@[simp] theorem State.bump_word (s : State) : (s.bump).word = s.word := rfl
@[simp] theorem State.bump_seq (s : State) : (s.bump).seq = s.seq + 1 := rfl
@[simp] theorem State.bump_freeNext (s : State) : (s.bump).freeNext = s.freeNext := rfl
@[simp] theorem State.bump_mem (s : State) : (s.bump).mem = s.mem := rfl
@[simp] theorem State.bump_pkg (s : State) : (s.bump).pkg = s.pkg := rfl
@[simp] theorem State.bump_parts (s : State) : (s.bump).parts = s.parts := rfl
@[simp] theorem State.bump_ctxs (s : State) : (s.bump).ctxs = s.ctxs := rfl
@[simp] theorem State.bump_grids (s : State) : (s.bump).grids = s.grids := rfl
@[simp] theorem State.bump_tasks (s : State) : (s.bump).tasks = s.tasks := rfl
@[simp] theorem State.bump_teams (s : State) : (s.bump).teams = s.teams := rfl
@[simp] theorem State.bump_gangs (s : State) : (s.bump).gangs = s.gangs := rfl
@[simp] theorem State.bump_jobs (s : State) : (s.bump).jobs = s.jobs := rfl
@[simp] theorem State.bump_cores (s : State) : (s.bump).cores = s.cores := rfl
@[simp] theorem State.bump_benches (s : State) : (s.bump).benches = s.benches := rfl
@[simp] theorem State.bump_clusters (s : State) : (s.bump).clusters = s.clusters := rfl
@[simp] theorem State.bump_lags (s : State) : (s.bump).lags = s.lags := rfl
@[simp] theorem State.bump_transit (s : State) : (s.bump).transit = s.transit := rfl

@[simp] theorem State.useFree_agenda (s : State) : (s.useFree).agenda = s.agenda := rfl
@[simp] theorem State.useFree_cur (s : State) : (s.useFree).cur = s.cur := rfl
@[simp] theorem State.useFree_word (s : State) : (s.useFree).word = s.word := rfl
@[simp] theorem State.useFree_seq (s : State) : (s.useFree).seq = s.seq := rfl
@[simp] theorem State.useFree_freeNext (s : State) : (s.useFree).freeNext = s.freeNext + 1 := rfl
@[simp] theorem State.useFree_mem (s : State) : (s.useFree).mem = s.mem := rfl
@[simp] theorem State.useFree_pkg (s : State) : (s.useFree).pkg = s.pkg := rfl
@[simp] theorem State.useFree_parts (s : State) : (s.useFree).parts = s.parts := rfl
@[simp] theorem State.useFree_ctxs (s : State) : (s.useFree).ctxs = s.ctxs := rfl
@[simp] theorem State.useFree_grids (s : State) : (s.useFree).grids = s.grids := rfl
@[simp] theorem State.useFree_tasks (s : State) : (s.useFree).tasks = s.tasks := rfl
@[simp] theorem State.useFree_teams (s : State) : (s.useFree).teams = s.teams := rfl
@[simp] theorem State.useFree_gangs (s : State) : (s.useFree).gangs = s.gangs := rfl
@[simp] theorem State.useFree_jobs (s : State) : (s.useFree).jobs = s.jobs := rfl
@[simp] theorem State.useFree_cores (s : State) : (s.useFree).cores = s.cores := rfl
@[simp] theorem State.useFree_benches (s : State) : (s.useFree).benches = s.benches := rfl
@[simp] theorem State.useFree_clusters (s : State) : (s.useFree).clusters = s.clusters := rfl
@[simp] theorem State.useFree_lags (s : State) : (s.useFree).lags = s.lags := rfl
@[simp] theorem State.useFree_transit (s : State) : (s.useFree).transit = s.transit := rfl

-- Tables

@[simp] theorem tget_nil {κ ν : Type} [DecidableEq κ] (k : κ) : tget ([] : Tbl κ ν) k = none := rfl
theorem tget_cons {κ ν : Type} [DecidableEq κ] (e : κ × ν) (t : Tbl κ ν) (k : κ) : tget (e :: t) k = if e.1 = k then some e.2 else tget t k := by
  by_cases h : e.1 = k <;> simp [tget, h]
theorem mem_of_tget {κ ν : Type} [DecidableEq κ] {t : Tbl κ ν} {k : κ} {v : ν} (h : tget t k = some v) : (k, v) ∈ t := by
  induction t with
  | nil => simp at h
  | cons e t ih =>
    rw [tget_cons] at h
    split at h
    · obtain ⟨a, b⟩ := e; simp_all
    · exact List.mem_cons_of_mem _ (ih h)
theorem tget_terase {κ ν : Type} [DecidableEq κ] (t : Tbl κ ν) (k j : κ) : tget (terase t k) j = if j = k then none else tget t j := by
  induction t with
  | nil => simp [terase]
  | cons e t ih =>
    by_cases h : e.1 = k
    · rw [show terase (e :: t) k = terase t k by simp [terase, h], ih, tget_cons]
      by_cases hj : j = k
      · simp [hj]
      · simp [hj, h, Ne.symm hj]
    · rw [show terase (e :: t) k = e :: terase t k by simp [terase, h], tget_cons, tget_cons, ih]
      by_cases hj : j = k
      · subst hj; simp [h]
      · simp [hj]
theorem tget_tset {κ ν : Type} [DecidableEq κ] (t : Tbl κ ν) (k j : κ) (v : ν) : tget (tset t k v) j = if j = k then some v else tget t j := by
  rw [tset, tget_cons, tget_terase]
  by_cases h : j = k
  · simp [h]
  · simp [h, Ne.symm h]
@[simp] theorem tgetD_tset_self {κ ν : Type} [DecidableEq κ] (t : Tbl κ ν) (k : κ) (v d : ν) : tgetD (tset t k v) k d = v := by simp [tgetD, tget_tset]
theorem tgetD_tset_ne {κ ν : Type} [DecidableEq κ] (t : Tbl κ ν) {k j : κ} (v d : ν) (h : j ≠ k) : tgetD (tset t k v) j d = tgetD t j d := by
  simp [tgetD, tget_tset, h]

-- Records read back

@[simp] theorem State.gang_setGang (s : State) (k : GangKey) (g : Gang) : (s.setGang k g).gang k = g := by simp [State.gang]
theorem State.gang_setGang_ne (s : State) {k j : GangKey} (g : Gang) (h : j ≠ k) : (s.setGang k g).gang j = s.gang j := by
  simp [State.gang, tgetD_tset_ne _ _ _ h]
@[simp] theorem State.gang_modGang (s : State) (k : GangKey) (f : Gang → Gang) : (s.modGang k f).gang k = f (s.gang k) := by simp [State.gang]
theorem State.gang_modGang_ne (s : State) {k j : GangKey} (f : Gang → Gang) (h : j ≠ k) : (s.modGang k f).gang j = s.gang j := by
  simp [State.gang, tgetD_tset_ne _ _ _ h]
@[simp] theorem State.team_modTeam (s : State) (n : Nat) (f : Team → Team) : (s.modTeam n f).team n = f (s.team n) := by simp [State.team]
@[simp] theorem State.core_modCore (s : State) (n : Nat) (f : Core → Core) : (s.modCore n f).core n = f (s.core n) := by simp [State.core]
@[simp] theorem State.part_modPart (s : State) (n : Nat) (f : Part → Part) : (s.modPart n f).part n = f (s.part n) := by simp [State.part]
@[simp] theorem State.ctx_modCtx (s : State) (c : CtxKey) (f : Context → Context) : (s.modCtx c f).ctx c = f (s.ctx c) := by simp [State.ctx]

@[simp] theorem State.team_setGang (s : State) (k : GangKey) (g : Gang) (j : Nat) : (s.setGang k g).team j = s.team j := rfl
@[simp] theorem State.grid_setGang (s : State) (k : GangKey) (g : Gang) (j : Nat) : (s.setGang k g).grid j = s.grid j := rfl
@[simp] theorem State.core_setGang (s : State) (k : GangKey) (g : Gang) (j : Nat) : (s.setGang k g).core j = s.core j := rfl
@[simp] theorem State.bench_setGang (s : State) (k : GangKey) (g : Gang) (a d : Nat) : (s.setGang k g).bench a d = s.bench a d := rfl
@[simp] theorem State.cluster_setGang (s : State) (k : GangKey) (g : Gang) (j : Nat) : (s.setGang k g).cluster j = s.cluster j := rfl
@[simp] theorem State.part_setGang (s : State) (k : GangKey) (g : Gang) (j : Nat) : (s.setGang k g).part j = s.part j := rfl
@[simp] theorem State.ctx_setGang (s : State) (k : GangKey) (g : Gang) (j : CtxKey) : (s.setGang k g).ctx j = s.ctx j := rfl
@[simp] theorem State.gang_setTeam (s : State) (n : Nat) (x : Team) (j : GangKey) : (s.setTeam n x).gang j = s.gang j := rfl
@[simp] theorem State.grid_setTeam (s : State) (n : Nat) (x : Team) (j : Nat) : (s.setTeam n x).grid j = s.grid j := rfl
@[simp] theorem State.core_setTeam (s : State) (n : Nat) (x : Team) (j : Nat) : (s.setTeam n x).core j = s.core j := rfl
@[simp] theorem State.bench_setTeam (s : State) (n : Nat) (x : Team) (a d : Nat) : (s.setTeam n x).bench a d = s.bench a d := rfl
@[simp] theorem State.cluster_setTeam (s : State) (n : Nat) (x : Team) (j : Nat) : (s.setTeam n x).cluster j = s.cluster j := rfl
@[simp] theorem State.part_setTeam (s : State) (n : Nat) (x : Team) (j : Nat) : (s.setTeam n x).part j = s.part j := rfl
@[simp] theorem State.ctx_setTeam (s : State) (n : Nat) (x : Team) (j : CtxKey) : (s.setTeam n x).ctx j = s.ctx j := rfl
@[simp] theorem State.gang_setGrid (s : State) (n : Nat) (x : Grid) (j : GangKey) : (s.setGrid n x).gang j = s.gang j := rfl
@[simp] theorem State.team_setGrid (s : State) (n : Nat) (x : Grid) (j : Nat) : (s.setGrid n x).team j = s.team j := rfl
@[simp] theorem State.core_setGrid (s : State) (n : Nat) (x : Grid) (j : Nat) : (s.setGrid n x).core j = s.core j := rfl
@[simp] theorem State.bench_setGrid (s : State) (n : Nat) (x : Grid) (a d : Nat) : (s.setGrid n x).bench a d = s.bench a d := rfl
@[simp] theorem State.cluster_setGrid (s : State) (n : Nat) (x : Grid) (j : Nat) : (s.setGrid n x).cluster j = s.cluster j := rfl
@[simp] theorem State.part_setGrid (s : State) (n : Nat) (x : Grid) (j : Nat) : (s.setGrid n x).part j = s.part j := rfl
@[simp] theorem State.ctx_setGrid (s : State) (n : Nat) (x : Grid) (j : CtxKey) : (s.setGrid n x).ctx j = s.ctx j := rfl
@[simp] theorem State.gang_setCore (s : State) (n : Nat) (x : Core) (j : GangKey) : (s.setCore n x).gang j = s.gang j := rfl
@[simp] theorem State.team_setCore (s : State) (n : Nat) (x : Core) (j : Nat) : (s.setCore n x).team j = s.team j := rfl
@[simp] theorem State.grid_setCore (s : State) (n : Nat) (x : Core) (j : Nat) : (s.setCore n x).grid j = s.grid j := rfl
@[simp] theorem State.bench_setCore (s : State) (n : Nat) (x : Core) (a d : Nat) : (s.setCore n x).bench a d = s.bench a d := rfl
@[simp] theorem State.cluster_setCore (s : State) (n : Nat) (x : Core) (j : Nat) : (s.setCore n x).cluster j = s.cluster j := rfl
@[simp] theorem State.part_setCore (s : State) (n : Nat) (x : Core) (j : Nat) : (s.setCore n x).part j = s.part j := rfl
@[simp] theorem State.ctx_setCore (s : State) (n : Nat) (x : Core) (j : CtxKey) : (s.setCore n x).ctx j = s.ctx j := rfl
@[simp] theorem State.gang_setBench (s : State) (c b : Nat) (x : Bench) (j : GangKey) : (s.setBench c b x).gang j = s.gang j := rfl
@[simp] theorem State.team_setBench (s : State) (c b : Nat) (x : Bench) (j : Nat) : (s.setBench c b x).team j = s.team j := rfl
@[simp] theorem State.grid_setBench (s : State) (c b : Nat) (x : Bench) (j : Nat) : (s.setBench c b x).grid j = s.grid j := rfl
@[simp] theorem State.core_setBench (s : State) (c b : Nat) (x : Bench) (j : Nat) : (s.setBench c b x).core j = s.core j := rfl
@[simp] theorem State.cluster_setBench (s : State) (c b : Nat) (x : Bench) (j : Nat) : (s.setBench c b x).cluster j = s.cluster j := rfl
@[simp] theorem State.part_setBench (s : State) (c b : Nat) (x : Bench) (j : Nat) : (s.setBench c b x).part j = s.part j := rfl
@[simp] theorem State.ctx_setBench (s : State) (c b : Nat) (x : Bench) (j : CtxKey) : (s.setBench c b x).ctx j = s.ctx j := rfl
@[simp] theorem State.gang_setCluster (s : State) (n : Nat) (x : Cluster) (j : GangKey) : (s.setCluster n x).gang j = s.gang j := rfl
@[simp] theorem State.team_setCluster (s : State) (n : Nat) (x : Cluster) (j : Nat) : (s.setCluster n x).team j = s.team j := rfl
@[simp] theorem State.grid_setCluster (s : State) (n : Nat) (x : Cluster) (j : Nat) : (s.setCluster n x).grid j = s.grid j := rfl
@[simp] theorem State.core_setCluster (s : State) (n : Nat) (x : Cluster) (j : Nat) : (s.setCluster n x).core j = s.core j := rfl
@[simp] theorem State.bench_setCluster (s : State) (n : Nat) (x : Cluster) (a d : Nat) : (s.setCluster n x).bench a d = s.bench a d := rfl
@[simp] theorem State.part_setCluster (s : State) (n : Nat) (x : Cluster) (j : Nat) : (s.setCluster n x).part j = s.part j := rfl
@[simp] theorem State.ctx_setCluster (s : State) (n : Nat) (x : Cluster) (j : CtxKey) : (s.setCluster n x).ctx j = s.ctx j := rfl
@[simp] theorem State.gang_setPart (s : State) (n : Nat) (x : Part) (j : GangKey) : (s.setPart n x).gang j = s.gang j := rfl
@[simp] theorem State.team_setPart (s : State) (n : Nat) (x : Part) (j : Nat) : (s.setPart n x).team j = s.team j := rfl
@[simp] theorem State.grid_setPart (s : State) (n : Nat) (x : Part) (j : Nat) : (s.setPart n x).grid j = s.grid j := rfl
@[simp] theorem State.core_setPart (s : State) (n : Nat) (x : Part) (j : Nat) : (s.setPart n x).core j = s.core j := rfl
@[simp] theorem State.bench_setPart (s : State) (n : Nat) (x : Part) (a d : Nat) : (s.setPart n x).bench a d = s.bench a d := rfl
@[simp] theorem State.cluster_setPart (s : State) (n : Nat) (x : Part) (j : Nat) : (s.setPart n x).cluster j = s.cluster j := rfl
@[simp] theorem State.ctx_setPart (s : State) (n : Nat) (x : Part) (j : CtxKey) : (s.setPart n x).ctx j = s.ctx j := rfl
@[simp] theorem State.gang_setCtx (s : State) (c : CtxKey) (x : Context) (j : GangKey) : (s.setCtx c x).gang j = s.gang j := rfl
@[simp] theorem State.team_setCtx (s : State) (c : CtxKey) (x : Context) (j : Nat) : (s.setCtx c x).team j = s.team j := rfl
@[simp] theorem State.grid_setCtx (s : State) (c : CtxKey) (x : Context) (j : Nat) : (s.setCtx c x).grid j = s.grid j := rfl
@[simp] theorem State.core_setCtx (s : State) (c : CtxKey) (x : Context) (j : Nat) : (s.setCtx c x).core j = s.core j := rfl
@[simp] theorem State.bench_setCtx (s : State) (c : CtxKey) (x : Context) (a d : Nat) : (s.setCtx c x).bench a d = s.bench a d := rfl
@[simp] theorem State.cluster_setCtx (s : State) (c : CtxKey) (x : Context) (j : Nat) : (s.setCtx c x).cluster j = s.cluster j := rfl
@[simp] theorem State.part_setCtx (s : State) (c : CtxKey) (x : Context) (j : Nat) : (s.setCtx c x).part j = s.part j := rfl
@[simp] theorem State.gang_setJob (s : State) (n : Nat) (x : Job) (j : GangKey) : (s.setJob n x).gang j = s.gang j := rfl
@[simp] theorem State.team_setJob (s : State) (n : Nat) (x : Job) (j : Nat) : (s.setJob n x).team j = s.team j := rfl
@[simp] theorem State.grid_setJob (s : State) (n : Nat) (x : Job) (j : Nat) : (s.setJob n x).grid j = s.grid j := rfl
@[simp] theorem State.core_setJob (s : State) (n : Nat) (x : Job) (j : Nat) : (s.setJob n x).core j = s.core j := rfl
@[simp] theorem State.bench_setJob (s : State) (n : Nat) (x : Job) (a d : Nat) : (s.setJob n x).bench a d = s.bench a d := rfl
@[simp] theorem State.cluster_setJob (s : State) (n : Nat) (x : Job) (j : Nat) : (s.setJob n x).cluster j = s.cluster j := rfl
@[simp] theorem State.part_setJob (s : State) (n : Nat) (x : Job) (j : Nat) : (s.setJob n x).part j = s.part j := rfl
@[simp] theorem State.ctx_setJob (s : State) (n : Nat) (x : Job) (j : CtxKey) : (s.setJob n x).ctx j = s.ctx j := rfl
@[simp] theorem State.gang_setTask (s : State) (c : CtxKey) (n : Nat) (x : Task) (j : GangKey) : (s.setTask c n x).gang j = s.gang j := rfl
@[simp] theorem State.team_setTask (s : State) (c : CtxKey) (n : Nat) (x : Task) (j : Nat) : (s.setTask c n x).team j = s.team j := rfl
@[simp] theorem State.grid_setTask (s : State) (c : CtxKey) (n : Nat) (x : Task) (j : Nat) : (s.setTask c n x).grid j = s.grid j := rfl
@[simp] theorem State.core_setTask (s : State) (c : CtxKey) (n : Nat) (x : Task) (j : Nat) : (s.setTask c n x).core j = s.core j := rfl
@[simp] theorem State.bench_setTask (s : State) (c : CtxKey) (n : Nat) (x : Task) (a d : Nat) : (s.setTask c n x).bench a d = s.bench a d := rfl
@[simp] theorem State.cluster_setTask (s : State) (c : CtxKey) (n : Nat) (x : Task) (j : Nat) : (s.setTask c n x).cluster j = s.cluster j := rfl
@[simp] theorem State.part_setTask (s : State) (c : CtxKey) (n : Nat) (x : Task) (j : Nat) : (s.setTask c n x).part j = s.part j := rfl
@[simp] theorem State.ctx_setTask (s : State) (c : CtxKey) (n : Nat) (x : Task) (j : CtxKey) : (s.setTask c n x).ctx j = s.ctx j := rfl
@[simp] theorem State.team_modGang (s : State) (k : GangKey) (f : Gang → Gang) (j : Nat) : (s.modGang k f).team j = s.team j := rfl
@[simp] theorem State.grid_modGang (s : State) (k : GangKey) (f : Gang → Gang) (j : Nat) : (s.modGang k f).grid j = s.grid j := rfl
@[simp] theorem State.core_modGang (s : State) (k : GangKey) (f : Gang → Gang) (j : Nat) : (s.modGang k f).core j = s.core j := rfl
@[simp] theorem State.bench_modGang (s : State) (k : GangKey) (f : Gang → Gang) (a d : Nat) : (s.modGang k f).bench a d = s.bench a d := rfl
@[simp] theorem State.cluster_modGang (s : State) (k : GangKey) (f : Gang → Gang) (j : Nat) : (s.modGang k f).cluster j = s.cluster j := rfl
@[simp] theorem State.part_modGang (s : State) (k : GangKey) (f : Gang → Gang) (j : Nat) : (s.modGang k f).part j = s.part j := rfl
@[simp] theorem State.ctx_modGang (s : State) (k : GangKey) (f : Gang → Gang) (j : CtxKey) : (s.modGang k f).ctx j = s.ctx j := rfl
@[simp] theorem State.gang_modTeam (s : State) (n : Nat) (f : Team → Team) (j : GangKey) : (s.modTeam n f).gang j = s.gang j := rfl
@[simp] theorem State.grid_modTeam (s : State) (n : Nat) (f : Team → Team) (j : Nat) : (s.modTeam n f).grid j = s.grid j := rfl
@[simp] theorem State.core_modTeam (s : State) (n : Nat) (f : Team → Team) (j : Nat) : (s.modTeam n f).core j = s.core j := rfl
@[simp] theorem State.bench_modTeam (s : State) (n : Nat) (f : Team → Team) (a d : Nat) : (s.modTeam n f).bench a d = s.bench a d := rfl
@[simp] theorem State.cluster_modTeam (s : State) (n : Nat) (f : Team → Team) (j : Nat) : (s.modTeam n f).cluster j = s.cluster j := rfl
@[simp] theorem State.part_modTeam (s : State) (n : Nat) (f : Team → Team) (j : Nat) : (s.modTeam n f).part j = s.part j := rfl
@[simp] theorem State.ctx_modTeam (s : State) (n : Nat) (f : Team → Team) (j : CtxKey) : (s.modTeam n f).ctx j = s.ctx j := rfl
@[simp] theorem State.gang_modCore (s : State) (n : Nat) (f : Core → Core) (j : GangKey) : (s.modCore n f).gang j = s.gang j := rfl
@[simp] theorem State.team_modCore (s : State) (n : Nat) (f : Core → Core) (j : Nat) : (s.modCore n f).team j = s.team j := rfl
@[simp] theorem State.grid_modCore (s : State) (n : Nat) (f : Core → Core) (j : Nat) : (s.modCore n f).grid j = s.grid j := rfl
@[simp] theorem State.bench_modCore (s : State) (n : Nat) (f : Core → Core) (a d : Nat) : (s.modCore n f).bench a d = s.bench a d := rfl
@[simp] theorem State.cluster_modCore (s : State) (n : Nat) (f : Core → Core) (j : Nat) : (s.modCore n f).cluster j = s.cluster j := rfl
@[simp] theorem State.part_modCore (s : State) (n : Nat) (f : Core → Core) (j : Nat) : (s.modCore n f).part j = s.part j := rfl
@[simp] theorem State.ctx_modCore (s : State) (n : Nat) (f : Core → Core) (j : CtxKey) : (s.modCore n f).ctx j = s.ctx j := rfl
@[simp] theorem State.gang_modPart (s : State) (n : Nat) (f : Part → Part) (j : GangKey) : (s.modPart n f).gang j = s.gang j := rfl
@[simp] theorem State.team_modPart (s : State) (n : Nat) (f : Part → Part) (j : Nat) : (s.modPart n f).team j = s.team j := rfl
@[simp] theorem State.grid_modPart (s : State) (n : Nat) (f : Part → Part) (j : Nat) : (s.modPart n f).grid j = s.grid j := rfl
@[simp] theorem State.core_modPart (s : State) (n : Nat) (f : Part → Part) (j : Nat) : (s.modPart n f).core j = s.core j := rfl
@[simp] theorem State.bench_modPart (s : State) (n : Nat) (f : Part → Part) (a d : Nat) : (s.modPart n f).bench a d = s.bench a d := rfl
@[simp] theorem State.cluster_modPart (s : State) (n : Nat) (f : Part → Part) (j : Nat) : (s.modPart n f).cluster j = s.cluster j := rfl
@[simp] theorem State.ctx_modPart (s : State) (n : Nat) (f : Part → Part) (j : CtxKey) : (s.modPart n f).ctx j = s.ctx j := rfl
@[simp] theorem State.gang_modCtx (s : State) (c : CtxKey) (f : Context → Context) (j : GangKey) : (s.modCtx c f).gang j = s.gang j := rfl
@[simp] theorem State.team_modCtx (s : State) (c : CtxKey) (f : Context → Context) (j : Nat) : (s.modCtx c f).team j = s.team j := rfl
@[simp] theorem State.grid_modCtx (s : State) (c : CtxKey) (f : Context → Context) (j : Nat) : (s.modCtx c f).grid j = s.grid j := rfl
@[simp] theorem State.core_modCtx (s : State) (c : CtxKey) (f : Context → Context) (j : Nat) : (s.modCtx c f).core j = s.core j := rfl
@[simp] theorem State.bench_modCtx (s : State) (c : CtxKey) (f : Context → Context) (a d : Nat) : (s.modCtx c f).bench a d = s.bench a d := rfl
@[simp] theorem State.cluster_modCtx (s : State) (c : CtxKey) (f : Context → Context) (j : Nat) : (s.modCtx c f).cluster j = s.cluster j := rfl
@[simp] theorem State.part_modCtx (s : State) (c : CtxKey) (f : Context → Context) (j : Nat) : (s.modCtx c f).part j = s.part j := rfl
@[simp] theorem State.gang_modPkg (s : State) (f : Package → Package) (j : GangKey) : (s.modPkg f).gang j = s.gang j := rfl
@[simp] theorem State.team_modPkg (s : State) (f : Package → Package) (j : Nat) : (s.modPkg f).team j = s.team j := rfl
@[simp] theorem State.grid_modPkg (s : State) (f : Package → Package) (j : Nat) : (s.modPkg f).grid j = s.grid j := rfl
@[simp] theorem State.core_modPkg (s : State) (f : Package → Package) (j : Nat) : (s.modPkg f).core j = s.core j := rfl
@[simp] theorem State.bench_modPkg (s : State) (f : Package → Package) (a d : Nat) : (s.modPkg f).bench a d = s.bench a d := rfl
@[simp] theorem State.cluster_modPkg (s : State) (f : Package → Package) (j : Nat) : (s.modPkg f).cluster j = s.cluster j := rfl
@[simp] theorem State.part_modPkg (s : State) (f : Package → Package) (j : Nat) : (s.modPkg f).part j = s.part j := rfl
@[simp] theorem State.ctx_modPkg (s : State) (f : Package → Package) (j : CtxKey) : (s.modPkg f).ctx j = s.ctx j := rfl
@[simp] theorem State.gang_bump (s : State) (j : GangKey) : (s.bump).gang j = s.gang j := rfl
@[simp] theorem State.team_bump (s : State) (j : Nat) : (s.bump).team j = s.team j := rfl
@[simp] theorem State.grid_bump (s : State) (j : Nat) : (s.bump).grid j = s.grid j := rfl
@[simp] theorem State.core_bump (s : State) (j : Nat) : (s.bump).core j = s.core j := rfl
@[simp] theorem State.bench_bump (s : State) (a d : Nat) : (s.bump).bench a d = s.bench a d := rfl
@[simp] theorem State.cluster_bump (s : State) (j : Nat) : (s.bump).cluster j = s.cluster j := rfl
@[simp] theorem State.part_bump (s : State) (j : Nat) : (s.bump).part j = s.part j := rfl
@[simp] theorem State.ctx_bump (s : State) (j : CtxKey) : (s.bump).ctx j = s.ctx j := rfl
@[simp] theorem State.gang_useFree (s : State) (j : GangKey) : (s.useFree).gang j = s.gang j := rfl
@[simp] theorem State.team_useFree (s : State) (j : Nat) : (s.useFree).team j = s.team j := rfl
@[simp] theorem State.grid_useFree (s : State) (j : Nat) : (s.useFree).grid j = s.grid j := rfl
@[simp] theorem State.core_useFree (s : State) (j : Nat) : (s.useFree).core j = s.core j := rfl
@[simp] theorem State.bench_useFree (s : State) (a d : Nat) : (s.useFree).bench a d = s.bench a d := rfl
@[simp] theorem State.cluster_useFree (s : State) (j : Nat) : (s.useFree).cluster j = s.cluster j := rfl
@[simp] theorem State.part_useFree (s : State) (j : Nat) : (s.useFree).part j = s.part j := rfl
@[simp] theorem State.ctx_useFree (s : State) (j : CtxKey) : (s.useFree).ctx j = s.ctx j := rfl

end Sys2Proof.Machine
end

