-- ==== Sys2Proof/Laws/Memory.lean ====
section
/-! SUPPORT. Memory in canonical form: what a read finds after a write, and that every memory operation keeps the form (Memory.wf). -/
namespace Sys2Proof.Machine
set_option Elab.async false

theorem Memory.wfAbove_mono {m : Memory} {a b : Nat} (h : Memory.wfAbove m b = true) (ab : a ≤ b) : Memory.wfAbove m a = true := by
  cases m with
  | nil => rfl
  | cons c r =>
    obtain ⟨k, x⟩ := c
    simp only [Memory.wfAbove, Bool.and_eq_true, decide_eq_true_eq] at h ⊢
    exact ⟨⟨Nat.le_trans ab h.1.1, h.1.2⟩, h.2⟩

theorem Memory.wfAbove_filter {m : Memory} {lo : Nat} (p : Host.Cell → Bool) (h : Memory.wfAbove m lo = true) : Memory.wfAbove (m.filter p) lo = true := by
  induction m generalizing lo with
  | nil => rfl
  | cons c r ih =>
    obtain ⟨k, x⟩ := c
    simp only [Memory.wfAbove, Bool.and_eq_true, decide_eq_true_eq] at h
    by_cases hp : p (k, x) = true
    · simp only [List.filter_cons, hp, if_true, Memory.wfAbove, Bool.and_eq_true, decide_eq_true_eq]
      exact ⟨h.1, ih h.2⟩
    · simp only [List.filter_cons, hp]
      exact Memory.wfAbove_mono (ih h.2) (by omega)
/-- Leaving bytes out keeps the canonical form. -/
theorem Memory.wf_filter {m : Memory} (p : Host.Cell → Bool) (h : m.wf = true) : Memory.wf (m.filter p) = true := Memory.wfAbove_filter p h
theorem Memory.wf_clear {m : Memory} (a n : Nat) (h : m.wf = true) : (m.clear a n).wf = true := Memory.wf_filter _ h

theorem Memory.wfAbove_put {m : Memory} {lo a : Nat} {b : Byte} (hb : b ≠ 0#8) (h : Memory.wfAbove m lo = true) (ha : lo ≤ a) :
    Memory.wfAbove (Memory.put m a b) lo = true := by
  induction m generalizing lo with
  | nil => simp [Memory.put, Memory.wfAbove, hb, ha]
  | cons c r ih =>
    obtain ⟨k, x⟩ := c
    simp only [Memory.wfAbove, Bool.and_eq_true, decide_eq_true_eq] at h
    by_cases h1 : k < a
    · have := ih h.2 (by omega)
      simp only [Memory.put, h1, if_true, Memory.wfAbove, Bool.and_eq_true, decide_eq_true_eq]
      exact ⟨h.1, this⟩
    · by_cases h2 : k = a
      · subst h2
        simpa [Memory.put, hb, Memory.wfAbove, ha] using h.2
      · have := Memory.wfAbove_mono (m := (k, x) :: r) (a := a + 1) (b := k) (by simp only [Memory.wfAbove, Bool.and_eq_true, decide_eq_true_eq]; exact ⟨⟨Nat.le_refl _, h.1.2⟩, h.2⟩) (by omega)
        simpa [Memory.put, h1, h2, hb, Memory.wfAbove, ha] using this

/-- A write keeps the canonical form. -/
theorem Memory.wf_write {m : Memory} (a : Nat) (b : Byte) (h : m.wf = true) : (m.write a b).wf = true := by
  unfold Memory.write
  split
  · exact Memory.wf_filter _ h
  · exact Memory.wfAbove_put ‹_› h (Nat.zero_le a)

theorem Memory.read_put (m : Memory) (a c : Nat) (b : Byte) : Memory.read (Memory.put m a b) c = if c = a then b else Memory.read m c := by
  induction m with
  | nil =>
    by_cases hc : c = a
    · simp [Memory.put, Memory.read, hc]
    · simp [Memory.put, Memory.read, hc, Ne.symm hc]
  | cons e r ih =>
    obtain ⟨k, x⟩ := e
    by_cases h1 : k < a
    · simp only [Memory.put, h1, if_true, Memory.read, ih]
      by_cases hk : k = c
      · simp [hk, show c ≠ a by omega]
      · simp [hk]
    · by_cases h2 : k = a
      · subst h2
        by_cases hc : c = k
        · simp [Memory.put, Memory.read, hc]
        · simp [Memory.put, Memory.read, hc, Ne.symm hc]
      · by_cases hc : c = a
        · simp [Memory.put, Memory.read, h1, h2, hc]
        · simp [Memory.put, Memory.read, h1, h2, hc, Ne.symm hc]

/-- Listing only the addresses that p holds of: every other one reads 0. -/
theorem Memory.read_filter (m : Memory) (p : Nat → Bool) (c : Nat) : Memory.read (m.filter fun e => p e.1) c = if p c then Memory.read m c else 0 := by
  induction m with
  | nil => simp [Memory.read]
  | cons e r ih =>
    obtain ⟨k, x⟩ := e
    by_cases hk : p k = true
    · simp only [List.filter_cons, hk, if_true, Memory.read, ih]
      by_cases hc : k = c
      · subst hc; simp [hk]
      · simp [hc]
    · simp only [List.filter_cons, hk, Memory.read]
      by_cases hc : k = c
      · subst hc; simpa [hk] using ih
      · simpa [hc] using ih

/-- A read finds the last byte written to its address, and every other address is as before. -/
theorem Memory.read_write (m : Memory) (a c : Nat) (b : Byte) : (m.write a b).read c = if c = a then b else m.read c := by
  unfold Memory.write
  split
  · rename_i hb
    rw [Memory.read_filter m (fun k => k ≠ a) c]
    by_cases hc : c = a <;> simp [hc, hb]
  · exact Memory.read_put m a c b

theorem Memory.wf_writeBytes {m : Memory} (a : Nat) (bs : List Byte) (h : m.wf = true) : (m.writeBytes a bs).wf = true := by
  induction bs generalizing m a with
  | nil => exact h
  | cons b bs ih => exact ih (a + 1) (Memory.wf_write a b h)
theorem Memory.wf_writeN {m : Memory} (a n x : Nat) (h : m.wf = true) : (m.writeN a n x).wf = true := Memory.wf_writeBytes a _ h

/-- A write of consecutive bytes: each is found at its address, and every other address is as before. -/
theorem Memory.read_writeBytes (m : Memory) (a c : Nat) (bs : List Byte) :
    (m.writeBytes a bs).read c = if a ≤ c ∧ c < a + bs.length then bs.getD (c - a) 0 else m.read c := by
  induction bs generalizing m a with
  | nil => simp only [Memory.writeBytes, List.length_nil]; rw [if_neg (by omega)]
  | cons b bs ih =>
    simp only [Memory.writeBytes, List.length_cons]
    rw [ih, Memory.read_write]
    by_cases h0 : c = a
    · subst h0; simp
    · by_cases h1 : a + 1 ≤ c ∧ c < a + 1 + bs.length
      · rw [if_pos h1, if_pos (by omega), show c - a = (c - (a + 1)) + 1 by omega, List.getD_cons_succ]
      · rw [if_neg h1, if_neg h0, if_neg (by omega)]

theorem Memory.wfAbove_shift {m : Memory} {lo a : Nat} (h : Memory.wfAbove m lo = true) (ha : a ≤ lo) :
    Memory.wfAbove (m.map fun c => (c.1 - a, c.2)) (lo - a) = true := by
  induction m generalizing lo with
  | nil => rfl
  | cons c r ih =>
    obtain ⟨k, x⟩ := c
    simp only [Memory.wfAbove, Bool.and_eq_true, decide_eq_true_eq, List.map_cons] at h ⊢
    have := ih (lo := k + 1) h.2 (by omega)
    exact ⟨⟨by omega, h.1.2⟩, by rwa [show k - a + 1 = k + 1 - a by omega]⟩
theorem Memory.wfAbove_dropBelow {m : Memory} {lo : Nat} (a n : Nat) (h : Memory.wfAbove m lo = true) :
    Memory.wfAbove (m.filter fun c => a ≤ c.1 && c.1 < a + n) (max a lo) = true := by
  induction m generalizing lo with
  | nil => rfl
  | cons c r ih =>
    obtain ⟨k, x⟩ := c
    simp only [Memory.wfAbove, Bool.and_eq_true, decide_eq_true_eq] at h
    have hr := ih h.2
    by_cases hk : a ≤ k && k < a + n
    · simp only [List.filter_cons, hk, if_true, Memory.wfAbove, Bool.and_eq_true, decide_eq_true_eq]
      simp only [Bool.and_eq_true, decide_eq_true_eq] at hk
      exact ⟨⟨by omega, h.1.2⟩, Memory.wfAbove_mono hr (by omega)⟩
    · simp only [List.filter_cons, hk]
      exact Memory.wfAbove_mono hr (by omega)
theorem Memory.wf_slice {m : Memory} (a n : Nat) (h : m.wf = true) : (m.slice a n).wf = true := by
  have h1 := Memory.wfAbove_dropBelow a n (lo := 0) h
  have h2 := Memory.wfAbove_shift (a := a) h1 (by omega)
  exact Memory.wfAbove_mono h2 (Nat.zero_le _)

/-- Clearing: the range reads 0, every other address is as before. -/
theorem Memory.read_clear (m : Memory) (a n c : Nat) : (m.clear a n).read c = if a ≤ c ∧ c < a + n then 0 else m.read c := by
  rw [Memory.clear, Memory.read_filter m (fun k => k < a || k ≥ a + n) c]
  by_cases hc : a ≤ c ∧ c < a + n
  · rw [if_pos hc, if_neg]; simp; omega
  · rw [if_neg hc, if_pos]; simp; omega

@[simp] theorem Memory.read_nil (a : Nat) : Memory.read [] a = 0 := rfl
@[simp] theorem Memory.wf_nil : Memory.wf [] = true := rfl
theorem Memory.readBytes_length (m : Memory) (a n : Nat) : (m.readBytes a n).length = n := by simp [Memory.readBytes]
/-- The bytes just written are read back. -/
theorem Memory.readBytes_writeBytes (m : Memory) (a : Nat) (bs : List Byte) : (m.writeBytes a bs).readBytes a bs.length = bs := by
  apply List.ext_getElem
  · simp [Memory.readBytes]
  · intro i h1 h2
    simp only [Memory.readBytes, List.getElem_map, List.getElem_range]
    rw [Memory.read_writeBytes, if_pos (by omega), show a + i - a = i by omega, List.getD_eq_getElem?_getD, List.getElem?_eq_getElem h2]
    rfl

end Sys2Proof.Machine
end

