-- ==== Sys2Proof/Laws/Canonical.lean ====
section
/-! SUPPORT. What each shared operation does to memory, said once: it leaves memory as it was (`…_mem`), or it keeps memory in
canonical form (`…_wf`), the same of an answer that holds a state (`Room.wf`, `Act.wf`). -/

namespace Sys2Proof.Machine
set_option Elab.async false

theorem foldl_mem {α : Type} {f : State → α → State} (hf : ∀ s a, (f s a).mem = s.mem) (xs : List α) (s : State) : (xs.foldl f s).mem = s.mem := by
  induction xs generalizing s with
  | nil => rfl
  | cons x xs ih => rw [List.foldl_cons, ih, hf]
theorem foldl_wf {α : Type} {f : State → α → State} (hf : ∀ s a, s.mem.wf = true → (f s a).mem.wf = true) (xs : List α) {s : State} (h : s.mem.wf = true) :
    (xs.foldl f s).mem.wf = true := by
  induction xs generalizing s with
  | nil => exact h
  | cons x xs ih => exact ih (hf s x h)
theorem forEach_wf {α : Type} {f : State → α → State} (hf : ∀ s a, s.mem.wf = true → (f s a).mem.wf = true) (xs : List α) {s : State} (h : s.mem.wf = true) :
    (s.forEach xs f).mem.wf = true := by
  unfold State.forEach; exact foldl_wf hf xs h
/-- What a porter's answer holds is a state in canonical form. -/
def Room.wf : Room → Prop
  | .ok s => s.mem.wf = true
  | .fault s _ _ _ => s.mem.wf = true
  | _ => True
def Act.wf : Act → Prop
  | .done s => s.mem.wf = true
  | .moved s => s.mem.wf = true
  | .spill s _ _ _ => s.mem.wf = true
  | _ => True
theorem State.retag_wf {s : State} (kd line : Nat) (h : s.mem.wf = true) : (s.retag kd line).mem.wf = true := by
  have hf : ∀ (xs : List Nat) (m : Memory) (g : Memory → Nat → Byte), m.wf = true → (xs.foldl (fun m i => Memory.write m (line * 1024 + i) (g m i)) m).wf = true := by
    intro xs
    induction xs with
    | nil => intro m g h; exact h
    | cons a xs ih => intro m g h; exact ih _ g (Memory.wf_write _ _ h)
  unfold State.retag
  split
  · exact h
  · dsimp only
    split
    · exact h
    · generalize List.range 1024 = xs
      exact hf xs _ (fun m i => Config.scramble _ _ (line * 1024 + i) (m.read (line * 1024 + i))) h
theorem State.sendRemote_mem (s : State) (pa : Nat) (p : RemotePacket) : (State.sendRemote s pa p).mem = s.mem := by
  unfold State.sendRemote
  grind [State.modPkg_mem]
theorem State.rebase_mem (s : State) (part : Nat) : (State.rebase s part).mem = s.mem := by
  unfold State.rebase
  grind [State.modPart_mem, State.modPkg_mem]
theorem State.observe_mem (s : State) (k : GangKey) : (State.observe s k).mem = s.mem := by
  unfold State.observe
  grind [State.modGang_mem]
theorem State.seeLags_mem (s : State) (die pa w : Nat) (ts : List ThreadKey) (all : Bool) : (State.seeLags s die pa w ts all).mem = s.mem := by
  unfold State.seeLags
  grind
theorem State.addLag_mem (s : State) (k : Option GangKey) (ts : List ThreadKey) (part kd pa w : Nat) : (State.addLag s k ts part kd pa w).mem = s.mem := by
  unfold State.addLag
  grind
theorem State.dropLeased_mem (s : State) (core sector : Nat) : (State.dropLeased s core sector).mem = s.mem := by
  unfold State.dropLeased
  grind [State.modCore_mem]
theorem State.progressOf_mem (s : State) (team : Nat) (homes : List Nat) : (State.progressOf s team homes).mem = s.mem := by
  unfold State.progressOf
  grind
theorem State.modPath_mem (s : State) (k : GangKey) (id : Nat) (f : Path → Path) : (State.modPath s k id f).mem = s.mem := by
  unfold State.modPath
  grind [State.modGang_mem]
theorem State.leaveSlot_mem (s : State) (k : GangKey) : (State.leaveSlot s k).mem = s.mem := by
  unfold State.leaveSlot
  grind
theorem State.retry_mem (s : State) (f : GangKey → ParkOn → Bool) : (State.retry s f).mem = s.mem := by
  unfold State.retry
  grind
theorem State.dropRemote_mem (s : State) (part : Nat) (ls : List Loc) : (State.dropRemote s part ls).mem = s.mem := by
  unfold State.dropRemote
  grind [State.modPart_mem]
theorem State.unbind_mem (s : State) (f : GangKey → Bool) : (State.unbind s f).mem = s.mem := by
  unfold State.unbind
  grind
theorem State.returnFlight_mem (s : State) (j : Job) : (State.returnFlight s j).mem = s.mem := by
  unfold State.returnFlight
  grind [State.modGang_mem, State.setGang_mem]
theorem State.orphanEngine_mem (s : State) (f : GangKey → Bool) : (State.orphanEngine s f).mem = s.mem := by
  unfold State.orphanEngine
  grind
theorem State.freeBanks_mem (s : State) (cores : List Nat) (grid : Nat) : (s.freeBanks cores grid).mem = s.mem := by
  unfold State.freeBanks
  refine foldl_mem (fun s c => ?_) _ _
  grind [State.modCore_mem]
theorem State.mergePaths_mem (s : State) (k : GangKey) : (State.mergePaths s k).mem = s.mem := by
  unfold State.mergePaths
  grind [State.modGang_mem]
theorem State.addFlight_mem (s : State) (k : GangKey) (f : Flight) : (State.addFlight s k f).mem = s.mem := by
  unfold State.addFlight
  grind [State.bump_mem, State.modGang_mem]
theorem State.charge_mem (s : State) (core : Nat) (i : Instr) (active : Mask) : (State.charge s core i active).mem = s.mem := by
  unfold State.charge
  grind [State.setCluster_mem]
theorem State.askLeave_mem (s : State) (k : GangKey) (units : Nat) : (State.askLeave s k units).mem = s.mem := by
  unfold State.askLeave
  grind [State.bump_mem, State.modGang_mem]
theorem State.demote_mem (s : State) (k : GangKey) (id : Nat) : (State.demote s k id).mem = s.mem := by
  unfold State.demote
  grind [State.setGang_mem]
theorem tsyncEffect_wf (x : Issue) (s : State) (hw : s.mem.wf = true) : (tsyncEffect x s).wf := by
  unfold tsyncEffect
  grind [Act.wf]
theorem perflvlEffect_wf (s1 : Operand) (x : Issue) (s : State) (hw : s.mem.wf = true) : (perflvlEffect s1 x s).wf := by
  unfold perflvlEffect
  grind [Act.wf, State.modTeam_mem]
theorem State.tileWritten_mem (s : State) (team span t : Nat) : (State.tileWritten s team span t).mem = s.mem := by
  unfold State.tileWritten
  grind [State.modTeam_mem]
theorem State.keepOld_mem (s : State) (team : Nat) (acc : Bool) (addr : Nat) (b : Byte) : (State.keepOld s team acc addr b).mem = s.mem := by
  unfold State.keepOld
  grind
theorem State.nextColl_mem (s : State) (group : Nat) : (State.nextColl s group).1.mem = s.mem := by
  unfold State.nextColl
  grind [State.modPkg_mem]
theorem State.noteWaiting_mem (s : State) (ctx : CtxKey) (c : Coll) (id : Nat) : (State.noteWaiting s ctx c id).mem = s.mem := by
  unfold State.noteWaiting
  grind [State.modPkg_mem]
theorem State.dropPackets_mem (s : State) (c : Coll) : (State.dropPackets s c).mem = s.mem := by
  unfold State.dropPackets
  grind [State.modPkg_mem]
theorem State.emit_mem (s : State) (p : RemotePacket) : (State.emit s p).mem = s.mem := by
  unfold State.emit
  grind [State.modPkg_mem]
theorem State.requestPost_mem (s : State) (c : CtxKey) (i : Nat) : (State.requestPost s c i).mem = s.mem := by
  unfold State.requestPost
  grind [State.modCtx_mem]
theorem State.placeGangs_wf (n : Nat) (t : Team) (l : Launch) : ∀ (k g : Nat) (s u : State), s.mem.wf = true → s.placeGangs n t l g k = some u → u.mem.wf = true := by
  intro k
  induction k with
  | zero => grind [State.placeGangs]
  | succ k ih =>
    intro g s u h e
    unfold State.placeGangs at e
    grind [State.bump_mem, State.setGang_mem]
theorem State.replayResults_mem (s : State) (k : GangKey) (r : Replay) (ws : List RegWrite) : (State.replayResults s k r ws).mem = s.mem := by
  unfold State.replayResults
  grind [State.modGang_mem]
theorem State.restartWatch_mem (s : State) (k : GangKey) : (State.restartWatch s k).mem = s.mem := by
  unfold State.restartWatch
  grind [State.modGang_mem]
theorem State.putSpawn_mem (s : State) (team : Nat) (e : Spawn) : (State.putSpawn s team e).mem = s.mem := by
  unfold State.putSpawn
  grind [State.modTeam_mem]
theorem callEffect_wf (slide : Nat) (x : Issue) (s : State) (go : State → Act) (hg : ∀ t, t.mem.wf = true → (go t).wf) (h : s.mem.wf = true) : (callEffect slide x s go).wf := by
  unfold callEffect
  split
  · trivial
  · split
    · exact h
    · exact hg _ h
theorem State.writeOnce_mem (s : State) (x : Issue) (d : Operand) (n v : Nat) : (State.writeOnce s x d n v).mem = s.mem := by
  unfold State.writeOnce
  grind [State.modGang_mem]
theorem State.writeSys_mem (s : State) (k : GangKey) (r : SysReg) (v : Nat) : (State.writeSys s k r v).mem = s.mem := by
  unfold State.writeSys
  grind [State.modCtx_mem, State.modGang_mem, State.modPart_mem]
theorem State.endGrace_mem (s : State) (k : GangKey) : (State.endGrace s k).mem = s.mem := by
  unfold State.endGrace
  grind [State.modGang_mem]
theorem State.modFigures_mem (s : State) (team core : Nat) (f : Figures → Figures) : (State.modFigures s team core f).mem = s.mem := by
  unfold State.modFigures
  grind [State.modTeam_mem]
theorem State.modEngine_mem (s : State) (core : Nat) (f : Engine → Engine) : (State.modEngine s core f).mem = s.mem := by
  unfold State.modEngine
  grind [State.modCore_mem]
theorem State.passOver_mem (s : State) (ks chosen : List GangKey) : (State.passOver s ks chosen).mem = s.mem := by
  unfold State.passOver
  grind
theorem State.noteReady_mem (s : State) (core : Nat) : (State.noteReady s core).mem = s.mem := by
  unfold State.noteReady
  grind
theorem State.elapse_mem (s : State) (n : Nat) : (State.elapse s n).mem = s.mem := by
  unfold State.elapse
  grind
theorem State.sweepCluster_mem (s : State) (r : SensorReading) : (State.sweepCluster s r).mem = s.mem := by
  unfold State.sweepCluster
  grind [State.setCluster_mem]
theorem State.clampAll_mem (s : State) (level : Nat) : (s.clampAll level).mem = s.mem := foldl_mem (fun s p => State.modPart_mem s p _) _ s
theorem State.bind_mem (s : State) (k : GangKey) (mo core mi : Nat) : (State.bind s k mo core mi).mem = s.mem := by
  unfold State.bind
  grind [State.bump_mem, State.modCore_mem]
theorem State.markTeam_mem (s : State) (n : Nat) : (State.markTeam s n).mem = s.mem := by
  unfold State.markTeam
  grind
theorem State.releaseTeam_mem (s : State) (n : Nat) : (State.releaseTeam s n).mem = s.mem := by
  unfold State.releaseTeam
  grind
theorem State.clearUnit_mem (s : State) (core : Nat) : (State.clearUnit s core).mem = s.mem := by
  unfold State.clearUnit
  grind [State.modCore_mem]
theorem State.putUnit_mem (s : State) (u : (Nat × Nat) × MsgUnit) : (State.putUnit s u).mem = s.mem := by
  unfold State.putUnit
  grind [State.modCore_mem]
theorem State.takeUnit_mem (s : State) (core : Nat) (u : MsgUnit) : (State.takeUnit s core u).mem = s.mem := by
  unfold State.takeUnit
  grind [State.modCore_mem]
theorem State.reject_mem (s : State) (part : Nat) : (State.reject s part).mem = s.mem := by
  unfold State.reject
  grind [State.modPart_mem]
theorem State.noteAnswer_mem (s : State) (part : Nat) (k : GangKey) (v : Bool) : (State.noteAnswer s part k v).mem = s.mem := by
  unfold State.noteAnswer
  grind [State.modPart_mem]
theorem State.writeRdcways_mem (s : State) (part x : Nat) : (State.writeRdcways s part x).mem = s.mem := by
  unfold State.writeRdcways
  grind [State.modPart_mem]
theorem State.writeTlbinv_mem (s : State) (part x : Nat) : (State.writeTlbinv s part x).mem = s.mem := by
  unfold State.writeTlbinv
  grind [State.modPart_mem]
theorem State.writeStat_mem (s : State) (part x : Nat) : (State.writeStat s part x).mem = s.mem := by
  unfold State.writeStat
  grind [State.modPart_mem]
theorem State.writePceil_mem (s : State) (part : Nat) (agent : CfgAgent) (x : Nat) : (State.writePceil s part agent x).mem = s.mem := by
  unfold State.writePceil
  grind [State.modPart_mem]
theorem State.runContext_mem (s : State) (c : CtxKey) : (State.runContext s c).mem = s.mem := by
  unfold State.runContext
  grind [State.modCtx_mem, State.modPkg_mem]
theorem State.mail_mem (s : State) (status : Nat) (data : List Byte) : (State.mail s status data).mem = s.mem := by
  unfold State.mail
  grind [State.modPkg_mem]
theorem State.wipe_wf (s : State) (pkg : Package) (hw : s.mem.wf = true) : (State.wipe s pkg).mem.wf = true := by
  unfold State.wipe
  grind [Memory.wf_writeN, Memory.wf_writeBytes, Memory.wf_write, Memory.wf_filter]
theorem State.countCorrected_mem (s : State) (e : HwError) : (State.countCorrected s e).mem = s.mem := by
  unfold State.countCorrected
  grind [State.modPkg_mem]
theorem State.jobEcc_mem (s : State) (unit unitId : Nat) : (State.jobEcc s unit unitId).mem = s.mem := by
  unfold State.jobEcc
  grind [State.useFree_mem]
theorem State.withFetchWord_wf (s : State) (_nbits w : Nat) (hw : s.mem.wf = true) : (State.withFetchWord s _nbits w).mem.wf = true := by
  unfold State.withFetchWord
  grind [State.modCore_mem, State.modCtx_mem, Memory.wf_writeN, Memory.wf_writeBytes, Memory.wf_write, Memory.wf_filter]
theorem State.ownCopy_mem (s : State) (k : GangKey) (core pa kd ch : Nat) : (State.ownCopy s k core pa kd ch).mem = s.mem := by
  unfold State.ownCopy
  grind [State.modCore_mem, State.modPart_mem]
theorem State.keyWrite_wf {s : State} (kd pa : Nat) (b : Byte) (h : s.mem.wf = true) : (s.keyWrite kd pa b).mem.wf = true := by
  unfold State.keyWrite
  grind [State.retag_wf, Memory.wf_write]
theorem State.timeRoom_mem (s : State) (part : Nat) : (State.timeRoom s part).mem = s.mem := by
  unfold State.timeRoom
  grind [State.rebase_mem]
theorem State.progress_mem (s : State) (k : GangKey) : (State.progress s k).mem = s.mem := by
  unfold State.progress
  grind [State.progressOf_mem]
theorem State.park_mem (s : State) (k : GangKey) (id : Nat) (on : ParkOn) : (State.park s k id on).mem = s.mem := by
  unfold State.park
  grind [State.leaveSlot_mem, State.modPath_mem]
theorem State.wakeBarrier_mem (s : State) (core off : Nat) (ph : Bool) : (State.wakeBarrier s core off ph).mem = s.mem := by
  unfold State.wakeBarrier
  grind [State.retry_mem]
theorem State.wakeGbar_mem (s : State) (part g : Nat) (ph : Bool) : (State.wakeGbar s part g ph).mem = s.mem := by
  unfold State.wakeGbar
  grind [State.retry_mem]
theorem State.removeTeam_mem (s : State) (n : Nat) : (State.removeTeam s n).mem = s.mem := by
  unfold State.removeTeam
  try simp only [State.forEach]
  repeat' rw [foldl_mem (by intro s a; grind [State.freeBanks_mem, State.leaveSlot_mem, State.modPart_mem, State.orphanEngine_mem, State.unbind_mem])]
  all_goals grind [State.freeBanks_mem, State.leaveSlot_mem, State.modPart_mem, State.orphanEngine_mem, State.unbind_mem]
theorem State.exitDeparted_mem (s : State) (team : Nat) (home : Nat × Nat) : (s.exitDeparted team home).mem = s.mem := by
  unfold State.exitDeparted
  exact (foldl_mem (fun s d => by grind [State.mergePaths_mem, State.modGang_mem]) _ _).trans (State.modTeam_mem _ _ _)
theorem State.leaveTrap_mem (s : State) (k : GangKey) : (State.leaveTrap s k).mem = s.mem := by
  unfold State.leaveTrap
  grind [State.mergePaths_mem, State.modGang_mem]
theorem State.addResult_mem (s : State) (x : Issue) (c : Option Counter) (la : BitVec 4) (dest : List Dest) (ws : List RegWrite) (sat : Bool) : (State.addResult s x c la dest ws sat).mem = s.mem := by
  unfold State.addResult
  grind [State.addFlight_mem]
theorem State.advance_mem (s : State) (k : GangKey) (id : Nat) : (State.advance s k id).mem = s.mem := by
  unfold State.advance
  grind [State.leaveSlot_mem, State.modPath_mem]
theorem State.begin_mem (s : State) (x : Issue) (i : Instr) : (State.begin s x i).mem = s.mem := by
  unfold State.begin
  grind [State.charge_mem, State.modGang_mem]
theorem State.gather_mem (s : State) (x : Issue) : (State.gather s x).mem = s.mem := by
  unfold State.gather
  grind [State.mergePaths_mem, State.modGang_mem]
theorem State.hold_mem (s : State) (k : GangKey) (id : Nat) (on : HeldOn) : (State.hold s k id on).mem = s.mem := by
  unfold State.hold
  grind [State.leaveSlot_mem, State.modPath_mem]
theorem State.takeLeave_mem (s : State) (k : GangKey) (units : Nat) : (State.takeLeave s k units).mem = s.mem := by
  unfold State.takeLeave
  grind [State.charge_mem, State.modGang_mem, State.setCluster_mem]
theorem State.wakeReceivers_mem (s : State) (core mi : Nat) : (State.wakeReceivers s core mi).mem = s.mem := by
  unfold State.wakeReceivers
  grind [State.retry_mem]
theorem State.wakeRing_mem (s : State) (core off : Nat) : (State.wakeRing s core off).mem = s.mem := by
  unfold State.wakeRing
  grind [State.retry_mem]
theorem State.landByte_mem (s : State) (p : Place) (b : Byte) : (State.landByte s p b).mem = s.mem := by
  unfold State.landByte
  grind [State.keepOld_mem, State.modTeam_mem, State.tileWritten_mem]
theorem State.collResult_mem (s : State) (id : Nat) (j : Job) (c : Coll) (kids : List Nat) (marker elems : List (BitVec 32)) : (State.collResult s id j c kids marker elems).mem = s.mem := by
  unfold State.collResult
  grind [State.dropPackets_mem, State.emit_mem, State.setJob_mem]
theorem State.hostPost_mem (s : State) (c : CtxKey) (index : Nat) : (State.hostPost s c index).mem = s.mem := by
  unfold State.hostPost
  grind [State.requestPost_mem]
theorem State.wakeQueue_mem (s : State) (pa : Nat) : (State.wakeQueue s pa).mem = s.mem := by
  unfold State.wakeQueue
  grind [State.retry_mem]
theorem State.branch_mem (s : State) (x : Issue) (rpc : Option Nat) (cs : List Branch) : (State.branch s x rpc cs).mem = s.mem := by
  unfold State.branch
  grind [State.leaveSlot_mem, State.modGang_mem]
theorem State.call_mem (s : State) (x : Issue) (slide : Nat) (ts : List (Nat × Mask)) : (State.call s x slide ts).mem = s.mem := by
  unfold State.call
  grind [State.leaveSlot_mem, State.modGang_mem]
theorem State.returnThread_mem (s : State) (x : Issue) (e : SafeEntry) (lane : Nat) (d : Depart) : (State.returnThread s x e lane d).mem = s.mem := by
  unfold State.returnThread
  grind [State.bump_mem, State.mergePaths_mem, State.modGang_mem, State.modTeam_mem]
theorem State.arriveJoin_wf (s : State) (x : Issue) (hw : s.mem.wf = true) : (State.arriveJoin s x).wf := by
  unfold State.arriveJoin
  grind [Act.wf, State.call_mem, State.leaveSlot_mem, State.mergePaths_mem, State.modPath_mem]
theorem wstatEffect_wf (d : Operand) (sel : WSel) (x : Issue) (s : State) (hw : s.mem.wf = true) : (wstatEffect d sel x s).wf := by
  unfold wstatEffect
  grind [Act.wf, State.writeOnce_mem]
theorem yieldEffect_wf (x : Issue) (s : State) (hw : s.mem.wf = true) : (yieldEffect x s).wf := by
  unfold yieldEffect
  grind [Act.wf, State.leaveSlot_mem, State.modGang_mem, State.modPath_mem]
theorem gsrEffect_wf (d : Operand) (r : SysReg) (x : Issue) (s : State) (hw : s.mem.wf = true) : (gsrEffect d r x s).wf := by
  unfold gsrEffect
  grind [Act.wf, State.modGang_mem, State.writeOnce_mem]
theorem ssrEffect_wf (src : Operand) (r : SysReg) (x : Issue) (s : State) (hw : s.mem.wf = true) : (ssrEffect src r x s).wf := by
  unfold ssrEffect
  grind [Act.wf, State.writeSys_mem]
theorem State.enqueue_mem (s : State) (core : Nat) (o : EngineOp) : (State.enqueue s core o).mem = s.mem := by
  unfold State.enqueue
  grind [State.bump_mem, State.modEngine_mem]
theorem State.rebuild_mem (s : State) (team span k : Nat) : (State.rebuild s team span k).mem = s.mem := by
  unfold State.rebuild
  grind [State.modFigures_mem, State.modTeam_mem]
theorem State.modOp_mem (s : State) (core order : Nat) (f : EngineOp → EngineOp) : (State.modOp s core order f).mem = s.mem := by
  unfold State.modOp
  grind [State.modEngine_mem]
theorem State.freeEngine_mem (s : State) (core : Nat) (o : EngineOp) : (State.freeEngine s core o).mem = s.mem := by
  unfold State.freeEngine
  grind [State.modEngine_mem]
theorem State.returnCredit_mem (s : State) (f : Flit) : (State.returnCredit s f).mem = s.mem := by
  unfold State.returnCredit
  grind [State.modCore_mem, State.retry_mem]
theorem chanbindEffect_wf (a : ChanbindArgs) (x : Issue) (s : State) (hw : s.mem.wf = true) : (chanbindEffect a x s).wf := by
  unfold chanbindEffect
  grind [Act.wf, State.bind_mem]
theorem State.requestSave_mem (s : State) (f : Team → Bool) : (s.requestSave f).mem = s.mem :=
  foldl_mem (fun s n => (State.markTeam_mem _ n).trans (State.modTeam_mem s n _)) _ s
theorem State.requestSwap_mem (s : State) (part : Nat) : (s.requestSwap part).mem = s.mem := by
  unfold State.requestSwap
  exact (foldl_mem (fun s n => State.markTeam_mem s n) _ _).trans (State.modPart_mem _ _ _)
theorem State.leaveForSlot_mem (s : State) (n slot : Nat) : (State.leaveForSlot s n slot).mem = s.mem := by
  unfold State.leaveForSlot
  try simp only [State.forEach]
  repeat' rw [foldl_mem (by intro s a; grind [State.clearUnit_mem, State.leaveSlot_mem, State.modCtx_mem, State.modPart_mem, State.setTeam_mem])]
  all_goals grind [State.clearUnit_mem, State.leaveSlot_mem, State.modCtx_mem, State.modPart_mem, State.setTeam_mem]
theorem State.saveFails_mem (s : State) (n : Nat) : (State.saveFails s n).mem = s.mem := by
  unfold State.saveFails
  grind [State.modTeam_mem, State.releaseTeam_mem]
theorem State.writeFqbase_mem (s : State) (part x : Nat) : (State.writeFqbase s part x).mem = s.mem := by
  unfold State.writeFqbase
  grind [State.modPart_mem, State.reject_mem]
theorem State.writeElbase_mem (s : State) (part x : Nat) : (State.writeElbase s part x).mem = s.mem := by
  unfold State.writeElbase
  grind [State.modPart_mem, State.reject_mem]
theorem State.writeGbcfg_mem (s : State) (part x : Nat) : (State.writeGbcfg s part x).mem = s.mem := by
  unfold State.writeGbcfg
  grind [State.modPart_mem, State.reject_mem]
theorem State.wakeSenders_mem (s : State) (die : Nat) : (State.wakeSenders s die).mem = s.mem := by
  unfold State.wakeSenders
  grind [State.retry_mem]
theorem State.benchEcc_mem (s : State) (unitId : Nat) : (State.benchEcc s unitId).mem = s.mem := by
  unfold State.benchEcc
  grind [State.modEngine_mem, State.useFree_mem]
theorem State.askTables_mem (s : State) (c : CtxKey) (va : Nat) : (State.askTables s c va).mem = s.mem := by
  unfold State.askTables
  try simp only [State.forEach]
  repeat' rw [foldl_mem (by intro s a; grind [State.sendRemote_mem])]
  all_goals grind [State.sendRemote_mem]
theorem State.sendAt_mem (s : State) (loc : Loc) (p : Nat → Nat → RemotePacket) : (State.sendAt s loc p).mem = s.mem := by
  unfold State.sendAt
  grind [State.sendRemote_mem]
theorem State.keyWriteBytes_wf (kd : Nat) (bs : List Byte) : ∀ (s : State) (pa : Nat), s.mem.wf = true → (s.keyWriteBytes kd pa bs).mem.wf = true := by
  induction bs with
  | nil => intro s pa h; exact h
  | cons b bs ih => intro s pa h; exact ih _ _ (State.keyWrite_wf _ _ _ h)
theorem State.timeRead_mem (s : State) (k : GangKey) (lease key : Nat) : (State.timeRead s k lease key).mem = s.mem := by
  unfold State.timeRead
  dsimp only
  rw [State.setGang_mem, State.modPart_mem, State.timeRoom_mem]
theorem State.timeStore_mem (s : State) (part pt key : Nat) : (State.timeStore s part pt key).1.mem = s.mem := by
  unfold State.timeStore
  dsimp only
  rw [State.modPart_mem, State.timeRoom_mem]
theorem State.agentRead_mem (s : State) (part pt key : Nat) : (State.agentRead s part pt key).mem = s.mem := by
  unfold State.agentRead
  grind [State.modPart_mem, State.timeRoom_mem]
theorem State.sendRead_mem (s : State) (loc : Loc) (n : Nat) : (State.sendRead s loc n).mem = s.mem := by
  unfold State.sendRead
  grind [State.sendAt_mem]
theorem State.exitThreads_mem (s : State) (k : GangKey) (m : Mask) : (s.exitThreads k m).mem = s.mem := by
  have hf : ∀ (xs : List (Nat × Nat)) (s : State), (xs.foldl (fun s h => s.exitDeparted k.team h) s).mem = s.mem := foldl_mem (fun s h => State.exitDeparted_mem s k.team h)
  unfold State.exitThreads
  simp only [State.mergePaths_mem, hf, State.progress_mem, State.setGang_mem]
theorem State.waitWord_mem (s : State) (x : Issue) (leave : Option Nat) : (State.waitWord s x leave).mem = s.mem := by
  unfold State.waitWord
  grind [State.bump_mem, State.modGang_mem, State.modPath_mem, State.takeLeave_mem]
theorem waitEffect_wf (a : WaitArgs) (x : Issue) (s : State) (hw : s.mem.wf = true) : (waitEffect a x s).wf := by
  unfold waitEffect
  grind [Act.wf, State.hold_mem]
theorem State.giveAll_mem (s : State) (x : Issue) (la : BitVec 4) (d : Operand) (v : Nat) : (State.giveAll s x la d v).mem = s.mem := by
  unfold State.giveAll
  grind [State.addResult_mem]
theorem State.gbarArrive_mem (s : State) (part n : Nat) : (State.gbarArrive s part n).mem = s.mem := by
  unfold State.gbarArrive
  grind [State.modPart_mem, State.wakeGbar_mem]
theorem tdescEffect_wf (a : TdescArgs) (x : Issue) (s : State) (hw : s.mem.wf = true) : (tdescEffect a x s).wf := by
  unfold tdescEffect
  dsimp only
  split
  · trivial
  · show (State.addResult _ _ _ _ _ _ _).mem.wf = true
    rw [State.addResult_mem, State.modTeam_mem]; exact hw
theorem State.collUpStep_wf (s : State) (id : Nat) (j : Job) (c : Coll) (r n : Nat) (own : List (BitVec 32)) (hw : s.mem.wf = true) {t : State} (e : (State.collUpStep s id j c r n own) = some t) : t.mem.wf = true := by
  unfold State.collUpStep at e
  grind [State.collResult_mem, State.emit_mem, State.setJob_mem]
theorem State.collDownStep_wf (s : State) (id : Nat) (j : Job) (c : Coll) (r n : Nat) (hw : s.mem.wf = true) {t : State} (e : (State.collDownStep s id j c r n) = some t) : t.mem.wf = true := by
  unfold State.collDownStep at e
  grind [State.collResult_mem]
theorem State.queueWait_mem (s : State) (k : GangKey) (path since pa : Nat) (left : Mask) (ws : List RegWrite) : (State.queueWait s k path since pa left ws).mem = s.mem := by
  unfold State.queueWait
  grind [State.bump_mem, State.modGang_mem, State.modPath_mem, State.park_mem]
theorem callDirect_wf (slide target : Nat) (aligned : Bool) (x : Issue) (s : State) (hw : s.mem.wf = true) : (callDirect slide target aligned x s).wf := by
  unfold callDirect
  grind [Act.wf, State.call_mem]
theorem State.rebuildAll_mem (s : State) (core : Nat) (o : EngineOp) : (s.rebuildAll core o).mem = s.mem := by
  unfold State.rebuildAll
  split
  · split
    · rfl
    · exact foldl_mem (fun s b => by grind [State.rebuild_mem]) _ _
  · rfl
theorem accrdEffect_wf (a : AccArgs) (x : Issue) (s : State) (hw : s.mem.wf = true) : (accrdEffect a x s).wf := by
  unfold accrdEffect
  grind [Act.wf, State.addResult_mem]
theorem accwrEffect_wf (a : AccArgs) (x : Issue) (s : State) (hw : s.mem.wf = true) : (accwrEffect a x s).wf := by
  unfold accwrEffect
  dsimp only
  split
  · trivial
  · show (State.addResult _ _ _ _ _ _ _).mem.wf = true
    rw [State.addResult_mem, State.modTeam_mem, foldl_mem (fun s a => State.keepOld_mem ..)]; exact hw
theorem trdEffect_wf (a : TileArgs) (x : Issue) (s : State) (hw : s.mem.wf = true) : (trdEffect a x s).wf := by
  unfold trdEffect
  grind [Act.wf, State.addResult_mem]
theorem twrEffect_wf (a : TileArgs) (x : Issue) (s : State) (hw : s.mem.wf = true) : (twrEffect a x s).wf := by
  unfold twrEffect
  dsimp only
  split
  · trivial
  · show (State.addResult _ _ _ _ _ _ _).mem.wf = true
    rw [State.addResult_mem, State.tileWritten_mem, State.modTeam_mem, foldl_mem (fun s a => State.keepOld_mem ..)]; exact hw
theorem tbqryEffect_wf (a : TbqryArgs) (x : Issue) (s : State) (hw : s.mem.wf = true) : (tbqryEffect a x s).wf := by
  unfold tbqryEffect
  grind [Act.wf, State.addResult_mem]
theorem mengqEffect_wf (a : MengqArgs) (x : Issue) (s : State) (hw : s.mem.wf = true) : (mengqEffect a x s).wf := by
  unfold mengqEffect
  grind [Act.wf, State.addResult_mem]
theorem State.tick_mem (s : State) (core n : Nat) : (State.tick s core n).mem = s.mem := by
  unfold State.tick
  grind [State.modCore_mem, State.modFigures_mem, State.modPart_mem, State.noteReady_mem, State.timeRoom_mem]
theorem State.grant_mem (s : State) (k : GangKey) (units since : Nat) : (State.grant s k units since).mem = s.mem := by
  unfold State.grant
  grind [State.modFigures_mem, State.modGang_mem, State.takeLeave_mem]
theorem State.writePreempt_mem (s : State) (part x : Nat) : (State.writePreempt s part x).mem = s.mem := by
  unfold State.writePreempt
  grind [State.reject_mem, State.requestSave_mem, State.requestSwap_mem]
theorem State.leaseLines_mem (s : State) (pa n : Nat) : (State.leaseLines s pa n).mem = s.mem := by
  unfold State.leaseLines
  try simp only [State.forEach]
  repeat' rw [foldl_mem (by intro s a; grind [State.modPart_mem, State.timeRoom_mem])]
  all_goals grind [State.modPart_mem, State.timeRoom_mem]
theorem State.contain_mem (s : State) (e : HwError) : (State.contain s e).mem = s.mem := by
  unfold State.contain
  grind [State.benchEcc_mem, State.jobEcc_mem, State.modPkg_mem]
theorem sfuEffect_wf (d : Operand) (n : Nat) (la : BitVec 4) (blocks : Bool) (f : Issue → State → Nat → Rounded) (x : Issue) (s : State) (hw : s.mem.wf = true) : (sfuEffect d n la blocks f x s).wf := by
  unfold sfuEffect
  grind [Act.wf, State.addResult_mem]
theorem State.fillTlb_mem (s : State) (core : Nat) (c : CtxKey) (va : Nat) : (State.fillTlb s core c va).mem = s.mem := by
  unfold State.fillTlb
  grind [State.askTables_mem, State.modCore_mem]
theorem State.leaveNow_wf {s : State} {k : GangKey} {units own : Nat} (hw : s.mem.wf = true) {t : State} (he : (State.leaveNow s k units own) = some t) : t.mem.wf = true := by
  unfold State.leaveNow at he
  grind [State.modGang_mem, State.takeLeave_mem]
theorem State.receiveFlit_mem (s : State) (f : Flit) : (State.receiveFlit s f).mem = s.mem := by
  unfold State.receiveFlit
  grind [State.modCore_mem, State.modPart_mem, State.wakeReceivers_mem]
theorem State.logTo_wf (s : State) (part : Nat) (pa cls unit unitId : Nat) (ctx : Option Nat) (detail : Nat) (hw : s.mem.wf = true) : (State.logTo s part pa cls unit unitId ctx detail).mem.wf = true := by
  unfold State.logTo
  grind [State.keyWriteBytes_wf, State.modPart_mem, State.modPkg_mem]
theorem State.queueFault_wf (s : State) (a : Agent) (c : CtxKey) (va cause : Nat) (kind : AccessKind) (level unitId gridid : Nat) (hw : s.mem.wf = true) : (State.queueFault s a c va cause kind level unitId gridid).1.mem.wf = true := by
  unfold State.queueFault
  grind [State.keyWriteBytes_wf, State.modPart_mem]
theorem State.timeLoad_mem (s : State) (k : GangKey) (key : Nat) : (State.timeLoad s k key).mem = s.mem := by
  unfold State.timeLoad
  grind [State.timeRead_mem]
theorem State.gangStore_mem (s : State) (k : GangKey) (key : Nat) : (State.gangStore s k key).mem = s.mem := by
  unfold State.gangStore
  grind [State.modGang_mem, State.timeStore_mem]
theorem State.rawWrite_wf (s : State) (loc : Loc) (n x : Nat) (hw : s.mem.wf = true) : (State.rawWrite s loc n x).mem.wf = true := by
  unfold State.rawWrite
  grind [State.keyWriteBytes_wf, State.modCore_mem, Memory.wf_writeN, Memory.wf_writeBytes, Memory.wf_write, Memory.wf_filter]
theorem State.stampObj_mem (s : State) (core off : Nat) : (State.stampObj s core off).mem = s.mem := by
  unfold State.stampObj
  grind [State.timeStore_mem]
theorem State.stampLocs_mem (s : State) (part : Nat) (ls : List Loc) : (State.stampLocs s part ls).mem = s.mem := by
  unfold State.stampLocs
  try simp only [State.forEach]
  repeat' rw [foldl_mem (by intro s a; grind [State.timeStore_mem])]
  all_goals grind [State.timeStore_mem]
theorem State.fillTlbs_mem (s : State) (k : GangKey) (vas : List Nat) : (s.fillTlbs k vas).mem = s.mem := foldl_mem (fun s va => State.fillTlb_mem s _ _ _) _ s
theorem pwrreqEffect_wf (a : PwrreqArgs) (x : Issue) (s : State) (hw : s.mem.wf = true) : (pwrreqEffect a x s).wf := by
  unfold pwrreqEffect
  grind [Act.wf, State.giveAll_mem, State.modGang_mem]
theorem pwrrelEffect_wf (la : BitVec 4) (d : Operand) (x : Issue) (s : State) (hw : s.mem.wf = true) : (pwrrelEffect la d x s).wf := by
  unfold pwrrelEffect
  grind [Act.wf, State.giveAll_mem, State.modGang_mem]
theorem callRelEffect_wf (sl : BitVec 4) (off : BitVec 32) (x : Issue) (s : State) (h : s.mem.wf = true) : (callRelEffect sl off x s).wf :=
  callEffect_wf _ _ _ _ (fun t ht => callDirect_wf _ _ _ x t ht) h
theorem exitEffect_wf (x : Issue) (s : State) (hw : s.mem.wf = true) : (exitEffect x s).wf := by
  unfold exitEffect
  grind [Act.wf, State.exitThreads_mem, State.leaveSlot_mem, State.modPath_mem]
theorem State.startOp_mem (s : State) (core : Nat) (o : EngineOp) : (State.startOp s core o).mem = s.mem := by
  unfold State.startOp
  grind [State.modEngine_mem, State.rebuildAll_mem, State.setGang_mem]
theorem State.newWindow_mem (s : State) (cluster : Nat) : (State.newWindow s cluster).mem = s.mem := by
  unfold State.newWindow
  grind [State.charge_mem, State.grant_mem, State.setCluster_mem]
theorem State.stampLines_mem (s : State) (pa n : Nat) : (State.stampLines s pa n).mem = s.mem := by
  unfold State.stampLines
  try simp only [State.forEach]
  repeat' rw [foldl_mem (by intro s a; grind [State.timeStore_mem])]
  all_goals grind [State.timeStore_mem]
theorem State.writeBack_wf (s : State) (core sector : Nat) (hw : s.mem.wf = true) : (State.writeBack s core sector).mem.wf = true := by
  unfold State.writeBack
  grind [State.keyWriteBytes_wf, State.modCore_mem, State.sendRemote_mem]
theorem State.porterFill_mem (s : State) (k : GangKey) (ws : List (Nat × Nat × Word)) : (State.porterFill s k ws).mem = s.mem := by
  unfold State.porterFill
  try simp only [State.forEach]
  repeat' rw [foldl_mem (by intro s a; grind [State.fillTlb_mem])]
  all_goals grind [State.fillTlb_mem]
theorem State.porterReads_mem (s : State) (_k : GangKey) (ws : List (Nat × Loc × Word)) : (State.porterReads s _k ws).mem = s.mem := by
  unfold State.porterReads
  try simp only [State.forEach]
  repeat' rw [foldl_mem (by intro s a; grind [State.sendRead_mem])]
  all_goals grind [State.sendRead_mem]
theorem State.agentReads_mem (s : State) (part pt : Nat) (ls : List Loc) : (State.agentReads s part pt ls).mem = s.mem := by
  unfold State.agentReads
  try simp only [State.forEach]
  repeat' rw [foldl_mem (by intro s a; grind [State.agentRead_mem])]
  all_goals grind [State.agentRead_mem]
theorem State.askRemote_mem (s : State) (ls : List Loc) : (State.askRemote s ls).mem = s.mem := by
  unfold State.askRemote
  try simp only [State.forEach]
  repeat' rw [foldl_mem (by intro s a; grind [State.sendRead_mem])]
  all_goals grind [State.sendRead_mem]
theorem State.recordBad_wf (s : State) (c : CtxKey) (pdie pa detail : Nat) (hw : s.mem.wf = true) : (State.recordBad s c pdie pa detail).mem.wf = true := by
  unfold State.recordBad
  grind [State.logTo_wf]
theorem State.agentWrite_wf (s : State) (part pt : Nat) (loc : Loc) (n x : Nat) (hw : s.mem.wf = true) : (State.agentWrite s part pt loc n x).mem.wf = true := by
  unfold State.agentWrite
  grind [State.modPart_mem, State.rawWrite_wf, State.timeStore_mem]
theorem State.setLocByte_wf (s : State) (loc : Loc) (b : Byte) (hw : s.mem.wf = true) : (State.setLocByte s loc b).mem.wf = true := by
  unfold State.setLocByte
  grind [State.rawWrite_wf]
theorem State.foremanError_wf (s : State) (c : CtxKey) (i : Nat) (hw : s.mem.wf = true) : (State.foremanError s c i).mem.wf = true := by
  unfold State.foremanError
  grind [State.logTo_wf]
theorem State.foremanAsk_mem (s : State) (c : CtxKey) (va n : Nat) : (State.foremanAsk s c va n).mem = s.mem := by
  unfold State.foremanAsk
  grind [State.agentReads_mem, State.askRemote_mem, State.askTables_mem]
theorem State.useCode_mem (s : State) (k : GangKey) (off : Nat) : (State.useCode s k off).mem = s.mem := by
  unfold State.useCode
  grind [State.askRemote_mem, State.fillTlb_mem]
theorem State.askPlaces_mem (s : State) (rs : List (List Place)) : (State.askPlaces s rs).mem = s.mem := by
  unfold State.askPlaces
  grind [State.askRemote_mem]
theorem State.reportHome_wf (s : State) (pa : Nat) (hw : s.mem.wf = true) : (State.reportHome s pa).mem.wf = true := by
  unfold State.reportHome
  grind [State.logTo_wf]
theorem State.logError_wf (s : State) (e : HwError) (d : Nat) (h : s.mem.wf = true) : (s.logError e d).mem.wf = true :=
  foldl_wf (fun s p h => by grind [State.logTo_wf]) _ h
theorem State.dropSector_wf (s : State) (core sector : Nat) (hw : s.mem.wf = true) : (State.dropSector s core sector).mem.wf = true := by
  unfold State.dropSector
  grind [State.modCore_mem, State.writeBack_wf]
theorem State.homeStore_wf (s : State) (k : GangKey) (loc : Loc) (w x : Nat) (ts : List ThreadKey) (hw : s.mem.wf = true) : (State.homeStore s k loc w x ts).mem.wf = true := by
  unfold State.homeStore
  grind [State.addLag_mem, State.gangStore_mem, State.keyWriteBytes_wf, State.modCore_mem, State.modPart_mem, Memory.wf_writeN, Memory.wf_writeBytes, Memory.wf_write, Memory.wf_filter]
theorem State.refillItem_ok {s : State} {k : GangKey} (hw : s.mem.wf = true) {t : State} (he : (State.refillItem s k) = .ok t) : t.mem.wf = true := by
  unfold State.refillItem at he
  grind [State.porterFill_mem, State.porterReads_mem, State.setGang_mem, State.useFree_mem]
theorem State.refillItem_fault {s : State} {k : GangKey} (hw : s.mem.wf = true) {t : State} {va : Nat} {m : MFault} {kind : AccessKind} (he : (State.refillItem s k) = .fault t va m kind) : t.mem.wf = true := by
  unfold State.refillItem at he
  grind [State.porterFill_mem, State.porterReads_mem, State.setGang_mem, State.useFree_mem]
theorem State.setObjWord_mem (s : State) (core off i x : Nat) : (State.setObjWord s core off i x).mem = s.mem := by
  unfold State.setObjWord
  grind [State.modCore_mem, State.stampObj_mem]
theorem State.missLoad_wf (s : State) (k : GangKey) (core pa kd w : Nat) (alloc keep : Bool) (hw : s.mem.wf = true) : (State.missLoad s k core pa kd w alloc keep).1.mem.wf = true := by
  unfold State.missLoad
  grind [State.modCore_mem, State.modGang_mem, State.modPart_mem, State.sendRemote_mem, State.timeRead_mem, State.writeBack_wf]
theorem State.requeueGang_wf (s : State) (part : Nat) (e : GangKey × Gang) (hw : s.mem.wf = true) : (State.requeueGang s part e).mem.wf = true := by
  unfold State.requeueGang
  grind [State.modPart_mem, State.queueFault_wf]
theorem State.fabricWrite_wf (s : State) (pa kd : Nat) (bs : List Byte) (hw : s.mem.wf = true) : (State.fabricWrite s pa kd bs).mem.wf = true := by
  unfold State.fabricWrite
  grind [State.keyWriteBytes_wf, State.stampLines_mem]
theorem State.flushSector_wf (s : State) (core sector : Nat) (hw : s.mem.wf = true) : (State.flushSector s core sector).mem.wf = true := by
  unfold State.flushSector
  grind [State.modPkg_mem, State.useFree_mem, State.writeBack_wf]
theorem State.refillTo_ok {k : GangKey} {f : Nat} : ∀ {n : Nat} {s t : State}, s.mem.wf = true → s.refillTo k f n = .ok t → t.mem.wf = true := by
  intro n
  induction n with
  | zero => grind [State.refillTo]
  | succ n ih => intro s t h e; unfold State.refillTo at e; grind [State.refillItem_ok]
theorem State.refillTo_fault {k : GangKey} {f va : Nat} {m : MFault} {kind : AccessKind} : ∀ {n : Nat} {s t : State}, s.mem.wf = true →
    s.refillTo k f n = .fault t va m kind → t.mem.wf = true := by
  intro n
  induction n with
  | zero => grind [State.refillTo]
  | succ n ih => intro s t h e; unfold State.refillTo at e; grind [State.refillItem_ok, State.refillItem_fault]
theorem State.flipIfDone_mem (s : State) (core off : Nat) : (State.flipIfDone s core off).mem = s.mem := by
  unfold State.flipIfDone
  grind [State.setObjWord_mem, State.wakeBarrier_mem]
theorem State.mergeStatus_mem (s : State) (core off first n : Nat) : (State.mergeStatus s core off first n).mem = s.mem := by
  unfold State.mergeStatus
  grind [State.setObjWord_mem]
theorem State.addBytes_mem (s : State) (core off n : Nat) : (State.addBytes s core off n).mem = s.mem := by
  unfold State.addBytes
  grind [State.setObjWord_mem]
theorem State.setLocBytes_wf : ∀ (ls : List Loc) (bs : List Byte) {s : State}, s.mem.wf = true → (s.setLocBytes ls bs).mem.wf = true := by
  intro ls
  induction ls with
  | nil => intro bs s h; unfold State.setLocBytes; exact h
  | cons l ls ih =>
    intro bs s h
    cases bs with
    | nil => unfold State.setLocBytes; exact h
    | cons b bs => unfold State.setLocBytes; exact ih bs (by rw [State.sendAt_mem]; exact State.setLocByte_wf _ _ _ h)
theorem State.recordVa_wf (s : State) (c : CtxKey) (core : Option Nat) (va detail : Nat) (hw : s.mem.wf = true) : (State.recordVa s c core va detail).mem.wf = true := by
  unfold State.recordVa
  grind [State.recordBad_wf]
theorem State.recordQuery_wf (s : State) (c : CtxKey) (t : TrapInfo) (hw : s.mem.wf = true) : (State.recordQuery s c t).mem.wf = true := by
  unfold State.recordQuery
  grind [State.foremanError_wf]
theorem State.setRing_mem (s : State) (core off pidx cidx dm1 w1 : Nat) : (State.setRing s core off pidx cidx dm1 w1).mem = s.mem := by
  unfold State.setRing
  grind [State.setObjWord_mem, State.wakeRing_mem]
theorem State.askQuery_mem (s : State) (c : CtxKey) (i : Nat) : (State.askQuery s c i).mem = s.mem := by
  unfold State.askQuery
  grind [State.foremanAsk_mem]
theorem State.initScratch_mem (s : State) (l : Launch) (core base : Nat) : (s.initScratch l core base).mem = s.mem := by
  unfold State.initScratch
  refine (foldl_mem (fun s r => ?_) _ _).trans (foldl_mem (fun s i => ?_) _ _)
  · exact (foldl_mem (fun s j => State.setObjWord_mem s _ _ _ _) _ _).trans (State.setObjWord_mem _ _ _ _ _)
  · exact (foldl_mem (fun s j => State.setObjWord_mem s _ _ _ _) _ _).trans (State.setObjWord_mem _ _ _ _ _)
theorem State.fetched_mem (s : State) (k : GangKey) : (State.fetched s k).mem = s.mem := by
  unfold State.fetched
  grind [State.useCode_mem]
theorem State.requeue_wf (s : State) (part : Nat) (h : s.mem.wf = true) : (s.requeue part).mem.wf = true := by
  unfold State.requeue
  exact foldl_wf (fun s k h => by grind [State.requeueGang_wf]) _ h
theorem State.plainLoad_wf (s : State) (k : GangKey) (core pa kd w : Nat) (poll : Bool) (ch : Nat) (hw : s.mem.wf = true) : (State.plainLoad s k core pa kd w poll ch).1.mem.wf = true := by
  unfold State.plainLoad
  grind [State.dropSector_wf, State.modCore_mem, State.sendRemote_mem, State.timeLoad_mem]
theorem State.jump_mem (s : State) (k : GangKey) (id off : Nat) : (State.jump s k id off).mem = s.mem := by
  unfold State.jump
  grind [State.leaveSlot_mem, State.modPath_mem, State.useCode_mem]
theorem State.askBooks_mem (s : State) (c : CtxKey) (slots : List Slot) : (State.askBooks s c slots).mem = s.mem := by
  unfold State.askBooks
  try simp only [State.forEach]
  repeat' rw [foldl_mem (by intro s a; grind [State.foremanAsk_mem])]
  all_goals grind [State.foremanAsk_mem]
theorem State.leasedLoad_wf (s : State) (k : GangKey) (core pa kd w : Nat) (poll : Bool) (ch : Nat) (hw : s.mem.wf = true) : (State.leasedLoad s k core pa kd w poll ch).1.mem.wf = true := by
  unfold State.leasedLoad
  grind [State.missLoad_wf, State.modCore_mem, State.modGang_mem, State.modPart_mem]
theorem State.plainStore_wf (s : State) (k : GangKey) (core : Nat) (loc : Loc) (pa kd w x ch : Nat) (ts : List ThreadKey) (hw : s.mem.wf = true) : (State.plainStore s k core loc pa kd w x ch ts).mem.wf = true := by
  unfold State.plainStore
  grind [State.dropSector_wf, State.gangStore_mem, State.homeStore_wf, State.modCore_mem, State.sendRemote_mem]
theorem State.homeWrite_wf (s : State) (k : GangKey) (core : Nat) (loc : Loc) (w x : Nat) (ts : List ThreadKey) (hw : s.mem.wf = true) : (State.homeWrite s k core loc w x ts).mem.wf = true := by
  unfold State.homeWrite
  grind [State.dropSector_wf, State.homeStore_wf]
theorem State.porterWrite_wf (s : State) (k : GangKey) (loc : Loc) (x : Nat) (hw : s.mem.wf = true) : (State.porterWrite s k loc x).mem.wf = true := by
  unfold State.porterWrite
  grind [State.agentWrite_wf, State.dropLeased_mem, State.sendAt_mem]
theorem State.successors_wf (s : State) (c : CtxKey) (i : Nat) (t : Task) (hw : s.mem.wf = true) : (State.successors s c i t).1.mem.wf = true := by
  unfold State.successors
  grind [State.foremanAsk_mem, State.foremanError_wf]
theorem State.evictSector_wf (s : State) (core sector : Nat) (hw : s.mem.wf = true) : (State.evictSector s core sector).mem.wf = true := by
  unfold State.evictSector
  grind [State.dropSector_wf]
theorem State.porterWrites_wf (s : State) (k : GangKey) (ws : List (Nat × Loc × Word)) (h : s.mem.wf = true) : (s.porterWrites k ws).mem.wf = true :=
  foldl_wf (fun s w h => State.porterWrite_wf s k w.2.1 w.2.2.toNat h) ws h
theorem State.arrive_mem (s : State) (core off : Nat) : (State.arrive s core off).mem = s.mem := by
  unfold State.arrive
  grind [State.flipIfDone_mem, State.mergeStatus_mem, State.setObjWord_mem]
theorem State.takeBytes_mem (s : State) (core off n : Nat) : (State.takeBytes s core off n).mem = s.mem := by
  unfold State.takeBytes
  grind [State.flipIfDone_mem, State.setObjWord_mem]
theorem State.agentStore_wf (s : State) (part : Nat) (ls : List Loc) (bs : List Byte) (hw : s.mem.wf = true) : (s.agentStore part ls bs).mem.wf = true := by
  unfold State.agentStore
  dsimp only
  rw [State.dropRemote_mem, State.stampLocs_mem]
  refine State.setLocBytes_wf _ _ (foldl_wf (fun s l h => ?_) _ hw)
  split
  · split <;> exact h
  · exact h
theorem State.recordTrap_wf (s : State) (k : GangKey) (t : TrapInfo) (hw : s.mem.wf = true) : (State.recordTrap s k t).mem.wf = true := by
  unfold State.recordTrap
  grind [State.recordQuery_wf, State.recordVa_wf]
theorem State.initBarrier_mem (s : State) (core off n : Nat) : (State.initBarrier s core off n).mem = s.mem := by
  unfold State.initBarrier
  grind [State.flipIfDone_mem, State.setObjWord_mem]
theorem State.takePlace_mem (s : State) (id : Nat) (place : Nat × Nat) (n : Nat) : (State.takePlace s id place n).mem = s.mem := by
  unfold State.takePlace
  grind [State.addBytes_mem, State.setJob_mem]
theorem State.recordBadWord_wf (s : State) (j : Job) (reads : List (Nat × Nat)) (rs : List (List Place)) (hw : s.mem.wf = true) : (State.recordBadWord s j reads rs).mem.wf = true := by
  unfold State.recordBadWord
  grind [State.recordVa_wf]
theorem State.queueStore_wf (s : State) (k : GangKey) (core : Nat) (l : Loc) (w x : Nat) (ts : List ThreadKey) (hw : s.mem.wf = true) : (State.queueStore s k core l w x ts).mem.wf = true := by
  unfold State.queueStore
  grind [State.homeWrite_wf, State.sendAt_mem]
theorem State.loadLoc_wf (s : State) (k : GangKey) (core : Nat) (loc : Loc) (w : Nat) (poll : Bool) (ch : Nat) (ts : List ThreadKey) (hw : s.mem.wf = true) : (State.loadLoc s k core loc w poll ch ts).1.mem.wf = true := by
  unfold State.loadLoc
  grind [State.dropLeased_mem, State.leasedLoad_wf, State.plainLoad_wf, State.seeLags_mem, State.timeLoad_mem]
theorem State.storeLoc_wf (s : State) (k : GangKey) (core : Nat) (loc : Loc) (w x ch : Nat) (ts : List ThreadKey) (hw : s.mem.wf = true) : (State.storeLoc s k core loc w x ch ts).mem.wf = true := by
  unfold State.storeLoc
  grind [State.homeStore_wf, State.ownCopy_mem, State.plainStore_wf, State.sendRemote_mem]
theorem State.foremanWrite_wf {s t : State} {c : CtxKey} {va : Nat} {bs : List Byte} (h : s.mem.wf = true) (e : s.foremanWrite c va bs = .ok t) : t.mem.wf = true := by
  unfold State.foremanWrite at e
  split at e
  · cases e
  · cases e
    exact State.agentStore_wf _ _ _ _ h
theorem State.setPlaces_wf (s : State) (part : Nat) (ps : List Place) (bs : List Byte) (h : s.mem.wf = true) : (s.setPlaces part ps bs).mem.wf = true := by
  unfold State.setPlaces
  refine foldl_wf (fun s e h => by rw [State.landByte_mem]; exact h) _ ?_
  split
  · exact h
  · exact State.agentStore_wf _ _ _ _ h
theorem State.sliceTouch_wf (s : State) (k : GangKey) (core : Nat) (l : Loc) (ts : List ThreadKey) (hw : s.mem.wf = true) : (State.sliceTouch s k core l ts).mem.wf = true := by
  unfold State.sliceTouch
  grind [State.queueStore_wf, State.useFree_mem]
theorem State.failFetch_mem (s : State) (core : Nat) (o : EngineOp) : (State.failFetch s core o).mem = s.mem := by
  unfold State.failFetch
  grind [State.modOp_mem, State.takeBytes_mem]
theorem State.landFetch_mem (s : State) (core : Nat) (o : EngineOp) (m : Memory) : (State.landFetch s core o m).mem = s.mem := by
  unfold State.landFetch
  grind [State.modOp_mem, State.takeBytes_mem, State.useFree_mem]
theorem State.retireOp_mem (s : State) (core : Nat) (o : EngineOp) : (State.retireOp s core o).mem = s.mem := by
  unfold State.retireOp
  grind [State.arrive_mem, State.freeEngine_mem, State.mergeStatus_mem, State.modFigures_mem, State.setTeam_mem, State.useFree_mem]
theorem State.placeWaiting_mem (s : State) (ctx : CtxKey) (table pa n : Nat) : (State.placeWaiting s ctx table pa n).mem = s.mem := by
  unfold State.placeWaiting
  try simp only [State.forEach]
  repeat' rw [foldl_mem (by intro s a; grind [State.modPkg_mem, State.nextColl_mem, State.takePlace_mem])]
  all_goals grind [State.modPkg_mem, State.nextColl_mem, State.takePlace_mem]
theorem State.tableWord_wf (s : State) (k : GangKey) (va n : Nat) (hw : s.mem.wf = true) : (State.tableWord s k va n).1.mem.wf = true := by
  unfold State.tableWord
  grind [State.fillTlb_mem, State.loadLoc_wf]
theorem State.recordWrite_wf (s : State) (c : CtxKey) (i off : Nat) (bs : List Byte) (hw : s.mem.wf = true) : (State.recordWrite s c i off bs).mem.wf = true := by
  unfold State.recordWrite
  grind [State.foremanError_wf, State.foremanWrite_wf]
theorem State.faultFetch_wf (s : State) (core : Nat) (o : EngineOp) (va : Nat) (f : MFault) (hw : s.mem.wf = true) : (State.faultFetch s core o va f).mem.wf = true := by
  unfold State.faultFetch
  grind [State.failFetch_mem, State.modOp_mem, State.queueFault_wf, State.recordVa_wf]
theorem State.numberColl_mem (s : State) (ctx : CtxKey) (core : Option Nat) (c : Coll) : (State.numberColl s ctx core c).1.mem = s.mem := by
  unfold State.numberColl
  grind [State.nextColl_mem, State.placeWaiting_mem]
theorem State.placeColl_mem (s : State) (id : Nat) : (State.placeColl s id).mem = s.mem := by
  unfold State.placeColl
  grind [State.placeWaiting_mem]
theorem State.setStatus_wf (s : State) (c : CtxKey) (i : Nat) (st : TaskStatus) (hw : s.mem.wf = true) : (State.setStatus s c i st).mem.wf = true := by
  unfold State.setStatus
  grind [State.recordWrite_wf, State.setTask_mem]
theorem State.setProgress_wf (s : State) (c : CtxKey) (i n : Nat) (hw : s.mem.wf = true) : (State.setProgress s c i n).mem.wf = true := by
  unfold State.setProgress
  grind [State.progress_mem, State.recordWrite_wf, State.setTask_mem]
theorem State.markReady_wf (s : State) (c : CtxKey) (i : Nat) (hw : s.mem.wf = true) : (State.markReady s c i).mem.wf = true := by
  unfold State.markReady
  grind [State.bump_mem, State.setStatus_wf, State.setTask_mem]
theorem State.placeTeam_wf {s t : State} {part gid : Nat} {g : Grid} {p : Placement} (h : s.mem.wf = true) (e : s.placeTeam part gid g p = some t) : t.mem.wf = true := by
  unfold State.placeTeam at e
  dsimp only at e
  split at e
  · cases e
  · split at e
    · cases e
    · rename_i hp
      have h1 := State.placeGangs_wf _ _ _ _ _ _ _ (by rw [State.bump_mem, State.setTeam_mem]; exact h) hp
      have hf : ∀ (cs : List Nat) (l : Launch) (c b : Nat), (cs.foldl (fun s c => s.modCore c fun k => { k with banks := if k.banks.contains gid then k.banks else gid :: k.banks })
          (State.initScratch _ l c b)).mem.wf = true := fun cs l c b =>
        foldl_wf (fun s c h => by rw [State.modCore_mem]; exact h) cs (by rw [State.initScratch_mem]; exact h1)
      cases e
      split
      · exact State.setStatus_wf _ _ _ _ (hf _ _ _ _)
      · exact hf _ _ _ _
theorem State.leaveTeam_wf (s : State) (n : Nat) (hw : s.mem.wf = true) : (State.leaveTeam s n).mem.wf = true := by
  unfold State.leaveTeam
  grind [State.progress_mem, State.removeTeam_mem, State.setGrid_mem, State.setProgress_wf]
theorem State.placeFirst_wf (part : Nat) (p : Placement) : ∀ (xs : List (Nat × Grid)) (s : State), s.mem.wf = true → (s.placeFirst part p xs).mem.wf = true := by
  intro xs
  induction xs with
  | nil => intro s h; exact h
  | cons x xs ih =>
    intro s h
    unfold State.placeFirst
    split
    · rename_i hp; exact State.placeTeam_wf h hp
    · split
      · exact h
      · exact ih _ h
theorem State.decrement_wf (s : State) (c : CtxKey) (i : Nat) (hw : s.mem.wf = true) : (State.decrement s c i).mem.wf = true := by
  unfold State.decrement
  grind [State.foremanAsk_mem, State.foremanError_wf, State.markReady_wf, State.recordWrite_wf, State.setTask_mem]
theorem State.finishTask_wf (s : State) (c : CtxKey) (i : Nat) (st : TaskStatus) (h : s.mem.wf = true) : (s.finishTask c i st).mem.wf = true := by
  unfold State.finishTask
  dsimp only
  split
  · exact h
  · rw [State.modCtx_mem]
    refine foldl_wf (fun s j h => State.markReady_wf _ _ _ h) _ (foldl_wf (fun s j h => State.decrement_wf _ _ _ h) _ ?_)
    exact State.successors_wf _ _ _ _ (State.setStatus_wf _ _ _ _ h)
theorem memEffect_wf (i : Instr) (m : MemOp) (x : Issue) (s : State) (hw : s.mem.wf = true) : (memEffect i m x s).wf := by
  unfold memEffect
  grind [Act.wf, State.addFlight_mem, State.fillTlbs_mem]
theorem State.noteSlack_mem (s : State) (group : Nat) (core : Option Nat) : (State.noteSlack s group core).mem = s.mem := by
  unfold State.noteSlack
  try simp only [State.forEach]
  repeat' rw [foldl_mem (by intro s a; grind [State.modPkg_mem, State.setCluster_mem, State.useFree_mem])]
  all_goals grind [State.modPkg_mem, State.setCluster_mem, State.useFree_mem]
theorem State.regang_wf (n : Nat) (blocks : List Byte) : ∀ (xs : List (GangKey × Gang)) (off : Nat) (s t : State), s.mem.wf = true →
    s.regang n blocks off xs = some t → t.mem.wf = true := by
  intro xs
  induction xs with
  | nil => grind [State.regang]
  | cons x xs ih => intro off s t h e; unfold State.regang at e; grind [State.setGang_mem]
theorem State.settle_wf : ∀ (n : Nat) (s : State), s.mem.wf = true → (s.settle n).mem.wf = true := by
  intro n
  induction n with
  | zero => intro s h; exact h
  | succ n ih =>
    intro s h
    unfold State.settle
    split
    · exact h
    · exact ih _ (State.finishTask_wf _ _ _ _ h)
theorem State.hostSignal_wf (s : State) (c : CtxKey) (i : Nat) (t : Task) (hw : s.mem.wf = true) : (State.hostSignal s c i t).mem.wf = true := by
  unfold State.hostSignal
  grind [State.finishTask_wf, State.foremanAsk_mem, State.foremanError_wf, State.setLocBytes_wf]
theorem State.settleGrids_wf (s : State) (hw : s.mem.wf = true) : (State.settleGrids s).mem.wf = true := by
  unfold State.settleGrids
  grind [State.settle_wf]
theorem State.requestSignal_wf (s : State) (c : CtxKey) (i : Nat) (hw : s.mem.wf = true) : (State.requestSignal s c i).mem.wf = true := by
  unfold State.requestSignal
  grind [State.decrement_wf, State.settleGrids_wf]
theorem State.refuseTask_wf (s : State) (c : CtxKey) (i : Nat) (t : Task) (hw : s.mem.wf = true) : (State.refuseTask s c i t).mem.wf = true := by
  unfold State.refuseTask
  grind [State.finishTask_wf, State.setTask_mem, State.settleGrids_wf]
theorem State.enrolTask_wf (s : State) (c : CtxKey) (i : Nat) (t : Task) (hw : s.mem.wf = true) : (State.enrolTask s c i t).mem.wf = true := by
  unfold State.enrolTask
  grind [State.markReady_wf, State.setTask_mem, State.settleGrids_wf]
theorem State.retireTeam_wf (s : State) (n : Nat) (hw : s.mem.wf = true) : (State.retireTeam s n).mem.wf = true := by
  unfold State.retireTeam
  grind [State.leaveTeam_wf, State.settleGrids_wf]
theorem State.startTask_wf (s : State) (c : CtxKey) (i : Nat) (t : Task) (hw : s.mem.wf = true) : (State.startTask s c i t).mem.wf = true := by
  unfold State.startTask
  grind [State.bump_mem, State.hostSignal_wf, State.noteWaiting_mem, State.numberColl_mem, State.setJob_mem, State.setStatus_wf, State.setTask_mem, State.settleGrids_wf]
theorem State.endGang_wf (s : State) (k : GangKey) (hw : s.mem.wf = true) : (State.endGang s k).mem.wf = true := by
  unfold State.endGang
  grind [State.leaveSlot_mem, State.retireTeam_wf, State.unbind_mem]
theorem State.enrolGrid_wf (s : State) (c : CtxKey) (i : Nat) (t : Task) (l : Launch) (depth : Nat) (parent : Option Nat) (hw : s.mem.wf = true) : (State.enrolGrid s c i t l depth parent).mem.wf = true := by
  unfold State.enrolGrid
  grind [State.bump_mem, State.enrolTask_wf, State.setGrid_mem]
theorem State.ingest_wf (s : State) (c : CtxKey) (i : Nat) (hw : s.mem.wf = true) : (State.ingest s c i).mem.wf = true := by
  unfold State.ingest
  grind [State.enrolGrid_wf, State.enrolTask_wf, State.foremanAsk_mem, State.foremanError_wf, State.refuseTask_wf]
theorem fenceEffect_wf (kinds : Nat) (x : Issue) (s : State) (hw : s.mem.wf = true) : (fenceEffect kinds x s).wf := by
  unfold fenceEffect
  grind [Act.wf, State.hold_mem, State.observe_mem]
theorem foldl_write_wf {α : Type} (f : α → Nat) (g : α → Byte) (xs : List α) : ∀ (m : Memory), m.wf = true → Memory.wf (xs.foldl (fun (m : Memory) c => m.write (f c) (g c)) m) = true := by
  induction xs with
  | nil => intro m h; exact h
  | cons x xs ih => intro m h; exact ih _ (Memory.wf_write _ _ h)
theorem State.configureFabric_wf (s : State) (pkg : Fin 1152) (members : List Nat) (h : s.mem.wf = true) : (s.configureFabric pkg members).mem.wf = true := by
  unfold State.configureFabric
  exact foldl_write_wf (fun c : Host.Cell => renumber pkg c.1) (fun c => c.2) _ _ (Memory.wf_filter _ h)
theorem State.fillRange_mem (s : State) (core : Option Nat) (c : CtxKey) (va n : Nat) : (s.fillRange core c va n).mem = s.mem := by
  unfold State.fillRange
  cases core
  · rfl
  · exact foldl_mem (fun s i => State.fillTlb_mem s _ _ _) _ s
theorem State.takeReply_wf (s : State) (pa kd : Nat) (bs : List Byte) (h : s.mem.wf = true) : (s.takeReply pa kd bs).mem.wf = true := by
  unfold State.takeReply
  refine foldl_wf (fun s b h => ?_) _ h
  split
  · exact h
  · exact State.keyWrite_wf _ _ _ h
theorem State.arriveRoute_mem (src dst n : Nat) : ∀ s : State, (s.arriveRoute src dst n).mem = s.mem := by
  induction n with
  | zero => intro s; rfl
  | succ n ih =>
    intro s
    unfold State.arriveRoute
    split
    · rfl
    · rw [ih, State.receiveFlit_mem]
theorem State.killFamily_mem (s : State) (team home : Nat) : (s.killFamily team home).mem = s.mem := by
  unfold State.killFamily
  dsimp only
  have ha : ∀ (xs : List Spawn) (s : State), (xs.foldl (fun s e => s.exitDeparted team (e.homeGang, e.homeLane)) s).mem = s.mem :=
    foldl_mem (fun s e => State.exitDeparted_mem s _ _)
  have hb : ∀ (xs : List GangKey) (s : State), (xs.foldl (fun s k =>
      if maskOf ((lanesOf ((s.gang k).live &&& ~~~(s.gang k).exited &&& ~~~(s.gang k).away) (s.gang k).width).filter fun l => ((s.gang k).homeOf k l).1 = home) = 0 then s
      else s.exitThreads k (maskOf ((lanesOf ((s.gang k).live &&& ~~~(s.gang k).exited &&& ~~~(s.gang k).away) (s.gang k).width).filter fun l => ((s.gang k).homeOf k l).1 = home)))
      s).mem = s.mem := foldl_mem (fun s k => by split; rfl; exact State.exitThreads_mem _ _ _)
  split <;> split <;> simp only [State.endGrace_mem, State.exitThreads_mem, hb, ha, State.modTeam_mem]
theorem State.writeLine_wf (s : State) (core pa : Nat) (h : s.mem.wf = true) : (s.writeLine core pa).mem.wf = true :=
  foldl_wf (fun s i h => State.writeBack_wf s _ _ h) _ h
theorem State.beforeLanding_mem (s : State) (core : Nat) (loc : Loc) : (s.beforeLanding core loc).mem = s.mem := by
  unfold State.beforeLanding
  cases loc
  · rfl
  · dsimp only; split
    · rfl
    · exact State.arriveRoute_mem _ _ _ s
theorem State.jobFill_mem (s : State) (j : Job) (sp : Space) (rs : List (Nat × Nat)) : (s.jobFill j sp rs).mem = s.mem := by
  unfold State.jobFill
  split
  · exact foldl_mem (fun s r => State.fillRange_mem s _ _ _ _) _ s
  · rfl
theorem State.jobRoute_mem (s : State) (j : Job) (ws : List Place) : (s.jobRoute j ws).mem = s.mem := by
  unfold State.jobRoute
  split
  · rfl
  · exact foldl_mem (fun s l => State.beforeLanding_mem s _ _) _ s
theorem State.gangRead_mem (s : State) (k : GangKey) (c : CtxKey) (va : Nat) (ls : List Loc) : (s.gangRead k c va ls).mem = s.mem := by
  unfold State.gangRead
  rw [foldl_mem (fun s key => State.timeLoad_mem s k key), State.askRemote_mem, State.fillRange_mem]
theorem State.askHandle_mem (s : State) (core : Nat) (o : EngineOp) (h : Handle) (q : Nat) : (s.askHandle core o h q).mem = s.mem := by
  unfold State.askHandle
  dsimp only
  rw [State.agentReads_mem, State.askRemote_mem]
  split
  · rfl
  · exact foldl_mem (fun s a => State.fillTlb_mem s _ _ _) _ s
theorem State.flushHalf_wf (s : State) (n : Nat) (h : s.mem.wf = true) : (s.flushHalf n).mem.wf = true :=
  foldl_wf (fun s c h => foldl_wf (fun s x h => State.writeBack_wf s _ _ h) _ h) _ h
theorem State.wipeHalf_wf (s : State) (n : Nat) (h : s.mem.wf = true) : (s.wipeHalf n).mem.wf = true := by
  unfold State.wipeHalf
  exact Memory.wf_filter _ (State.flushHalf_wf s n h)
theorem Issue.frameTrap_wf (x : Issue) : x.frameTrap.wf := trivial
theorem State.tableRead_mem (s : State) (j : Job) (c : Coll) (n : Nat) : (State.tableRead s j c n).mem = s.mem := by
  unfold State.tableRead
  grind [State.agentReads_mem, State.askRemote_mem, State.jobFill_mem]
theorem famkillEffect_wf (src : Operand) (x : Issue) (s : State) (h : s.mem.wf = true) : (famkillEffect src x s).wf := by
  unfold famkillEffect
  split
  · exact h
  · show (State.leaveSlot _ _).mem.wf = true
    rw [State.leaveSlot_mem]
    exact foldl_wf (fun s e h => by rw [State.killFamily_mem]; exact h) _ (by rw [State.modPath_mem]; exact h)
theorem State.writeHcmask_wf (s : State) (part x : Nat) (h : s.mem.wf = true) : (s.writeHcmask part x).mem.wf = true := by
  unfold State.writeHcmask
  dsimp only
  split
  · grind [State.reject_mem]
  · split
    · exact h
    · rw [State.modPart_mem]
      exact foldl_wf (fun s a h => by split; exact State.wipeHalf_wf _ _ h; exact h) _ h
theorem State.dropLine_wf (s : State) (core pa : Nat) (hw : s.mem.wf = true) : (State.dropLine s core pa).mem.wf = true := by
  unfold State.dropLine
  grind [State.modCore_mem, State.writeLine_wf]
theorem State.beforeAtomic_wf (s : State) (core : Nat) (loc : Loc) (w : Nat) (ts : List ThreadKey) (hw : s.mem.wf = true) : (State.beforeAtomic s core loc w ts).mem.wf = true := by
  unfold State.beforeAtomic
  grind [State.dropLine_wf, State.seeLags_mem]
theorem State.cleanLine_wf (s : State) (core : Nat) (loc : Loc) (drop : Bool) (hw : s.mem.wf = true) : (State.cleanLine s core loc drop).mem.wf = true := by
  unfold State.cleanLine
  grind [State.dropLine_wf, State.writeLine_wf]
theorem State.perform_wf (s : State) (k : GangKey) (core : Nat) (a : LaneAccess) (ts : List ThreadKey) (hw : s.mem.wf = true) : (State.perform s k core a ts).1.mem.wf = true := by
  unfold State.perform
  grind [State.beforeAtomic_wf, State.cleanLine_wf, State.homeWrite_wf, State.loadLoc_wf, State.progress_mem, State.sendAt_mem, State.storeLoc_wf, State.timeLoad_mem]
theorem State.queueLook_wf (s : State) (k : GangKey) (core : Nat) (l : Loc) (ts : List ThreadKey) (hw : s.mem.wf = true) : (State.queueLook s k core l ts).mem.wf = true := by
  unfold State.queueLook
  grind [State.beforeAtomic_wf, State.sendRead_mem, State.timeLoad_mem]
theorem State.performLane_wf (s : State) (k : GangKey) (hw : s.mem.wf = true) : (State.performLane s k).mem.wf = true := by
  unfold State.performLane
  grind [State.beforeLanding_mem, State.demote_mem, State.modGang_mem, State.perform_wf]
theorem State.moveOut_ok {s : State} {team : Nat} {e : Spawn} (hw : s.mem.wf = true) {t : State} (he : (State.moveOut s team e) = .ok t) : t.mem.wf = true := by
  unfold State.moveOut at he
  grind [State.agentStore_wf, State.fillRange_mem, State.putSpawn_mem]
theorem State.moveOut_fault {s : State} {team : Nat} {e : Spawn} (hw : s.mem.wf = true) {t : State} {va : Nat} {m : MFault} {kind : AccessKind} (he : (State.moveOut s team e) = .fault t va m kind) : t.mem.wf = true := by
  unfold State.moveOut at he
  grind [State.agentStore_wf, State.fillRange_mem, State.putSpawn_mem]
theorem State.spawnRoom_ok {core bytes : Nat} {t : State} : ∀ {n : Nat} {s : State}, s.mem.wf = true → s.spawnRoom core bytes n = .ok t → t.mem.wf = true := by
  intro n
  induction n with
  | zero => grind [State.spawnRoom]
  | succ n ih => intro s h e; unfold State.spawnRoom at e; grind [State.moveOut_ok]
theorem State.spawnRoom_fault {core bytes va : Nat} {m : MFault} {kind : AccessKind} {t : State} : ∀ {n : Nat} {s : State}, s.mem.wf = true →
    s.spawnRoom core bytes n = .fault t va m kind → t.mem.wf = true := by
  intro n
  induction n with
  | zero => grind [State.spawnRoom]
  | succ n ih => intro s h e; unfold State.spawnRoom at e; grind [State.moveOut_ok, State.moveOut_fault]
theorem State.spillItem_ok {s t : State} {k : GangKey} {c : Bool} (h : s.mem.wf = true) (e : s.spillItem k = (.ok t, c)) : t.mem.wf = true := by
  have hf := State.porterWrites_wf
  unfold State.spillItem at e
  grind [State.modGang_mem, State.porterFill_mem]
theorem State.spillItem_fault {s t : State} {k : GangKey} {c : Bool} {va : Nat} {m : MFault} {kind : AccessKind} (h : s.mem.wf = true)
    (e : s.spillItem k = (.fault t va m kind, c)) : t.mem.wf = true := by
  have hf := State.porterWrites_wf
  unfold State.spillItem at e
  grind [State.modGang_mem, State.porterFill_mem]
theorem State.spillItem_fst_ok {s t : State} {k : GangKey} (h : s.mem.wf = true) (e : (s.spillItem k).1 = .ok t) : t.mem.wf = true :=
  State.spillItem_ok h (c := (s.spillItem k).2) (by rw [← e])
theorem State.spillItem_fst_fault {s t : State} {k : GangKey} {va : Nat} {m : MFault} {kind : AccessKind} (h : s.mem.wf = true)
    (e : (s.spillItem k).1 = .fault t va m kind) : t.mem.wf = true := State.spillItem_fault h (c := (s.spillItem k).2) (by rw [← e])
theorem State.mergeJob_wf (s : State) (n : Nat) (h : s.mem.wf = true) : (s.mergeJob n).mem.wf = true := by
  unfold State.mergeJob
  dsimp only
  split
  · exact h
  · split
    · exact h
    · split
      · rw [State.mergeStatus_mem]; exact h
      · split
        · exact h
        · split
          · exact h
          · split
            · exact State.foremanError_wf _ _ _ h
            · split
              · rename_i hw
                exact State.foremanWrite_wf (by rw [State.foremanAsk_mem]; exact h) hw
              · exact State.foremanError_wf _ _ _ h
      · exact h
theorem State.prefetch_wf (s : State) (k : GangKey) (va : Nat) (h : s.mem.wf = true) : (s.prefetch k va).mem.wf = true := by
  unfold State.prefetch
  dsimp only
  split
  · exact h
  · split
    · exact h
    · rw [State.modGang_mem]
      refine foldl_wf (fun s i h => ?_) _ h
      split
      · exact State.missLoad_wf _ _ _ _ _ _ _ _ h
      · exact State.plainLoad_wf _ _ _ _ _ _ _ _ h
  · exact h
theorem State.tableWords_wf (k : GangKey) : ∀ (ps : List (Nat × Nat)) (s : State), s.mem.wf = true → (s.tableWords k ps).1.mem.wf = true := by
  intro ps
  induction ps with
  | nil => intro s h; exact h
  | cons p ps ih =>
    intro s h
    have h1 := State.tableWord_wf s k p.1 p.2 h
    unfold State.tableWords
    grind
theorem State.searchSafe_wf (k : GangKey) (base off : Nat) : ∀ (n lo hi : Nat) (s : State), s.mem.wf = true → (s.searchSafe k base off lo hi n).1.mem.wf = true := by
  intro n
  induction n with
  | zero => intro lo hi s h; exact h
  | succ n ih =>
    intro lo hi s h
    have h1 := State.tableWord_wf s k (base + 16 + 16 * ((lo + hi) / 2)) 4 h
    unfold State.searchSafe
    grind
theorem State.readLive_wf (s : State) (k : GangKey) (rpc i : Nat) (h : s.mem.wf = true) : (State.readLive s k rpc i).1.mem.wf = true := by
  have h1 := fun ps => State.tableWords_wf k ps s h
  unfold State.readLive
  grind
theorem State.safeEntry_wf (s : State) (k : GangKey) (off : Nat) (h : s.mem.wf = true) : (State.safeEntry s k off).1.mem.wf = true := by
  have h1 := State.tableWords_wf k
  have h2 := State.searchSafe_wf k
  have h3 := fun s => State.readLive_wf s k
  unfold State.safeEntry
  grind
theorem State.allSafe_wf (k : GangKey) : ∀ (cs : List Nat) (s : State), s.mem.wf = true → (s.allSafe k cs).1.mem.wf = true := by
  intro cs
  induction cs with
  | nil => intro s h; exact h
  | cons c cs ih =>
    intro s h
    have h1 := State.safeEntry_wf s k c h
    unfold State.allSafe
    grind
theorem State.performLanes_wf (k : GangKey) (n : Nat) : ∀ (s : State), s.mem.wf = true → (s.performLanes k n).mem.wf = true := by
  induction n with
  | zero => intro s h; exact h
  | succ n ih => intro s h; exact ih _ (State.performLane_wf _ _ h)
theorem State.queueLane_wf (s : State) (k : GangKey) (o : QueueOp) (lane va x : Nat) (h : s.mem.wf = true) : (s.queueLane k o lane va x).1.mem.wf = true := by
  unfold State.queueLane
  dsimp only
  split
  · exact h
  · split
    · exact h
    · split
      · split
        · exact State.queueLook_wf _ _ _ _ _ h
        · split
          · exact h
          · simp only [State.wakeQueue_mem, State.progress_mem]
            exact State.sliceTouch_wf _ _ _ _ _ (State.queueStore_wf _ _ _ _ _ _ _ (State.queueStore_wf _ _ _ _ _ _ _ (State.beforeAtomic_wf _ _ _ _ _ h)))
      · split
        · exact State.queueLook_wf _ _ _ _ _ h
        · split
          · exact h
          · exact State.sliceTouch_wf _ _ _ _ _ (State.queueStore_wf _ _ _ _ _ _ _ (by rw [State.observe_mem, State.timeLoad_mem, State.sendRead_mem]; exact State.beforeAtomic_wf _ _ _ _ _ (State.beforeAtomic_wf _ _ _ _ _ h)))
theorem State.divergeCheck_wf (s : State) (x : Issue) (targets : List Nat) (ret : Option Nat) (h : s.mem.wf = true) : (State.divergeCheck s x targets ret).1.mem.wf = true := by
  have h1 := fun s => State.safeEntry_wf s x.key
  have h2 := State.allSafe_wf x.key
  unfold State.divergeCheck
  grind
theorem callxGo_wf (slide : Nat) (ts : List (Nat × Mask)) (x : Issue) (s : State) (hw : s.mem.wf = true) : (callxGo slide ts x s).wf := by
  have h1 : ∀ u : State, u.mem.wf = true → (u.call x slide ts).mem.wf = true := fun u hu => by rw [State.call_mem]; exact hu
  unfold callxGo
  split
  · trivial
  · split
    · exact h1 _ hw
    · have hs := State.divergeCheck_wf s x (ts.map Prod.fst) (some x.path.after) hw
      split
      · exact trivial
      · trivial
      · rename_i u _ he
        exact h1 _ (by rw [he] at hs; exact hs)
theorem State.spillRecords_ok {k : GangKey} : ∀ {n : Nat} {s t : State}, s.mem.wf = true → s.spillRecords k n = .ok t → t.mem.wf = true := by
  intro n
  induction n with
  | zero => grind [State.spillRecords]
  | succ n ih => intro s t h e; unfold State.spillRecords at e; grind [State.spillItem_fst_ok]
theorem State.spillRecords_fault {k : GangKey} {va : Nat} {m : MFault} {kind : AccessKind} : ∀ {n : Nat} {s t : State}, s.mem.wf = true →
    s.spillRecords k n = .fault t va m kind → t.mem.wf = true := by
  intro n
  induction n with
  | zero => grind [State.spillRecords]
  | succ n ih => intro s t h e; unfold State.spillRecords at e; grind [State.spillItem_fst_ok, State.spillItem_fst_fault]
theorem State.spillAll_ok {k : GangKey} : ∀ {n : Nat} {s t : State}, s.mem.wf = true → s.spillAll k n = .ok t → t.mem.wf = true := by
  intro n
  induction n with
  | zero => grind [State.spillAll]
  | succ n ih => intro s t h e; unfold State.spillAll at e; grind [State.spillItem_fst_ok]
theorem State.spillAll_fault {k : GangKey} {va : Nat} {m : MFault} {kind : AccessKind} : ∀ {n : Nat} {s t : State}, s.mem.wf = true →
    s.spillAll k n = .fault t va m kind → t.mem.wf = true := by
  intro n
  induction n with
  | zero => grind [State.spillAll]
  | succ n ih => intro s t h e; unfold State.spillAll at e; grind [State.spillItem_fst_ok, State.spillItem_fst_fault]
theorem State.finishJob_wf (s : State) (n : Nat) (hw : s.mem.wf = true) : (State.finishJob s n).mem.wf = true := by
  have h0 := State.mergeJob_wf s n hw
  unfold State.finishJob
  dsimp only
  split
  · exact h0
  · rename_i j _
    have hd : ∀ (u : State), u.mem.wf = true → (match j.task with | some i => (u.decrement j.ctx i).settleGrids | none => u).mem.wf = true := fun u hu => by
      split
      · exact State.settleGrids_wf _ (State.decrement_wf _ _ _ hu)
      · exact hu
    have hb : (match j.bar with
        | some (core, off) => (({ (s.mergeJob n) with jobs := terase (s.mergeJob n).jobs n } : State).modPart j.ctx.part fun p => { p with horizon := max p.horizon j.pt, top := max p.top j.pt }).takeBytes core off j.left
        | none => (({ (s.mergeJob n) with jobs := terase (s.mergeJob n).jobs n } : State).modPart j.ctx.part fun p => { p with horizon := max p.horizon j.pt, top := max p.top j.pt })).mem.wf = true := by
      split
      · rw [State.takeBytes_mem, State.modPart_mem]; exact h0
      · rw [State.modPart_mem]; exact h0
    split
    · exact hd _ hb
    · exact State.settleGrids_wf _ (State.finishTask_wf _ _ _ _ (hd _ hb))
theorem State.jobBytes_wf (s : State) (n k : Nat) (hw : s.mem.wf = true) : (State.jobBytes s n k).mem.wf = true := by
  unfold State.jobBytes
  grind [State.mergeJob_wf, State.setJob_mem, State.setProgress_wf, State.takeBytes_mem]
theorem prefL1Effect_wf (a : LineArgs) (x : Issue) (s : State) (h : s.mem.wf = true) : (prefL1Effect a x s).wf :=
  foldl_wf (fun s l h => State.prefetch_wf s _ _ h) _ h
theorem State.queueRun_wf (k : GangKey) (o : QueueOp) (data : Tbl Nat Nat) (stop : Bool) : ∀ (xs : Tbl Nat Nat) (s : State), s.mem.wf = true →
    (s.queueRun k o data stop xs).1.mem.wf = true := by
  intro xs
  induction xs with
  | nil => intro s h; exact h
  | cons x xs ih =>
    intro s h
    have hl := State.queueLane_wf s k o x.1 x.2 (tgetD data x.1 0) h
    unfold State.queueRun
    dsimp only
    split
    · exact hl
    · exact ih _ hl
theorem callxEffect_wf (ra : Operand) (sl : BitVec 4) (x : Issue) (s : State) (h : s.mem.wf = true) : (callxEffect ra sl x s).wf :=
  callEffect_wf _ _ _ _ (fun t ht => callxGo_wf _ _ x t ht) h
theorem State.performNext_wf (s : State) (k : GangKey) (hw : s.mem.wf = true) : (State.performNext s k).mem.wf = true := by
  unfold State.performNext
  grind [State.performLanes_wf]
theorem State.spillOne_ok {k : GangKey} : ∀ {n : Nat} {s t : State}, s.mem.wf = true → s.spillOne k n = .ok t → t.mem.wf = true := by
  intro n
  induction n with
  | zero => grind [State.spillOne]
  | succ n ih => intro s t h e; unfold State.spillOne at e; grind [State.spillItem_ok, State.spillRecords_ok]
theorem State.spillOne_fault {k : GangKey} {va : Nat} {m : MFault} {kind : AccessKind} : ∀ {n : Nat} {s t : State}, s.mem.wf = true →
    s.spillOne k n = .fault t va m kind → t.mem.wf = true := by
  intro n
  induction n with
  | zero => grind [State.spillOne]
  | succ n ih =>
    intro s t h e
    unfold State.spillOne at e
    split at e
    · exact State.spillRecords_fault (State.spillItem_ok h ‹_›) e
    · exact ih (State.spillItem_ok h ‹_›) e
    · subst e; exact State.spillItem_fault h ‹_›
theorem State.stopJob_wf (s : State) (n code row : Nat) (hw : s.mem.wf = true) : (State.stopJob s n code row).mem.wf = true := by
  unfold State.stopJob
  grind [State.finishJob_wf, State.returnFlight_mem, State.setJob_mem]
theorem State.cancelJob_wf (s : State) (n : Nat) (hw : s.mem.wf = true) : (State.cancelJob s n).mem.wf = true := by
  unfold State.cancelJob
  grind [State.finishJob_wf, State.mergeJob_wf, State.setJob_mem]
theorem State.performN_wf (k : GangKey) : ∀ (n : Nat) (s : State), s.mem.wf = true → (s.performN k n).mem.wf = true := by
  intro n
  induction n with
  | zero => intro s h; exact h
  | succ n ih => intro s h; exact ih _ (State.performNext_wf _ _ h)
theorem wflushEffect_wf (x : Issue) (s : State) (hw : s.mem.wf = true) : (wflushEffect x s).wf := by
  unfold wflushEffect
  grind [Act.wf, State.hold_mem, State.modGang_mem, State.spillAll_fault, State.spillAll_ok]
theorem State.moveUnit_wf (s : State) (id : Nat) (j : Job) (sh : CopyShape) (n : Nat) (rs : List (List Place)) (ws : List Place) (hw : s.mem.wf = true) : (State.moveUnit s id j sh n rs ws).mem.wf = true := by
  unfold State.moveUnit
  grind [State.agentReads_mem, State.askPlaces_mem, State.jobBytes_wf, State.jobFill_mem, State.jobRoute_mem, State.recordBadWord_wf, State.setJob_mem, State.setPlaces_wf, State.useFree_mem]
theorem State.makeRoom_ok {s : State} {k : GangKey} (hw : s.mem.wf = true) {t : State} (he : (State.makeRoom s k) = .ok t) : t.mem.wf = true := by
  unfold State.makeRoom at he
  grind [State.setGang_mem, State.spillOne_fault, State.spillOne_ok]
theorem State.makeRoom_fault {s : State} {k : GangKey} (hw : s.mem.wf = true) {t : State} {va : Nat} {m : MFault} {kind : AccessKind} (he : (State.makeRoom s k) = .fault t va m kind) : t.mem.wf = true := by
  unfold State.makeRoom at he
  grind [State.setGang_mem, State.spillOne_fault, State.spillOne_ok]
theorem State.catchUp_wf (s : State) (k : GangKey) (hw : s.mem.wf = true) : (State.catchUp s k).mem.wf = true := by
  unfold State.catchUp
  grind [State.performN_wf]
theorem State.acceptJob_wf (s : State) (n : Nat) (j : Job) (hw : s.mem.wf = true) : (State.acceptJob s n j).mem.wf = true := by
  unfold State.acceptJob
  dsimp only [State.forEach]
  repeat' first | (refine foldl_wf (fun s a h => ?_) _ ?_) | split
  all_goals grind [State.finishJob_wf, State.jobBytes_wf, State.placeColl_mem, State.requestPost_mem, State.requestSignal_wf, State.returnFlight_mem, State.setJob_mem, State.stopJob_wf]
theorem State.faultJob_wf (s : State) (n : Nat) (j : Job) (e : JobFault) (hw : s.mem.wf = true) : (State.faultJob s n j e).mem.wf = true := by
  unfold State.faultJob
  grind [State.queueFault_wf, State.recordVa_wf, State.setJob_mem, State.stopJob_wf]
theorem State.take_ok {s t : State} {k : GangKey} {n : Nat} (h : s.mem.wf = true) (e : s.take k n = .ok t) : t.mem.wf = true := by
  unfold State.take at e
  grind [State.makeRoom_ok, State.modGang_mem]
theorem State.take_fault {s t : State} {k : GangKey} {n va : Nat} {m : MFault} {kind : AccessKind} (h : s.mem.wf = true) (e : s.take k n = .fault t va m kind) :
    t.mem.wf = true := by
  unfold State.take at e
  grind [State.makeRoom_fault]
theorem State.syncPoint_wf (s : State) (k : GangKey) (hw : s.mem.wf = true) : (State.syncPoint s k).mem.wf = true := by
  unfold State.syncPoint
  grind [State.catchUp_wf, State.observe_mem]
theorem bwaitEffect_wf (a : BarPhArgs) (x : Issue) (s : State) (hw : s.mem.wf = true) : (bwaitEffect a x s).wf := by
  unfold bwaitEffect
  grind [Act.wf, State.catchUp_wf, State.observe_mem, State.park_mem]
theorem btryEffect_wf (a : BtryArgs) (x : Issue) (s : State) (hw : s.mem.wf = true) : (btryEffect a x s).wf := by
  unfold btryEffect
  grind [Act.wf, State.catchUp_wf, State.giveAll_mem, State.observe_mem]
theorem State.submit_wf (s : State) (x : Issue) (kind : JobKind) (d : Desc) (engine : Nat) (bar : Option (Nat × Nat)) (task : Option Nat) (left : Nat) (hw : s.mem.wf = true) : (State.submit s x kind d engine bar task left).mem.wf = true := by
  unfold State.submit
  grind [State.addBytes_mem, State.addFlight_mem, State.catchUp_wf, State.setJob_mem]
theorem growEffect_wf (d n : Operand) (x : Issue) (s : State) (hw : s.mem.wf = true) : (growEffect d n x s).wf := by
  unfold growEffect
  grind [Act.wf, State.catchUp_wf, State.modGang_mem, State.setGrid_mem]
theorem State.depart_wf (s : State) (x : Issue) (m : Mask) (es : List Spawn) (node : Option Node) (rpc : Option Nat) (stay : Branch) (hw : s.mem.wf = true) : (State.depart s x m es node rpc stay).mem.wf = true := by
  unfold State.depart
  grind [State.bump_mem, State.catchUp_wf, State.leaveSlot_mem, State.modGang_mem, State.modTeam_mem]
theorem engineIssue_wf (k : EngineKind) (pr : Bool) (bs : Option Operand) (x : Issue) (s : State) (hw : s.mem.wf = true) : (engineIssue k pr bs x s).wf := by
  unfold engineIssue
  grind [Act.wf, State.addBytes_mem, State.catchUp_wf, State.enqueue_mem, State.leaveNow_wf]
theorem State.takeFlit_wf (s : State) (k : GangKey) (mi : Nat) (f : Flit) (hw : s.mem.wf = true) : (State.takeFlit s k mi f).mem.wf = true := by
  unfold State.takeFlit
  grind [State.catchUp_wf, State.modCore_mem, State.observe_mem, State.returnCredit_mem]
theorem State.revokeDomain_wf (s : State) (d : Nat) (h : s.mem.wf = true) : (s.revokeDomain d).mem.wf = true := by
  unfold State.revokeDomain
  exact foldl_wf (fun s k h => State.catchUp_wf _ _ h) _ h
theorem cpyqEffect_wf (a : CpyqArgs) (x : Issue) (s : State) (hw : s.mem.wf = true) : (cpyqEffect a x s).wf := by
  unfold cpyqEffect
  grind [Act.wf, State.addResult_mem, State.askQuery_mem, State.catchUp_wf]
theorem queueEffect_wf (i : Instr) (o : QueueOp) (x : Issue) (s : State) (hw : s.mem.wf = true) : (queueEffect i o x s).wf := by
  unfold queueEffect
  grind [Act.wf, State.addResult_mem, State.advance_mem, State.catchUp_wf, State.demote_mem, State.fillTlbs_mem, State.queueRun_wf, State.queueWait_mem]
theorem State.flushRoute_wf (s : State) (src dst : Nat) (hw : s.mem.wf = true) : (State.flushRoute s src dst).mem.wf = true := by
  unfold State.flushRoute
  dsimp only [State.forEach]
  repeat' first | (refine foldl_wf (fun s a h => ?_) _ ?_) | split
  all_goals grind [State.catchUp_wf]
theorem State.takeAll_ok {k : GangKey} {t : State} : ∀ {xs : List Nat} {s : State}, s.mem.wf = true → s.takeAll k xs = .ok t → t.mem.wf = true := by
  intro xs
  induction xs with
  | nil => grind [State.takeAll]
  | cons x xs ih => intro s h e; unfold State.takeAll at e; grind [State.take_ok]
theorem State.takeAll_fault {k : GangKey} {t : State} {va : Nat} {m : MFault} {kind : AccessKind} : ∀ {xs : List Nat} {s : State}, s.mem.wf = true →
    s.takeAll k xs = .fault t va m kind → t.mem.wf = true := by
  intro xs
  induction xs with
  | nil => grind [State.takeAll]
  | cons x xs ih => intro s h e; unfold State.takeAll at e; grind [State.take_ok, State.take_fault]
theorem gbarriveEffect_wf (a : GbarriveArgs) (x : Issue) (s : State) (hw : s.mem.wf = true) : (gbarriveEffect a x s).wf := by
  unfold gbarriveEffect
  grind [Act.wf, State.gbarArrive_mem, State.giveAll_mem, State.progress_mem, State.syncPoint_wf]
theorem gbwaitEffect_wf (a : GbwaitArgs) (x : Issue) (s : State) (hw : s.mem.wf = true) : (gbwaitEffect a x s).wf := by
  unfold gbwaitEffect
  grind [Act.wf, State.park_mem, State.syncPoint_wf]
theorem requestEffect_wf (tk : Operand) (kind : Nat → JobKind) (x : Issue) (s : State) (hw : s.mem.wf = true) : (requestEffect tk kind x s).wf := by
  unfold requestEffect
  grind [Act.wf, State.submit_wf]
theorem State.release_wf {s t : State} {team : Nat} {key : SpawnKey} (h : s.mem.wf = true) (e : s.release team key = some t) : t.mem.wf = true := by
  unfold State.release at e
  dsimp only at e
  split at e
  · split at e
    · cases e
    · cases e
      rw [State.modTeam_mem, State.bump_mem, State.setGang_mem]
      exact foldl_wf (fun s e h => State.catchUp_wf _ _ h) _ h
  · cases e
theorem mmadEffect_wf (a : MmadArgs) (x : Issue) (s : State) (hw : s.mem.wf = true) : (mmadEffect a x s).wf := by
  unfold mmadEffect
  grind [Act.wf, engineIssue_wf]
theorem tbuildEffect_wf (a : TbuildArgs) (x : Issue) (s : State) (hw : s.mem.wf = true) : (tbuildEffect a x s).wf := by
  unfold tbuildEffect
  grind [Act.wf, engineIssue_wf]
theorem azeroEffect_wf (pr : Bool) (ac : BitVec 2) (x : Issue) (s : State) (hw : s.mem.wf = true) : (azeroEffect pr ac x s).wf := by
  unfold azeroEffect
  grind [Act.wf, engineIssue_wf]
theorem tbinvEffect_wf (pr : Bool) (kt : BitVec 2) (x : Issue) (s : State) (hw : s.mem.wf = true) : (tbinvEffect pr kt x s).wf := by
  unfold tbinvEffect
  grind [Act.wf, engineIssue_wf]
theorem lutmmEffect_wf (a : LutmmArgs) (x : Issue) (s : State) (hw : s.mem.wf = true) : (lutmmEffect a x s).wf := by
  unfold lutmmEffect
  grind [Act.wf, State.hold_mem, State.startOp_mem, engineIssue_wf]
theorem msgrecvEffect_wf (a : MsgrecvArgs) (x : Issue) (s : State) (hw : s.mem.wf = true) : (msgrecvEffect a x s).wf := by
  unfold msgrecvEffect
  grind [Act.wf, State.addResult_mem, State.park_mem, State.takeFlit_wf]
theorem binitEffect_wf (a : BarPhArgs) (x : Issue) (s : State) (hw : s.mem.wf = true) : (binitEffect a x s).wf := by
  unfold binitEffect
  grind [Act.wf, State.initBarrier_mem, State.observe_mem, State.syncPoint_wf]
theorem binvalEffect_wf (a : BarArgs) (x : Issue) (s : State) (hw : s.mem.wf = true) : (binvalEffect a x s).wf := by
  unfold binvalEffect
  grind [Act.wf, State.observe_mem, State.setObjWord_mem, State.syncPoint_wf]
theorem barriveEffect_wf (a : BarDstArgs) (x : Issue) (s : State) (hw : s.mem.wf = true) : (barriveEffect a x s).wf := by
  unfold barriveEffect
  grind [Act.wf, State.arrive_mem, State.giveAll_mem, State.observe_mem, State.progress_mem, State.syncPoint_wf]
theorem bstatWith_wf (clr : Bool) (a : BarDstArgs) (x : Issue) (s : State) (hw : s.mem.wf = true) : (bstatWith clr a x s).wf := by
  unfold bstatWith
  grind [Act.wf, State.giveAll_mem, State.observe_mem, State.setObjWord_mem, State.syncPoint_wf]
theorem racqEffect_wf (a : RingDstArgs) (x : Issue) (s : State) (hw : s.mem.wf = true) : (racqEffect a x s).wf := by
  unfold racqEffect
  grind [Act.wf, State.giveAll_mem, State.observe_mem, State.park_mem, State.setRing_mem, State.syncPoint_wf]
theorem rwaitEffect_wf (a : RingDstArgs) (x : Issue) (s : State) (hw : s.mem.wf = true) : (rwaitEffect a x s).wf := by
  unfold rwaitEffect
  grind [Act.wf, State.giveAll_mem, State.observe_mem, State.park_mem, State.setRing_mem, State.syncPoint_wf]
theorem ringPass_wf (a : RingStageArgs) (old new : Nat) (x : Issue) (s : State) (hw : s.mem.wf = true) : (ringPass a old new x s).wf := by
  unfold ringPass
  grind [Act.wf, State.observe_mem, State.setRing_mem, State.syncPoint_wf]
theorem State.sendFlit_wf (s : State) (k : GangKey) (mo : Nat) (b : Binding) (x : Nat) (hw : s.mem.wf = true) : (State.sendFlit s k mo b x).mem.wf = true := by
  unfold State.sendFlit
  grind [State.catchUp_wf, State.flushRoute_wf, State.modCore_mem, State.progress_mem]
theorem bstatEffect_wf (a : BarDstArgs) (x : Issue) (s : State) (hw : s.mem.wf = true) : (bstatEffect a x s).wf := by
  unfold bstatEffect
  grind [Act.wf, bstatWith_wf]
theorem bstatClrEffect_wf (a : BarDstArgs) (x : Issue) (s : State) (hw : s.mem.wf = true) : (bstatClrEffect a x s).wf := by
  unfold bstatClrEffect
  grind [Act.wf, bstatWith_wf]
theorem rcommitEffect_wf (a : RingStageArgs) (x : Issue) (s : State) (hw : s.mem.wf = true) : (rcommitEffect a x s).wf := by
  unfold rcommitEffect
  grind [Act.wf, ringPass_wf]
theorem rfreeEffect_wf (a : RingStageArgs) (x : Issue) (s : State) (hw : s.mem.wf = true) : (rfreeEffect a x s).wf := by
  unfold rfreeEffect
  grind [Act.wf, ringPass_wf]
theorem cpycanEffect_wf (tk : Operand) (x : Issue) (s : State) (hw : s.mem.wf = true) : (cpycanEffect tk x s).wf := by
  unfold cpycanEffect
  grind [Act.wf, requestEffect_wf]
theorem tpostEffect_wf (tk : Operand) (x : Issue) (s : State) (hw : s.mem.wf = true) : (tpostEffect tk x s).wf := by
  unfold tpostEffect
  grind [Act.wf, requestEffect_wf]
theorem tsigEffect_wf (tk : Operand) (x : Issue) (s : State) (hw : s.mem.wf = true) : (tsigEffect tk x s).wf := by
  unfold tsigEffect
  grind [Act.wf, requestEffect_wf]
theorem State.releaseFirst_wf (s : State) (team : Nat) (keys : List SpawnKey) (h : s.mem.wf = true) : (s.releaseFirst team keys).mem.wf = true := by
  unfold State.releaseFirst
  cases hf : keys.findSome? (s.release team) with
  | none => exact h
  | some t =>
    obtain ⟨k, -, hk⟩ := List.exists_of_findSome?_eq_some hf
    exact State.release_wf h hk
theorem State.returnRoom_ok {s t : State} {x : Issue} {e : SafeEntry} {d : Depart} (h : s.mem.wf = true) (q : s.returnRoom x e d = .ok t) : t.mem.wf = true := by
  unfold State.returnRoom at q
  dsimp only at q
  split at q
  · rename_i hs
    exact State.takeAll_ok (State.refillTo_ok h hs) q
  · rename_i hr
    exact absurd q (hr t)
theorem State.returnRoom_fault {s t : State} {x : Issue} {e : SafeEntry} {d : Depart} {va : Nat} {m : MFault} {kind : AccessKind} (h : s.mem.wf = true)
    (q : s.returnRoom x e d = .fault t va m kind) : t.mem.wf = true := by
  unfold State.returnRoom at q
  dsimp only at q
  split at q
  · rename_i hs
    exact State.takeAll_fault (State.refillTo_ok h hs) q
  · exact State.refillTo_fault h q
theorem movTo_wf (a : MovArgs) (value : Nat → Nat) (from' : Option (Nat × Flit)) (x : Issue) (s : State) (hw : s.mem.wf = true) : (movTo a value from' x s).wf := by
  unfold movTo
  grind [Act.wf, State.modGang_mem, State.sendFlit_wf, State.takeFlit_wf]
theorem msgsendEffect_wf (a : MsgsendArgs) (x : Issue) (s : State) (hw : s.mem.wf = true) : (msgsendEffect a x s).wf := by
  unfold msgsendEffect
  grind [Act.wf, State.park_mem, State.sendFlit_wf]
theorem State.returnAll_ok {x : Issue} {e : SafeEntry} {t : State} : ∀ {xs : List (Nat × Depart)} {s : State}, s.mem.wf = true → s.returnAll x e xs = .ok t → t.mem.wf = true := by
  intro xs
  induction xs with
  | nil => grind [State.returnAll]
  | cons y xs ih => intro s h q; unfold State.returnAll at q; grind [State.returnRoom_ok, State.returnThread_mem]
theorem State.returnAll_fault {x : Issue} {e : SafeEntry} {t : State} {va : Nat} {m : MFault} {kind : AccessKind} : ∀ {xs : List (Nat × Depart)} {s : State}, s.mem.wf = true →
    s.returnAll x e xs = .fault t va m kind → t.mem.wf = true := by
  intro xs
  induction xs with
  | nil => grind [State.returnAll]
  | cons y xs ih => intro s h q; unfold State.returnAll at q; grind [State.returnRoom_ok, State.returnRoom_fault, State.returnThread_mem]
theorem movEffect_wf (a : MovArgs) (x : Issue) (s : State) (hw : s.mem.wf = true) : (movEffect a x s).wf := by
  unfold movEffect
  grind [Act.wf, State.park_mem, movTo_wf]
theorem Issue.fieldTrap_wf (x : Issue) : x.fieldTrap.wf := trivial
theorem tableFault_wf (va : Nat) (f : MFault) : (tableFault va f).wf := trivial
theorem notSafe_wf : notSafe.wf := trivial
theorem Act.wf_ite {c : Prop} [Decidable c] {a b : Act} (ha : a.wf) (hb : b.wf) : (if c then a else b).wf := by split <;> assumption
theorem State.postChild_wf {s t : State} {k : GangKey} {bs : List Byte} {i v : Nat} (h : s.mem.wf = true) (e : s.postChild k bs i = .status t v) : t.mem.wf = true := by
  unfold State.postChild at e
  dsimp only at e
  split at e
  · cases e
  · rename_i h1
    split at e
    · cases e
    · split at e
      · cases e
      · rename_i h2
        cases e
        exact State.enrolGrid_wf (hw := by rw [State.modCtx_mem]; exact State.foremanWrite_wf (State.foremanWrite_wf h h1) h2) ..
theorem State.launchAt_wf {s t : State} {k : GangKey} {addr v : Nat} (h : s.mem.wf = true) (e : s.launchAt k addr = .status t v) : t.mem.wf = true := by
  unfold State.launchAt at e
  dsimp only at e
  split at e
  · cases e; exact h
  · split at e
    · cases e; exact h
    · split at e
      · cases e; exact h
      · split at e
        · cases e
        · split at e
          · cases e; rw [State.gangRead_mem]; exact h
          · split at e
            · cases e; rw [State.gangRead_mem]; exact h
            · exact State.postChild_wf (by rw [State.observe_mem, State.gangRead_mem]; exact h) e
theorem launchEffect_wf (d ar : Operand) (x : Issue) (s : State) (h : s.mem.wf = true) : (launchEffect d ar x s).wf := by
  unfold launchEffect
  dsimp only
  split
  · trivial
  · rename_i he
    show (State.modGang _ _ _).mem.wf = true
    rw [State.modGang_mem]
    exact State.launchAt_wf (State.catchUp_wf _ _ h) he
theorem copyIssue_wf (kind : JobKind) (dsp ssp : Space) (f : CopyFmt) (parts : Nat) (ds : Operand) (bs tk : Option Operand) (x : Issue) (s : State) (hw : s.mem.wf = true) :
    (copyIssue kind dsp ssp f parts ds bs tk x s).wf := by
  unfold copyIssue
  refine Act.wf_ite trivial ?_
  cases x.jobNames s bs tk with
  | error t => trivial
  | ok r =>
    obtain ⟨bar, task⟩ := r
    exact Act.wf_ite trivial (Act.wf_ite trivial (Act.wf_ite trivial (State.submit_wf (hw := hw) ..)))
theorem collEffect_wf (a : CollArgs) (x : Issue) (s : State) (hw : s.mem.wf = true) : (collEffect a x s).wf := by
  have h1 := State.catchUp_wf s x.key hw
  unfold collEffect
  dsimp only
  split
  · trivial
  · split
    · trivial
    · split
      · trivial
      · split
        · trivial
        · rename_i hl
          have h2 := State.leaveNow_wf (hw := h1) (he := hl)
          show (State.noteWaiting _ _ _ _).mem.wf = true
          rw [State.noteWaiting_mem]
          exact State.submit_wf (hw := by rw [State.numberColl_mem]; exact h2) ..
theorem splitEffect_wf (m : Mask) (gone stay : Nat) (rpc : Option Nat) (x : Issue) (s : State) (hw : s.mem.wf = true) : (splitEffect m gone stay rpc x s).wf := by
  unfold splitEffect
  split
  · trivial
  · have hs := State.safeEntry_wf s x.key gone hw
    split
    · exact trivial
    · trivial
    · rename_i u e he
      have hu : u.mem.wf = true := by rw [he] at hs; exact hs
      dsimp only
      split
      · rename_i v hv; exact State.depart_wf (hw := State.spawnRoom_ok hu hv) ..
      · rename_i hv; exact State.spawnRoom_fault hu hv
      · trivial
theorem joinEffect_wf (x : Issue) (s : State) (hw : s.mem.wf = true) : (joinEffect x s).wf := by
  have h1 := State.safeEntry_wf (s.catchUp x.key) x.key x.path.hdr (State.catchUp_wf _ _ hw)
  unfold joinEffect
  grind [Act.wf, State.arriveJoin_wf, State.modGang_mem, State.returnAll_fault, State.returnAll_ok, tableFault_wf]
theorem State.teardown_wf (s : State) (c : CtxKey) (h : s.mem.wf = true) : (s.teardown c).mem.wf = true := by
  unfold State.teardown
  refine State.logTo_wf (hw := ?_) ..
  refine foldl_wf (fun s g h => by rw [State.freeBanks_mem]; exact h) _ ?_
  rw [State.modCtx_mem]
  refine foldl_wf (fun s e h => State.finishTask_wf _ _ _ _ h) _ ?_
  refine foldl_wf (fun s e h => State.setStatus_wf _ _ _ _ h) _ ?_
  refine foldl_wf (fun s e h => State.setStatus_wf _ _ _ _ h) _ ?_
  refine foldl_wf (f := fun s t => s.leaveTeam t) (fun s t h => State.leaveTeam_wf _ _ h) _ ?_
  exact foldl_wf (fun s n h => State.cancelJob_wf _ _ h) _ h
theorem State.fenceTeam_wf (s : State) (n : Nat) (h : s.mem.wf = true) : (s.fenceTeam n).mem.wf = true := by
  unfold State.fenceTeam
  refine State.settleGrids_wf _ ?_
  show (State.leaveTeam _ n).mem.wf = true
  refine State.leaveTeam_wf _ _ ?_
  exact foldl_wf (fun s j h => State.stopJob_wf _ _ _ _ h) _ (State.logTo_wf (hw := h) ..)
theorem State.clearDie_wf (s : State) (die : Nat) (h : s.mem.wf = true) : (s.clearDie die).mem.wf = true := by
  unfold State.clearDie
  refine foldl_wf (fun s c h => by rw [State.modCore_mem]; exact h) _ ?_
  refine foldl_wf (fun s c h => foldl_wf (fun s x h => State.flushSector_wf _ _ _ h) _ h) _ ?_
  exact foldl_wf (fun s n h => State.fenceTeam_wf _ _ h) _ h
theorem State.collStep_wf {s t : State} {id : Nat} {j : Job} {c : Coll} {u : Nat} (h : s.mem.wf = true) (e : s.collStep id j c u = .ok (some t)) : t.mem.wf = true := by
  unfold State.collStep at e
  split at e
  · cases e
  · dsimp only at e
    split at e
    · cases e; exact State.stopJob_wf _ _ _ _ h
    · split at e
      · split at e
        · cases e
        · simp only [Except.ok.injEq, Option.map_eq_some_iff] at e
          obtain ⟨u, hu, rfl⟩ := e
          rw [State.tableRead_mem, State.agentReads_mem, State.askRemote_mem]
          exact State.recordBadWord_wf (hw := by rw [State.jobFill_mem]; exact State.collUpStep_wf (hw := h) (e := hu)) ..
      · exact State.collDownStep_wf (hw := h) (e := by injection e)
      · split at e
        · cases e
        · split at e
          · cases e
          · cases e
            refine State.jobBytes_wf _ _ _ ?_
            rw [State.setJob_mem, State.useFree_mem]
            exact State.setPlaces_wf _ _ _ _ (by rw [State.jobFill_mem]; exact h)
theorem State.enterTrap_wf (s : State) (k : GangKey) (t : TrapInfo) (hw : s.mem.wf = true) : (State.enterTrap s k t).mem.wf = true := by
  unfold State.enterTrap
  grind [State.bump_mem, State.leaveSlot_mem, State.modGang_mem, State.take_fault, State.take_ok, State.teardown_wf]
theorem cpyEffect_wf (a : CpyArgs) (x : Issue) (s : State) (hw : s.mem.wf = true) : (cpyEffect a x s).wf := by
  unfold cpyEffect
  grind [Act.wf, copyIssue_wf]
theorem tloadEffect_wf (a : TileCpyArgs) (x : Issue) (s : State) (hw : s.mem.wf = true) : (tloadEffect a x s).wf := by
  unfold tloadEffect
  grind [Act.wf, copyIssue_wf]
theorem tstoreEffect_wf (a : TileCpyArgs) (x : Issue) (s : State) (hw : s.mem.wf = true) : (tstoreEffect a x s).wf := by
  unfold tstoreEffect
  grind [Act.wf, copyIssue_wf]
theorem State.stopContext_wf (s : State) (c : CtxKey) (hw : s.mem.wf = true) : (State.stopContext s c).mem.wf = true := by
  unfold State.stopContext
  grind [State.modCtx_mem, State.teardown_wf]
theorem State.fence_wf (s : State) (die : Nat) (hw : s.mem.wf = true) : (State.fence s die).mem.wf = true := by
  unfold State.fence
  grind [State.clearDie_wf, State.modPkg_mem, State.wakeSenders_mem]
theorem braEffect_wf (split : Bool) (off : BitVec 32) (x : Issue) (s : State) (hw : s.mem.wf = true) : (braEffect split off x s).wf := by
  unfold braEffect
  grind [Act.wf, State.branch_mem, State.divergeCheck_wf, State.jump_mem, notSafe_wf, splitEffect_wf, tableFault_wf]
theorem State.takeTrap_wf (s : State) (k : GangKey) (t : TrapInfo) (hw : s.mem.wf = true) : (State.takeTrap s k t).mem.wf = true := by
  unfold State.takeTrap
  grind [State.enterTrap_wf, State.leaveSlot_mem, State.modGang_mem, State.recordTrap_wf]
theorem braMEffect_wf (off : BitVec 32) (x : Issue) (s : State) (hw : s.mem.wf = true) : (braMEffect off x s).wf := by
  unfold braMEffect
  grind [Act.wf, braEffect_wf]
theorem braSEffect_wf (off : BitVec 32) (x : Issue) (s : State) (hw : s.mem.wf = true) : (braSEffect off x s).wf := by
  unfold braSEffect
  grind [Act.wf, braEffect_wf]
theorem State.writeContext_wf (s : State) (c : CtxKey) (off x : Nat) (hw : s.mem.wf = true) : (State.writeContext s c off x).mem.wf = true := by
  unfold State.writeContext
  grind [State.hostPost_mem, State.modCtx_mem, State.reject_mem, State.runContext_mem, State.stopContext_wf]
theorem State.stopPart_wf (s : State) (part : Nat) (h : s.mem.wf = true) : (s.stopPart part).mem.wf = true :=
  foldl_wf (fun s c h => State.stopContext_wf _ _ h) _ h
theorem State.raise_wf (s : State) (x : Issue) (t : Trap) (hw : s.mem.wf = true) : (State.raise s x t).mem.wf = true := by
  unfold State.raise
  grind [State.takeTrap_wf]
theorem State.pageFault_wf (s : State) (k : GangKey) (w : PageWait) (hw : s.mem.wf = true) : (State.pageFault s k w).mem.wf = true := by
  unfold State.pageFault
  grind [State.leaveSlot_mem, State.modGang_mem, State.modPath_mem, State.queueFault_wf, State.takeTrap_wf]
theorem softTrap_wf (cause detail : Nat) (x : Issue) (s : State) (hw : s.mem.wf = true) : (softTrap cause detail x s).wf := by
  unfold softTrap
  grind [Act.wf, State.modPath_mem, State.takeTrap_wf]
theorem State.staleTrap_wf (s : State) (core : Nat) (o : EngineOp) (hw : s.mem.wf = true) : (State.staleTrap s core o).mem.wf = true := by
  unfold State.staleTrap
  grind [State.modEngine_mem, State.modPath_mem, State.takeTrap_wf]
theorem State.badTarget_wf (s : State) (k : GangKey) (p : Path) (m : Mask) (target : Nat) (hw : s.mem.wf = true) : (State.badTarget s k p m target).mem.wf = true := by
  unfold State.badTarget
  grind [State.modPath_mem, State.takeTrap_wf]
theorem State.raiseLanes_wf (s : State) (x : Issue) (t : MTrap) (hw : s.mem.wf = true) : (State.raiseLanes s x t).mem.wf = true := by
  unfold State.raiseLanes
  grind [State.takeTrap_wf]
theorem State.lateReturn_wf (s : State) (k : GangKey) (p : Path) (ret : Nat) (hw : s.mem.wf = true) : (State.lateReturn s k p ret).mem.wf = true := by
  unfold State.lateReturn
  grind [State.modPath_mem, State.takeTrap_wf]
theorem State.checkReturn_wf (s : State) (x : Issue) (ret path : Nat) (hw : s.mem.wf = true) : (State.checkReturn s x ret path).mem.wf = true := by
  unfold State.checkReturn
  grind [State.modPath_mem, State.takeTrap_wf]
theorem State.memTrap_wf (s : State) (k : GangKey) (t : TrapInfo) (miss : Option Nat) (kind : AccessKind) (hw : s.mem.wf = true) : (State.memTrap s k t miss kind).mem.wf = true := by
  unfold State.memTrap
  grind [State.pageFault_wf, State.takeTrap_wf]
theorem State.restartTrap_wf (s : State) (x : Issue) (t : Trap) (miss : Option Nat) (hw : s.mem.wf = true) : (State.restartTrap s x t miss).mem.wf = true := by
  unfold State.restartTrap
  grind [State.pageFault_wf, State.raise_wf]
theorem State.spillFault_wf (s : State) (x : Issue) (va : Nat) (f : MFault) (kind : AccessKind) (hw : s.mem.wf = true) : (State.spillFault s x va f kind).mem.wf = true := by
  unfold State.spillFault
  grind [State.pageFault_wf, State.takeTrap_wf]
theorem lastReturn_wf (x : Issue) (f : Frame) (s : State) (hw : s.mem.wf = true) : (lastReturn x f s).wf := by
  unfold lastReturn
  grind [Act.wf, State.bump_mem, State.checkReturn_wf, State.leaveSlot_mem, State.mergePaths_mem, State.modGang_mem, State.refillTo_fault, State.refillTo_ok]
theorem trapEffect_wf (n : BitVec 16) (x : Issue) (s : State) (hw : s.mem.wf = true) : (trapEffect n x s).wf := by
  unfold trapEffect
  grind [Act.wf, softTrap_wf]
theorem brkEffect_wf  (x : Issue) (s : State) (hw : s.mem.wf = true) : (brkEffect x s).wf := by
  unfold brkEffect
  grind [Act.wf, softTrap_wf]
theorem State.headerTrap_wf (s : State) (k : GangKey) (p : Path) (cause taddr : Nat) (miss : Option Nat) (hw : s.mem.wf = true) : (State.headerTrap s k p cause taddr miss).mem.wf = true := by
  unfold State.headerTrap
  grind [State.pageFault_wf, State.takeTrap_wf]
theorem State.wordTrap_wf (s : State) (k : GangKey) (p : Path) (m : Mask) (cause detail taddr : Nat) (miss : Option Nat) (hw : s.mem.wf = true) : (State.wordTrap s k p m cause detail taddr miss).mem.wf = true := by
  unfold State.wordTrap
  grind [State.pageFault_wf, State.takeTrap_wf]
theorem State.porterFault_wf (s : State) (k : GangKey) (va : Nat) (f : MFault) (kind : AccessKind) (hw : s.mem.wf = true) : (State.porterFault s k va f kind).mem.wf = true := by
  unfold State.porterFault
  grind [State.pageFault_wf, State.takeTrap_wf]
theorem brxEffect_wf (ra : Operand) (x : Issue) (s : State) (hw : s.mem.wf = true) : (brxEffect ra x s).wf := by
  unfold brxEffect
  grind [Act.wf, State.badTarget_wf, State.branch_mem, State.divergeCheck_wf, State.jump_mem, notSafe_wf, tableFault_wf]
theorem retEffect_wf (x : Issue) (s : State) (hw : s.mem.wf = true) : (retEffect x s).wf := by
  unfold retEffect
  grind [Act.wf, Issue.frameTrap_wf, State.bump_mem, State.checkReturn_wf, State.leaveSlot_mem, State.mergePaths_mem, State.setGang_mem, lastReturn_wf]
theorem State.enterSlot_wf (s : State) (core bench : Nat) (k : GangKey) (hw : s.mem.wf = true) : (State.enterSlot s core bench k).mem.wf = true := by
  unfold State.enterSlot
  grind [State.fillRange_mem, State.headerTrap_wf, State.lateReturn_wf, State.modGang_mem, State.modPath_mem, State.setBench_mem]
/-- What a save's spilling leaves is in canonical form, whether it goes on or waits. -/
def waitWf : Except State State → Prop
  | .ok s => s.mem.wf = true
  | .error s => s.mem.wf = true
theorem Room.orWait_wf (r : Room) (s : State) (k : GangKey) (hr : r.wf) (h : s.mem.wf = true) : waitWf (r.orWait s k) := by
  unfold Room.orWait
  split
  · exact hr
  · show (if _ then _ else _ : State).mem.wf = true
    split
    · exact State.porterFault_wf _ _ _ _ _ hr
    · exact hr
  · exact h
theorem waitWf_bind {α : Type} {f : State → α → Except State State} (hf : ∀ s a, s.mem.wf = true → waitWf (f s a)) (xs : List α) : ∀ (o : Except State State), waitWf o →
    waitWf (xs.foldl (fun (o : Except State State) a => o.bind fun s => f s a) o) := by
  induction xs with
  | nil => intro o h; exact h
  | cons x xs ih =>
    intro o h
    refine ih _ ?_
    cases o with
    | error s => exact h
    | ok s => exact hf s x h
theorem State.spillTeam_wf (s : State) (n : Nat) (h : s.mem.wf = true) : waitWf (s.spillTeam n) := by
  unfold State.spillTeam
  dsimp only
  refine waitWf_bind (f := fun s e => (s.moveOut n e).orWait s ⟨n, e.depart.gangLeft⟩) (fun s e h => Room.orWait_wf _ _ _ ?_ h) _ _
    (waitWf_bind (f := fun s k => (s.spillAll k (s.gang k).spillFuel).orWait s k) (fun s k h => Room.orWait_wf _ _ _ ?_ h) _ _ h)
  · generalize hm : s.moveOut n e = r
    cases r
    case ok => exact State.moveOut_ok h hm
    case fault => exact State.moveOut_fault h hm
    all_goals trivial
  · generalize hm : s.spillAll k (s.gang k).spillFuel = r
    cases r
    case ok => exact State.spillAll_ok h hm
    case fault => exact State.spillAll_fault h hm
    all_goals trivial
theorem State.nextWord_other_wf {s t : State} {core bench n : Nat} (h : s.mem.wf = true) (e : s.nextWord core bench n = .other t) : t.mem.wf = true := by
  unfold State.nextWord at e
  (repeat' (first | split at e | (dsimp only at e; split at e))) <;> cases e
  · exact h
  · rw [State.leaveSlot_mem]; exact h
  · rw [State.leaveSlot_mem]; exact h
  · exact State.badTarget_wf (hw := h) ..
  all_goals exact State.wordTrap_wf (hw := h) ..
theorem State.memFault_wf (s : State) (x : Issue) (la : BitVec 4) (t : MTrap) (hw : s.mem.wf = true) : (State.memFault s x la t).mem.wf = true := by
  unfold State.memFault
  grind [State.addFlight_mem, State.leaveSlot_mem, State.memTrap_wf, State.modPath_mem]
theorem State.act_wf (s : State) (x : Issue) (i : Instr) (al : Bool) (eff : Issue → State → Act) (he : ∀ t, t.mem.wf = true → (eff x t).wf) (h : s.mem.wf = true) :
    (s.act x i al eff).mem.wf = true := by
  unfold State.act
  split
  · rw [State.advance_mem]; exact State.begin_mem s x i ▸ h
  · split
    · exact h
    · exact State.raise_wf _ _ _ h
    · rename_i hs; exact State.spillFault_wf (hw := State.takeAll_fault h hs) ..
    · rename_i s1 hs
      have h1 := State.takeAll_ok h hs
      have h2 : (s1.begin x i).mem.wf = true := by rw [State.begin_mem]; exact h1
      have h3 := he _ h2
      split
      · rename_i hq; rw [hq] at h3; rw [State.advance_mem]; exact h3
      · rename_i hq; rw [hq] at h3; exact h3
      · exact h
      · rw [State.park_mem]; exact h
      · rw [State.hold_mem]; exact h
      · rw [State.waitWord_mem]; exact h
      · rw [State.askLeave_mem]; exact h
      · exact State.raise_wf _ _ _ h
      · split
        · exact State.raiseLanes_wf (hw := h) ..
        · exact State.memFault_wf (hw := h2) ..
      · exact State.restartTrap_wf (hw := h) ..
      · rename_i hq; rw [hq] at h3; exact State.spillFault_wf (hw := h3) ..
theorem State.issueNext_wf (s : State) (i : Instr) (al : Bool) (eff : Issue → State → Act) (he : ∀ x t, t.mem.wf = true → (eff x t).wf) (h : s.mem.wf = true) :
    (s.issueNext i al eff).mem.wf = true := by
  have hg : ∀ x, (s.gather x).mem.wf = true := fun x => by rw [State.gather_mem]; exact h
  unfold State.issueNext
  split
  · exact h
  · split
    · exact State.raise_wf _ _ _ h
    · split
      · exact h
      · split
        · exact State.act_wf _ _ _ _ _ (he _) h
        · split
          · exact State.raise_wf _ _ _ h
          · split
            · dsimp only
              split
              · exact h
              · exact State.act_wf _ _ _ _ _ (he _) (hg _)
            · rw [State.hold_mem]; exact h
theorem State.issueWord_wf {s t : State} {i : Instr} {al : Bool} {eff : Issue → State → Act} (he : ∀ x t, t.mem.wf = true → (eff x t).wf) (h : s.mem.wf = true)
    (e : s.issueWord i al eff = .next t) : t.mem.wf = true := by
  cases e
  exact State.issueNext_wf _ _ _ _ he h
theorem State.answer_mem (s : State) (pa kd n : Nat) : (State.answer s pa kd n).mem = s.mem := by
  unfold State.answer
  rw [State.modPkg_mem]
theorem State.fabricAtomic_wf (s : State) (pa kd n : Nat) (f : Nat → Nat) (hw : s.mem.wf = true) : (State.fabricAtomic s pa kd n f).mem.wf = true := by
  unfold State.fabricAtomic
  grind [State.answer_mem, State.fabricWrite_wf, State.reportHome_wf]
theorem laneEffect_wf (d : Operand) (n : Nat) (f : Issue → State → Nat → Nat) (x : Issue) (s : State) (h : s.mem.wf = true) : (laneEffect d n f x s).wf := by
  show (State.modGang _ _ _).mem.wf = true
  rw [State.modGang_mem]; exact h
theorem State.perLane_wf {s t : State} {i : Instr} {d : Operand} {n : Nat} {f : Issue → State → Nat → Nat} (h : s.mem.wf = true) (e : s.perLane i d n f = .next t) : t.mem.wf = true :=
  State.issueWord_wf (fun x u hu => laneEffect_wf _ _ _ x u hu) h e
theorem State.memInstr_wf {s t : State} {i : Instr} (h : s.mem.wf = true) (e : s.memInstr i = .next t) : t.mem.wf = true := by
  unfold State.memInstr at e
  split at e
  · exact State.issueWord_wf (fun x u hu => memEffect_wf _ _ x u hu) h e
  · cases e; exact h
theorem State.sfu_wf {s t : State} {i : Instr} {d : Operand} {n : Nat} {la : BitVec 4} {f : Issue → State → Nat → Rounded} (h : s.mem.wf = true)
    (e : s.sfu i d n la f = .next t) : t.mem.wf = true := State.issueWord_wf (fun x u hu => sfuEffect_wf (hw := hu) ..) h e
theorem State.unparkFault_mem (s : State) (k : GangKey) : (State.unparkFault s k).mem = s.mem := by
  unfold State.unparkFault
  grind [State.bind_mem, State.modGang_mem, State.modPath_mem]
theorem State.refault_wf (s : State) (k : GangKey) (r : Replay) (w : ReplayAt) (f : LaneFault) (kind : AccessKind) (hw : s.mem.wf = true) : (State.refault s k r w f kind).mem.wf = true := by
  unfold State.refault
  grind [State.memTrap_wf, State.modGang_mem, State.modPath_mem, State.takeTrap_wf]
theorem State.replayMem_wf (s : State) (k : GangKey) (r : Replay) (w : ReplayAt) (i : Instr) (m : MemOp) (hw : s.mem.wf = true) : (State.replayMem s k r w i m).mem.wf = true := by
  unfold State.replayMem
  grind [State.fillTlbs_mem, State.modGang_mem, State.refault_wf]
theorem State.replayQueue_wf (s : State) (k : GangKey) (r : Replay) (w : ReplayAt) (o : QueueOp) (hw : s.mem.wf = true) : (State.replayQueue s k r w o).mem.wf = true := by
  unfold State.replayQueue
  grind [State.demote_mem, State.fillTlbs_mem, State.modGang_mem, State.modPath_mem, State.queueRun_wf, State.queueWait_mem, State.refault_wf, State.replayResults_mem]
theorem State.replayLaunch_wf (s : State) (k : GangKey) (r : Replay) (w : ReplayAt) (h : s.mem.wf = true) : (s.replayLaunch k r w).mem.wf = true := by
  unfold State.replayLaunch
  split
  · rw [State.modGang_mem]; exact h
  · split
    · exact State.refault_wf (hw := h) ..
    · rename_i hl; rw [State.modGang_mem]; exact State.launchAt_wf h hl
theorem State.replayCpyq_wf (s : State) (k : GangKey) (r : Replay) (w : ReplayAt) (hw : s.mem.wf = true) : (State.replayCpyq s k r w).mem.wf = true := by
  unfold State.replayCpyq
  grind [State.modGang_mem, State.refault_wf, State.replayResults_mem]
theorem State.deliverWatch_wf (s : State) (k : GangKey) (hw : s.mem.wf = true) : (State.deliverWatch s k).mem.wf = true := by
  unfold State.deliverWatch
  grind [State.modPath_mem, State.takeTrap_wf, State.unparkFault_mem]
theorem State.replaySlot_wf (s : State) (k : GangKey) (r : Replay) (w : ReplayAt) (hw : s.mem.wf = true) : (State.replaySlot s k r w).mem.wf = true := by
  unfold State.replaySlot
  grind [State.catchUp_wf, State.modGang_mem, State.replayCpyq_wf, State.replayLaunch_wf, State.replayMem_wf, State.replayQueue_wf]
theorem State.replay_wf (s : State) (k : GangKey) (r : Replay) (t : TrapState) (hw : s.mem.wf = true) : (State.replay s k r t).mem.wf = true := by
  unfold State.replay
  grind [State.replaySlot_wf]
theorem State.leaveWith_wf (s : State) (x : Issue) (replay : Bool) (hw : s.mem.wf = true) : (State.leaveWith s x replay).mem.wf = true := by
  unfold State.leaveWith
  grind [State.leaveSlot_mem, State.leaveTrap_mem, State.modGang_mem, State.replay_wf, State.restartWatch_mem]
theorem State.answerGang_wf (s : State) (k : GangKey) (serviced : Bool) (hw : s.mem.wf = true) : (State.answerGang s k serviced).mem.wf = true := by
  unfold State.answerGang
  grind [State.modGang_mem, State.modPath_mem, State.replaySlot_wf, State.replay_wf, State.takeTrap_wf]
theorem eretWith_wf (replay : Bool) (x : Issue) (s : State) (hw : s.mem.wf = true) : (eretWith replay x s).wf := by
  unfold eretWith
  grind [Act.wf, Issue.frameTrap_wf, State.leaveSlot_mem, State.leaveWith_wf, State.modGang_mem, State.modPath_mem, State.refillTo_fault, State.refillTo_ok, State.replay_wf]
theorem State.lateAnswer_wf (s : State) (k : GangKey) (hw : s.mem.wf = true) : (State.lateAnswer s k).mem.wf = true := by
  unfold State.lateAnswer
  grind [State.answerGang_wf, State.bind_mem]
theorem State.answerAgent_wf (s : State) (part : Nat) (serviced : Bool) (a : Agent) (hw : s.mem.wf = true) : (State.answerAgent s part serviced a).mem.wf = true := by
  unfold State.answerAgent
  grind [State.answerGang_wf, State.failFetch_mem, State.modOp_mem, State.noteAnswer_mem, State.stopJob_wf]
theorem eretEffect_wf  (x : Issue) (s : State) (hw : s.mem.wf = true) : (eretEffect x s).wf := by
  unfold eretEffect
  grind [Act.wf, eretWith_wf]
theorem eretSkipEffect_wf  (x : Issue) (s : State) (hw : s.mem.wf = true) : (eretSkipEffect x s).wf := by
  unfold eretSkipEffect
  grind [Act.wf, eretWith_wf]
theorem State.restoreFrom_wf {s t : State} {n slot : Nat} {bs : List Byte} (h : s.mem.wf = true) (e : s.restoreFrom n slot bs = some t) : t.mem.wf = true := by
  unfold State.restoreFrom at e
  dsimp only at e
  split at e
  · cases e
  · split at e
    · cases e
    · rename_i hr
      cases e
      refine foldl_wf (fun s k h => State.lateAnswer_wf _ _ h) _ ?_
      rw [State.modCtx_mem, State.modPart_mem]
      refine foldl_wf (fun s u h => by rw [State.putUnit_mem]; exact h) _ ?_
      rw [State.modCore_mem]
      exact State.regang_wf _ _ _ _ _ _ (by rw [State.setTeam_mem]; exact h) hr
theorem State.exchange_wf (s : State) (part : Nat) (hw : s.mem.wf = true) : (State.exchange s part).mem.wf = true := by
  unfold State.exchange
  dsimp only [State.forEach]
  repeat' first | (refine foldl_wf (fun s a h => ?_) _ ?_) | split
  all_goals grind [State.clearUnit_mem, State.lateAnswer_wf, State.leaveSlot_mem, State.modCore_mem, State.modPart_mem, State.takeUnit_mem]
theorem State.reply_wf (s : State) (part seq : Nat) (b : Bool) (h : s.mem.wf = true) : (s.reply part seq b).mem.wf = true := by
  unfold State.reply
  split
  · rw [State.reject_mem]; exact h
  · refine State.requeue_wf _ _ (foldl_wf (fun s a h => State.answerAgent_wf _ _ _ _ h) _ ?_)
    rw [State.modPart_mem]; exact h
theorem State.writeConfig_wf (s : State) (part off x : Nat) (hw : s.mem.wf = true) : (State.writeConfig s part off x).mem.wf = true := by
  unfold State.writeConfig
  grind [State.modPart_mem, State.reject_mem, State.reply_wf, State.writeContext_wf, State.writeElbase_mem, State.writeFqbase_mem, State.writeGbcfg_mem, State.writeHcmask_wf, State.writePceil_mem, State.writePreempt_mem, State.writeRdcways_mem, State.writeStat_mem, State.writeTlbinv_mem]

end Sys2Proof.Machine
end

