-- ==== Sys2Proof/Laws/CanonicalExec.lean ====
section
/-! SUPPORT. One lemma per instruction: where its meaning answers a next state, memory in canonical form stays so. -/

set_option Elab.async false
namespace Sys2Proof.Machine

theorem execNop_wf {s t : State} (h : s.mem.wf = true) (e : execNop s = .next t) : t.mem.wf = true := State.issueWord_wf (eff := fun _ s => .done s) (fun x u hu => hu) h e
theorem execIadd_wf {g : Guard} {a : IntArgs} {s : State} {t : State} (hw : s.mem.wf = true) (he : (execIadd g a s) = .next t) : t.mem.wf = true := State.perLane_wf hw he
theorem execIsub_wf {g : Guard} {a : IntArgs} {s : State} {t : State} (hw : s.mem.wf = true) (he : (execIsub g a s) = .next t) : t.mem.wf = true := State.perLane_wf hw he
theorem execImul_wf {g : Guard} {a : IMulArgs} {s : State} {t : State} (hw : s.mem.wf = true) (he : (execImul g a s) = .next t) : t.mem.wf = true := State.perLane_wf hw he
theorem execImad_wf {g : Guard} {a : IMadArgs} {s : State} {t : State} (hw : s.mem.wf = true) (he : (execImad g a s) = .next t) : t.mem.wf = true := State.perLane_wf hw he
theorem execImin_wf {g : Guard} {a : IMinArgs} {s : State} {t : State} (hw : s.mem.wf = true) (he : (execImin g a s) = .next t) : t.mem.wf = true := State.perLane_wf hw he
theorem execImax_wf {g : Guard} {a : IMinArgs} {s : State} {t : State} (hw : s.mem.wf = true) (he : (execImax g a s) = .next t) : t.mem.wf = true := State.perLane_wf hw he
theorem execAnd_wf {g : Guard} {a : LogicArgs} {s : State} {t : State} (hw : s.mem.wf = true) (he : (execAnd g a s) = .next t) : t.mem.wf = true := State.perLane_wf hw he
theorem execAndn_wf {g : Guard} {a : LogicArgs} {s : State} {t : State} (hw : s.mem.wf = true) (he : (execAndn g a s) = .next t) : t.mem.wf = true := State.perLane_wf hw he
theorem execOr_wf {g : Guard} {a : LogicArgs} {s : State} {t : State} (hw : s.mem.wf = true) (he : (execOr g a s) = .next t) : t.mem.wf = true := State.perLane_wf hw he
theorem execXor_wf {g : Guard} {a : LogicArgs} {s : State} {t : State} (hw : s.mem.wf = true) (he : (execXor g a s) = .next t) : t.mem.wf = true := State.perLane_wf hw he
theorem execShl_wf {g : Guard} {a : ShiftArgs} {s : State} {t : State} (hw : s.mem.wf = true) (he : (execShl g a s) = .next t) : t.mem.wf = true := State.perLane_wf hw he
theorem execShr_wf {g : Guard} {a : ShiftArgs} {s : State} {t : State} (hw : s.mem.wf = true) (he : (execShr g a s) = .next t) : t.mem.wf = true := State.perLane_wf hw he
theorem execSar_wf {g : Guard} {a : ShiftArgs} {s : State} {t : State} (hw : s.mem.wf = true) (he : (execSar g a s) = .next t) : t.mem.wf = true := State.perLane_wf hw he
theorem execBcnt_wf {g : Guard} {a : BcntArgs} {s : State} {t : State} (hw : s.mem.wf = true) (he : (execBcnt g a s) = .next t) : t.mem.wf = true := State.perLane_wf hw he
theorem execBfx_wf {g : Guard} {a : BfxArgs} {s : State} {t : State} (hw : s.mem.wf = true) (he : (execBfx g a s) = .next t) : t.mem.wf = true := State.perLane_wf hw he
theorem execBfi_wf {g : Guard} {a : BfiArgs} {s : State} {t : State} (hw : s.mem.wf = true) (he : (execBfi g a s) = .next t) : t.mem.wf = true := State.perLane_wf hw he
theorem execFadd_wf {g : Guard} {a : FArgs} {s : State} {t : State} (hw : s.mem.wf = true) (he : (execFadd g a s) = .next t) : t.mem.wf = true := State.perLane_wf hw he
theorem execFmul_wf {g : Guard} {a : FArgs} {s : State} {t : State} (hw : s.mem.wf = true) (he : (execFmul g a s) = .next t) : t.mem.wf = true := State.perLane_wf hw he
theorem execFfma_wf {g : Guard} {a : FmaArgs} {s : State} {t : State} (hw : s.mem.wf = true) (he : (execFfma g a s) = .next t) : t.mem.wf = true := State.perLane_wf hw he
theorem execFmin_wf {g : Guard} {a : FMinArgs} {s : State} {t : State} (hw : s.mem.wf = true) (he : (execFmin g a s) = .next t) : t.mem.wf = true := State.perLane_wf hw he
theorem execFmax_wf {g : Guard} {a : FMinArgs} {s : State} {t : State} (hw : s.mem.wf = true) (he : (execFmax g a s) = .next t) : t.mem.wf = true := State.perLane_wf hw he
theorem execIcmp_wf {g : Guard} {a : ICmpArgs} {s : State} {t : State} (hw : s.mem.wf = true) (he : (execIcmp g a s) = .next t) : t.mem.wf = true := State.perLane_wf hw he
theorem execFcmp_wf {g : Guard} {a : FCmpArgs} {s : State} {t : State} (hw : s.mem.wf = true) (he : (execFcmp g a s) = .next t) : t.mem.wf = true := State.perLane_wf hw he
theorem execSel_wf {g : Guard} {a : SelArgs} {s : State} {t : State} (hw : s.mem.wf = true) (he : (execSel g a s) = .next t) : t.mem.wf = true := State.perLane_wf hw he
theorem execPlop_wf {g : Guard} {a : PlopArgs} {s : State} {t : State} (hw : s.mem.wf = true) (he : (execPlop g a s) = .next t) : t.mem.wf = true := State.perLane_wf hw he
theorem execLea_wf {g : Guard} {a : LeaArgs} {s : State} {t : State} (hw : s.mem.wf = true) (he : (execLea g a s) = .next t) : t.mem.wf = true := State.perLane_wf hw he
theorem execWait_wf {g : Guard} {a : WaitArgs} {s : State} {t : State} (hw : s.mem.wf = true) (he : (execWait g a s) = .next t) : t.mem.wf = true :=
  State.issueWord_wf (fun x u hu => waitEffect_wf (hw := hu) ..) hw he
theorem execTsync_wf {g : Guard} {s : State} {t : State} (hw : s.mem.wf = true) (he : (execTsync g s) = .next t) : t.mem.wf = true :=
  State.issueWord_wf (fun x u hu => tsyncEffect_wf (hw := hu) ..) hw he
theorem execBinit_wf {g : Guard} {a : BarPhArgs} {s : State} {t : State} (hw : s.mem.wf = true) (he : (execBinit g a s) = .next t) : t.mem.wf = true :=
  State.issueWord_wf (fun x u hu => binitEffect_wf (hw := hu) ..) hw he
theorem execBinval_wf {g : Guard} {a : BarArgs} {s : State} {t : State} (hw : s.mem.wf = true) (he : (execBinval g a s) = .next t) : t.mem.wf = true :=
  State.issueWord_wf (fun x u hu => binvalEffect_wf (hw := hu) ..) hw he
theorem execBarrive_wf {g : Guard} {a : BarDstArgs} {s : State} {t : State} (hw : s.mem.wf = true) (he : (execBarrive g a s) = .next t) : t.mem.wf = true :=
  State.issueWord_wf (fun x u hu => barriveEffect_wf (hw := hu) ..) hw he
theorem execBwait_wf {g : Guard} {a : BarPhArgs} {s : State} {t : State} (hw : s.mem.wf = true) (he : (execBwait g a s) = .next t) : t.mem.wf = true :=
  State.issueWord_wf (fun x u hu => bwaitEffect_wf (hw := hu) ..) hw he
theorem execBtry_wf {g : Guard} {a : BtryArgs} {s : State} {t : State} (hw : s.mem.wf = true) (he : (execBtry g a s) = .next t) : t.mem.wf = true :=
  State.issueWord_wf (fun x u hu => btryEffect_wf (hw := hu) ..) hw he
theorem execBstat_wf {g : Guard} {a : BarDstArgs} {s : State} {t : State} (hw : s.mem.wf = true) (he : (execBstat g a s) = .next t) : t.mem.wf = true :=
  State.issueWord_wf (fun x u hu => bstatEffect_wf (hw := hu) ..) hw he
theorem execBstatClr_wf {g : Guard} {a : BarDstArgs} {s : State} {t : State} (hw : s.mem.wf = true) (he : (execBstatClr g a s) = .next t) : t.mem.wf = true :=
  State.issueWord_wf (fun x u hu => bstatClrEffect_wf (hw := hu) ..) hw he
theorem execGbarrive_wf {g : Guard} {a : GbarriveArgs} {s : State} {t : State} (hw : s.mem.wf = true) (he : (execGbarrive g a s) = .next t) : t.mem.wf = true :=
  State.issueWord_wf (fun x u hu => gbarriveEffect_wf (hw := hu) ..) hw he
theorem execGbwait_wf {g : Guard} {a : GbwaitArgs} {s : State} {t : State} (hw : s.mem.wf = true) (he : (execGbwait g a s) = .next t) : t.mem.wf = true :=
  State.issueWord_wf (fun x u hu => gbwaitEffect_wf (hw := hu) ..) hw he
theorem execRacq_wf {g : Guard} {a : RingDstArgs} {s : State} {t : State} (hw : s.mem.wf = true) (he : (execRacq g a s) = .next t) : t.mem.wf = true :=
  State.issueWord_wf (fun x u hu => racqEffect_wf (hw := hu) ..) hw he
theorem execRwait_wf {g : Guard} {a : RingDstArgs} {s : State} {t : State} (hw : s.mem.wf = true) (he : (execRwait g a s) = .next t) : t.mem.wf = true :=
  State.issueWord_wf (fun x u hu => rwaitEffect_wf (hw := hu) ..) hw he
theorem execRcommit_wf {g : Guard} {a : RingStageArgs} {s : State} {t : State} (hw : s.mem.wf = true) (he : (execRcommit g a s) = .next t) : t.mem.wf = true :=
  State.issueWord_wf (fun x u hu => rcommitEffect_wf (hw := hu) ..) hw he
theorem execRfree_wf {g : Guard} {a : RingStageArgs} {s : State} {t : State} (hw : s.mem.wf = true) (he : (execRfree g a s) = .next t) : t.mem.wf = true :=
  State.issueWord_wf (fun x u hu => rfreeEffect_wf (hw := hu) ..) hw he
theorem execPwrreq_wf {g : Guard} {a : PwrreqArgs} {s : State} {t : State} (hw : s.mem.wf = true) (he : (execPwrreq g a s) = .next t) : t.mem.wf = true :=
  State.issueWord_wf (fun x u hu => pwrreqEffect_wf (hw := hu) ..) hw he
theorem execPwrrel_wf {g : Guard} {la : BitVec 4} {d : Operand} {s : State} {t : State} (hw : s.mem.wf = true) (he : (execPwrrel g la d s) = .next t) : t.mem.wf = true :=
  State.issueWord_wf (fun x u hu => pwrrelEffect_wf (hw := hu) ..) hw he
theorem execPerflvl_wf {g : Guard} {s1 : Operand} {s : State} {t : State} (hw : s.mem.wf = true) (he : (execPerflvl g s1 s) = .next t) : t.mem.wf = true :=
  State.issueWord_wf (fun x u hu => perflvlEffect_wf (hw := hu) ..) hw he
theorem execCpy_wf {g : Guard} {a : CpyArgs} {s : State} {t : State} (hw : s.mem.wf = true) (he : (execCpy g a s) = .next t) : t.mem.wf = true :=
  State.issueWord_wf (fun x u hu => cpyEffect_wf (hw := hu) ..) hw he
theorem execTload_wf {g : Guard} {a : TileCpyArgs} {s : State} {t : State} (hw : s.mem.wf = true) (he : (execTload g a s) = .next t) : t.mem.wf = true :=
  State.issueWord_wf (fun x u hu => tloadEffect_wf (hw := hu) ..) hw he
theorem execTstore_wf {g : Guard} {a : TileCpyArgs} {s : State} {t : State} (hw : s.mem.wf = true) (he : (execTstore g a s) = .next t) : t.mem.wf = true :=
  State.issueWord_wf (fun x u hu => tstoreEffect_wf (hw := hu) ..) hw he
theorem execTdesc_wf {g : Guard} {a : TdescArgs} {s : State} {t : State} (hw : s.mem.wf = true) (he : (execTdesc g a s) = .next t) : t.mem.wf = true :=
  State.issueWord_wf (fun x u hu => tdescEffect_wf (hw := hu) ..) hw he
theorem execCpyq_wf {g : Guard} {a : CpyqArgs} {s : State} {t : State} (hw : s.mem.wf = true) (he : (execCpyq g a s) = .next t) : t.mem.wf = true :=
  State.issueWord_wf (fun x u hu => cpyqEffect_wf (hw := hu) ..) hw he
theorem execCpycan_wf {g : Guard} {tk : Operand} {s : State} {t : State} (hw : s.mem.wf = true) (he : (execCpycan g tk s) = .next t) : t.mem.wf = true :=
  State.issueWord_wf (fun x u hu => cpycanEffect_wf (hw := hu) ..) hw he
theorem execTpost_wf {g : Guard} {tk : Operand} {s : State} {t : State} (hw : s.mem.wf = true) (he : (execTpost g tk s) = .next t) : t.mem.wf = true :=
  State.issueWord_wf (fun x u hu => tpostEffect_wf (hw := hu) ..) hw he
theorem execTsig_wf {g : Guard} {tk : Operand} {s : State} {t : State} (hw : s.mem.wf = true) (he : (execTsig g tk s) = .next t) : t.mem.wf = true :=
  State.issueWord_wf (fun x u hu => tsigEffect_wf (hw := hu) ..) hw he
theorem execColl_wf {g : Guard} {a : CollArgs} {s : State} {t : State} (hw : s.mem.wf = true) (he : (execColl g a s) = .next t) : t.mem.wf = true :=
  State.issueWord_wf (fun x u hu => collEffect_wf (hw := hu) ..) hw he
theorem execCopyByteWrite_wf {job unit : Nat} {s : State} {t : State} (hw : s.mem.wf = true) (he : (execCopyByteWrite job unit s) = .next t) : t.mem.wf = true := by
  unfold execCopyByteWrite at he
  grind [State.collStep_wf, State.moveUnit_wf, State.placeColl_mem]
theorem execCopyJobAccept_wf {job : Nat} {s : State} {t : State} (hw : s.mem.wf = true) (he : (execCopyJobAccept job s) = .next t) : t.mem.wf = true := by
  unfold execCopyJobAccept at he
  grind [State.acceptJob_wf]
theorem execCopyJobFault_wf {job : Nat} {s : State} {t : State} (hw : s.mem.wf = true) (he : (execCopyJobFault job s) = .next t) : t.mem.wf = true := by
  unfold execCopyJobFault at he
  grind [State.faultJob_wf]
theorem execCopyJobComplete_wf {job : Nat} {s : State} {t : State} (hw : s.mem.wf = true) (he : (execCopyJobComplete job s) = .next t) : t.mem.wf = true := by
  unfold execCopyJobComplete at he
  grind [State.finishJob_wf, State.noteSlack_mem]
theorem execTaskIngest_wf {c : CtxKey} {s : State} {t : State} (hw : s.mem.wf = true) (he : (execTaskIngest c s) = .next t) : t.mem.wf = true := by
  unfold execTaskIngest at he
  grind [State.ingest_wf, State.modCtx_mem]
theorem execHostPost_wf {c : CtxKey} {index : Nat} {s : State} {t : State} (hw : s.mem.wf = true) (he : (execHostPost c index s) = .next t) : t.mem.wf = true := by
  unfold execHostPost at he
  grind [State.hostPost_mem]
theorem execTaskJobStart_wf {c : CtxKey} {index : Nat} {s : State} {t : State} (hw : s.mem.wf = true) (he : (execTaskJobStart c index s) = .next t) : t.mem.wf = true := by
  unfold execTaskJobStart at he
  grind [State.startTask_wf]
theorem execGridCodebookRead_wf {grid : Nat} {s : State} {t : State} (hw : s.mem.wf = true) (he : (execGridCodebookRead grid s) = .next t) : t.mem.wf = true := by
  unfold execGridCodebookRead at he
  grind [State.askBooks_mem, State.finishTask_wf, State.foremanError_wf, State.setGrid_mem, State.settleGrids_wf]
theorem execLaunch_wf {g : Guard} {d ar : Operand} {s t : State} (h : s.mem.wf = true) (e : execLaunch g d ar s = .next t) : t.mem.wf = true :=
  State.issueWord_wf (fun x u hu => launchEffect_wf _ _ x u hu) h e
theorem execGrow_wf {g : Guard} {d n : Operand} {s : State} {t : State} (hw : s.mem.wf = true) (he : (execGrow g d n s) = .next t) : t.mem.wf = true :=
  State.issueWord_wf (fun x u hu => growEffect_wf (hw := hu) ..) hw he
theorem execTeamPlace_wf {part : Nat} {place : Placement} {s : State} {t : State} (hw : s.mem.wf = true) (he : (execTeamPlace part place s) = .next t) : t.mem.wf = true := by
  unfold execTeamPlace at he
  grind [State.placeFirst_wf]
theorem execLd_wf {g : Guard} {a : LoadArgs} {s : State} {t : State} (hw : s.mem.wf = true) (he : (execLd g a s) = .next t) : t.mem.wf = true := State.memInstr_wf hw he
theorem execLdPoll_wf {g : Guard} {a : LoadArgs} {s : State} {t : State} (hw : s.mem.wf = true) (he : (execLdPoll g a s) = .next t) : t.mem.wf = true := State.memInstr_wf hw he
theorem execLdc_wf {g : Guard} {a : LoadArgs} {s : State} {t : State} (hw : s.mem.wf = true) (he : (execLdc g a s) = .next t) : t.mem.wf = true := State.memInstr_wf hw he
theorem execLds_wf {g : Guard} {a : LoadArgs} {s : State} {t : State} (hw : s.mem.wf = true) (he : (execLds g a s) = .next t) : t.mem.wf = true := State.memInstr_wf hw he
theorem execLdp_wf {g : Guard} {a : LoadArgs} {s : State} {t : State} (hw : s.mem.wf = true) (he : (execLdp g a s) = .next t) : t.mem.wf = true := State.memInstr_wf hw he
theorem execSt_wf {g : Guard} {a : StoreArgs} {s : State} {t : State} (hw : s.mem.wf = true) (he : (execSt g a s) = .next t) : t.mem.wf = true := State.memInstr_wf hw he
theorem execSts_wf {g : Guard} {a : StoreArgs} {s : State} {t : State} (hw : s.mem.wf = true) (he : (execSts g a s) = .next t) : t.mem.wf = true := State.memInstr_wf hw he
theorem execStp_wf {g : Guard} {a : StoreArgs} {s : State} {t : State} (hw : s.mem.wf = true) (he : (execStp g a s) = .next t) : t.mem.wf = true := State.memInstr_wf hw he
theorem execAtom_wf {g : Guard} {a : AtomArgs} {s : State} {t : State} (hw : s.mem.wf = true) (he : (execAtom g a s) = .next t) : t.mem.wf = true := State.memInstr_wf hw he
theorem execAtoms_wf {g : Guard} {a : AtomArgs} {s : State} {t : State} (hw : s.mem.wf = true) (he : (execAtoms g a s) = .next t) : t.mem.wf = true := State.memInstr_wf hw he
theorem execAtomp_wf {g : Guard} {a : AtomArgs} {s : State} {t : State} (hw : s.mem.wf = true) (he : (execAtomp g a s) = .next t) : t.mem.wf = true := State.memInstr_wf hw he
theorem execRed_wf {g : Guard} {a : RedArgs} {s : State} {t : State} (hw : s.mem.wf = true) (he : (execRed g a s) = .next t) : t.mem.wf = true := State.memInstr_wf hw he
theorem execCas_wf {g : Guard} {a : CasArgs} {s : State} {t : State} (hw : s.mem.wf = true) (he : (execCas g a s) = .next t) : t.mem.wf = true := State.memInstr_wf hw he
theorem execCass_wf {g : Guard} {a : CasArgs} {s : State} {t : State} (hw : s.mem.wf = true) (he : (execCass g a s) = .next t) : t.mem.wf = true := State.memInstr_wf hw he
theorem execCmntWb_wf {g : Guard} {a : LineArgs} {s : State} {t : State} (hw : s.mem.wf = true) (he : (execCmntWb g a s) = .next t) : t.mem.wf = true := State.memInstr_wf hw he
theorem execCmntDrop_wf {g : Guard} {a : LineArgs} {s : State} {t : State} (hw : s.mem.wf = true) (he : (execCmntDrop g a s) = .next t) : t.mem.wf = true := State.memInstr_wf hw he
theorem execPrefL1_wf {g : Guard} {a : LineArgs} {s t : State} (h : s.mem.wf = true) (e : execPrefL1 g a s = .next t) : t.mem.wf = true :=
  State.issueWord_wf (fun x u hu => prefL1Effect_wf _ x u hu) h e
theorem execPrefLlc_wf {g : Guard} {a : LineArgs} {s t : State} (h : s.mem.wf = true) (e : execPrefLlc g a s = .next t) : t.mem.wf = true :=
  State.issueWord_wf (eff := fun _ s => .done s) (fun x u hu => hu) h e
theorem execFenceRepl_wf {g : Guard} {s : State} {t : State} (hw : s.mem.wf = true) (he : (execFenceRepl g s) = .next t) : t.mem.wf = true :=
  State.issueWord_wf (fun x u hu => fenceEffect_wf (hw := hu) ..) hw he
theorem execFenceHost_wf {g : Guard} {s : State} {t : State} (hw : s.mem.wf = true) (he : (execFenceHost g s) = .next t) : t.mem.wf = true :=
  State.issueWord_wf (fun x u hu => fenceEffect_wf (hw := hu) ..) hw he
theorem execFenceEng_wf {g : Guard} {s : State} {t : State} (hw : s.mem.wf = true) (he : (execFenceEng g s) = .next t) : t.mem.wf = true :=
  State.issueWord_wf (fun x u hu => fenceEffect_wf (hw := hu) ..) hw he
theorem execFenceAll_wf {g : Guard} {s : State} {t : State} (hw : s.mem.wf = true) (he : (execFenceAll g s) = .next t) : t.mem.wf = true :=
  State.issueWord_wf (fun x u hu => fenceEffect_wf (hw := hu) ..) hw he
theorem execQpush_wf {g : Guard} {a : QueueArgs} {s t : State} (h : s.mem.wf = true) (e : execQpush g a s = .next t) : t.mem.wf = true :=
  State.issueWord_wf (fun x u hu => queueEffect_wf _ _ x u hu) h e
theorem execQpop_wf {g : Guard} {a : QueueArgs} {s t : State} (h : s.mem.wf = true) (e : execQpop g a s = .next t) : t.mem.wf = true :=
  State.issueWord_wf (fun x u hu => queueEffect_wf _ _ x u hu) h e
theorem execQpopWait_wf {g : Guard} {a : QueueArgs} {s t : State} (h : s.mem.wf = true) (e : execQpopWait g a s = .next t) : t.mem.wf = true :=
  State.issueWord_wf (fun x u hu => queueEffect_wf _ _ x u hu) h e
theorem execSpawnOverflowMove_wf {team : Nat} {s : State} {t : State} (hw : s.mem.wf = true) (he : (execSpawnOverflowMove team s) = .next t) : t.mem.wf = true := by
  unfold execSpawnOverflowMove at he
  grind [State.askRemote_mem, State.fillRange_mem, State.putSpawn_mem]
theorem execFormedGangRelease_wf {team : Nat} {s : State} {t : State} (hw : s.mem.wf = true) (he : (execFormedGangRelease team s) = .next t) : t.mem.wf = true := by
  unfold execFormedGangRelease at he
  grind [State.releaseFirst_wf]
theorem execFormwaitExpiry_wf {team : Nat} {s : State} {t : State} (hw : s.mem.wf = true) (he : (execFormwaitExpiry team s) = .next t) : t.mem.wf = true := by
  unfold execFormwaitExpiry at he
  grind [State.releaseFirst_wf]
theorem execBraM_wf {g : Guard} {off : BitVec 32} {s : State} {t : State} (hw : s.mem.wf = true) (he : (execBraM g off s) = .next t) : t.mem.wf = true :=
  State.issueWord_wf (fun x u hu => braMEffect_wf (hw := hu) ..) hw he
theorem execBraS_wf {g : Guard} {off : BitVec 32} {s : State} {t : State} (hw : s.mem.wf = true) (he : (execBraS g off s) = .next t) : t.mem.wf = true :=
  State.issueWord_wf (fun x u hu => braSEffect_wf (hw := hu) ..) hw he
theorem execBrx_wf {g : Guard} {ra : Operand} {s : State} {t : State} (hw : s.mem.wf = true) (he : (execBrx g ra s) = .next t) : t.mem.wf = true :=
  State.issueWord_wf (fun x u hu => brxEffect_wf (hw := hu) ..) hw he
theorem execCall_wf {g : Guard} {sl : BitVec 4} {off : BitVec 32} {s t : State} (h : s.mem.wf = true) (e : execCall g sl off s = .next t) : t.mem.wf = true :=
  State.issueWord_wf (fun x u hu => callRelEffect_wf _ _ x u hu) h e
theorem execCallx_wf {g : Guard} {ra : Operand} {sl : BitVec 4} {s t : State} (h : s.mem.wf = true) (e : execCallx g ra sl s = .next t) : t.mem.wf = true :=
  State.issueWord_wf (fun x u hu => callxEffect_wf _ _ x u hu) h e
theorem execRet_wf {g : Guard} {s : State} {t : State} (hw : s.mem.wf = true) (he : (execRet g s) = .next t) : t.mem.wf = true :=
  State.issueWord_wf (fun x u hu => retEffect_wf (hw := hu) ..) hw he
theorem execJoin_wf {s : State} {t : State} (hw : s.mem.wf = true) (he : (execJoin s) = .next t) : t.mem.wf = true := by
  unfold execJoin at he
  grind [State.issueWord_wf, joinEffect_wf]
theorem execExit_wf {g : Guard} {s : State} {t : State} (hw : s.mem.wf = true) (he : (execExit g s) = .next t) : t.mem.wf = true :=
  State.issueWord_wf (fun x u hu => exitEffect_wf (hw := hu) ..) hw he
theorem execTrap_wf {g : Guard} {n : BitVec 16} {s : State} {t : State} (hw : s.mem.wf = true) (he : (execTrap g n s) = .next t) : t.mem.wf = true :=
  State.issueWord_wf (fun x u hu => trapEffect_wf (hw := hu) ..) hw he
theorem execBrk_wf {g : Guard} {s : State} {t : State} (hw : s.mem.wf = true) (he : (execBrk g s) = .next t) : t.mem.wf = true :=
  State.issueWord_wf (fun x u hu => brkEffect_wf (hw := hu) ..) hw he
theorem execWflush_wf {g : Guard} {s : State} {t : State} (hw : s.mem.wf = true) (he : (execWflush g s) = .next t) : t.mem.wf = true :=
  State.issueWord_wf (fun x u hu => wflushEffect_wf (hw := hu) ..) hw he
theorem execWstat_wf {g : Guard} {d : Operand} {sel : WSel} {s : State} {t : State} (hw : s.mem.wf = true) (he : (execWstat g d sel s) = .next t) : t.mem.wf = true :=
  State.issueWord_wf (fun x u hu => wstatEffect_wf (hw := hu) ..) hw he
theorem execYield_wf {g : Guard} {s : State} {t : State} (hw : s.mem.wf = true) (he : (execYield g s) = .next t) : t.mem.wf = true :=
  State.issueWord_wf (fun x u hu => yieldEffect_wf (hw := hu) ..) hw he
theorem execGsr_wf {g : Guard} {d : Operand} {reg : SysReg} {s : State} {t : State} (hw : s.mem.wf = true) (he : (execGsr g d reg s) = .next t) : t.mem.wf = true :=
  State.issueWord_wf (fun x u hu => gsrEffect_wf (hw := hu) ..) hw he
theorem execSsr_wf {g : Guard} {src : Operand} {reg : SysReg} {s : State} {t : State} (hw : s.mem.wf = true) (he : (execSsr g src reg s) = .next t) : t.mem.wf = true :=
  State.issueWord_wf (fun x u hu => ssrEffect_wf (hw := hu) ..) hw he
theorem execFamkillWrite_wf {g : Guard} {src : Operand} {s t : State} (h : s.mem.wf = true) (e : execFamkillWrite g src s = .next t) : t.mem.wf = true :=
  State.issueWord_wf (fun x u hu => famkillEffect_wf _ x u hu) h e
theorem execEret_wf {g : Guard} {s : State} {t : State} (hw : s.mem.wf = true) (he : (execEret g s) = .next t) : t.mem.wf = true :=
  State.issueWord_wf (fun x u hu => eretEffect_wf (hw := hu) ..) hw he
theorem execEretSkip_wf {g : Guard} {s : State} {t : State} (hw : s.mem.wf = true) (he : (execEretSkip g s) = .next t) : t.mem.wf = true :=
  State.issueWord_wf (fun x u hu => eretSkipEffect_wf (hw := hu) ..) hw he
theorem execEngineOpStart_wf {core : Nat} {s : State} {t : State} (hw : s.mem.wf = true) (he : (execEngineOpStart core s) = .next t) : t.mem.wf = true := by
  unfold execEngineOpStart at he
  grind [State.staleTrap_wf, State.startOp_mem]
theorem execEngineSlave_wf {core : Nat} {s : State} {t : State} (hw : s.mem.wf = true) (he : (execEngineSlave core s) = .next t) : t.mem.wf = true := by
  unfold execEngineSlave at he
  grind [State.modEngine_mem]
theorem execMmad_wf {g : Guard} {a : MmadArgs} {s : State} {t : State} (hw : s.mem.wf = true) (he : (execMmad g a s) = .next t) : t.mem.wf = true :=
  State.issueWord_wf (fun x u hu => mmadEffect_wf (hw := hu) ..) hw he
theorem execTbuild_wf {g : Guard} {a : TbuildArgs} {s : State} {t : State} (hw : s.mem.wf = true) (he : (execTbuild g a s) = .next t) : t.mem.wf = true :=
  State.issueWord_wf (fun x u hu => tbuildEffect_wf (hw := hu) ..) hw he
theorem execAzero_wf {g : Guard} {pr : Bool} {ac : BitVec 2} {s : State} {t : State} (hw : s.mem.wf = true) (he : (execAzero g pr ac s) = .next t) : t.mem.wf = true :=
  State.issueWord_wf (fun x u hu => azeroEffect_wf (hw := hu) ..) hw he
theorem execTbinv_wf {g : Guard} {pr : Bool} {kt : BitVec 2} {s : State} {t : State} (hw : s.mem.wf = true) (he : (execTbinv g pr kt s) = .next t) : t.mem.wf = true :=
  State.issueWord_wf (fun x u hu => tbinvEffect_wf (hw := hu) ..) hw he
theorem execLutmm_wf {g : Guard} {a : LutmmArgs} {s : State} {t : State} (hw : s.mem.wf = true) (he : (execLutmm g a s) = .next t) : t.mem.wf = true :=
  State.issueWord_wf (fun x u hu => lutmmEffect_wf (hw := hu) ..) hw he
theorem execHandleFetch_wf {core : Nat} {s t : State} (h : s.mem.wf = true) (e : execHandleFetch core s = .next t) : t.mem.wf = true := by
  unfold execHandleFetch at e
  split at e
  · cases e; exact h
  · split at e
    · cases e; exact h
    · dsimp only at e
      split at e
      · cases e; rw [State.failFetch_mem]; exact h
      · split at e
        · cases e; rw [State.landFetch_mem, State.askHandle_mem]; exact h
        · cases e; exact State.faultFetch_wf (hw := h) ..
theorem execEngineOpRetire_wf {core : Nat} {s : State} {t : State} (hw : s.mem.wf = true) (he : (execEngineOpRetire core s) = .next t) : t.mem.wf = true := by
  unfold execEngineOpRetire at he
  grind [State.retireOp_mem]
theorem execAccrd_wf {g : Guard} {a : AccArgs} {s : State} {t : State} (hw : s.mem.wf = true) (he : (execAccrd g a s) = .next t) : t.mem.wf = true :=
  State.issueWord_wf (fun x u hu => accrdEffect_wf (hw := hu) ..) hw he
theorem execAccwr_wf {g : Guard} {a : AccArgs} {s : State} {t : State} (hw : s.mem.wf = true) (he : (execAccwr g a s) = .next t) : t.mem.wf = true :=
  State.issueWord_wf (fun x u hu => accwrEffect_wf (hw := hu) ..) hw he
theorem execTrd_wf {g : Guard} {a : TileArgs} {s : State} {t : State} (hw : s.mem.wf = true) (he : (execTrd g a s) = .next t) : t.mem.wf = true :=
  State.issueWord_wf (fun x u hu => trdEffect_wf (hw := hu) ..) hw he
theorem execTwr_wf {g : Guard} {a : TileArgs} {s : State} {t : State} (hw : s.mem.wf = true) (he : (execTwr g a s) = .next t) : t.mem.wf = true :=
  State.issueWord_wf (fun x u hu => twrEffect_wf (hw := hu) ..) hw he
theorem execTbqry_wf {g : Guard} {a : TbqryArgs} {s : State} {t : State} (hw : s.mem.wf = true) (he : (execTbqry g a s) = .next t) : t.mem.wf = true :=
  State.issueWord_wf (fun x u hu => tbqryEffect_wf (hw := hu) ..) hw he
theorem execMengq_wf {g : Guard} {a : MengqArgs} {s : State} {t : State} (hw : s.mem.wf = true) (he : (execMengq g a s) = .next t) : t.mem.wf = true :=
  State.issueWord_wf (fun x u hu => mengqEffect_wf (hw := hu) ..) hw he
theorem execIssueSelect_wf {core bench : Nat} {s t : State} (h : s.mem.wf = true) (e : execIssueSelect core bench s = .next t) : t.mem.wf = true := by
  have h1 : (s.noteReady core).mem.wf = true := by rw [State.noteReady_mem]; exact h
  have go : ∀ (ks : List GangKey) (u : State), u.mem.wf = true → (ks.foldl (fun s k => s.enterSlot core bench k) u).mem.wf = true := fun ks u hu =>
    foldl_wf (fun s k h => State.enterSlot_wf s core bench k h) ks hu
  unfold execIssueSelect at e
  dsimp only at e
  split at e
  · cases e; exact h1
  · split at e
    · cases e; exact h1
    · cases e
      refine go _ _ ?_
      split
      · rw [State.passOver_mem]; exact h1
      · exact h1
theorem execGangStarved_wf {g : GangKey} {s : State} {t : State} (hw : s.mem.wf = true) (he : (execGangStarved g s) = .next t) : t.mem.wf = true := by
  unfold execGangStarved at he
  grind [State.modGang_mem]
theorem execResultWriteback_wf {g : GangKey} {s : State} {t : State} (hw : s.mem.wf = true) (he : (execResultWriteback g s) = .next t) : t.mem.wf = true := by
  unfold execResultWriteback at he
  grind [State.mergePaths_mem, State.modGang_mem]
theorem execAccessPerformed_wf {g : GangKey} {s : State} {t : State} (hw : s.mem.wf = true) (he : (execAccessPerformed g s) = .next t) : t.mem.wf = true := by
  unfold execAccessPerformed at he
  grind [State.performNext_wf]
theorem execReplicaPropagation_wf {die addr : Nat} {s : State} {t : State} (hw : s.mem.wf = true) (he : (execReplicaPropagation die addr s) = .next t) : t.mem.wf = true := by
  unfold execReplicaPropagation at he
  grind []
theorem execTranslationWalk_wf {core : Nat} {c : CtxKey} {va : Nat} {s : State} {t : State} (hw : s.mem.wf = true) (he : (execTranslationWalk core c va s) = .next t) : t.mem.wf = true := by
  unfold execTranslationWalk at he
  grind [State.fillTlb_mem]
theorem execTrapEntry_wf {g : GangKey} {s : State} {t : State} (hw : s.mem.wf = true) (he : (execTrapEntry g s) = .next t) : t.mem.wf = true := by
  unfold execTrapEntry at he
  grind [State.enterTrap_wf]
theorem execWatchdogExpiry_wf {g : GangKey} {s : State} {t : State} (hw : s.mem.wf = true) (he : (execWatchdogExpiry g s) = .next t) : t.mem.wf = true := by
  unfold execWatchdogExpiry at he
  grind [State.deliverWatch_wf, State.modGang_mem]
theorem execWatchdogGraceExpiry_wf {g : GangKey} {s : State} {t : State} (hw : s.mem.wf = true) (he : (execWatchdogGraceExpiry g s) = .next t) : t.mem.wf = true := by
  unfold execWatchdogGraceExpiry at he
  grind [State.teardown_wf]
theorem execPorterSpill_wf {g : GangKey} {s : State} {t : State} (hw : s.mem.wf = true) (he : (execPorterSpill g s) = .next t) : t.mem.wf = true := by
  unfold execPorterSpill at he
  grind [State.modGang_mem, State.spillItem_fault, State.spillItem_fst_fault, State.spillItem_fst_ok, State.spillItem_ok]
theorem execPorterRefill_wf {g : GangKey} {s : State} {t : State} (hw : s.mem.wf = true) (he : (execPorterRefill g s) = .next t) : t.mem.wf = true := by
  unfold execPorterRefill at he
  grind [State.mergePaths_mem, State.modGang_mem, State.porterFault_wf, State.refillItem_fault, State.refillItem_ok]
theorem execGangEnd_wf {g : GangKey} {s : State} {t : State} (hw : s.mem.wf = true) (he : (execGangEnd g s) = .next t) : t.mem.wf = true := by
  unfold execGangEnd at he
  grind [State.endGang_wf]
theorem execProgramTimeTick_wf {g : GangKey} {s : State} {t : State} (hw : s.mem.wf = true) (he : (execProgramTimeTick g s) = .next t) : t.mem.wf = true := by
  unfold execProgramTimeTick at he
  grind [State.modPart_mem, State.setGang_mem, State.timeRoom_mem]
theorem execWeighbridgeWindow_wf {cluster : Nat} {s : State} {t : State} (hw : s.mem.wf = true) (he : (execWeighbridgeWindow cluster s) = .next t) : t.mem.wf = true := by
  unfold execWeighbridgeWindow at he
  grind [State.newWindow_mem]
theorem execLeaveGrant_wf {cluster : Nat} {s : State} {t : State} (hw : s.mem.wf = true) (he : (execLeaveGrant cluster s) = .next t) : t.mem.wf = true := by
  unfold execLeaveGrant at he
  grind [State.grant_mem]
theorem execPerfLevelChange_wf {cluster : Nat} {s : State} {t : State} (hw : s.mem.wf = true) (he : (execPerfLevelChange cluster s) = .next t) : t.mem.wf = true := by
  unfold execPerfLevelChange at he
  grind [State.setCluster_mem]
theorem execThermalSweep_wf {rs : List SensorReading} {s t : State} (h : s.mem.wf = true) (e : execThermalSweep rs s = .next t) : t.mem.wf = true := by
  have h1 : (rs.foldl State.sweepCluster s).mem.wf = true := foldl_wf (fun s r h => by rw [State.sweepCluster_mem]; exact h) rs h
  unfold execThermalSweep at e
  dsimp only at e
  split at e
  · cases e; exact h1
  · cases e; rw [State.modPkg_mem]; exact h1
theorem execCoolantAlarm_wf {s : State} {t : State} (hw : s.mem.wf = true) (he : (execCoolantAlarm s) = .next t) : t.mem.wf = true := by
  unfold execCoolantAlarm at he
  grind [State.clampAll_mem]
theorem execCoolantRecover_wf {s : State} {t : State} (hw : s.mem.wf = true) (he : (execCoolantRecover s) = .next t) : t.mem.wf = true := by
  unfold execCoolantRecover at he
  grind [State.clampAll_mem]
theorem execCoolantFatal_wf {s t : State} (h : s.mem.wf = true) (e : execCoolantFatal s = .next t) : t.mem.wf = true := by
  have go : ∀ xs : List Nat, (xs.foldl (fun s p => s.logTo p 0 0x05 0x0C 0 none 0) s).mem.wf = true := fun xs =>
    foldl_wf (fun s p h => State.logTo_wf (hw := h) ..) xs h
  simp only [execCoolantFatal, Host.Outcome.next.injEq] at e
  rw [← e, State.modPkg_mem]
  exact go _
theorem execTimeRebase_wf {part : Nat} {s : State} {t : State} (hw : s.mem.wf = true) (he : (execTimeRebase part s) = .next t) : t.mem.wf = true := by
  unfold execTimeRebase at he
  grind [State.rebase_mem]
theorem execMov_wf {g : Guard} {a : MovArgs} {s : State} {t : State} (hw : s.mem.wf = true) (he : (execMov g a s) = .next t) : t.mem.wf = true :=
  State.issueWord_wf (fun x u hu => movEffect_wf (hw := hu) ..) hw he
theorem execChanbind_wf {g : Guard} {a : ChanbindArgs} {s : State} {t : State} (hw : s.mem.wf = true) (he : (execChanbind g a s) = .next t) : t.mem.wf = true :=
  State.issueWord_wf (fun x u hu => chanbindEffect_wf (hw := hu) ..) hw he
theorem execMsgsend_wf {g : Guard} {a : MsgsendArgs} {s : State} {t : State} (hw : s.mem.wf = true) (he : (execMsgsend g a s) = .next t) : t.mem.wf = true :=
  State.issueWord_wf (fun x u hu => msgsendEffect_wf (hw := hu) ..) hw he
theorem execMsgrecv_wf {g : Guard} {a : MsgrecvArgs} {s : State} {t : State} (hw : s.mem.wf = true) (he : (execMsgrecv g a s) = .next t) : t.mem.wf = true :=
  State.issueWord_wf (fun x u hu => msgrecvEffect_wf (hw := hu) ..) hw he
theorem execFlitDelivery_wf {core mo : Nat} {s : State} {t : State} (hw : s.mem.wf = true) (he : (execFlitDelivery core mo s) = .next t) : t.mem.wf = true := by
  unfold execFlitDelivery at he
  grind [State.receiveFlit_mem]
theorem execPreemptSaveTeam_wf {c : CtxKey} {q : Nat} {s : State} {t : State} (hw : s.mem.wf = true) (he : (execPreemptSaveTeam c q s) = .next t) : t.mem.wf = true := by
  unfold execPreemptSaveTeam at he
  grind [State.requestSave_mem]
theorem execPreemptSaveContext_wf {c : CtxKey} {s : State} {t : State} (hw : s.mem.wf = true) (he : (execPreemptSaveContext c s) = .next t) : t.mem.wf = true := by
  unfold execPreemptSaveContext at he
  grind [State.requestSave_mem]
theorem execPreemptSavePartition_wf {part : Nat} {s : State} {t : State} (hw : s.mem.wf = true) (he : (execPreemptSavePartition part s) = .next t) : t.mem.wf = true := by
  unfold execPreemptSavePartition at he
  grind [State.requestSave_mem]
theorem execPreemptSwapPartition_wf {part : Nat} {s : State} {t : State} (hw : s.mem.wf = true) (he : (execPreemptSwapPartition part s) = .next t) : t.mem.wf = true := by
  unfold execPreemptSwapPartition at he
  grind [State.requestSwap_mem]
theorem execPreemptForcedStop_wf {g : GangKey} {s : State} {t : State} (hw : s.mem.wf = true) (he : (execPreemptForcedStop g s) = .next t) : t.mem.wf = true := by
  unfold execPreemptForcedStop at he
  grind [State.leaveSlot_mem, State.modGang_mem]
theorem execTeamSave_wf {n : Nat} {s t : State} (h : s.mem.wf = true) (e : execTeamSave n s = .next t) : t.mem.wf = true := by
  have hf : (s.saveFails n).mem.wf = true := by
    rw [State.saveFails_mem]; exact h
  unfold execTeamSave at e
  dsimp only at e
  split at e
  · cases e; exact h
  · split at e
    · cases e; exact hf
    · have hw := State.spillTeam_wf s n h
      split at e
      · rename_i h2; rw [h2] at hw; cases e; exact hw
      · rename_i s2 h2
        rw [h2] at hw
        split at e
        · cases e; exact hf
        · rename_i s3 h3
          cases e
          rw [State.leaveForSlot_mem]
          exact State.foremanWrite_wf hw h3
theorem execTeamRestore_wf {n : Nat} {s t : State} (h : s.mem.wf = true) (e : execTeamRestore n s = .next t) : t.mem.wf = true := by
  unfold execTeamRestore at e
  dsimp only at e
  split at e
  · split at e
    · cases e; exact h
    · split at e
      · cases e; exact h
      · split at e
        · rename_i hr; cases e; rw [State.foremanAsk_mem]; exact State.restoreFrom_wf h hr
        · cases e; exact h
  · cases e; exact h
theorem execShadowExchange_wf {part : Nat} {s : State} {t : State} (hw : s.mem.wf = true) (he : (execShadowExchange part s) = .next t) : t.mem.wf = true := by
  unfold execShadowExchange at he
  grind [State.exchange_wf]
theorem execFqreplyServiced_wf {part seq : Nat} {s : State} {t : State} (hw : s.mem.wf = true) (he : (execFqreplyServiced part seq s) = .next t) : t.mem.wf = true := by
  unfold execFqreplyServiced at he
  grind [State.reply_wf]
theorem execFqreplyRefused_wf {part seq : Nat} {s : State} {t : State} (hw : s.mem.wf = true) (he : (execFqreplyRefused part seq s) = .next t) : t.mem.wf = true := by
  unfold execFqreplyRefused at he
  grind [State.reply_wf]
theorem execFqbaseWrite_wf {part : Nat} {x : BitVec 64} {s : State} {t : State} (hw : s.mem.wf = true) (he : (execFqbaseWrite part x s) = .next t) : t.mem.wf = true := by
  unfold execFqbaseWrite at he
  grind [State.writeFqbase_mem]
theorem execElbaseWrite_wf {part : Nat} {x : BitVec 64} {s : State} {t : State} (hw : s.mem.wf = true) (he : (execElbaseWrite part x s) = .next t) : t.mem.wf = true := by
  unfold execElbaseWrite at he
  grind [State.writeElbase_mem]
theorem execHcmaskWrite_wf {part : Nat} {x : BitVec 64} {s : State} {t : State} (hw : s.mem.wf = true) (he : (execHcmaskWrite part x s) = .next t) : t.mem.wf = true := by
  unfold execHcmaskWrite at he
  grind [State.writeHcmask_wf]
theorem execRdcwaysWrite_wf {part : Nat} {x : BitVec 64} {s : State} {t : State} (hw : s.mem.wf = true) (he : (execRdcwaysWrite part x s) = .next t) : t.mem.wf = true := by
  unfold execRdcwaysWrite at he
  grind [State.writeRdcways_mem]
theorem execTlbInvalidate_wf {part : Nat} {x : BitVec 64} {s : State} {t : State} (hw : s.mem.wf = true) (he : (execTlbInvalidate part x s) = .next t) : t.mem.wf = true := by
  unfold execTlbInvalidate at he
  grind [State.writeTlbinv_mem]
theorem execTlbInvalidateDone_wf {part : Nat} {s : State} {t : State} (hw : s.mem.wf = true) (he : (execTlbInvalidateDone part s) = .next t) : t.mem.wf = true := by
  unfold execTlbInvalidateDone at he
  grind [State.modPart_mem]
theorem execGbcfgWrite_wf {part : Nat} {x : BitVec 64} {s : State} {t : State} (hw : s.mem.wf = true) (he : (execGbcfgWrite part x s) = .next t) : t.mem.wf = true := by
  unfold execGbcfgWrite at he
  grind [State.writeGbcfg_mem]
theorem execStatWrite_wf {part : Nat} {x : BitVec 64} {s : State} {t : State} (hw : s.mem.wf = true) (he : (execStatWrite part x s) = .next t) : t.mem.wf = true := by
  unfold execStatWrite at he
  grind [State.writeStat_mem]
theorem execPceilWrite_wf {part : Nat} {agent : CfgAgent} {x : BitVec 64} {s : State} {t : State} (hw : s.mem.wf = true) (he : (execPceilWrite part agent x s) = .next t) : t.mem.wf = true := by
  unfold execPceilWrite at he
  grind [State.writePceil_mem]
theorem execContextRun_wf {c : CtxKey} {s : State} {t : State} (hw : s.mem.wf = true) (he : (execContextRun c s) = .next t) : t.mem.wf = true := by
  unfold execContextRun at he
  grind [State.runContext_mem]
theorem execContextStop_wf {c : CtxKey} {s : State} {t : State} (hw : s.mem.wf = true) (he : (execContextStop c s) = .next t) : t.mem.wf = true := by
  unfold execContextStop at he
  grind [State.stopContext_wf]
theorem execConfigRegisterWrite_wf {part : Nat} {off : Nat} {x : BitVec 64} {s : State} {t : State} (hw : s.mem.wf = true) (he : (execConfigRegisterWrite part off x s) = .next t) : t.mem.wf = true := by
  unfold execConfigRegisterWrite at he
  grind [State.writeConfig_wf]
theorem execHatomWrite_wf {x : BitVec 64} {s : State} {t : State} (hw : s.mem.wf = true) (he : (execHatomWrite x s) = .next t) : t.mem.wf = true := by
  unfold execHatomWrite at he
  grind [State.modPkg_mem]
theorem execHostLinkWrite_wf {pa kd : Nat} {bs : List Byte} {s t : State} (h : s.mem.wf = true) (e : execHostLinkWrite pa kd bs s = .next t) : t.mem.wf = true := by
  unfold execHostLinkWrite at e
  split at e
  · cases e; exact Memory.wf_writeBytes _ _ h
  · split at e
    · cases e; exact h
    · cases e; rw [State.stampLines_mem]; exact State.keyWriteBytes_wf _ _ _ _ h
theorem execHostCompletionError_wf {g : GangKey} {s : State} {t : State} (hw : s.mem.wf = true) (he : (execHostCompletionError g s) = .next t) : t.mem.wf = true := by
  unfold execHostCompletionError at he
  grind [State.modGang_mem, State.takeTrap_wf, State.useFree_mem]
theorem execShfl_wf {g : Guard} {a : ShflArgs} {s : State} {t : State} (hw : s.mem.wf = true) (he : (execShfl g a s) = .next t) : t.mem.wf = true := State.perLane_wf hw he
theorem execPerm_wf {g : Guard} {a : PermArgs} {s : State} {t : State} (hw : s.mem.wf = true) (he : (execPerm g a s) = .next t) : t.mem.wf = true := State.perLane_wf hw he
theorem execRedg_wf {g : Guard} {a : RedgArgs} {s : State} {t : State} (hw : s.mem.wf = true) (he : (execRedg g a s) = .next t) : t.mem.wf = true := State.perLane_wf hw he
theorem execVote_wf {g : Guard} {a : VoteArgs} {s t : State} (h : s.mem.wf = true) (e : execVote g a s = .next t) : t.mem.wf = true :=
  State.issueWord_wf (fun x u hu => laneEffect_wf _ _ _ x u hu) h e
theorem execElect_wf {g : Guard} {d : Operand} {sform : Bool} {s : State} {t : State} (hw : s.mem.wf = true) (he : (execElect g d sform s) = .next t) : t.mem.wf = true := State.perLane_wf hw he
theorem execLoadkey_wf {part d : Nat} {ciphertext wrapped : List Byte} {s : State} {t : State} (hw : s.mem.wf = true) (he : (execLoadkey part d ciphertext wrapped s) = .next t) : t.mem.wf = true := by
  unfold execLoadkey at he
  grind [State.mail_mem, State.modPkg_mem]
theorem execRevoke_wf {part d : Nat} {s : State} {t : State} (hw : s.mem.wf = true) (he : (execRevoke part d s) = .next t) : t.mem.wf = true := by
  unfold execRevoke at he
  grind [State.mail_mem, State.revokeDomain_wf]
theorem execAttest_wf {part : Nat} {nonce : List Byte} {s : State} {t : State} (hw : s.mem.wf = true) (he : (execAttest part nonce s) = .next t) : t.mem.wf = true := by
  unfold execAttest at he
  grind [State.mail_mem, State.take_fault, State.take_ok]
theorem execLcstate_wf {code : Nat} {s : State} {t : State} (hw : s.mem.wf = true) (he : (execLcstate code s) = .next t) : t.mem.wf = true := by
  unfold execLcstate at he
  grind [State.mail_mem, State.wipe_wf]
theorem execPackageReset_wf {s : State} {t : State} (hw : s.mem.wf = true) (he : (execPackageReset s) = .next t) : t.mem.wf = true := by
  unfold execPackageReset at he
  grind [State.wipe_wf]
theorem execHbmWipeDone_wf {s : State} {t : State} (hw : s.mem.wf = true) (he : (execHbmWipeDone s) = .next t) : t.mem.wf = true := by
  unfold execHbmWipeDone at he
  grind [State.modPkg_mem]
theorem execFirmwareImage_wf {image : List Byte} {s : State} {t : State} (hw : s.mem.wf = true) (he : (execFirmwareImage image s) = .next t) : t.mem.wf = true := by
  unfold execFirmwareImage at he
  grind [State.mail_mem, State.modPkg_mem]
theorem execFabricConfiguration_wf {pkg : Nat} {members : List Nat} {s : State} {t : State} (hw : s.mem.wf = true) (he : (execFabricConfiguration pkg members s) = .next t) : t.mem.wf = true := by
  unfold execFabricConfiguration at he
  grind [State.configureFabric_wf]
theorem execFabricRemoteAccess_wf {p : RemotePacket} {s : State} {t : State} (hw : s.mem.wf = true) (he : (execFabricRemoteAccess p s) = .next t) : t.mem.wf = true := by
  unfold execFabricRemoteAccess at he
  grind [State.answer_mem, State.fabricAtomic_wf, State.fabricWrite_wf, State.leaseLines_mem, State.modPkg_mem, State.reply_wf, State.reportHome_wf, State.takeReply_wf]
theorem execDieFence_wf {die : Nat} {s : State} {t : State} (hw : s.mem.wf = true) (he : (execDieFence die s) = .next t) : t.mem.wf = true := by
  unfold execDieFence at he
  grind [State.fence_wf]
theorem execDieDrop_wf {die : Nat} {s : State} {t : State} (hw : s.mem.wf = true) (he : (execDieDrop die s) = .next t) : t.mem.wf = true := by
  unfold execDieDrop at he
  grind [State.fence_wf, State.modPkg_mem]
theorem execDieReset_wf {die : Nat} {s : State} {t : State} (hw : s.mem.wf = true) (he : (execDieReset die s) = .next t) : t.mem.wf = true := by
  unfold execDieReset at he
  grind [State.fence_wf, State.modPkg_mem]
theorem execErrorDetected_wf {x : HwError} {s t : State} (h : s.mem.wf = true) (e : execErrorDetected x s = .next t) : t.mem.wf = true := by
  have h1 := State.logError_wf s x x.detail.toNat h
  unfold execErrorDetected at e
  dsimp only at e
  split at e
  · cases e; rw [State.countCorrected_mem]; exact h
  · split at e
    · cases e; rw [State.contain_mem]; exact h1
    · split at e
      · cases e; exact foldl_wf (fun s p h => State.stopPart_wf s p h) _ h1
      · cases e; exact h1
theorem execCorrectedErrorLog_wf {e : HwError} {s : State} {t : State} (hw : s.mem.wf = true) (he : (execCorrectedErrorLog e s) = .next t) : t.mem.wf = true := by
  unfold execCorrectedErrorLog at he
  grind [State.logError_wf, State.modPkg_mem]
theorem execRcp_wf {g : Guard} {a : SfuArgs} {s : State} {t : State} (hw : s.mem.wf = true) (he : (execRcp g a s) = .next t) : t.mem.wf = true := State.sfu_wf hw he
theorem execRsq_wf {g : Guard} {a : SfuArgs} {s : State} {t : State} (hw : s.mem.wf = true) (he : (execRsq g a s) = .next t) : t.mem.wf = true := State.sfu_wf hw he
theorem execSqrt_wf {g : Guard} {a : SfuArgs} {s : State} {t : State} (hw : s.mem.wf = true) (he : (execSqrt g a s) = .next t) : t.mem.wf = true := State.sfu_wf hw he
theorem execExp2_wf {g : Guard} {a : SfuArgs} {s : State} {t : State} (hw : s.mem.wf = true) (he : (execExp2 g a s) = .next t) : t.mem.wf = true := State.sfu_wf hw he
theorem execLog2_wf {g : Guard} {a : SfuArgs} {s : State} {t : State} (hw : s.mem.wf = true) (he : (execLog2 g a s) = .next t) : t.mem.wf = true := State.sfu_wf hw he
theorem execSin_wf {g : Guard} {a : SfuArgs} {s : State} {t : State} (hw : s.mem.wf = true) (he : (execSin g a s) = .next t) : t.mem.wf = true := State.sfu_wf hw he
theorem execCos_wf {g : Guard} {a : SfuArgs} {s : State} {t : State} (hw : s.mem.wf = true) (he : (execCos g a s) = .next t) : t.mem.wf = true := State.sfu_wf hw he
theorem execTanh_wf {g : Guard} {a : SfuArgs} {s : State} {t : State} (hw : s.mem.wf = true) (he : (execTanh g a s) = .next t) : t.mem.wf = true := State.sfu_wf hw he
theorem execFrnd_wf {g : Guard} {a : FrndArgs} {s : State} {t : State} (hw : s.mem.wf = true) (he : (execFrnd g a s) = .next t) : t.mem.wf = true := State.sfu_wf hw he
theorem execCvt_wf {g : Guard} {a : CvtArgs} {s : State} {t : State} (hw : s.mem.wf = true) (he : (execCvt g a s) = .next t) : t.mem.wf = true :=
  State.issueWord_wf (fun x u hu => sfuEffect_wf (hw := hu) ..) hw he
theorem execDbfpk_wf {g : Guard} {a : DbfpkArgs} {s : State} {t : State} (hw : s.mem.wf = true) (he : (execDbfpk g a s) = .next t) : t.mem.wf = true :=
  State.issueWord_wf (fun x u hu => sfuEffect_wf (hw := hu) ..) hw he
theorem execDbfunpk_wf {g : Guard} {a : DbfunpkArgs} {s : State} {t : State} (hw : s.mem.wf = true) (he : (execDbfunpk g a s) = .next t) : t.mem.wf = true := State.sfu_wf hw he

end Sys2Proof.Machine
end

