-- ==== Sys2Proof/Laws/Causes.lean ====
section
/-! SUPPORT. Which causes a translation and the reads built on it can meet (Machine/Mem.lean, Machine/Tasks.lean): DIE_FENCED (0x61) is none of them, because a PEER access alone raises it. -/
namespace Sys2Proof.Machine
set_option Elab.async false

theorem State.tableCause_cases {s : State} {p : Part} {pa c : Nat} (h : s.tableCause p pa = some c) : c = 0x11 ∨ c = 0x16 ∨ c = 0x60 := by
  unfold State.tableCause at h
  repeat' split at h
  all_goals simp_all

/-- A walk that fails meets TRANSLATION, PROTECTION, DOMAIN_REVOKED or DATA_UNCORRECTABLE, and a missing entry is TRANSLATION's alone. -/
theorem State.walk_cause {s : State} {p : Part} {va base : Nat} {ls : List (Nat × Nat × Nat)} {f : MFault} (h : s.walk p va ls base = .error f) :
    (f.cause = 0x10 ∨ f.cause = 0x11 ∨ f.cause = 0x16 ∨ f.cause = 0x60) ∧ (f.missing ≠ none → f.cause = 0x10) := by
  induction ls generalizing base with
  | nil => simp only [State.walk, Except.error.injEq] at h; subst h; simp
  | cons l ls ih =>
    obtain ⟨level, lo, bits⟩ := l
    simp only [State.walk] at h
    split at h
    · rename_i c hc
      simp only [Except.error.injEq] at h
      subst h
      rcases State.tableCause_cases hc with rfl | rfl | rfl <;> simp
    · repeat' split at h
      all_goals first
        | exact ih h
        | (simp only [Except.error.injEq] at h; subst h; simp)
        | cases h

theorem State.checkLeaf_cause {s : State} {c : CtxKey} {core : Option Nat} {kind : AccessKind} {host : Option Bool} {l : Leaf} {va : Nat} {f : MFault}
    (h : s.checkLeaf c core kind host l va = .error f) : (f.cause = 0x11 ∨ f.cause = 0x12 ∨ f.cause = 0x13 ∨ f.cause = 0x16) ∧ f.missing = none := by
  simp only [State.checkLeaf] at h
  by_cases h1 : (kind.writes && !l.w || decide (kind = AccessKind.fetch) && !l.x || decide (host = some true) && !isHost (l.pa + (va - l.va)) ||
      decide (host = some false) && isHost (l.pa + (va - l.va)) || decide (l.pdie ≠ 31) && !(s.part c.part).ownsDie l.pdie ||
      s.foreignPa (s.part c.part) (l.pa + (va - l.va))) = true
  · rw [if_pos h1] at h
    cases h
    simp
  · rw [if_neg h1] at h
    repeat' split at h
    all_goals first
      | (cases h; simp)
      | cases h

theorem State.lookup_cause {s : State} {core : Option Nat} {c : CtxKey} {va : Nat} {f : MFault} (h : s.lookup core c va = .error f) : f.cause ≠ 0x61 := by
  unfold State.lookup State.walkVa at h
  repeat' split at h
  all_goals first
    | cases h; done
    | (simp only [Except.error.injEq] at h; subst h; simp)
    | (have := (State.walk_cause h).1; omega)

/-- A translation that fails does not give DIE_FENCED. -/
theorem State.translate_cause {s : State} {c : CtxKey} {core : Option Nat} {kind : AccessKind} {host : Option Bool} {va : Nat} {f : MFault}
    (h : s.translate c core kind host va = .error f) : f.cause ≠ 0x61 := by
  unfold State.translate at h
  split at h
  · rename_i hl
    simp only [Except.error.injEq] at h
    exact h ▸ State.lookup_cause hl
  · have := (State.checkLeaf_cause h).1
    omega

theorem State.locsFrom_cause {s : State} {c : CtxKey} {core : Option Nat} {kind : AccessKind} {host : Option Bool} {n va : Nat} {prev : Option Loc}
    {e : Nat × MFault} (h : s.locsFrom c core kind host va n prev = .error e) : e.2.cause ≠ 0x61 := by
  induction n generalizing va prev with
  | zero => simp [State.locsFrom] at h
  | succ n ih =>
    simp only [State.locsFrom] at h
    generalize (if kind = .jobRead then AccessKind.jobWrite else kind) = told at h
    split at h
    · rename_i f hf
      simp only [Except.error.injEq] at h
      subst h
      split at hf
      · cases hf
      · exact State.translate_cause hf
    · split at h
      · simp only [Except.error.injEq] at h; subst h; simp
      · split at h
        · rename_i he
          cases h
          exact ih he
        · cases h

/-- A read of some bytes that fails does not give DIE_FENCED. -/
theorem State.locs_cause {s : State} {c : CtxKey} {core : Option Nat} {kind : AccessKind} {host : Option Bool} {va n : Nat} {e : Nat × MFault}
    (h : s.locs c core kind host va n = .error e) : e.2.cause ≠ 0x61 := State.locsFrom_cause h

/-- Nor does a query of a task's words. -/
theorem State.queryTask_cause {s : State} {c : CtxKey} {i : Nat} {e : Nat × MFault} (h : s.queryTask c i = .error e) : e.2.cause ≠ 0x61 := by
  unfold State.queryTask State.foremanRead at h
  repeat' split at h
  all_goals first
    | cases h; done
    | (simp only [Except.error.injEq] at h; subst h; simp; done)
    | (rename_i he; simp only [Except.error.injEq] at h; exact h ▸ State.locs_cause he)

theorem State.foremanWrite_cause {s : State} {c : CtxKey} {va : Nat} {bs : List Byte} {e : Nat × MFault} (h : s.foremanWrite c va bs = .error e) :
    e.2.cause ≠ 0x61 := by
  unfold State.foremanWrite at h
  split at h
  · rename_i he
    simp only [Except.error.injEq] at h
    exact h ▸ State.locs_cause he
  · cases h

theorem State.postChild_cause {s : State} {k : GangKey} {bs : List Byte} {i va : Nat} {f : MFault} {kind : AccessKind}
    (h : s.postChild k bs i = .fault va f kind) : f.cause ≠ 0x61 := by
  simp only [State.postChild] at h
  split at h
  · rename_i he
    cases h
    exact State.foremanWrite_cause he
  · split at h
    · cases h
      simp
    · split at h
      · rename_i he
        cases h
        exact State.foremanWrite_cause he
      · cases h

/-- Nor does a LAUNCH. -/
theorem State.launchAt_cause {s : State} {k : GangKey} {addr va : Nat} {f : MFault} {kind : AccessKind} (h : s.launchAt k addr = .fault va f kind) :
    f.cause ≠ 0x61 := by
  simp only [State.launchAt] at h
  repeat' split at h
  all_goals first
    | cases h; done
    | (rename_i he; cases h; exact State.locs_cause he)
    | exact State.postChild_cause h
end Sys2Proof.Machine
end

