-- ==== Sys2Proof/Laws/Decode.lean ====
section
/-! SUPPORT. Decoding reads back every field that the encoder writes: cut and join, the codes, and one lemma for each shape of operand fields. -/
namespace Sys2Proof
set_option Elab.async false
set_option linter.unusedSimpArgs false
theorem field_hi {a b lo n : Nat} (x : BitVec a) (y : BitVec b) (h : b ≤ lo) : field (x ++ y) lo n = field x (lo - b) n := by
  apply BitVec.eq_of_getLsbD_eq
  intro i hi
  simp only [field, BitVec.getLsbD_extractLsb', BitVec.getLsbD_append]
  have : ¬ (lo + i < b) := by omega
  simp [this, show lo + i - b = lo - b + i by omega]
theorem field_lo {a b lo n : Nat} (x : BitVec a) (y : BitVec b) (h : lo + n ≤ b) : field (x ++ y) lo n = field y lo n := by
  apply BitVec.eq_of_getLsbD_eq
  intro i hi
  simp only [field, BitVec.getLsbD_extractLsb', BitVec.getLsbD_append]
  have : lo + i < b := by omega
  simp [this]
@[simp] theorem field_all {n : Nat} (x : BitVec n) : field x 0 n = x := by
  apply BitVec.eq_of_getLsbD_eq
  intro i hi
  simp [field, hi]
@[simp] theorem bitBool_boolBit (b : Bool) : bitBool (boolBit b) = b := by cases b <;> rfl
@[simp] theorem ofCode_code (o : Operand) : Operand.ofCode o.code = o := by
  cases o with
  | v n => revert n; decide
  | s n => revert n; decide
  | p n => revert n; decide
  | special n => revert n; decide
  | mi n => revert n; decide
  | mo n => revert n; decide
  | reserved n => revert n; decide
  | iconst n => revert n; decide
  | fconst n => revert n; decide
theorem split_join (opc : BitVec 8) (g : Guard) (f : Fields) (h : ∀ b : BitVec 51, splitBody (opcClass opc) b = match f with
   | .a _ => (if field b 50 1 = 1#1 then .i (splitI b) else .a (splitA b))
   | .i _ => (if field b 50 1 = 1#1 then .i (splitI b) else .a (splitA b))
   | .m _ => .m (splitM b) | .x _ => .x (splitX b) | .q _ => .q (splitQ b) | .c _ => .c (splitC b) | .s _ => .s (splitS b)) :
   splitWord (WordFields.join ⟨opc, g, f⟩) = ⟨opc, g, f⟩ := by
  have e1 : field (WordFields.join ⟨opc, g, f⟩) 56 8 = opc := by
    simp (disch := decide) only [WordFields.join, field_hi, field_all, Nat.reduceSub]
  have e2 : field (WordFields.join ⟨opc, g, f⟩) 52 4 = g.pg := by
    simp (disch := decide) only [WordFields.join, field_hi, field_lo, field_all, Nat.reduceSub]
  have e3 : field (WordFields.join ⟨opc, g, f⟩) 51 1 = boolBit g.pn := by
    simp (disch := decide) only [WordFields.join, field_hi, field_lo, field_all, Nat.reduceSub]
  have e4 : field (WordFields.join ⟨opc, g, f⟩) 0 51 = f.body := by
    simp (disch := decide) only [WordFields.join, field_hi, field_lo, field_all, Nat.reduceSub]
  simp only [splitWord, e1, e2, e3, e4, h, bitBool_boolBit]
  congr 1
  cases f <;> simp (disch := decide) only [Fields.body, splitA, splitI, splitM, splitX, splitQ, splitC, splitS, field_hi, field_lo, field_all, Nat.reduceSub, if_true,
    show (0#1 = 1#1) = False from by decide, if_false]

@[simp] theorem BTy.ofCode_code (x : BTy) : BTy.ofCode? x.code = some x := by cases x <;> rfl
@[simp] theorem ITy.ofCode_code (x : ITy) : ITy.ofCode? x.code = some x := by cases x <;> rfl
@[simp] theorem FTy.ofCode_code (x : FTy) : FTy.ofCode? x.code = some x := by cases x <;> rfl
@[simp] theorem F3.ofCode_code (x : F3) : F3.ofCode? x.code = some x := by cases x <;> rfl
@[simp] theorem RegTy.ofCode_code (x : RegTy) : RegTy.ofCode? x.code = some x := by cases x <;> rfl
@[simp] theorem Rnd.ofCode_code (x : Rnd) : Rnd.ofCode? x.code = some x := by cases x <;> rfl
@[simp] theorem Width.ofCode_code (x : Width) : Width.ofCode? x.code = some x := by cases x <;> rfl
@[simp] theorem ATy.ofCode_code (x : ATy) : ATy.ofCode? x.code = some x := by cases x <;> rfl
@[simp] theorem AOp.ofCode_code (x : AOp) : AOp.ofCode? x.code = some x := by cases x <;> rfl
@[simp] theorem MulVar.ofCode_code (x : MulVar) : MulVar.ofCode? x.code = some x := by cases x <;> rfl
@[simp] theorem BcntOp.ofCode_code (x : BcntOp) : BcntOp.ofCode? x.code = some x := by cases x <;> rfl
@[simp] theorem ICond.ofCode_code (x : ICond) : ICond.ofCode? x.code = some x := by cases x <;> rfl
@[simp] theorem FCond.ofCode_code (x : FCond) : FCond.ofCode? x.code = some x := by cases x <;> rfl
@[simp] theorem ShflMode.ofCode_code (x : ShflMode) : ShflMode.ofCode? x.code = some x := by cases x <;> rfl
@[simp] theorem VoteMode.ofCode_code (x : VoteMode) : VoteMode.ofCode? x.code = some x := by cases x <;> rfl
@[simp] theorem RedgOp.ofCode_code (x : RedgOp) : RedgOp.ofCode? x.code = some x := by cases x <;> rfl
@[simp] theorem RedgTy.ofCode_code (x : RedgTy) : RedgTy.ofCode? x.code = some x := by cases x <;> rfl
@[simp] theorem Space.ofCode_code (x : Space) : Space.ofCode? x.code = some x := by cases x <;> rfl
@[simp] theorem Split.ofCode_code (x : Split) : Split.ofCode? x.code = some x := by cases x <;> rfl
@[simp] theorem WSel.ofCode_code (x : WSel) : WSel.ofCode? x.code = some x := by cases x <;> rfl
@[simp] theorem SrcF.ofCode_code (x : SrcF) : SrcF.ofCode? x.code = some x := by cases x <;> rfl
@[simp] theorem SysReg.ofCode_code (x : SysReg) : SysReg.ofCode? x.code = some x := by cases x <;> rfl
@[simp] theorem ITy.imod_back (x : ITy) : ITy.ofImod? x.imod = some x := by cases x <;> rfl
@[simp] theorem ITy.bfxImod_back (x : ITy) : ITy.ofBfxImod? x.bfxImod = some x := by cases x <;> rfl
@[simp] theorem ITy.aty_back (x : ITy) : ITy.ofAty? x.aty = some x := by cases x <;> rfl
@[simp] theorem BTy.shiftImod_back (x : BTy) : BTy.ofShiftImod? x.shiftImod = some x := by cases x <;> rfl
theorem logicImod_back (ty : BTy) (sx : Bool) (h : (!(sx && decide (ty = .b32))) = true) : ofLogicImod? (logicImod ty sx) = some (ty, sx) := by
  cases ty <;> cases sx <;> first | rfl | cases h
theorem FTy.imod_back (x : FTy) (h : x.hasImm = true) : FTy.ofImod? x.imod = some x := by cases x <;> first | rfl | cases h
theorem optCode_back (o : Option Operand) (n : Nat) (h : (optUse o).all Use.ok = true) : optOfCode (optCode o) = o := by
  cases o with
  | none => rfl
  | some x =>
    cases x <;> first | (cases h; done) | skip
    rename_i n
    revert n
    decide

-- One lemma for each shape of operand fields

theorem parseLogic_back (a : LogicArgs) (h : a.s2.shapeOk a.ty = true) : parseLogic (logicFields a) = some a := by
  obtain ⟨ty, d, s1, s2⟩ := a
  cases s2 with
  | reg o => simp (disch := decide) [-Nat.reduceAdd, parseLogic, logicFields, fmtA, mod5, field_hi, field_lo]
  | imm sx v => simp [parseLogic, logicFields, fmtI, logicImod_back ty sx h]
theorem parseMov_back (g : Guard) (a : MovArgs) (h : a.s1.shapeOk a.ty = true) : parseMov (Instr.toFields (.mov g a)) = some a := by
  obtain ⟨ty, d, s1⟩ := a
  cases s1 with
  | reg o => simp (disch := decide) [-Nat.reduceAdd, parseMov, Instr.toFields, fmtA, mod5, field_hi, field_lo]
  | imm sx v => simp [parseMov, Instr.toFields, fmtI, logicImod_back ty sx h]
theorem parseShift_back (a : ShiftArgs) : parseShift (shiftFields a) = some a := by
  obtain ⟨ty, d, s1, s2⟩ := a
  cases s2 <;> simp (disch := decide) [-Nat.reduceAdd, parseShift, shiftFields, fmtA, fmtI, mod5, readSrc, field_hi, field_lo]
theorem parseInt_back (a : IntArgs) (h : (!(a.sat && a.s2.isImm)) = true) : parseInt (intFields a.ty (satVar a.sat) a.d a.s1 a.s2 0) = some a := by
  obtain ⟨ty, sat, d, s1, s2⟩ := a
  cases s2 with
  | reg o => simp (disch := decide) [-Nat.reduceAdd, parseInt, intFields, fmtA, intMod, satVar, readSrc, field_hi, field_lo]
  | imm v => cases sat <;> simp_all [parseInt, intFields, fmtI, Src.isImm]
theorem parseIMul_back (a : IMulArgs) (h : (!(a.s2.isImm && decide (a.var ≠ .lo))) = true) : parseIMul (intFields a.ty a.var.code a.d a.s1 a.s2 0) = some a := by
  obtain ⟨ty, var, d, s1, s2⟩ := a
  cases s2 with
  | reg o => simp (disch := decide) [-Nat.reduceAdd, parseIMul, intFields, fmtA, intMod, readSrc, field_hi, field_lo]
  | imm v => cases var <;> simp_all [parseIMul, intFields, fmtI, Src.isImm]
theorem parseIMad_back (a : IMadArgs) (h : (!(a.s2.isImm && (a.sat || decide (a.s3 ≠ a.d)))) = true) : parseIMad (intFields a.ty (satVar a.sat) a.d a.s1 a.s2 a.s3.code) = some a := by
  obtain ⟨ty, sat, d, s1, s2, s3⟩ := a
  cases s2 with
  | reg o => simp (disch := decide) [-Nat.reduceAdd, parseIMad, intFields, fmtA, intMod, satVar, readSrc, field_hi, field_lo]
  | imm v => cases sat <;> simp_all [parseIMad, intFields, fmtI, Src.isImm]
theorem parseIMin_back (a : IMinArgs) : parseIMin (intFields a.ty 0 a.d a.s1 a.s2 0) = some a := by
  obtain ⟨ty, d, s1, s2⟩ := a
  cases s2 <;> simp (disch := decide) [-Nat.reduceAdd, parseIMin, intFields, fmtA, fmtI, intMod, readSrc, field_hi, field_lo]
theorem floatMod_back (ty : FTy) (rnd : Rnd) (n1 n2 n3 : Bool) : let m := floatMod ty rnd n1 n2 n3
    (field m 0 5 = ty.code) ∧ (field m 5 2 = rnd.code) ∧ (field m 8 1 = boolBit n1) ∧ (field m 9 1 = boolBit n2) ∧ field m 10 1 = boolBit n3 := by
  simp (disch := decide) [-Nat.reduceAdd, floatMod, field_hi, field_lo]
theorem parseF_back (a : FArgs) (h : floatImmOk a.ty a.s2 = true) (h2 : (!(a.s2.isImm && (a.n1 || a.n2 || decide (a.rnd ≠ .rn)))) = true) : parseF (floatFields a.ty a.rnd a.n1 a.n2 false a.d a.s1 a.s2 0) = some a := by
  obtain ⟨ty, rnd, n1, n2, d, s1, s2⟩ := a
  cases s2 with
  | reg o => simp [parseF, floatFields, fmtA, readSrc, floatMod_back]
  | imm v =>
    simp only [floatImmOk, Bool.and_eq_true] at h
    cases n1 <;> cases n2 <;> simp_all [parseF, floatFields, fmtI, Src.isImm, FTy.imod_back]
theorem parseFma_back (a : FmaArgs) (h : floatImmOk a.ty a.s2 = true)
    (h2 : (!(a.s2.isImm && (a.n1 || a.n2 || a.n3 || decide (a.rnd ≠ .rn) || decide (a.s3 ≠ a.d)))) = true) : parseFma (floatFields a.ty a.rnd a.n1 a.n2 a.n3 a.d a.s1 a.s2 a.s3.code) = some a := by
  obtain ⟨ty, rnd, n1, n2, n3, d, s1, s2, s3⟩ := a
  cases s2 with
  | reg o => simp [parseFma, floatFields, fmtA, readSrc, floatMod_back]
  | imm v =>
    simp only [floatImmOk, Bool.and_eq_true] at h
    cases n1 <;> cases n2 <;> cases n3 <;> simp_all [parseFma, floatFields, fmtI, Src.isImm, FTy.imod_back]
theorem parseFMin_back (a : FMinArgs) (h : floatImmOk a.ty a.s2 = true) : parseFMin (floatFields a.ty .rn false false false a.d a.s1 a.s2 0) = some a := by
  obtain ⟨ty, d, s1, s2⟩ := a
  cases s2 with
  | reg o => simp [parseFMin, floatFields, fmtA, readSrc, floatMod_back]
  | imm v =>
    simp only [floatImmOk, Bool.and_eq_true] at h
    simp [parseFMin, floatFields, fmtI, FTy.imod_back ty h.1]
theorem parseBfx_back (g : Guard) (a : BfxArgs) : parseBfx (Instr.toFields (.bfx g a)) = some a := by
  obtain ⟨ty, d, s1, pl⟩ := a
  cases pl <;> simp (disch := decide) [-Nat.reduceAdd, parseBfx, Instr.toFields, fmtA, fmtI, mod5, field_hi, field_lo]
theorem parseShfl_back (g : Guard) (a : ShflArgs) (h : (match a.s2 with | .imm v => decide (a.ty = .b32) && decide (v.toNat < 64) | .reg _ => true) = true) : parseShfl (Instr.toFields (.shfl g a)) = some a := by
  obtain ⟨mode, ty, d, s1, s2⟩ := a
  cases s2 with
  | reg o => simp (disch := decide) [-Nat.reduceAdd, parseShfl, Instr.toFields, fmtA, readSrc, field_hi, field_lo]
  | imm v =>
    simp only [Bool.and_eq_true, decide_eq_true_eq] at h
    simp [parseShfl, Instr.toFields, fmtI, h.1]
theorem parsePerm_back (g : Guard) (a : PermArgs) : parsePerm (Instr.toFields (.perm g a)) = some a := by
  obtain ⟨ty, d, s1, s2⟩ := a
  cases s2 <;> simp (disch := decide) [-Nat.reduceAdd, parsePerm, Instr.toFields, fmtA, fmtI, mod5, readSrc, field_hi, field_lo]
theorem parseLea_back (g : Guard) (a : LeaArgs) (h : (!(a.n32 && a.sx) && !(a.s2.isImm && (decide (a.sh ≠ 0) || (!a.n32 && !a.sx)))) = true) : parseLea (Instr.toFields (.lea g a)) = some a := by
  obtain ⟨n32, sx, sh, d, s1, s2⟩ := a
  cases s2 with
  | reg o => simp (disch := decide) [-Nat.reduceAdd, parseLea, Instr.toFields, fmtA, readSrc, field_hi, field_lo]
  | imm v => cases n32 <;> cases sx <;> simp_all [parseLea, Instr.toFields, fmtI, Src.isImm, ofLeaImod?]
theorem parseSfu_back (a : SfuArgs) : parseSfu (sfuFields a) = some a := by
  simp (disch := decide) [-Nat.reduceAdd, parseSfu, sfuFields, fmtAL, mod5, field_hi, field_lo]
theorem parseCvtForm_back (f : CvtForm) : parseCvtForm (cvtMod f) = some f := by
  cases f <;> simp (disch := decide) [-Nat.reduceAdd, parseCvtForm, cvtMod, field_hi, field_lo]
theorem readLoad_back (a : LoadArgs) (poll : Bool) : readLoad ⟨a.la, a.d.code, a.ab.code, 0, 0, a.w.code, 0#2 ++ boolBit a.sx, a.ch, boolBit poll, a.off⟩ = some a := by
  simp (disch := decide) [-Nat.reduceAdd, readLoad, field_hi, field_lo]

-- From fields to words

theorem shape_of_wf {i : Instr} (h : i.wellFormed = true) : i.shapeOk = true := by
  simp only [Instr.wellFormed, Bool.and_eq_true] at h; exact h.1.2
theorem uses_of_wf {i : Instr} (h : i.wellFormed = true) : i.uses.all Use.ok = true := by
  simp only [Instr.wellFormed, Instr.operandsOk, Bool.and_eq_true] at h; exact h.2.1
theorem operands_of_wf {i : Instr} (h : i.wellFormed = true) : i.operandsOk = true := by
  simp only [Instr.wellFormed, Bool.and_eq_true] at h; exact h.2

/-- A word whose cut is its instruction's own fields decodes to it. -/
theorem decode_of_split {i : Instr} (h : i.wellFormed = true) (ha : assigned i.opcode = true) (hs : splitWord i.toWord.join = i.toWord)
    (hc : candidate i.toWord = some i) : decode i.toWord.join = .ok i := by
  have hp : parse i.toWord.join = .ok i := by
    simp [parse, hs, hc, shape_of_wf h, show i.toWord.opc = i.opcode from rfl, ha]
  simp [decode, hp, operands_of_wf h]
theorem bsTk_back {i : Instr} {u : Use} {bs tk : Option Operand} (h : i.wellFormed = true) (e : i.uses = u :: (optUse bs ++ optUse tk)) :
    optOfCode (optCode bs) = bs ∧ optOfCode (optCode tk) = tk := by
  have := uses_of_wf h
  rw [e] at this
  simp only [List.all_cons, List.all_append, Bool.and_eq_true] at this
  exact ⟨optCode_back bs 0 this.2.1, optCode_back tk 0 this.2.2⟩
theorem ssr_code {g : Guard} {s : Operand} {r : SysReg} (h : (Instr.ssr g s r).wellFormed = true) : (r.code = 26#8) = False := by
  have := shape_of_wf h
  cases r <;> first | (cases this; done) | exact eq_false (by decide)
/-- Format A or I. -/
def Fields.isAI : Fields → Bool | .a _ => true | .i _ => true | _ => false
theorem split_ai {i : Instr} (hk : opcClass i.opcode = 0 ∨ opcClass i.opcode = 5) (hf : i.toFields.isAI = true) : splitWord i.toWord.join = i.toWord := by
  apply split_join
  intro b
  have : splitBody (opcClass i.opcode) b = if field b 50 1 = 1#1 then .i (splitI b) else .a (splitA b) := by rcases hk with e | e <;> rw [e] <;> rfl
  rw [this]
  cases hfi : i.toFields <;> simp_all [Fields.isAI]
theorem candidate_vec {i : Instr} (ho : i.opcode.toNat < 0x20) (hf : i.toFields.isAI = true) : candidate i.toWord = parseVec i.opcode.toNat i.guard i.toFields := by
  cases hfi : i.toFields <;> simp_all [Fields.isAI, candidate, Instr.toWord]
theorem candidate_sfu {i : Instr} (ho : ¬ i.opcode.toNat < 0x20) (hf : i.toFields.isAI = true) : candidate i.toWord = parseSfuOp i.opcode.toNat i.guard i.toFields := by
  cases hfi : i.toFields <;> simp_all [Fields.isAI, candidate, Instr.toWord]
/-- The round trip of a word of class VEC, from the reading of its fields. -/
theorem decode_vec (i : Instr) (o : BitVec 8) (h : i.wellFormed = true) (ho : i.opcode = o) (hf : i.toFields.isAI = true)
    (ha : assigned o = true ∧ opcClass o = 0) (hc : parseVec o.toNat i.guard i.toFields = some i) : decode i.toWord.join = .ok i := by
  subst ho
  exact decode_of_split h ha.1 (split_ai (.inl ha.2) hf) ((candidate_vec (by have := ha.2; simp only [opcClass] at this; omega) hf).trans hc)
/-- The same of class SFU. -/
theorem decode_sfu (i : Instr) (o : BitVec 8) (h : i.wellFormed = true) (ho : i.opcode = o) (hf : i.toFields.isAI = true)
    (ha : assigned o = true ∧ opcClass o = 5) (hc : parseSfuOp o.toNat i.guard i.toFields = some i) : decode i.toWord.join = .ok i := by
  subst ho
  exact decode_of_split h ha.1 (split_ai (.inr ha.2) hf) ((candidate_sfu (by have := ha.2; simp only [opcClass] at this; omega) hf).trans hc)
/-- The class that a format belongs to. -/
def Fields.cls : Fields → Nat | .a _ => 0 | .i _ => 0 | .m _ => 1 | .x _ => 2 | .q _ => 3 | .c _ => 4 | .s _ => 6
/-- The same of every other class. -/
theorem decode_other (i : Instr) (o : BitVec 8) (f : Fields) (n : Nat) (h : i.wellFormed = true) (ho : i.opcode = o) (hf : i.toFields = f) (hn : f.cls = n)
    (ha : assigned o = true ∧ opcClass o = n ∧ n ≠ 0) (hc : candidate ⟨o, i.guard, f⟩ = some i) : decode i.toWord.join = .ok i := by
  subst ho hf hn
  refine decode_of_split h ha.1 (split_join _ _ _ fun b => ?_) hc
  rw [ha.2.1]
  have := ha.2.2
  cases hfi : i.toFields <;> simp_all [Fields.cls, splitBody]
theorem logicFields_ai (a : LogicArgs) : (logicFields a).isAI = true := by obtain ⟨ty, d, s1, s2⟩ := a; cases s2 <;> rfl
theorem shiftFields_ai (a : ShiftArgs) : (shiftFields a).isAI = true := by obtain ⟨ty, d, s1, s2⟩ := a; cases s2 <;> rfl
theorem intFields_ai (ty : ITy) (var : BitVec 2) (d s1 : Operand) (s2 : Src) (s3 : BitVec 8) : (intFields ty var d s1 s2 s3).isAI = true := by cases s2 <;> rfl
theorem floatFields_ai (ty : FTy) (rnd : Rnd) (n1 n2 n3 : Bool) (d s1 : Operand) (s2 : Src) (s3 : BitVec 8) :
    (floatFields ty rnd n1 n2 n3 d s1 s2 s3).isAI = true := by cases s2 <;> rfl

end Sys2Proof
end

