-- ==== Sys2Proof/Laws/Issue.lean ====
section
/-! SUPPORT. What an issue turn can do (Machine/Ops.lean): one lemma for each answer of an effect, from the conditions of Sys2Proof/Safety.lean. -/
namespace Sys2Proof.Machine
set_option Elab.async false

/-- What a ready word has met. -/
theorem ready_issueOf {s s1 : State} {i : Instr} {x : Issue} (h : s.ready i = some (x, s1)) :
    ∃ s0 sa, s.issueOf i = some (x, s0) ∧ x.active ≠ 0 ∧ s0.takeAll x.key ((x.dests i).flatMap Dest.granules) = .ok sa ∧ s1 = sa.begin x i := by
  simp only [State.ready] at h
  split at h
  · cases h
  · rename_i y s0 hq
    split at h
    · cases h
    · rename_i ha
      split at h
      · rename_i sa ht
        simp only [Option.some.injEq, Prod.mk.injEq] at h
        obtain ⟨rfl, rfl⟩ := h
        exact ⟨s0, sa, hq, ha, ht, rfl⟩
      · cases h

/-- A word that may issue makes its act, in the state of its issue. -/
theorem issueNext_of_issueOf {s s0 : State} {i : Instr} {x : Issue} (al : Bool) (eff : Issue → State → Act) (h : s.issueOf i = some (x, s0)) :
    s.issueNext i al eff = s0.act x i al eff := by
  unfold State.issueOf at h
  unfold State.issueNext
  cases hy : s.issuing i.guard with
  | none => simp [hy] at h
  | some y =>
    simp only [hy] at h
    cases hi : y.illegal i with
    | some c => simp [hi] at h
    | none =>
      cases hs : y.stalled i with
      | true => simp [hi, hs] at h
      | false =>
        cases hn : i.isCollective with
        | false =>
          simp [hi, hs, hn] at h
          obtain ⟨rfl, rfl⟩ := h
          simp [hi, hs, hn]
        | true =>
          cases hw : y.gatherTrap s i with
          | some w => simp [hi, hs, hn, hw] at h
          | none =>
            cases hg : s.gathered y.key y.path with
            | false => simp [hi, hs, hn, hw, hg] at h
            | true =>
              cases hz : (s.gather y).issuing i.guard with
              | none => simp [hi, hs, hn, hw, hg, hz] at h
              | some z =>
                simp [hi, hs, hn, hw, hg, hz] at h
                obtain ⟨rfl, rfl⟩ := h
                simp [hi, hs, hw, hg, hz]

/-- A ready word makes its effect. -/
theorem issueNext_of_ready {s s1 : State} {i : Instr} {x : Issue} (al : Bool) (eff : Issue → State → Act) (h : s.ready i = some (x, s1)) :
    ∃ s0 sa, s.issueOf i = some (x, s0) ∧ s0.takeAll x.key ((x.dests i).flatMap Dest.granules) = .ok sa ∧ s1 = sa.begin x i ∧
      s.issueNext i al eff = match eff x s1 with
        | .done s2 => s2.advance x.key x.path.id
        | .moved s2 => s2
        | .stall => s0
        | .park on => s0.park x.key x.path.id on
        | .hold on => s0.hold x.key x.path.id on
        | .waits l => s0.waitWord x l
        | .asks n => s0.askLeave x.key n
        | .trap t => s0.raise x t
        | .mfault t => if t.cause = 0x61 then s0.raiseLanes x t else s1.memFault x i.lookahead t
        | .restart t miss => s0.restartTrap x t miss
        | .spill s2 va f kind => s2.spillFault x va f kind := by
  obtain ⟨s0, sa, h0, ha, ht, rfl⟩ := ready_issueOf h
  refine ⟨s0, sa, h0, ht, rfl, ?_⟩
  rw [issueNext_of_issueOf al eff h0]
  simp only [State.act, ht]
  have : (x.active = 0#64) = False := eq_false ha
  simp [this] <;> cases eff x (sa.begin x i) <;> rfl

/-- An effect that is made: the path goes on from the state it leaves. -/
theorem issueWord_done {s s1 s2 : State} {i : Instr} {x : Issue} {al : Bool} {eff : Issue → State → Act} (h : s.ready i = some (x, s1))
    (e : eff x s1 = .done s2) : s.issueWord i al eff = .next (s2.advance x.key x.path.id) := by
  obtain ⟨_, _, _, _, _, hx⟩ := issueNext_of_ready al eff h
  simp [State.issueWord, hx, e]
/-- An effect that places the path itself. -/
theorem issueWord_moved {s s1 s2 : State} {i : Instr} {x : Issue} {al : Bool} {eff : Issue → State → Act} (h : s.ready i = some (x, s1))
    (e : eff x s1 = .moved s2) : s.issueWord i al eff = .next s2 := by
  obtain ⟨_, _, _, _, _, hx⟩ := issueNext_of_ready al eff h
  simp [State.issueWord, hx, e]
/-- The other answers of an effect: what each makes of the state, s0 the one the word issued in. -/
theorem issueWord_park {s s1 : State} {i : Instr} {x : Issue} {al : Bool} {eff : Issue → State → Act} {on : ParkOn} (h : s.ready i = some (x, s1))
    (e : eff x s1 = .park on) : ∃ s0, s.issueOf i = some (x, s0) ∧ s.issueWord i al eff = .next (s0.park x.key x.path.id on) := by
  obtain ⟨s0, _, h0, _, _, hx⟩ := issueNext_of_ready al eff h
  exact ⟨s0, h0, by simp [State.issueWord, hx, e]⟩
theorem issueWord_hold {s s1 : State} {i : Instr} {x : Issue} {al : Bool} {eff : Issue → State → Act} {on : HeldOn} (h : s.ready i = some (x, s1))
    (e : eff x s1 = .hold on) : ∃ s0, s.issueOf i = some (x, s0) ∧ s.issueWord i al eff = .next (s0.hold x.key x.path.id on) := by
  obtain ⟨s0, _, h0, _, _, hx⟩ := issueNext_of_ready al eff h
  exact ⟨s0, h0, by simp [State.issueWord, hx, e]⟩
theorem issueWord_stall {s s1 : State} {i : Instr} {x : Issue} {al : Bool} {eff : Issue → State → Act} (h : s.ready i = some (x, s1))
    (e : eff x s1 = .stall) : ∃ s0, s.issueOf i = some (x, s0) ∧ s.issueWord i al eff = .next s0 := by
  obtain ⟨s0, _, h0, _, _, hx⟩ := issueNext_of_ready al eff h
  exact ⟨s0, h0, by simp [State.issueWord, hx, e]⟩
theorem issueWord_waits {s s1 : State} {i : Instr} {x : Issue} {al : Bool} {eff : Issue → State → Act} {l : Option Nat} (h : s.ready i = some (x, s1))
    (e : eff x s1 = .waits l) : ∃ s0, s.issueOf i = some (x, s0) ∧ s.issueWord i al eff = .next (s0.waitWord x l) := by
  obtain ⟨s0, _, h0, _, _, hx⟩ := issueNext_of_ready al eff h
  exact ⟨s0, h0, by simp [State.issueWord, hx, e]⟩
theorem issueWord_asks {s s1 : State} {i : Instr} {x : Issue} {al : Bool} {eff : Issue → State → Act} {n : Nat} (h : s.ready i = some (x, s1))
    (e : eff x s1 = .asks n) : ∃ s0, s.issueOf i = some (x, s0) ∧ s.issueWord i al eff = .next (s0.askLeave x.key n) := by
  obtain ⟨s0, _, h0, _, _, hx⟩ := issueNext_of_ready al eff h
  exact ⟨s0, h0, by simp [State.issueWord, hx, e]⟩
theorem issueWord_trap {s s1 : State} {i : Instr} {x : Issue} {al : Bool} {eff : Issue → State → Act} {t : Trap} (h : s.ready i = some (x, s1))
    (e : eff x s1 = .trap t) : ∃ s0, s.issueOf i = some (x, s0) ∧ s.issueWord i al eff = .next (s0.raise x t) := by
  obtain ⟨s0, _, h0, _, _, hx⟩ := issueNext_of_ready al eff h
  exact ⟨s0, h0, by simp [State.issueWord, hx, e]⟩
theorem issueWord_mfault {s s1 : State} {i : Instr} {x : Issue} {al : Bool} {eff : Issue → State → Act} {t : MTrap} (h : s.ready i = some (x, s1))
    (e : eff x s1 = .mfault t) (hc : t.cause ≠ 0x61) : s.issueWord i al eff = .next (s1.memFault x i.lookahead t) := by
  obtain ⟨_, _, _, _, _, hx⟩ := issueNext_of_ready al eff h
  simp [State.issueWord, hx, e, hc]
/-- DIE_FENCED at an access is raised as a class P trap of its word (R264), from the state the word issued in. -/
theorem issueWord_lanes {s s1 : State} {i : Instr} {x : Issue} {al : Bool} {eff : Issue → State → Act} {t : MTrap} (h : s.ready i = some (x, s1))
    (e : eff x s1 = .mfault t) (hc : t.cause = 0x61) : ∃ s0, s.issueOf i = some (x, s0) ∧ s.issueWord i al eff = .next (s0.raiseLanes x t) := by
  obtain ⟨s0, _, h0, _, _, hx⟩ := issueNext_of_ready al eff h
  exact ⟨s0, h0, by simp [State.issueWord, hx, e, hc]⟩
theorem issueWord_restart {s s1 : State} {i : Instr} {x : Issue} {al : Bool} {eff : Issue → State → Act} {t : Trap} {miss : Option Nat}
    (h : s.ready i = some (x, s1)) (e : eff x s1 = .restart t miss) :
    ∃ s0, s.issueOf i = some (x, s0) ∧ s.issueWord i al eff = .next (s0.restartTrap x t miss) := by
  obtain ⟨s0, _, h0, _, _, hx⟩ := issueNext_of_ready al eff h
  exact ⟨s0, h0, by simp [State.issueWord, hx, e]⟩
theorem issueWord_spill {s s1 s2 : State} {i : Instr} {x : Issue} {al : Bool} {eff : Issue → State → Act} {va : Nat} {f : MFault} {kind : AccessKind}
    (h : s.ready i = some (x, s1)) (e : eff x s1 = .spill s2 va f kind) : s.issueWord i al eff = .next (s2.spillFault x va f kind) := by
  obtain ⟨_, _, _, _, _, hx⟩ := issueNext_of_ready al eff h
  simp [State.issueWord, hx, e]

end Sys2Proof.Machine
end

