-- ==== Sys2Proof/Laws/PerInstr.lean ====
section
/-! SUPPORT. Statements made per instruction: one lemma for every constructor of Instr. Proofs stand one after another (Elab.async false), since all unfold the same definitions. -/
namespace Sys2Proof.Laws
set_option Elab.async false
set_option linter.unusedSimpArgs false

/-- Family RoundTrip: the word that the encoder gives a well-formed instruction decodes to it. -/
def RoundTrip.Statement (i : Instr) : Prop := i.wellFormed = true → decode i.toWord.join = .ok i

theorem RoundTrip.nop : RoundTrip.Statement .nop := fun h =>
  decode_vec .nop 0 h rfl rfl (by decide) rfl
theorem RoundTrip.mov (g : Guard) (a : MovArgs) : RoundTrip.Statement (.mov g a) := fun h =>
  decode_vec (.mov g a) 0x01 h rfl (by obtain ⟨_, _, s1⟩ := a; cases s1 <;> rfl) (by decide) (congrArg (Option.map (Instr.mov g)) (parseMov_back g a (Bool.and_eq_true_iff.mp (shape_of_wf h)).1))
theorem RoundTrip.iadd (g : Guard) (a : IntArgs) : RoundTrip.Statement (.iadd g a) := fun h =>
  decode_vec (.iadd g a) 0x02 h rfl (intFields_ai ..) (by decide) (congrArg (Option.map (Instr.iadd g)) (parseInt_back a (shape_of_wf h)))
theorem RoundTrip.isub (g : Guard) (a : IntArgs) : RoundTrip.Statement (.isub g a) := fun h =>
  decode_vec (.isub g a) 0x03 h rfl (intFields_ai ..) (by decide) (congrArg (Option.map (Instr.isub g)) (parseInt_back a (shape_of_wf h)))
theorem RoundTrip.imul (g : Guard) (a : IMulArgs) : RoundTrip.Statement (.imul g a) := fun h =>
  decode_vec (.imul g a) 0x04 h rfl (intFields_ai ..) (by decide) (congrArg (Option.map (Instr.imul g)) (parseIMul_back a (by have := shape_of_wf h; simp only [Instr.shapeOk, Bool.and_eq_true] at this; exact this.1)))
theorem RoundTrip.imad (g : Guard) (a : IMadArgs) : RoundTrip.Statement (.imad g a) := fun h =>
  decode_vec (.imad g a) 0x05 h rfl (intFields_ai ..) (by decide) (congrArg (Option.map (Instr.imad g)) (parseIMad_back a (shape_of_wf h)))
theorem RoundTrip.imin (g : Guard) (a : IMinArgs) : RoundTrip.Statement (.imin g a) := fun h =>
  decode_vec (.imin g a) 0x06 h rfl (intFields_ai ..) (by decide) (congrArg (Option.map (Instr.imin g)) (parseIMin_back a))
theorem RoundTrip.imax (g : Guard) (a : IMinArgs) : RoundTrip.Statement (.imax g a) := fun h =>
  decode_vec (.imax g a) 0x07 h rfl (intFields_ai ..) (by decide) (congrArg (Option.map (Instr.imax g)) (parseIMin_back a))
theorem RoundTrip.and (g : Guard) (a : LogicArgs) : RoundTrip.Statement (.and g a) := fun h =>
  decode_vec (.and g a) 0x08 h rfl (logicFields_ai a) (by decide) (congrArg (Option.map (Instr.and g)) (parseLogic_back a (shape_of_wf h)))
theorem RoundTrip.andn (g : Guard) (a : LogicArgs) : RoundTrip.Statement (.andn g a) := fun h =>
  decode_vec (.andn g a) 0x0B h rfl (logicFields_ai a) (by decide) (congrArg (Option.map (Instr.andn g)) (parseLogic_back a (shape_of_wf h)))
theorem RoundTrip.or (g : Guard) (a : LogicArgs) : RoundTrip.Statement (.or g a) := fun h =>
  decode_vec (.or g a) 0x09 h rfl (logicFields_ai a) (by decide) (congrArg (Option.map (Instr.or g)) (parseLogic_back a (shape_of_wf h)))
theorem RoundTrip.xor (g : Guard) (a : LogicArgs) : RoundTrip.Statement (.xor g a) := fun h =>
  decode_vec (.xor g a) 0x0A h rfl (logicFields_ai a) (by decide) (congrArg (Option.map (Instr.xor g)) (parseLogic_back a (shape_of_wf h)))
theorem RoundTrip.shl (g : Guard) (a : ShiftArgs) : RoundTrip.Statement (.shl g a) := fun h =>
  decode_vec (.shl g a) 0x0C h rfl (shiftFields_ai a) (by decide) (congrArg (Option.map (Instr.shl g)) (parseShift_back a))
theorem RoundTrip.shr (g : Guard) (a : ShiftArgs) : RoundTrip.Statement (.shr g a) := fun h =>
  decode_vec (.shr g a) 0x0D h rfl (shiftFields_ai a) (by decide) (congrArg (Option.map (Instr.shr g)) (parseShift_back a))
theorem RoundTrip.sar (g : Guard) (a : ShiftArgs) : RoundTrip.Statement (.sar g a) := fun h =>
  decode_vec (.sar g a) 0x0E h rfl (shiftFields_ai a) (by decide) (congrArg (Option.map (Instr.sar g)) (parseShift_back a))
theorem RoundTrip.bcnt (g : Guard) (a : BcntArgs) : RoundTrip.Statement (.bcnt g a) := fun h =>
  decode_vec (.bcnt g a) 0x0F h rfl (rfl) (by decide) (congrArg (Option.map (Instr.bcnt g)) (show parseBcnt (Instr.toFields (.bcnt g a)) = some a from by simp (disch := decide) [-Nat.reduceAdd, parseBcnt, Instr.toFields, fmtA, field_hi, field_lo]))
theorem RoundTrip.bfx (g : Guard) (a : BfxArgs) : RoundTrip.Statement (.bfx g a) := fun h =>
  decode_vec (.bfx g a) 0x10 h rfl (by obtain ⟨_, _, _, pl⟩ := a; cases pl <;> rfl) (by decide) (congrArg (Option.map (Instr.bfx g)) (parseBfx_back g a))
theorem RoundTrip.bfi (g : Guard) (a : BfiArgs) : RoundTrip.Statement (.bfi g a) := fun h =>
  decode_vec (.bfi g a) 0x11 h rfl (rfl) (by decide) (congrArg (Option.map (Instr.bfi g)) (show parseBfi (Instr.toFields (.bfi g a)) = some a from by simp (disch := decide) [-Nat.reduceAdd, parseBfi, Instr.toFields, fmtA, mod5, field_hi, field_lo]))
theorem RoundTrip.fadd (g : Guard) (a : FArgs) : RoundTrip.Statement (.fadd g a) := fun h =>
  decode_vec (.fadd g a) 0x12 h rfl (floatFields_ai ..) (by decide) (congrArg (Option.map (Instr.fadd g)) (parseF_back a (Bool.and_eq_true_iff.mp (shape_of_wf h)).1 (Bool.and_eq_true_iff.mp (shape_of_wf h)).2))
theorem RoundTrip.fmul (g : Guard) (a : FArgs) : RoundTrip.Statement (.fmul g a) := fun h =>
  decode_vec (.fmul g a) 0x13 h rfl (floatFields_ai ..) (by decide) (congrArg (Option.map (Instr.fmul g)) (parseF_back a (Bool.and_eq_true_iff.mp (shape_of_wf h)).1 (Bool.and_eq_true_iff.mp (shape_of_wf h)).2))
theorem RoundTrip.ffma (g : Guard) (a : FmaArgs) : RoundTrip.Statement (.ffma g a) := fun h =>
  decode_vec (.ffma g a) 0x14 h rfl (floatFields_ai ..) (by decide) (congrArg (Option.map (Instr.ffma g)) (parseFma_back a (Bool.and_eq_true_iff.mp (shape_of_wf h)).1 (Bool.and_eq_true_iff.mp (shape_of_wf h)).2))
theorem RoundTrip.fmin (g : Guard) (a : FMinArgs) : RoundTrip.Statement (.fmin g a) := fun h =>
  decode_vec (.fmin g a) 0x15 h rfl (floatFields_ai ..) (by decide) (congrArg (Option.map (Instr.fmin g)) (parseFMin_back a (shape_of_wf h)))
theorem RoundTrip.fmax (g : Guard) (a : FMinArgs) : RoundTrip.Statement (.fmax g a) := fun h =>
  decode_vec (.fmax g a) 0x16 h rfl (floatFields_ai ..) (by decide) (congrArg (Option.map (Instr.fmax g)) (parseFMin_back a (shape_of_wf h)))
theorem RoundTrip.icmp (g : Guard) (a : ICmpArgs) : RoundTrip.Statement (.icmp g a) := fun h =>
  decode_vec (.icmp g a) 0x17 h rfl (rfl) (by decide) (congrArg (Option.map (Instr.icmp g)) (show parseICmp (Instr.toFields (.icmp g a)) = some a from by simp (disch := decide) [-Nat.reduceAdd, parseICmp, Instr.toFields, fmtA, cmpMod, field_hi, field_lo]))
theorem RoundTrip.fcmp (g : Guard) (a : FCmpArgs) : RoundTrip.Statement (.fcmp g a) := fun h =>
  decode_vec (.fcmp g a) 0x18 h rfl (rfl) (by decide) (congrArg (Option.map (Instr.fcmp g)) (show parseFCmp (Instr.toFields (.fcmp g a)) = some a from by simp (disch := decide) [-Nat.reduceAdd, parseFCmp, Instr.toFields, fmtA, cmpMod, field_hi, field_lo]))
theorem RoundTrip.sel (g : Guard) (a : SelArgs) : RoundTrip.Statement (.sel g a) := fun h =>
  decode_vec (.sel g a) 0x19 h rfl (rfl) (by decide) (congrArg (Option.map (Instr.sel g)) (show parseSel (Instr.toFields (.sel g a)) = some a from by simp (disch := decide) [-Nat.reduceAdd, parseSel, Instr.toFields, fmtA, mod5, field_hi, field_lo]))
theorem RoundTrip.plop (g : Guard) (a : PlopArgs) : RoundTrip.Statement (.plop g a) := fun h =>
  decode_vec (.plop g a) 0x1A h rfl (rfl) (by decide) (congrArg (Option.map (Instr.plop g)) (show parsePlop (Instr.toFields (.plop g a)) = some a from by simp (disch := decide) [-Nat.reduceAdd, parsePlop, Instr.toFields, fmtA, field_hi, field_lo]))
theorem RoundTrip.shfl (g : Guard) (a : ShflArgs) : RoundTrip.Statement (.shfl g a) := fun h =>
  decode_vec (.shfl g a) 0x1B h rfl (by obtain ⟨_, _, _, _, s2⟩ := a; cases s2 <;> rfl) (by decide) (congrArg (Option.map (Instr.shfl g)) (parseShfl_back g a (shape_of_wf h)))
theorem RoundTrip.vote (g : Guard) (a : VoteArgs) : RoundTrip.Statement (.vote g a) := fun h =>
  decode_vec (.vote g a) 0x1C h rfl (rfl) (by decide) (congrArg (Option.map (Instr.vote g)) (show parseVote (Instr.toFields (.vote g a)) = some a from by simp (disch := decide) [-Nat.reduceAdd, parseVote, Instr.toFields, fmtA, field_hi, field_lo]))
theorem RoundTrip.perm (g : Guard) (a : PermArgs) : RoundTrip.Statement (.perm g a) := fun h =>
  decode_vec (.perm g a) 0x1D h rfl (by obtain ⟨_, _, _, s2⟩ := a; cases s2 <;> rfl) (by decide) (congrArg (Option.map (Instr.perm g)) (parsePerm_back g a))
theorem RoundTrip.redg (g : Guard) (a : RedgArgs) : RoundTrip.Statement (.redg g a) := fun h =>
  decode_vec (.redg g a) 0x1E h rfl (rfl) (by decide) (congrArg (Option.map (Instr.redg g)) (show parseRedg (Instr.toFields (.redg g a)) = some a from by simp (disch := decide) [-Nat.reduceAdd, parseRedg, Instr.toFields, fmtA, cmpMod, field_hi, field_lo]))
theorem RoundTrip.lea (g : Guard) (a : LeaArgs) : RoundTrip.Statement (.lea g a) := fun h =>
  decode_vec (.lea g a) 0x1F h rfl (by obtain ⟨_, _, _, _, _, s2⟩ := a; cases s2 <;> rfl) (by decide) (congrArg (Option.map (Instr.lea g)) (parseLea_back g a (shape_of_wf h)))
theorem RoundTrip.ld (g : Guard) (a : LoadArgs) : RoundTrip.Statement (.ld g a) := fun h =>
  decode_other (.ld g a) 0x20 _ 1 h rfl rfl rfl (by decide) (by simp (disch := decide) [-Nat.reduceAdd, candidate, Instr.toFields, Instr.guard, parseMem, loadFields, storeFields, atomFields, casFields, lineFields, fenceFields, queueFields, readLoad, readStore, readAtom, readRed, readCas, readLine, readQueue, field_hi, field_lo, show boolBit false = 0#1 from rfl, show boolBit true = 1#1 from rfl])
theorem RoundTrip.ldPoll (g : Guard) (a : LoadArgs) : RoundTrip.Statement (.ldPoll g a) := fun h =>
  decode_other (.ldPoll g a) 0x20 _ 1 h rfl rfl rfl (by decide) (by simp (disch := decide) [-Nat.reduceAdd, candidate, Instr.toFields, Instr.guard, parseMem, loadFields, storeFields, atomFields, casFields, lineFields, fenceFields, queueFields, readLoad, readStore, readAtom, readRed, readCas, readLine, readQueue, field_hi, field_lo, show boolBit false = 0#1 from rfl, show boolBit true = 1#1 from rfl])
theorem RoundTrip.ldc (g : Guard) (a : LoadArgs) : RoundTrip.Statement (.ldc g a) := fun h =>
  decode_other (.ldc g a) 0x24 _ 1 h rfl rfl rfl (by decide) (by simp (disch := decide) [-Nat.reduceAdd, candidate, Instr.toFields, Instr.guard, parseMem, loadFields, storeFields, atomFields, casFields, lineFields, fenceFields, queueFields, readLoad, readStore, readAtom, readRed, readCas, readLine, readQueue, field_hi, field_lo, show boolBit false = 0#1 from rfl, show boolBit true = 1#1 from rfl])
theorem RoundTrip.lds (g : Guard) (a : LoadArgs) : RoundTrip.Statement (.lds g a) := fun h =>
  decode_other (.lds g a) 0x22 _ 1 h rfl rfl rfl (by decide) (by simp (disch := decide) [-Nat.reduceAdd, candidate, Instr.toFields, Instr.guard, parseMem, loadFields, storeFields, atomFields, casFields, lineFields, fenceFields, queueFields, readLoad, readStore, readAtom, readRed, readCas, readLine, readQueue, field_hi, field_lo, show boolBit false = 0#1 from rfl, show boolBit true = 1#1 from rfl])
theorem RoundTrip.ldp (g : Guard) (a : LoadArgs) : RoundTrip.Statement (.ldp g a) := fun h =>
  decode_other (.ldp g a) 0x2A _ 1 h rfl rfl rfl (by decide) (by simp (disch := decide) [-Nat.reduceAdd, candidate, Instr.toFields, Instr.guard, parseMem, loadFields, storeFields, atomFields, casFields, lineFields, fenceFields, queueFields, readLoad, readStore, readAtom, readRed, readCas, readLine, readQueue, field_hi, field_lo, show boolBit false = 0#1 from rfl, show boolBit true = 1#1 from rfl])
theorem RoundTrip.st (g : Guard) (a : StoreArgs) : RoundTrip.Statement (.st g a) := fun h =>
  decode_other (.st g a) 0x21 _ 1 h rfl rfl rfl (by decide) (by simp (disch := decide) [-Nat.reduceAdd, candidate, Instr.toFields, Instr.guard, parseMem, loadFields, storeFields, atomFields, casFields, lineFields, fenceFields, queueFields, readLoad, readStore, readAtom, readRed, readCas, readLine, readQueue, field_hi, field_lo, show boolBit false = 0#1 from rfl, show boolBit true = 1#1 from rfl])
theorem RoundTrip.sts (g : Guard) (a : StoreArgs) : RoundTrip.Statement (.sts g a) := fun h =>
  decode_other (.sts g a) 0x23 _ 1 h rfl rfl rfl (by decide) (by simp (disch := decide) [-Nat.reduceAdd, candidate, Instr.toFields, Instr.guard, parseMem, loadFields, storeFields, atomFields, casFields, lineFields, fenceFields, queueFields, readLoad, readStore, readAtom, readRed, readCas, readLine, readQueue, field_hi, field_lo, show boolBit false = 0#1 from rfl, show boolBit true = 1#1 from rfl])
theorem RoundTrip.stp (g : Guard) (a : StoreArgs) : RoundTrip.Statement (.stp g a) := fun h =>
  decode_other (.stp g a) 0x2B _ 1 h rfl rfl rfl (by decide) (by simp (disch := decide) [-Nat.reduceAdd, candidate, Instr.toFields, Instr.guard, parseMem, loadFields, storeFields, atomFields, casFields, lineFields, fenceFields, queueFields, readLoad, readStore, readAtom, readRed, readCas, readLine, readQueue, field_hi, field_lo, show boolBit false = 0#1 from rfl, show boolBit true = 1#1 from rfl])
theorem RoundTrip.atom (g : Guard) (a : AtomArgs) : RoundTrip.Statement (.atom g a) := fun h =>
  decode_other (.atom g a) 0x25 _ 1 h rfl rfl rfl (by decide) (by simp (disch := decide) [-Nat.reduceAdd, candidate, Instr.toFields, Instr.guard, parseMem, loadFields, storeFields, atomFields, casFields, lineFields, fenceFields, queueFields, readLoad, readStore, readAtom, readRed, readCas, readLine, readQueue, field_hi, field_lo, show boolBit false = 0#1 from rfl, show boolBit true = 1#1 from rfl])
theorem RoundTrip.atoms (g : Guard) (a : AtomArgs) : RoundTrip.Statement (.atoms g a) := fun h =>
  decode_other (.atoms g a) 0x27 _ 1 h rfl rfl rfl (by decide) (by simp (disch := decide) [-Nat.reduceAdd, candidate, Instr.toFields, Instr.guard, parseMem, loadFields, storeFields, atomFields, casFields, lineFields, fenceFields, queueFields, readLoad, readStore, readAtom, readRed, readCas, readLine, readQueue, field_hi, field_lo, show boolBit false = 0#1 from rfl, show boolBit true = 1#1 from rfl])
theorem RoundTrip.atomp (g : Guard) (a : AtomArgs) : RoundTrip.Statement (.atomp g a) := fun h =>
  decode_other (.atomp g a) 0x2C _ 1 h rfl rfl rfl (by decide) (by simp (disch := decide) [-Nat.reduceAdd, candidate, Instr.toFields, Instr.guard, parseMem, loadFields, storeFields, atomFields, casFields, lineFields, fenceFields, queueFields, readLoad, readStore, readAtom, readRed, readCas, readLine, readQueue, field_hi, field_lo, show boolBit false = 0#1 from rfl, show boolBit true = 1#1 from rfl])
theorem RoundTrip.red (g : Guard) (a : RedArgs) : RoundTrip.Statement (.red g a) := fun h =>
  decode_other (.red g a) 0x26 _ 1 h rfl rfl rfl (by decide) (by simp (disch := decide) [-Nat.reduceAdd, candidate, Instr.toFields, Instr.guard, parseMem, loadFields, storeFields, atomFields, casFields, lineFields, fenceFields, queueFields, readLoad, readStore, readAtom, readRed, readCas, readLine, readQueue, field_hi, field_lo, show boolBit false = 0#1 from rfl, show boolBit true = 1#1 from rfl])
theorem RoundTrip.cas (g : Guard) (a : CasArgs) : RoundTrip.Statement (.cas g a) := fun h =>
  decode_other (.cas g a) 0x28 _ 1 h rfl rfl rfl (by decide) (by simp (disch := decide) [-Nat.reduceAdd, candidate, Instr.toFields, Instr.guard, parseMem, loadFields, storeFields, atomFields, casFields, lineFields, fenceFields, queueFields, readLoad, readStore, readAtom, readRed, readCas, readLine, readQueue, field_hi, field_lo, show boolBit false = 0#1 from rfl, show boolBit true = 1#1 from rfl])
theorem RoundTrip.cass (g : Guard) (a : CasArgs) : RoundTrip.Statement (.cass g a) := fun h =>
  decode_other (.cass g a) 0x29 _ 1 h rfl rfl rfl (by decide) (by simp (disch := decide) [-Nat.reduceAdd, candidate, Instr.toFields, Instr.guard, parseMem, loadFields, storeFields, atomFields, casFields, lineFields, fenceFields, queueFields, readLoad, readStore, readAtom, readRed, readCas, readLine, readQueue, field_hi, field_lo, show boolBit false = 0#1 from rfl, show boolBit true = 1#1 from rfl])
theorem RoundTrip.prefL1 (g : Guard) (a : LineArgs) : RoundTrip.Statement (.prefL1 g a) := fun h =>
  decode_other (.prefL1 g a) 0x2D _ 1 h rfl rfl rfl (by decide) (by simp (disch := decide) [-Nat.reduceAdd, candidate, Instr.toFields, Instr.guard, parseMem, loadFields, storeFields, atomFields, casFields, lineFields, fenceFields, queueFields, readLoad, readStore, readAtom, readRed, readCas, readLine, readQueue, field_hi, field_lo, show boolBit false = 0#1 from rfl, show boolBit true = 1#1 from rfl])
theorem RoundTrip.prefLlc (g : Guard) (a : LineArgs) : RoundTrip.Statement (.prefLlc g a) := fun h =>
  decode_other (.prefLlc g a) 0x2D _ 1 h rfl rfl rfl (by decide) (by simp (disch := decide) [-Nat.reduceAdd, candidate, Instr.toFields, Instr.guard, parseMem, loadFields, storeFields, atomFields, casFields, lineFields, fenceFields, queueFields, readLoad, readStore, readAtom, readRed, readCas, readLine, readQueue, field_hi, field_lo, show boolBit false = 0#1 from rfl, show boolBit true = 1#1 from rfl])
theorem RoundTrip.fenceRepl (g : Guard) : RoundTrip.Statement (.fenceRepl g) := fun h =>
  decode_other (.fenceRepl g) 0x2E _ 1 h rfl rfl rfl (by decide) (by simp (disch := decide) [-Nat.reduceAdd, candidate, Instr.toFields, Instr.guard, parseMem, loadFields, storeFields, atomFields, casFields, lineFields, fenceFields, queueFields, readLoad, readStore, readAtom, readRed, readCas, readLine, readQueue, field_hi, field_lo, show boolBit false = 0#1 from rfl, show boolBit true = 1#1 from rfl])
theorem RoundTrip.fenceHost (g : Guard) : RoundTrip.Statement (.fenceHost g) := fun h =>
  decode_other (.fenceHost g) 0x2E _ 1 h rfl rfl rfl (by decide) (by simp (disch := decide) [-Nat.reduceAdd, candidate, Instr.toFields, Instr.guard, parseMem, loadFields, storeFields, atomFields, casFields, lineFields, fenceFields, queueFields, readLoad, readStore, readAtom, readRed, readCas, readLine, readQueue, field_hi, field_lo, show boolBit false = 0#1 from rfl, show boolBit true = 1#1 from rfl])
theorem RoundTrip.fenceEng (g : Guard) : RoundTrip.Statement (.fenceEng g) := fun h =>
  decode_other (.fenceEng g) 0x2E _ 1 h rfl rfl rfl (by decide) (by simp (disch := decide) [-Nat.reduceAdd, candidate, Instr.toFields, Instr.guard, parseMem, loadFields, storeFields, atomFields, casFields, lineFields, fenceFields, queueFields, readLoad, readStore, readAtom, readRed, readCas, readLine, readQueue, field_hi, field_lo, show boolBit false = 0#1 from rfl, show boolBit true = 1#1 from rfl])
theorem RoundTrip.fenceAll (g : Guard) : RoundTrip.Statement (.fenceAll g) := fun h =>
  decode_other (.fenceAll g) 0x2E _ 1 h rfl rfl rfl (by decide) (by simp (disch := decide) [-Nat.reduceAdd, candidate, Instr.toFields, Instr.guard, parseMem, loadFields, storeFields, atomFields, casFields, lineFields, fenceFields, queueFields, readLoad, readStore, readAtom, readRed, readCas, readLine, readQueue, field_hi, field_lo, show boolBit false = 0#1 from rfl, show boolBit true = 1#1 from rfl])
theorem RoundTrip.cmntWb (g : Guard) (a : LineArgs) : RoundTrip.Statement (.cmntWb g a) := fun h =>
  decode_other (.cmntWb g a) 0x2F _ 1 h rfl rfl rfl (by decide) (by simp (disch := decide) [-Nat.reduceAdd, candidate, Instr.toFields, Instr.guard, parseMem, loadFields, storeFields, atomFields, casFields, lineFields, fenceFields, queueFields, readLoad, readStore, readAtom, readRed, readCas, readLine, readQueue, field_hi, field_lo, show boolBit false = 0#1 from rfl, show boolBit true = 1#1 from rfl])
theorem RoundTrip.cmntDrop (g : Guard) (a : LineArgs) : RoundTrip.Statement (.cmntDrop g a) := fun h =>
  decode_other (.cmntDrop g a) 0x2F _ 1 h rfl rfl rfl (by decide) (by simp (disch := decide) [-Nat.reduceAdd, candidate, Instr.toFields, Instr.guard, parseMem, loadFields, storeFields, atomFields, casFields, lineFields, fenceFields, queueFields, readLoad, readStore, readAtom, readRed, readCas, readLine, readQueue, field_hi, field_lo, show boolBit false = 0#1 from rfl, show boolBit true = 1#1 from rfl])
theorem RoundTrip.qpush (g : Guard) (a : QueueArgs) : RoundTrip.Statement (.qpush g a) := fun h =>
  decode_other (.qpush g a) 0x30 _ 1 h rfl rfl rfl (by decide) (by simp (disch := decide) [-Nat.reduceAdd, candidate, Instr.toFields, Instr.guard, parseMem, loadFields, storeFields, atomFields, casFields, lineFields, fenceFields, queueFields, readLoad, readStore, readAtom, readRed, readCas, readLine, readQueue, field_hi, field_lo, show boolBit false = 0#1 from rfl, show boolBit true = 1#1 from rfl])
theorem RoundTrip.qpop (g : Guard) (a : QueueArgs) : RoundTrip.Statement (.qpop g a) := fun h =>
  decode_other (.qpop g a) 0x31 _ 1 h rfl rfl rfl (by decide) (by simp (disch := decide) [-Nat.reduceAdd, candidate, Instr.toFields, Instr.guard, parseMem, loadFields, storeFields, atomFields, casFields, lineFields, fenceFields, queueFields, readLoad, readStore, readAtom, readRed, readCas, readLine, readQueue, field_hi, field_lo, show boolBit false = 0#1 from rfl, show boolBit true = 1#1 from rfl])
theorem RoundTrip.qpopWait (g : Guard) (a : QueueArgs) : RoundTrip.Statement (.qpopWait g a) := fun h =>
  decode_other (.qpopWait g a) 0x31 _ 1 h rfl rfl rfl (by decide) (by simp (disch := decide) [-Nat.reduceAdd, candidate, Instr.toFields, Instr.guard, parseMem, loadFields, storeFields, atomFields, casFields, lineFields, fenceFields, queueFields, readLoad, readStore, readAtom, readRed, readCas, readLine, readQueue, field_hi, field_lo, show boolBit false = 0#1 from rfl, show boolBit true = 1#1 from rfl])
theorem RoundTrip.mmad (g : Guard) (a : MmadArgs) : RoundTrip.Statement (.mmad g a) := fun h =>
  decode_other (.mmad g a) 0x40 _ 2 h rfl rfl rfl (by decide) (by simp (disch := decide) [-Nat.reduceAdd, candidate, Instr.toFields, Instr.guard, parseMat, accFields, field_hi, field_lo, show boolBit false = 0#1 from rfl, show boolBit true = 1#1 from rfl])
theorem RoundTrip.azero (g : Guard) (pr : Bool) (ac : BitVec 2) : RoundTrip.Statement (.azero g pr ac) := fun h =>
  decode_other (.azero g pr ac) 0x41 _ 2 h rfl rfl rfl (by decide) (by simp (disch := decide) [-Nat.reduceAdd, candidate, Instr.toFields, Instr.guard, parseMat, accFields, field_hi, field_lo, show boolBit false = 0#1 from rfl, show boolBit true = 1#1 from rfl])
theorem RoundTrip.tbuild (g : Guard) (a : TbuildArgs) : RoundTrip.Statement (.tbuild g a) := fun h =>
  decode_other (.tbuild g a) 0x42 _ 2 h rfl rfl rfl (by decide) (by simp (disch := decide) [-Nat.reduceAdd, candidate, Instr.toFields, Instr.guard, parseMat, accFields, field_hi, field_lo, show boolBit false = 0#1 from rfl, show boolBit true = 1#1 from rfl])
theorem RoundTrip.lutmm (g : Guard) (a : LutmmArgs) : RoundTrip.Statement (.lutmm g a) := fun h =>
  decode_other (.lutmm g a) 0x43 _ 2 h rfl rfl rfl (by decide) (by simp (disch := decide) [-Nat.reduceAdd, candidate, Instr.toFields, Instr.guard, parseMat, accFields, field_hi, field_lo, show boolBit false = 0#1 from rfl, show boolBit true = 1#1 from rfl])
theorem RoundTrip.tbinv (g : Guard) (pr : Bool) (kt : BitVec 2) : RoundTrip.Statement (.tbinv g pr kt) := fun h =>
  decode_other (.tbinv g pr kt) 0x44 _ 2 h rfl rfl rfl (by decide) (by simp (disch := decide) [-Nat.reduceAdd, candidate, Instr.toFields, Instr.guard, parseMat, accFields, field_hi, field_lo, show boolBit false = 0#1 from rfl, show boolBit true = 1#1 from rfl])
theorem RoundTrip.tbqry (g : Guard) (a : TbqryArgs) : RoundTrip.Statement (.tbqry g a) := fun h =>
  decode_other (.tbqry g a) 0x45 _ 2 h rfl rfl rfl (by decide) (by simp (disch := decide) [-Nat.reduceAdd, candidate, Instr.toFields, Instr.guard, parseMat, accFields, field_hi, field_lo, show boolBit false = 0#1 from rfl, show boolBit true = 1#1 from rfl])
theorem RoundTrip.accrd (g : Guard) (a : AccArgs) : RoundTrip.Statement (.accrd g a) := fun h =>
  decode_other (.accrd g a) 0x46 _ 2 h rfl rfl rfl (by decide) (by simp (disch := decide) [-Nat.reduceAdd, candidate, Instr.toFields, Instr.guard, parseMat, accFields, field_hi, field_lo, show boolBit false = 0#1 from rfl, show boolBit true = 1#1 from rfl])
theorem RoundTrip.accwr (g : Guard) (a : AccArgs) : RoundTrip.Statement (.accwr g a) := fun h =>
  decode_other (.accwr g a) 0x47 _ 2 h rfl rfl rfl (by decide) (by simp (disch := decide) [-Nat.reduceAdd, candidate, Instr.toFields, Instr.guard, parseMat, accFields, field_hi, field_lo, show boolBit false = 0#1 from rfl, show boolBit true = 1#1 from rfl])
theorem RoundTrip.twr (g : Guard) (a : TileArgs) : RoundTrip.Statement (.twr g a) := fun h =>
  decode_other (.twr g a) 0x48 _ 2 h rfl rfl rfl (by decide) (by simp (disch := decide) [-Nat.reduceAdd, candidate, Instr.toFields, Instr.guard, parseMat, accFields, field_hi, field_lo, show boolBit false = 0#1 from rfl, show boolBit true = 1#1 from rfl])
theorem RoundTrip.trd (g : Guard) (a : TileArgs) : RoundTrip.Statement (.trd g a) := fun h =>
  decode_other (.trd g a) 0x49 _ 2 h rfl rfl rfl (by decide) (by simp (disch := decide) [-Nat.reduceAdd, candidate, Instr.toFields, Instr.guard, parseMat, accFields, field_hi, field_lo, show boolBit false = 0#1 from rfl, show boolBit true = 1#1 from rfl])
theorem RoundTrip.mengq (g : Guard) (a : MengqArgs) : RoundTrip.Statement (.mengq g a) := fun h =>
  decode_other (.mengq g a) 0x4A _ 2 h rfl rfl rfl (by decide) (by simp (disch := decide) [-Nat.reduceAdd, candidate, Instr.toFields, Instr.guard, parseMat, accFields, field_hi, field_lo, show boolBit false = 0#1 from rfl, show boolBit true = 1#1 from rfl])
theorem RoundTrip.cpy (g : Guard) (a : CpyArgs) : RoundTrip.Statement (.cpy g a) := fun h =>
  decode_other (.cpy g a) 0x60 _ 3 h rfl rfl rfl (by decide) (by simp (disch := decide) [-Nat.reduceAdd, candidate, Instr.toFields, Instr.guard, parseCpy, taskFields, readTileCpy, field_hi, field_lo, show boolBit false = 0#1 from rfl, show boolBit true = 1#1 from rfl, (bsTk_back h rfl).1, (bsTk_back h rfl).2])
theorem RoundTrip.tload (g : Guard) (a : TileCpyArgs) : RoundTrip.Statement (.tload g a) := fun h =>
  decode_other (.tload g a) 0x61 _ 3 h rfl rfl rfl (by decide) (by simp (disch := decide) [-Nat.reduceAdd, candidate, Instr.toFields, Instr.guard, parseCpy, taskFields, readTileCpy, field_hi, field_lo, show boolBit false = 0#1 from rfl, show boolBit true = 1#1 from rfl, (bsTk_back h rfl).1, (bsTk_back h rfl).2])
theorem RoundTrip.tstore (g : Guard) (a : TileCpyArgs) : RoundTrip.Statement (.tstore g a) := fun h =>
  decode_other (.tstore g a) 0x62 _ 3 h rfl rfl rfl (by decide) (by simp (disch := decide) [-Nat.reduceAdd, candidate, Instr.toFields, Instr.guard, parseCpy, taskFields, readTileCpy, field_hi, field_lo, show boolBit false = 0#1 from rfl, show boolBit true = 1#1 from rfl, (bsTk_back h rfl).1, (bsTk_back h rfl).2])
theorem RoundTrip.tdesc (g : Guard) (a : TdescArgs) : RoundTrip.Statement (.tdesc g a) := fun h =>
  decode_other (.tdesc g a) 0x63 _ 3 h rfl rfl rfl (by decide) (by simp (disch := decide) [-Nat.reduceAdd, candidate, Instr.toFields, Instr.guard, parseCpy, taskFields, readTileCpy, field_hi, field_lo, show boolBit false = 0#1 from rfl, show boolBit true = 1#1 from rfl])
theorem RoundTrip.cpyq (g : Guard) (a : CpyqArgs) : RoundTrip.Statement (.cpyq g a) := fun h =>
  decode_other (.cpyq g a) 0x64 _ 3 h rfl rfl rfl (by decide) (by simp (disch := decide) [-Nat.reduceAdd, candidate, Instr.toFields, Instr.guard, parseCpy, taskFields, readTileCpy, field_hi, field_lo, show boolBit false = 0#1 from rfl, show boolBit true = 1#1 from rfl])
theorem RoundTrip.cpycan (g : Guard) (tk : Operand) : RoundTrip.Statement (.cpycan g tk) := fun h =>
  decode_other (.cpycan g tk) 0x65 _ 3 h rfl rfl rfl (by decide) (by simp (disch := decide) [-Nat.reduceAdd, candidate, Instr.toFields, Instr.guard, parseCpy, taskFields, readTileCpy, field_hi, field_lo, show boolBit false = 0#1 from rfl, show boolBit true = 1#1 from rfl])
theorem RoundTrip.coll (g : Guard) (a : CollArgs) : RoundTrip.Statement (.coll g a) := fun h =>
  decode_other (.coll g a) 0x66 _ 3 h rfl rfl rfl (by decide) (by simp (disch := decide) [-Nat.reduceAdd, candidate, Instr.toFields, Instr.guard, parseCpy, taskFields, readTileCpy, field_hi, field_lo, show boolBit false = 0#1 from rfl, show boolBit true = 1#1 from rfl, (bsTk_back h rfl).1, (bsTk_back h rfl).2])
theorem RoundTrip.tpost (g : Guard) (tk : Operand) : RoundTrip.Statement (.tpost g tk) := fun h =>
  decode_other (.tpost g tk) 0x68 _ 3 h rfl rfl rfl (by decide) (by simp (disch := decide) [-Nat.reduceAdd, candidate, Instr.toFields, Instr.guard, parseCpy, taskFields, readTileCpy, field_hi, field_lo, show boolBit false = 0#1 from rfl, show boolBit true = 1#1 from rfl])
theorem RoundTrip.tsig (g : Guard) (tk : Operand) : RoundTrip.Statement (.tsig g tk) := fun h =>
  decode_other (.tsig g tk) 0x67 _ 3 h rfl rfl rfl (by decide) (by simp (disch := decide) [-Nat.reduceAdd, candidate, Instr.toFields, Instr.guard, parseCpy, taskFields, readTileCpy, field_hi, field_lo, show boolBit false = 0#1 from rfl, show boolBit true = 1#1 from rfl])
theorem RoundTrip.braM (g : Guard) (off : BitVec 32) : RoundTrip.Statement (.braM g off) := fun h =>
  decode_other (.braM g off) 0x80 _ 4 h rfl rfl rfl (by decide) (by simp (disch := decide) [-Nat.reduceAdd, candidate, Instr.toFields, Instr.guard, parseCtl, ctl, field_hi, field_lo, show boolBit false = 0#1 from rfl, show boolBit true = 1#1 from rfl])
theorem RoundTrip.braS (g : Guard) (off : BitVec 32) : RoundTrip.Statement (.braS g off) := fun h =>
  decode_other (.braS g off) 0x80 _ 4 h rfl rfl rfl (by decide) (by simp (disch := decide) [-Nat.reduceAdd, candidate, Instr.toFields, Instr.guard, parseCtl, ctl, field_hi, field_lo, show boolBit false = 0#1 from rfl, show boolBit true = 1#1 from rfl])
theorem RoundTrip.brx (g : Guard) (ra : Operand) : RoundTrip.Statement (.brx g ra) := fun h =>
  decode_other (.brx g ra) 0x81 _ 4 h rfl rfl rfl (by decide) (by simp (disch := decide) [-Nat.reduceAdd, candidate, Instr.toFields, Instr.guard, parseCtl, ctl, field_hi, field_lo, show boolBit false = 0#1 from rfl, show boolBit true = 1#1 from rfl])
theorem RoundTrip.call (g : Guard) (sl : BitVec 4) (off : BitVec 32) : RoundTrip.Statement (.call g sl off) := fun h =>
  decode_other (.call g sl off) 0x82 _ 4 h rfl rfl rfl (by decide) (by simp (disch := decide) [-Nat.reduceAdd, candidate, Instr.toFields, Instr.guard, parseCtl, ctl, field_hi, field_lo, show boolBit false = 0#1 from rfl, show boolBit true = 1#1 from rfl])
theorem RoundTrip.callx (g : Guard) (ra : Operand) (sl : BitVec 4) : RoundTrip.Statement (.callx g ra sl) := fun h =>
  decode_other (.callx g ra sl) 0x83 _ 4 h rfl rfl rfl (by decide) (by simp (disch := decide) [-Nat.reduceAdd, candidate, Instr.toFields, Instr.guard, parseCtl, ctl, field_hi, field_lo, show boolBit false = 0#1 from rfl, show boolBit true = 1#1 from rfl])
theorem RoundTrip.ret (g : Guard) : RoundTrip.Statement (.ret g) := fun h =>
  decode_other (.ret g) 0x84 _ 4 h rfl rfl rfl (by decide) (by simp (disch := decide) [-Nat.reduceAdd, candidate, Instr.toFields, Instr.guard, parseCtl, ctl, field_hi, field_lo, show boolBit false = 0#1 from rfl, show boolBit true = 1#1 from rfl])
theorem RoundTrip.join : RoundTrip.Statement .join := fun h =>
  decode_other .join 0x85 _ 4 h rfl rfl rfl (by decide) (by simp (disch := decide) [-Nat.reduceAdd, candidate, Instr.toFields, Instr.guard, parseCtl, ctl, field_hi, field_lo, show boolBit false = 0#1 from rfl, show boolBit true = 1#1 from rfl])
theorem RoundTrip.exit (g : Guard) : RoundTrip.Statement (.exit g) := fun h =>
  decode_other (.exit g) 0x86 _ 4 h rfl rfl rfl (by decide) (by simp (disch := decide) [-Nat.reduceAdd, candidate, Instr.toFields, Instr.guard, parseCtl, ctl, field_hi, field_lo, show boolBit false = 0#1 from rfl, show boolBit true = 1#1 from rfl])
theorem RoundTrip.trap (g : Guard) (n : BitVec 16) : RoundTrip.Statement (.trap g n) := fun h =>
  decode_other (.trap g n) 0x87 _ 4 h rfl rfl rfl (by decide) (by simp (disch := decide) [-Nat.reduceAdd, candidate, Instr.toFields, Instr.guard, parseCtl, ctl, field_hi, field_lo, show boolBit false = 0#1 from rfl, show boolBit true = 1#1 from rfl])
theorem RoundTrip.brk (g : Guard) : RoundTrip.Statement (.brk g) := fun h =>
  decode_other (.brk g) 0x8E _ 4 h rfl rfl rfl (by decide) (by simp (disch := decide) [-Nat.reduceAdd, candidate, Instr.toFields, Instr.guard, parseCtl, ctl, field_hi, field_lo, show boolBit false = 0#1 from rfl, show boolBit true = 1#1 from rfl])
theorem RoundTrip.wflush (g : Guard) : RoundTrip.Statement (.wflush g) := fun h =>
  decode_other (.wflush g) 0x88 _ 4 h rfl rfl rfl (by decide) (by simp (disch := decide) [-Nat.reduceAdd, candidate, Instr.toFields, Instr.guard, parseCtl, ctl, field_hi, field_lo, show boolBit false = 0#1 from rfl, show boolBit true = 1#1 from rfl])
theorem RoundTrip.wstat (g : Guard) (d : Operand) (sel : WSel) : RoundTrip.Statement (.wstat g d sel) := fun h =>
  decode_other (.wstat g d sel) 0x89 _ 4 h rfl rfl rfl (by decide) (by simp (disch := decide) [-Nat.reduceAdd, candidate, Instr.toFields, Instr.guard, parseCtl, ctl, field_hi, field_lo, show boolBit false = 0#1 from rfl, show boolBit true = 1#1 from rfl])
theorem RoundTrip.elect (g : Guard) (d : Operand) (sform : Bool) : RoundTrip.Statement (.elect g d sform) := fun h =>
  decode_other (.elect g d sform) 0x8A _ 4 h rfl rfl rfl (by decide) (by simp (disch := decide) [-Nat.reduceAdd, candidate, Instr.toFields, Instr.guard, parseCtl, ctl, field_hi, field_lo, show boolBit false = 0#1 from rfl, show boolBit true = 1#1 from rfl])
theorem RoundTrip.launch (g : Guard) (d : Operand) (ar : Operand) : RoundTrip.Statement (.launch g d ar) := fun h =>
  decode_other (.launch g d ar) 0x8B _ 4 h rfl rfl rfl (by decide) (by simp (disch := decide) [-Nat.reduceAdd, candidate, Instr.toFields, Instr.guard, parseCtl, ctl, field_hi, field_lo, show boolBit false = 0#1 from rfl, show boolBit true = 1#1 from rfl])
theorem RoundTrip.grow (g : Guard) (d : Operand) (n : Operand) : RoundTrip.Statement (.grow g d n) := fun h =>
  decode_other (.grow g d n) 0x8C _ 4 h rfl rfl rfl (by decide) (by simp (disch := decide) [-Nat.reduceAdd, candidate, Instr.toFields, Instr.guard, parseCtl, ctl, field_hi, field_lo, show boolBit false = 0#1 from rfl, show boolBit true = 1#1 from rfl])
theorem RoundTrip.yield (g : Guard) : RoundTrip.Statement (.yield g) := fun h =>
  decode_other (.yield g) 0x8D _ 4 h rfl rfl rfl (by decide) (by simp (disch := decide) [-Nat.reduceAdd, candidate, Instr.toFields, Instr.guard, parseCtl, ctl, field_hi, field_lo, show boolBit false = 0#1 from rfl, show boolBit true = 1#1 from rfl])
theorem RoundTrip.gsr (g : Guard) (d : Operand) (reg : SysReg) : RoundTrip.Statement (.gsr g d reg) := fun h =>
  decode_other (.gsr g d reg) 0x8F _ 4 h rfl rfl rfl (by decide) (by simp (disch := decide) [-Nat.reduceAdd, candidate, Instr.toFields, Instr.guard, parseCtl, ctl, field_hi, field_lo, show boolBit false = 0#1 from rfl, show boolBit true = 1#1 from rfl])
theorem RoundTrip.ssr (g : Guard) (s : Operand) (reg : SysReg) : RoundTrip.Statement (.ssr g s reg) := fun h =>
  decode_other (.ssr g s reg) 0x90 _ 4 h rfl rfl rfl (by decide) (by simp (disch := decide) [-Nat.reduceAdd, candidate, Instr.toFields, Instr.guard, parseCtl, ctl, field_hi, field_lo, show boolBit false = 0#1 from rfl, show boolBit true = 1#1 from rfl, ssr_code h])
theorem RoundTrip.famkillWrite (g : Guard) (s : Operand) : RoundTrip.Statement (.famkillWrite g s) := fun h =>
  decode_other (.famkillWrite g s) 0x90 _ 4 h rfl rfl rfl (by decide) (by simp (disch := decide) [-Nat.reduceAdd, candidate, Instr.toFields, Instr.guard, parseCtl, ctl, field_hi, field_lo, show boolBit false = 0#1 from rfl, show boolBit true = 1#1 from rfl, show field (26#32) 0 8 = 26#8 from by decide])
theorem RoundTrip.eret (g : Guard) : RoundTrip.Statement (.eret g) := fun h =>
  decode_other (.eret g) 0x91 _ 4 h rfl rfl rfl (by decide) (by simp (disch := decide) [-Nat.reduceAdd, candidate, Instr.toFields, Instr.guard, parseCtl, ctl, field_hi, field_lo, show boolBit false = 0#1 from rfl, show boolBit true = 1#1 from rfl])
theorem RoundTrip.eretSkip (g : Guard) : RoundTrip.Statement (.eretSkip g) := fun h =>
  decode_other (.eretSkip g) 0x91 _ 4 h rfl rfl rfl (by decide) (by simp (disch := decide) [-Nat.reduceAdd, candidate, Instr.toFields, Instr.guard, parseCtl, ctl, field_hi, field_lo, show boolBit false = 0#1 from rfl, show boolBit true = 1#1 from rfl])
theorem RoundTrip.rcp (g : Guard) (a : SfuArgs) : RoundTrip.Statement (.rcp g a) := fun h =>
  decode_sfu (.rcp g a) 0xA0 h rfl (rfl) (by decide) (congrArg (Option.map (Instr.rcp g)) (parseSfu_back a))
theorem RoundTrip.rsq (g : Guard) (a : SfuArgs) : RoundTrip.Statement (.rsq g a) := fun h =>
  decode_sfu (.rsq g a) 0xA1 h rfl (rfl) (by decide) (congrArg (Option.map (Instr.rsq g)) (parseSfu_back a))
theorem RoundTrip.sqrt (g : Guard) (a : SfuArgs) : RoundTrip.Statement (.sqrt g a) := fun h =>
  decode_sfu (.sqrt g a) 0xA2 h rfl (rfl) (by decide) (congrArg (Option.map (Instr.sqrt g)) (parseSfu_back a))
theorem RoundTrip.exp2 (g : Guard) (a : SfuArgs) : RoundTrip.Statement (.exp2 g a) := fun h =>
  decode_sfu (.exp2 g a) 0xA3 h rfl (rfl) (by decide) (congrArg (Option.map (Instr.exp2 g)) (parseSfu_back a))
theorem RoundTrip.log2 (g : Guard) (a : SfuArgs) : RoundTrip.Statement (.log2 g a) := fun h =>
  decode_sfu (.log2 g a) 0xA4 h rfl (rfl) (by decide) (congrArg (Option.map (Instr.log2 g)) (parseSfu_back a))
theorem RoundTrip.sin (g : Guard) (a : SfuArgs) : RoundTrip.Statement (.sin g a) := fun h =>
  decode_sfu (.sin g a) 0xA5 h rfl (rfl) (by decide) (congrArg (Option.map (Instr.sin g)) (parseSfu_back a))
theorem RoundTrip.cos (g : Guard) (a : SfuArgs) : RoundTrip.Statement (.cos g a) := fun h =>
  decode_sfu (.cos g a) 0xA6 h rfl (rfl) (by decide) (congrArg (Option.map (Instr.cos g)) (parseSfu_back a))
theorem RoundTrip.tanh (g : Guard) (a : SfuArgs) : RoundTrip.Statement (.tanh g a) := fun h =>
  decode_sfu (.tanh g a) 0xA7 h rfl (rfl) (by decide) (congrArg (Option.map (Instr.tanh g)) (parseSfu_back a))
theorem RoundTrip.cvt (g : Guard) (a : CvtArgs) : RoundTrip.Statement (.cvt g a) := fun h =>
  decode_sfu (.cvt g a) 0xA8 h rfl (rfl) (by decide) (congrArg (Option.map (Instr.cvt g)) (show parseCvt (Instr.toFields (.cvt g a)) = some a from by simp (disch := decide) [-Nat.reduceAdd, parseCvt, Instr.toFields, fmtAL, parseCvtForm_back, field_hi, field_lo]))
theorem RoundTrip.frnd (g : Guard) (a : FrndArgs) : RoundTrip.Statement (.frnd g a) := fun h =>
  decode_sfu (.frnd g a) 0xA9 h rfl (rfl) (by decide) (congrArg (Option.map (Instr.frnd g)) (show parseFrnd (Instr.toFields (.frnd g a)) = some a from by simp (disch := decide) [-Nat.reduceAdd, parseFrnd, Instr.toFields, fmtAL, field_hi, field_lo]))
theorem RoundTrip.dbfpk (g : Guard) (a : DbfpkArgs) : RoundTrip.Statement (.dbfpk g a) := fun h =>
  decode_sfu (.dbfpk g a) 0xAA h rfl (rfl) (by decide) (congrArg (Option.map (Instr.dbfpk g)) (show parseDbfpk (Instr.toFields (.dbfpk g a)) = some a from by simp (disch := decide) [-Nat.reduceAdd, parseDbfpk, Instr.toFields, fmtAL, field_hi, field_lo]))
theorem RoundTrip.dbfunpk (g : Guard) (a : DbfunpkArgs) : RoundTrip.Statement (.dbfunpk g a) := fun h =>
  decode_sfu (.dbfunpk g a) 0xAB h rfl (rfl) (by decide) (congrArg (Option.map (Instr.dbfunpk g)) (show parseDbfunpk (Instr.toFields (.dbfunpk g a)) = some a from by simp (disch := decide) [-Nat.reduceAdd, parseDbfunpk, Instr.toFields, fmtAL, field_hi, field_lo]))
theorem RoundTrip.wait (g : Guard) (a : WaitArgs) : RoundTrip.Statement (.wait g a) := fun h =>
  decode_other (.wait g a) 0xC0 _ 6 h rfl rfl rfl (by decide) (by simp (disch := decide) [-Nat.reduceAdd, candidate, Instr.toFields, Instr.guard, parseSyn, syn, barImm, field_hi, field_lo, show boolBit false = 0#1 from rfl, show boolBit true = 1#1 from rfl])
theorem RoundTrip.binit (g : Guard) (a : BarPhArgs) : RoundTrip.Statement (.binit g a) := fun h =>
  decode_other (.binit g a) 0xC1 _ 6 h rfl rfl rfl (by decide) (by simp (disch := decide) [-Nat.reduceAdd, candidate, Instr.toFields, Instr.guard, parseSyn, syn, barImm, field_hi, field_lo, show boolBit false = 0#1 from rfl, show boolBit true = 1#1 from rfl])
theorem RoundTrip.barrive (g : Guard) (a : BarDstArgs) : RoundTrip.Statement (.barrive g a) := fun h =>
  decode_other (.barrive g a) 0xC2 _ 6 h rfl rfl rfl (by decide) (by simp (disch := decide) [-Nat.reduceAdd, candidate, Instr.toFields, Instr.guard, parseSyn, syn, barImm, field_hi, field_lo, show boolBit false = 0#1 from rfl, show boolBit true = 1#1 from rfl])
theorem RoundTrip.bwait (g : Guard) (a : BarPhArgs) : RoundTrip.Statement (.bwait g a) := fun h =>
  decode_other (.bwait g a) 0xC3 _ 6 h rfl rfl rfl (by decide) (by simp (disch := decide) [-Nat.reduceAdd, candidate, Instr.toFields, Instr.guard, parseSyn, syn, barImm, field_hi, field_lo, show boolBit false = 0#1 from rfl, show boolBit true = 1#1 from rfl])
theorem RoundTrip.btry (g : Guard) (a : BtryArgs) : RoundTrip.Statement (.btry g a) := fun h =>
  decode_other (.btry g a) 0xC4 _ 6 h rfl rfl rfl (by decide) (by simp (disch := decide) [-Nat.reduceAdd, candidate, Instr.toFields, Instr.guard, parseSyn, syn, barImm, field_hi, field_lo, show boolBit false = 0#1 from rfl, show boolBit true = 1#1 from rfl])
theorem RoundTrip.binval (g : Guard) (a : BarArgs) : RoundTrip.Statement (.binval g a) := fun h =>
  decode_other (.binval g a) 0xC5 _ 6 h rfl rfl rfl (by decide) (by simp (disch := decide) [-Nat.reduceAdd, candidate, Instr.toFields, Instr.guard, parseSyn, syn, barImm, field_hi, field_lo, show boolBit false = 0#1 from rfl, show boolBit true = 1#1 from rfl])
theorem RoundTrip.bstat (g : Guard) (a : BarDstArgs) : RoundTrip.Statement (.bstat g a) := fun h =>
  decode_other (.bstat g a) 0xC6 _ 6 h rfl rfl rfl (by decide) (by simp (disch := decide) [-Nat.reduceAdd, candidate, Instr.toFields, Instr.guard, parseSyn, syn, barImm, field_hi, field_lo, show boolBit false = 0#1 from rfl, show boolBit true = 1#1 from rfl, show field (0#(6 + 1)) 0 1 = 0#1 from by decide])
theorem RoundTrip.bstatClr (g : Guard) (a : BarDstArgs) : RoundTrip.Statement (.bstatClr g a) := fun h =>
  decode_other (.bstatClr g a) 0xC6 _ 6 h rfl rfl rfl (by decide) (by simp (disch := decide) [-Nat.reduceAdd, candidate, Instr.toFields, Instr.guard, parseSyn, syn, barImm, field_hi, field_lo, show boolBit false = 0#1 from rfl, show boolBit true = 1#1 from rfl, show field (1#7) 0 1 = 1#1 from by decide])
theorem RoundTrip.gbarrive (g : Guard) (a : GbarriveArgs) : RoundTrip.Statement (.gbarrive g a) := fun h =>
  decode_other (.gbarrive g a) 0xC7 _ 6 h rfl rfl rfl (by decide) (by simp (disch := decide) [-Nat.reduceAdd, candidate, Instr.toFields, Instr.guard, parseSyn, syn, barImm, field_hi, field_lo, show boolBit false = 0#1 from rfl, show boolBit true = 1#1 from rfl])
theorem RoundTrip.gbwait (g : Guard) (a : GbwaitArgs) : RoundTrip.Statement (.gbwait g a) := fun h =>
  decode_other (.gbwait g a) 0xC8 _ 6 h rfl rfl rfl (by decide) (by simp (disch := decide) [-Nat.reduceAdd, candidate, Instr.toFields, Instr.guard, parseSyn, syn, barImm, field_hi, field_lo, show boolBit false = 0#1 from rfl, show boolBit true = 1#1 from rfl])
theorem RoundTrip.racq (g : Guard) (a : RingDstArgs) : RoundTrip.Statement (.racq g a) := fun h =>
  decode_other (.racq g a) 0xC9 _ 6 h rfl rfl rfl (by decide) (by simp (disch := decide) [-Nat.reduceAdd, candidate, Instr.toFields, Instr.guard, parseSyn, syn, barImm, field_hi, field_lo, show boolBit false = 0#1 from rfl, show boolBit true = 1#1 from rfl])
theorem RoundTrip.rcommit (g : Guard) (a : RingStageArgs) : RoundTrip.Statement (.rcommit g a) := fun h =>
  decode_other (.rcommit g a) 0xCA _ 6 h rfl rfl rfl (by decide) (by simp (disch := decide) [-Nat.reduceAdd, candidate, Instr.toFields, Instr.guard, parseSyn, syn, barImm, field_hi, field_lo, show boolBit false = 0#1 from rfl, show boolBit true = 1#1 from rfl])
theorem RoundTrip.rwait (g : Guard) (a : RingDstArgs) : RoundTrip.Statement (.rwait g a) := fun h =>
  decode_other (.rwait g a) 0xCB _ 6 h rfl rfl rfl (by decide) (by simp (disch := decide) [-Nat.reduceAdd, candidate, Instr.toFields, Instr.guard, parseSyn, syn, barImm, field_hi, field_lo, show boolBit false = 0#1 from rfl, show boolBit true = 1#1 from rfl])
theorem RoundTrip.rfree (g : Guard) (a : RingStageArgs) : RoundTrip.Statement (.rfree g a) := fun h =>
  decode_other (.rfree g a) 0xCC _ 6 h rfl rfl rfl (by decide) (by simp (disch := decide) [-Nat.reduceAdd, candidate, Instr.toFields, Instr.guard, parseSyn, syn, barImm, field_hi, field_lo, show boolBit false = 0#1 from rfl, show boolBit true = 1#1 from rfl])
theorem RoundTrip.tsync (g : Guard) : RoundTrip.Statement (.tsync g) := fun h =>
  decode_other (.tsync g) 0xCD _ 6 h rfl rfl rfl (by decide) (by simp (disch := decide) [-Nat.reduceAdd, candidate, Instr.toFields, Instr.guard, parseSyn, syn, barImm, field_hi, field_lo, show boolBit false = 0#1 from rfl, show boolBit true = 1#1 from rfl])
theorem RoundTrip.chanbind (g : Guard) (a : ChanbindArgs) : RoundTrip.Statement (.chanbind g a) := fun h =>
  decode_other (.chanbind g a) 0xCE _ 6 h rfl rfl rfl (by decide) (by simp (disch := decide) [-Nat.reduceAdd, candidate, Instr.toFields, Instr.guard, parseSyn, syn, barImm, field_hi, field_lo, show boolBit false = 0#1 from rfl, show boolBit true = 1#1 from rfl])
theorem RoundTrip.msgsend (g : Guard) (a : MsgsendArgs) : RoundTrip.Statement (.msgsend g a) := fun h =>
  decode_other (.msgsend g a) 0xCF _ 6 h rfl rfl rfl (by decide) (by simp (disch := decide) [-Nat.reduceAdd, candidate, Instr.toFields, Instr.guard, parseSyn, syn, barImm, field_hi, field_lo, show boolBit false = 0#1 from rfl, show boolBit true = 1#1 from rfl])
theorem RoundTrip.msgrecv (g : Guard) (a : MsgrecvArgs) : RoundTrip.Statement (.msgrecv g a) := fun h =>
  decode_other (.msgrecv g a) 0xD0 _ 6 h rfl rfl rfl (by decide) (by simp (disch := decide) [-Nat.reduceAdd, candidate, Instr.toFields, Instr.guard, parseSyn, syn, barImm, field_hi, field_lo, show boolBit false = 0#1 from rfl, show boolBit true = 1#1 from rfl])
theorem RoundTrip.pwrreq (g : Guard) (a : PwrreqArgs) : RoundTrip.Statement (.pwrreq g a) := fun h =>
  decode_other (.pwrreq g a) 0xD1 _ 6 h rfl rfl rfl (by decide) (by simp (disch := decide) [-Nat.reduceAdd, candidate, Instr.toFields, Instr.guard, parseSyn, syn, barImm, field_hi, field_lo, show boolBit false = 0#1 from rfl, show boolBit true = 1#1 from rfl])
theorem RoundTrip.pwrrel (g : Guard) (la : BitVec 4) (d : Operand) : RoundTrip.Statement (.pwrrel g la d) := fun h =>
  decode_other (.pwrrel g la d) 0xD3 _ 6 h rfl rfl rfl (by decide) (by simp (disch := decide) [-Nat.reduceAdd, candidate, Instr.toFields, Instr.guard, parseSyn, syn, barImm, field_hi, field_lo, show boolBit false = 0#1 from rfl, show boolBit true = 1#1 from rfl])
theorem RoundTrip.perflvl (g : Guard) (s1 : Operand) : RoundTrip.Statement (.perflvl g s1) := fun h =>
  decode_other (.perflvl g s1) 0xD2 _ 6 h rfl rfl rfl (by decide) (by simp (disch := decide) [-Nat.reduceAdd, candidate, Instr.toFields, Instr.guard, parseSyn, syn, barImm, field_hi, field_lo, show boolBit false = 0#1 from rfl, show boolBit true = 1#1 from rfl])
theorem RoundTrip.issueSelect (core : Nat) (bench : Nat) : RoundTrip.Statement (.issueSelect core bench) := fun h => nomatch h
theorem RoundTrip.gangStarved (g : GangKey) : RoundTrip.Statement (.gangStarved g) := fun h => nomatch h
theorem RoundTrip.resultWriteback (g : GangKey) : RoundTrip.Statement (.resultWriteback g) := fun h => nomatch h
theorem RoundTrip.accessPerformed (g : GangKey) : RoundTrip.Statement (.accessPerformed g) := fun h => nomatch h
theorem RoundTrip.replicaPropagation (die : Nat) (addr : Nat) : RoundTrip.Statement (.replicaPropagation die addr) := fun h => nomatch h
theorem RoundTrip.translationWalk (core : Nat) (c : CtxKey) (va : Nat) : RoundTrip.Statement (.translationWalk core c va) := fun h => nomatch h
theorem RoundTrip.trapEntry (g : GangKey) : RoundTrip.Statement (.trapEntry g) := fun h => nomatch h
theorem RoundTrip.watchdogExpiry (g : GangKey) : RoundTrip.Statement (.watchdogExpiry g) := fun h => nomatch h
theorem RoundTrip.watchdogGraceExpiry (g : GangKey) : RoundTrip.Statement (.watchdogGraceExpiry g) := fun h => nomatch h
theorem RoundTrip.formwaitExpiry (team : Nat) : RoundTrip.Statement (.formwaitExpiry team) := fun h => nomatch h
theorem RoundTrip.formedGangRelease (team : Nat) : RoundTrip.Statement (.formedGangRelease team) := fun h => nomatch h
theorem RoundTrip.porterSpill (g : GangKey) : RoundTrip.Statement (.porterSpill g) := fun h => nomatch h
theorem RoundTrip.porterRefill (g : GangKey) : RoundTrip.Statement (.porterRefill g) := fun h => nomatch h
theorem RoundTrip.spawnOverflowMove (team : Nat) : RoundTrip.Statement (.spawnOverflowMove team) := fun h => nomatch h
theorem RoundTrip.gangEnd (g : GangKey) : RoundTrip.Statement (.gangEnd g) := fun h => nomatch h
theorem RoundTrip.hostPost (c : CtxKey) (index : Nat) : RoundTrip.Statement (.hostPost c index) := fun h => nomatch h
theorem RoundTrip.taskIngest (c : CtxKey) : RoundTrip.Statement (.taskIngest c) := fun h => nomatch h
theorem RoundTrip.gridCodebookRead (grid : Nat) : RoundTrip.Statement (.gridCodebookRead grid) := fun h => nomatch h
theorem RoundTrip.teamPlace (part : Nat) (place : Placement) : RoundTrip.Statement (.teamPlace part place) := fun h => nomatch h
theorem RoundTrip.taskJobStart (c : CtxKey) (index : Nat) : RoundTrip.Statement (.taskJobStart c index) := fun h => nomatch h
theorem RoundTrip.engineOpStart (core : Nat) : RoundTrip.Statement (.engineOpStart core) := fun h => nomatch h
theorem RoundTrip.engineSlave (core : Nat) : RoundTrip.Statement (.engineSlave core) := fun h => nomatch h
theorem RoundTrip.handleFetch (core : Nat) : RoundTrip.Statement (.handleFetch core) := fun h => nomatch h
theorem RoundTrip.engineOpRetire (core : Nat) : RoundTrip.Statement (.engineOpRetire core) := fun h => nomatch h
theorem RoundTrip.copyJobAccept (job : Nat) : RoundTrip.Statement (.copyJobAccept job) := fun h => nomatch h
theorem RoundTrip.copyByteWrite (job : Nat) (unit : Nat) : RoundTrip.Statement (.copyByteWrite job unit) := fun h => nomatch h
theorem RoundTrip.copyJobFault (job : Nat) : RoundTrip.Statement (.copyJobFault job) := fun h => nomatch h
theorem RoundTrip.copyJobComplete (job : Nat) : RoundTrip.Statement (.copyJobComplete job) := fun h => nomatch h
theorem RoundTrip.flitDelivery (core : Nat) (mo : Nat) : RoundTrip.Statement (.flitDelivery core mo) := fun h => nomatch h
theorem RoundTrip.weighbridgeWindow (cluster : Nat) : RoundTrip.Statement (.weighbridgeWindow cluster) := fun h => nomatch h
theorem RoundTrip.leaveGrant (cluster : Nat) : RoundTrip.Statement (.leaveGrant cluster) := fun h => nomatch h
theorem RoundTrip.perfLevelChange (cluster : Nat) : RoundTrip.Statement (.perfLevelChange cluster) := fun h => nomatch h
theorem RoundTrip.thermalSweep (readings : List SensorReading) : RoundTrip.Statement (.thermalSweep readings) := fun h => nomatch h
theorem RoundTrip.timeRebase (part : Nat) : RoundTrip.Statement (.timeRebase part) := fun h => nomatch h
theorem RoundTrip.preemptSaveTeam (c : CtxKey) (q : Nat) : RoundTrip.Statement (.preemptSaveTeam c q) := fun h => nomatch h
theorem RoundTrip.preemptSaveContext (c : CtxKey) : RoundTrip.Statement (.preemptSaveContext c) := fun h => nomatch h
theorem RoundTrip.preemptSavePartition (part : Nat) : RoundTrip.Statement (.preemptSavePartition part) := fun h => nomatch h
theorem RoundTrip.preemptSwapPartition (part : Nat) : RoundTrip.Statement (.preemptSwapPartition part) := fun h => nomatch h
theorem RoundTrip.preemptForcedStop (g : GangKey) : RoundTrip.Statement (.preemptForcedStop g) := fun h => nomatch h
theorem RoundTrip.shadowExchange (part : Nat) : RoundTrip.Statement (.shadowExchange part) := fun h => nomatch h
theorem RoundTrip.teamSave (team : Nat) : RoundTrip.Statement (.teamSave team) := fun h => nomatch h
theorem RoundTrip.teamRestore (team : Nat) : RoundTrip.Statement (.teamRestore team) := fun h => nomatch h
theorem RoundTrip.fqreplyServiced (part : Nat) (seq : Nat) : RoundTrip.Statement (.fqreplyServiced part seq) := fun h => nomatch h
theorem RoundTrip.fqreplyRefused (part : Nat) (seq : Nat) : RoundTrip.Statement (.fqreplyRefused part seq) := fun h => nomatch h
theorem RoundTrip.fqbaseWrite (part : Nat) (x : BitVec 64) : RoundTrip.Statement (.fqbaseWrite part x) := fun h => nomatch h
theorem RoundTrip.elbaseWrite (part : Nat) (x : BitVec 64) : RoundTrip.Statement (.elbaseWrite part x) := fun h => nomatch h
theorem RoundTrip.hcmaskWrite (part : Nat) (x : BitVec 64) : RoundTrip.Statement (.hcmaskWrite part x) := fun h => nomatch h
theorem RoundTrip.rdcwaysWrite (part : Nat) (x : BitVec 64) : RoundTrip.Statement (.rdcwaysWrite part x) := fun h => nomatch h
theorem RoundTrip.tlbInvalidate (part : Nat) (x : BitVec 64) : RoundTrip.Statement (.tlbInvalidate part x) := fun h => nomatch h
theorem RoundTrip.tlbInvalidateDone (part : Nat) : RoundTrip.Statement (.tlbInvalidateDone part) := fun h => nomatch h
theorem RoundTrip.gbcfgWrite (part : Nat) (x : BitVec 64) : RoundTrip.Statement (.gbcfgWrite part x) := fun h => nomatch h
theorem RoundTrip.statWrite (part : Nat) (x : BitVec 64) : RoundTrip.Statement (.statWrite part x) := fun h => nomatch h
theorem RoundTrip.pceilWrite (part : Nat) (agent : CfgAgent) (x : BitVec 64) : RoundTrip.Statement (.pceilWrite part agent x) := fun h => nomatch h
theorem RoundTrip.contextRun (c : CtxKey) : RoundTrip.Statement (.contextRun c) := fun h => nomatch h
theorem RoundTrip.contextStop (c : CtxKey) : RoundTrip.Statement (.contextStop c) := fun h => nomatch h
theorem RoundTrip.hatomWrite (x : BitVec 64) : RoundTrip.Statement (.hatomWrite x) := fun h => nomatch h
theorem RoundTrip.configRegisterWrite (part : Nat) (off : Nat) (x : BitVec 64) : RoundTrip.Statement (.configRegisterWrite part off x) := fun h => nomatch h
theorem RoundTrip.hostCompletionError (g : GangKey) : RoundTrip.Statement (.hostCompletionError g) := fun h => nomatch h
theorem RoundTrip.loadkey (part : Nat) (d : Nat) (ciphertext : List Byte) (wrapped : List Byte) : RoundTrip.Statement (.loadkey part d ciphertext wrapped) := fun h => nomatch h
theorem RoundTrip.revoke (part : Nat) (d : Nat) : RoundTrip.Statement (.revoke part d) := fun h => nomatch h
theorem RoundTrip.attest (part : Nat) (nonce : List Byte) : RoundTrip.Statement (.attest part nonce) := fun h => nomatch h
theorem RoundTrip.lcstate (code : Nat) : RoundTrip.Statement (.lcstate code) := fun h => nomatch h
theorem RoundTrip.packageReset  : RoundTrip.Statement .packageReset := fun h => nomatch h
theorem RoundTrip.hbmWipeDone  : RoundTrip.Statement .hbmWipeDone := fun h => nomatch h
theorem RoundTrip.firmwareImage (image : List Byte) : RoundTrip.Statement (.firmwareImage image) := fun h => nomatch h
theorem RoundTrip.dieFence (die : Nat) : RoundTrip.Statement (.dieFence die) := fun h => nomatch h
theorem RoundTrip.dieDrop (die : Nat) : RoundTrip.Statement (.dieDrop die) := fun h => nomatch h
theorem RoundTrip.errorDetected (e : HwError) : RoundTrip.Statement (.errorDetected e) := fun h => nomatch h
theorem RoundTrip.correctedErrorLog (e : HwError) : RoundTrip.Statement (.correctedErrorLog e) := fun h => nomatch h
theorem RoundTrip.coolantAlarm  : RoundTrip.Statement .coolantAlarm := fun h => nomatch h
theorem RoundTrip.coolantRecover  : RoundTrip.Statement .coolantRecover := fun h => nomatch h
theorem RoundTrip.coolantFatal  : RoundTrip.Statement .coolantFatal := fun h => nomatch h
theorem RoundTrip.programTimeTick (g : GangKey) : RoundTrip.Statement (.programTimeTick g) := fun h => nomatch h
theorem RoundTrip.fabricConfiguration (pkg : Nat) (members : List Nat) : RoundTrip.Statement (.fabricConfiguration pkg members) := fun h => nomatch h
theorem RoundTrip.dieReset (die : Nat) : RoundTrip.Statement (.dieReset die) := fun h => nomatch h
theorem RoundTrip.hostLinkWrite (pa : Nat) (kd : Nat) (bytes : List Byte) : RoundTrip.Statement (.hostLinkWrite pa kd bytes) := fun h => nomatch h
theorem RoundTrip.fabricRemoteAccess (p : RemotePacket) : RoundTrip.Statement (.fabricRemoteAccess p) := fun h => nomatch h

end Sys2Proof.Laws
end

