-- ==== Sys2Proof/Tests/Slice0.lean ====
section
/-! SUPPORT. Small tests, each one step on a small state: the well-formedness checks, the spec's worked words, results worked out by hand from the spec's rules, and for every
statement of Sys2Proof/Certificates/Slice0/Obligations.lean a state and operands that meet its hypotheses. -/
namespace Sys2Proof.Tests
-- One theorem after the other: together their threads would ask for more memory than the check gives.
set_option Elab.async false
open Sys2Proof.Machine

-- The states that the tests start from

def g0 : Guard := ⟨0, false⟩
/-- A launch record of width 32 with slots 0 to 5 in FP32, BF16, DBF8, INT8, codebook INT4 and DBF4. -/
def launch32 : Launch :=
  { fetchLaunch with
    width := 32, gangs := 2, x := 1, y := 1, z := 1, winMax := 20,
    slots := [⟨1, false, .rn, 0, 0, 0, 0, 0⟩, ⟨3, false, .rn, 0, 0, 0, 0, 0⟩, ⟨8, false, .rn, 0, 0, 0, 0, 0⟩, ⟨0x10, false, .rn, 0, 0, 0, 0, 0⟩,
      ⟨0x20, false, .rn, 0, 0, 16, 0, 0⟩, ⟨10, false, .rn, 0, 0, 0, 0, 0⟩] }
def key : GangKey := fetchKey
/-- The word of an instruction. -/
def wordOf (i : Instr) : Nat := ((encode i).getD 0).toNat
/-- One gang of 32 threads that stands at i, its word the next to issue. -/
def at32 (i : Instr) : State :=
  let s := State.reset.withFetchWord 64 (wordOf i)
  let s := (s.setGrid 0 { s.grid 0 with launch := launch32 }).modGang key fun g =>
    { g with width := 32, live := fullMask 32, paths := [{ Path.empty with id := 1, pos := 1, mask := fullMask 32 }], taken := [2, 3, 4, 5] }
  { s with cur := some key, word := BitVec.ofNat 64 (wordOf i) }
/-- The word may issue with its own effect. -/
def isReady (i : Instr) : Bool := ((at32 i).ready i).isSome
/-- The state after the word, and its gang. -/
def after (i : Instr) (s : State) : State := match exec i s with | .next t => t | _ => s

/-- Vector register n of lanes 0, 1, ... and scalar register n. -/
def setV (n : Nat) (xs : List Word) (s : State) : State := s.modGang key fun g => { g with vregs := xs.zipIdx.foldl (fun t e => tset t (n, e.2) e.1) g.vregs }
def setS (n : Nat) (x : Word) (s : State) : State := s.modGang key fun g => { g with sregs := tset g.sregs n x }
def setP (n : Nat) (m : Mask) (s : State) : State := s.modGang key fun g => { g with preds := tset g.preds n m }
/-- A vector register after the word, in lanes 0, 1, ..., and a scalar register. -/
def outV (i : Instr) (s : State) (n k : Nat) : List Nat := (List.range k).map fun l => (((after i s).gang key).readV n l).toNat
def outS (i : Instr) (s : State) (n : Nat) : Nat := (((after i s).gang key).readS n).toNat
def outP (i : Instr) (s : State) (n : Nat) : Nat := (((after i s).gang key).readP n).toNat
/-- The same once the result in flight is written back. -/
def landed (i : Instr) (s : State) : State := after (.resultWriteback key) (after i s)
def landV (i : Instr) (s : State) (n k : Nat) : List Nat := (List.range k).map fun l => (((landed i s).gang key).readV n l).toNat

-- Well-formedness: each check refuses an ill-formed term

theorem test_word_is_well_formed : (Instr.ffma g0 ⟨.f32, .rz, false, false, false, .v 20, .v 21, .reg (.v 22), .v 23⟩).wellFormed = true := by decide
/-- An event is no word. -/
theorem test_event_refused : (Instr.issueSelect 0 0).isWord = false ∧ (Instr.issueSelect 0 0).wellFormed = false := by decide
/-- Field rules (shapeOk): a saturating add of an immediate, a wide product of 64 bits, a sign-extended wide load, a float atomic AND, slide 13, a write of a read-only register. -/
theorem test_shapes_refused : [Instr.iadd g0 ⟨.s32, true, .v 20, .v 21, .imm 7⟩, .imul g0 ⟨.s64, .wide, .v 20, .v 22, .reg (.v 24)⟩, .ld g0 ⟨0, .v 20, .s 4, .w4, true, 0, 0⟩,
    .atom g0 ⟨0, .v 20, .s 4, .v 21, .and, .f32, 0⟩, .call g0 13 0, .ssr g0 (.s 4) .cycle, .cpy g0 ⟨.local, .local, .s 16, none, none, 1, .raw⟩, .rcp g0 ⟨15, .f32, .v 20, .v 21⟩].all
      (fun i => i.isWord && !i.shapeOk && !i.wellFormed) = true := by decide
/-- Operand rules (operandsOk): a reserved code, an odd pair, a constant as a destination, a predicate where a register must stand, a scalar destination of a vector source. -/
theorem test_operands_refused : [Instr.iadd g0 ⟨.s32, false, .v 20, .reserved 0, .imm 7⟩, .ld g0 ⟨0, .v 20, .s 5, .w4, false, 0, 0⟩, .mov g0 ⟨.b32, .iconst 1, .imm false 5⟩,
    .sel g0 ⟨.b32, .v 20, .v 21, .v 22, .v 3⟩, .iadd g0 ⟨.s32, false, .s 20, .v 21, .imm 7⟩].all (fun i => i.isWord && i.shapeOk && !i.operandsOk && !i.wellFormed) = true := by decide

-- Decoding: the words that the spec works out

theorem test_decode_vec : decode 0x1400_5054_585C_0028 = .ok (.ffma g0 ⟨.f32, .rz, false, false, false, .v 20, .v 21, .reg (.v 22), .v 23⟩) ∧
    decode 0x1B00_5453_CC00_006F = .ok (.shfl g0 ⟨.xor, .b32, .v 21, .v 20, .reg (.iconst 3)⟩) ∧
    decode 0x1A03_0F07_0B10_0096 = .ok (.plop g0 ⟨.p 3, .p 1, .p 2, .p 4, 0x96⟩) := by decide +kernel
theorem test_decode_mem : decode 0x2039_0A42_0004_0004 = .ok (.ld ⟨3, true⟩ ⟨2, .v 20, .s 4, .w4, false, 0, 4⟩) ∧ decode 0x2000_0A43_0004_0802 = .ok (.ldPoll g0 ⟨0, .v 20, .s 6, .w4, false, 0, 2⟩) ∧
    decode 0x2600_0010_0A05_0000 = .ok (.red g0 ⟨.v 32, .v 20, .add, .f32, 0⟩) ∧ decode 0x2E00_0000_0030_0000 = .ok (.fenceEng g0) := by decide +kernel
theorem test_decode_mat_and_cpy : decode 0x4000_5044_4800_2000 = .ok (.mmad g0 ⟨true, 1, 0, 1, false, .s 9, .v 0, 0, 1⟩) ∧
    decode 0x4300_4044_5800_2000 = .ok (.lutmm g0 ⟨true, 0, 1, false, 0, .s 11, .v 0, 0, 1⟩) ∧ decode 0x4500_0000_0490_0000 = .ok (.tbqry g0 ⟨0, 0, .s 18, 0⟩) ∧
    decode 0x6000_1121_13FE_8003 = .ok (.cpy g0 ⟨.local, .global, .s 16, some (.s 9), none, 2, .bf16⟩) ∧
    decode 0x6100_5131_13FE_0040 = .ok (.tload g0 ⟨.global, .s 24, some (.s 9), none, 0, .q4, .raw⟩) := by decide +kernel
theorem test_decode_ctl_sfu_syn : decode 0x8200_0180_0000_0400 = .ok (.call g0 3 0x400) ∧ decode 0x8500_0000_0000_0000 = .ok .join ∧
    decode 0xA800_5054_0000_11A8 = .ok (.cvt g0 ⟨0, .v 20, .v 21, .plain true .rn .e4m3 .f32⟩) ∧ decode 0xC000_0000_0000_0400 = .ok (.wait g0 ⟨true, 0, 0⟩) ∧
    decode 0xC200_4541_0000_0040 = .ok (.barrive g0 ⟨0, .s 10, .s 2, 0x40⟩) ∧ decode 0xC700_4746_8000_0000 = .ok (.gbarrive g0 ⟨0, .s 14, .s 13, 0⟩) := by decide +kernel
/-- The clause header and words of the fuller example of spec/18_programs.md are refused or read as what they are: a header is no word (R103, R104). -/
theorem test_decode_refuses : decode 0xC25A_0000_0000_0000 ≠ .ok .join ∧ (decode 0xFF00_0000_0000_0000).isOk = false ∧ (decode 0x8508_0000_0000_0000).isOk = false ∧
    (decode 0x8600_0000_0000_0001).isOk = false := by decide +kernel
theorem test_decode_table_word : decodeTableWord 64 0x8500_0000_0000_0000 = some .join ∧ decodeTableWord 64 0xFF00_0000_0000_0000 = none := by decide +kernel

-- Results of single words, worked out by hand from the rules

theorem test_iadd_saturates : outV (.iadd g0 ⟨.s32, true, .v 20, .v 21, .reg (.v 22)⟩) (setV 22 [1, 1] (setV 21 [0x7FFFFFFF, 5] (at32 (.iadd g0 ⟨.s32, true, .v 20, .v 21, .reg (.v 22)⟩)))) 20 2
    = [0x7FFFFFFF, 6] := by decide +kernel
theorem test_isub_wraps : outV (.isub g0 ⟨.n32, false, .v 20, .v 21, .imm 1⟩) (setV 21 [0, 5] (at32 (.isub g0 ⟨.n32, false, .v 20, .v 21, .imm 1⟩))) 20 2 = [0xFFFFFFFF, 4] := by decide +kernel
theorem test_imul_wide_signed : let i := Instr.imul g0 ⟨.s32, .wide, .v 20, .v 22, .reg (.v 24)⟩
    let s := setV 24 [2] (setV 22 [0xFFFFFFFF] (at32 i))
    outV i s 20 1 = [0xFFFFFFFE] ∧ outV i s 21 1 = [0xFFFFFFFF] := by decide +kernel
theorem test_sar_past_the_width : outV (.sar g0 ⟨.b32, .v 20, .v 21, .imm 40⟩) (setV 21 [0x80000000, 5] (at32 (.sar g0 ⟨.b32, .v 20, .v 21, .imm 40⟩))) 20 2 = [0xFFFFFFFF, 0] := by decide +kernel
theorem test_shl_by_32_is_zero : outV (.shl g0 ⟨.b32, .v 20, .v 21, .imm 32⟩) (setV 21 [5] (at32 (.shl g0 ⟨.b32, .v 20, .v 21, .imm 32⟩))) 20 1 = [0] := by decide +kernel
theorem test_bcnt_of_zero : outV (.bcnt g0 ⟨.lzc, .b32, .v 20, .v 21⟩) (setV 21 [0, 1] (at32 (.bcnt g0 ⟨.lzc, .b32, .v 20, .v 21⟩))) 20 2 = [32, 31] := by decide +kernel
theorem test_bfx_signed : outV (.bfx g0 ⟨.s32, .v 20, .v 21, .imm 4 8⟩) (setV 21 [0x00000F00] (at32 (.bfx g0 ⟨.s32, .v 20, .v 21, .imm 4 8⟩))) 20 1 = [0xFFFFFFF0] := by decide +kernel
/-- The example of R348: the product rounds to even, the fused form is exact. -/
theorem test_fmul_rounds_to_even : let i := Instr.fmul g0 ⟨.f32, .rn, false, false, .v 20, .v 21, .reg (.v 22)⟩
    outV i (setV 22 [0x3F800800] (setV 21 [0x3F800800] (at32 i))) 20 1 = [0x3F801000] := by decide +kernel
theorem test_ffma_exact : let i := Instr.ffma g0 ⟨.f32, .rz, false, false, false, .v 20, .v 21, .reg (.v 22), .v 23⟩
    outV i (setV 23 [0xBF801000] (setV 22 [0x3F800800] (setV 21 [0x3F800800] (at32 i)))) 20 1 = [0x33800000] := by decide +kernel
theorem test_fcmp_signed_zeros : let i := Instr.fcmp g0 ⟨.eq, .f32, .p 2, .v 21, .v 22⟩
    outP i (setV 22 [0x80000000, 0x7FC00000] (at32 i)) 2 = 0xFFFFFFFD := by decide +kernel
theorem test_icmp_unsigned : let i := Instr.icmp g0 ⟨.lt, .n32, .p 1, .v 21, .v 22⟩
    outP i (setV 22 [0xFFFFFFFF] (setV 21 [1] (at32 i))) 1 = 1 := by decide +kernel
theorem test_predicate_zero_keeps : let i := Instr.icmp g0 ⟨.ne, .n32, .p 0, .v 21, .v 22⟩
    outP i (at32 i) 0 = 0xFFFFFFFF := by decide +kernel
/-- The example of R384: p3 := p1 xor p2 by the table 0x3C. -/
theorem test_plop_xor : let i := Instr.plop g0 ⟨.p 3, .p 1, .p 2, .p 0, 0x3C⟩
    outP i (setP 2 0xA (setP 1 0xC (at32 i))) 3 = 6 := by decide +kernel
theorem test_sel : let i := Instr.sel g0 ⟨.b32, .v 20, .v 21, .v 22, .p 3⟩
    outV i (setP 3 1 (setV 22 [8, 9] (setV 21 [4, 5] (at32 i)))) 20 2 = [4, 9] := by decide +kernel
theorem test_shfl_xor : let i := Instr.shfl g0 ⟨.xor, .b32, .v 21, .v 20, .imm 1⟩
    outV i (setV 20 [10, 11, 12, 13] (at32 i)) 21 4 = [11, 10, 13, 12] := by decide +kernel
theorem test_shfl_keeps_own_lane : let i := Instr.shfl g0 ⟨.up, .b32, .v 21, .v 20, .imm 1⟩
    outV i (setV 20 [10, 11, 12] (at32 i)) 21 3 = [10, 10, 11] := by decide +kernel
theorem test_vote_ballot : let i := Instr.vote g0 ⟨.ballot, .v 20, .p 1⟩
    outV i (setP 1 0x15 (at32 i)) 20 2 = [0x15, 0x15] := by decide +kernel
/-- The example of R393: the exact sum 2.5, where a chain of FP32 additions would give 0.5. -/
theorem test_redg_exact_sum : let i := Instr.redg g0 ⟨.add, .f32, .v 21, .v 20⟩
    outV i (setV 20 [0x4B800000, 0x3F800000, 0x3F800000, 0xCB800000, 0x3F000000] (at32 i)) 21 2 = [0x40200000, 0x40200000] := by decide +kernel
theorem test_lea_sign_extends : let i := Instr.lea g0 ⟨false, true, 3, .v 20, .v 22, .reg (.v 24)⟩
    let s := setV 24 [0xFFFFFFFF] (setV 22 [0x10] (at32 i))
    outV i s 20 1 = [8] ∧ outV i s 21 1 = [0] := by decide +kernel
theorem test_guard_false_writes_nothing : let i := Instr.mov ⟨1, false⟩ ⟨.b32, .v 20, .imm false 5⟩
    outV i (setP 1 2 (setV 20 [7, 7] (at32 i))) 20 2 = [7, 5] := by decide +kernel
theorem test_scalar_takes_lowest_lane : let i := Instr.mov ⟨1, false⟩ ⟨.b32, .s 20, .reg (.s 4)⟩
    outS i (setP 1 4 (setS 4 9 (at32 i))) 20 = 9 := by decide +kernel
theorem test_gsr_reads_sticky_bit : let i := Instr.gsr g0 (.s 20) .nstat
    outS i ((at32 i).modGang key fun g => { g with nstat := true }) 20 = 1 := by decide +kernel
/-- R336's example: 500.0 in E4M3 gives 448 under SAT and notes it, the NaN without. -/
theorem test_cvt_saturates : let i := Instr.cvt g0 ⟨0, .v 20, .v 21, .plain true .rn .e4m3 .f32⟩
    landV i (setV 21 [0x43FA0000] (at32 i)) 20 1 = [0x7E] ∧ ((landed i (setV 21 [0x43FA0000] (at32 i))).gang key).nstat = true := by decide +kernel
theorem test_cvt_without_saturation : let i := Instr.cvt g0 ⟨0, .v 20, .v 21, .plain false .rn .e4m3 .f32⟩
    landV i (setV 21 [0x43FA0000] (at32 i)) 20 1 = [0x7F] ∧ ((landed i (setV 21 [0x43FA0000] (at32 i))).gang key).nstat = false := by decide +kernel
theorem test_sqrt_of_four : landV (.sqrt g0 ⟨0, .f32, .v 20, .v 21⟩) (setV 21 [0x40800000, 0x80000000] (at32 (.sqrt g0 ⟨0, .f32, .v 20, .v 21⟩))) 20 2 = [0x40000000, 0x80000000] := by decide +kernel
theorem test_rcp_of_zero : landV (.rcp g0 ⟨0, .f32, .v 20, .v 21⟩) (setV 21 [0, 0x40000000] (at32 (.rcp g0 ⟨0, .f32, .v 20, .v 21⟩))) 20 2 = [0x7F800000, 0x3F000000] := by decide +kernel
theorem test_frnd_down : landV (.frnd g0 ⟨0, .rd, .f32, .v 20, .v 21⟩) (setV 21 [0xBF000000] (at32 (.frnd g0 ⟨0, .rd, .f32, .v 20, .v 21⟩))) 20 1 = [0xBF800000] := by decide +kernel

-- States and operands that meet the hypotheses of the statements: words that issue now

def vecWords : List Instr := [.nop, .mov g0 ⟨.b32, .v 20, .imm false 5⟩, .iadd g0 ⟨.s32, false, .v 20, .v 21, .imm 7⟩, .isub g0 ⟨.n64, true, .v 20, .v 22, .reg (.v 24)⟩,
  .imul g0 ⟨.s32, .wide, .v 20, .v 21, .reg (.v 22)⟩, .imad g0 ⟨.s32, false, .v 20, .v 21, .reg (.v 22), .v 23⟩, .imin g0 ⟨.s32, .v 20, .v 21, .imm 3⟩, .imax g0 ⟨.n32, .v 20, .v 21, .imm 3⟩,
  .and g0 ⟨.b32, .v 20, .v 21, .imm false 3⟩, .andn g0 ⟨.b64, .v 20, .v 22, .reg (.v 24)⟩, .or g0 ⟨.b32, .v 20, .v 21, .reg (.v 22)⟩, .xor g0 ⟨.b32, .p 3, .p 1, .reg (.p 2)⟩,
  .shl g0 ⟨.b32, .v 20, .v 21, .imm 3⟩, .shr g0 ⟨.b32, .v 20, .v 21, .imm 40⟩, .sar g0 ⟨.b64, .v 20, .v 22, .reg (.v 24)⟩, .bcnt g0 ⟨.tzc, .b32, .v 20, .v 21⟩,
  .bfx g0 ⟨.s32, .v 20, .v 21, .imm 4 8⟩, .bfi g0 ⟨.b32, .v 20, .v 21, .v 22, .v 23⟩, .fadd g0 ⟨.f32, .rn, false, false, .v 20, .v 21, .reg (.v 22)⟩,
  .fmul g0 ⟨.bf16x2, .rz, false, true, .v 20, .v 21, .reg (.v 22)⟩, .ffma g0 ⟨.f32, .rz, false, false, false, .v 20, .v 21, .reg (.v 22), .v 23⟩,
  .fmin g0 ⟨.f32, .v 20, .v 21, .reg (.v 22)⟩, .fmax g0 ⟨.f16, .v 20, .v 21, .imm 0x3C00⟩, .icmp g0 ⟨.lt, .s32, .p 2, .v 21, .v 22⟩, .fcmp g0 ⟨.nan, .f32, .v 20, .v 21, .v 22⟩,
  .sel g0 ⟨.b32, .v 20, .v 21, .v 22, .p 3⟩, .plop g0 ⟨.p 1, .p 2, .p 3, .p 4, 0x80⟩, .shfl g0 ⟨.xor, .b32, .v 21, .v 20, .reg (.iconst 3)⟩, .vote g0 ⟨.ballot, .v 20, .p 1⟩,
  .perm g0 ⟨.b32, .v 20, .v 21, .reg (.v 22)⟩, .redg g0 ⟨.add, .s32, .v 20, .v 21⟩, .lea g0 ⟨false, true, 3, .v 20, .v 22, .reg (.v 24)⟩]
def memWords : List Instr := [.ld g0 ⟨2, .v 20, .s 4, .w4, false, 0, 4⟩, .ldPoll g0 ⟨0, .v 20, .s 6, .w4, false, 0, 2⟩, .ldc g0 ⟨2, .s 20, .s 4, .w4, false, 0, 4⟩, .lds g0 ⟨2, .v 20, .v 30, .w2, true, 0, 4⟩,
  .ldp g0 ⟨2, .v 20, .s 4, .w4, false, 0, 4⟩, .st g0 ⟨.s 4, .v 20, .w4, 0, 0⟩, .sts g0 ⟨.v 30, .v 20, .w4, 0, 0⟩, .stp g0 ⟨.s 4, .v 20, .w4, 0, 0⟩, .atom g0 ⟨2, .v 20, .s 4, .v 21, .add, .s32, 0⟩,
  .atoms g0 ⟨2, .v 20, .v 30, .v 21, .xchg, .s32, 0⟩, .atomp g0 ⟨2, .v 20, .s 4, .v 21, .add, .s32, 0⟩, .red g0 ⟨.v 32, .v 20, .add, .f32, 0⟩, .cas g0 ⟨2, .v 20, .s 4, .v 22, .s32, 0⟩,
  .cass g0 ⟨2, .v 20, .v 30, .v 22, .s32, 0⟩, .prefL1 g0 ⟨.s 4, 0⟩, .prefLlc g0 ⟨.s 4, 0⟩, .fenceRepl g0, .fenceHost g0, .fenceEng g0, .fenceAll g0, .cmntWb g0 ⟨.s 4, 0⟩, .cmntDrop g0 ⟨.s 4, 0⟩,
  .qpush g0 ⟨0, .p 3, .s 4, .v 22, .w4⟩, .qpop g0 ⟨0, .v 20, .s 4, .p 3, .w4⟩, .qpopWait g0 ⟨0, .v 20, .s 4, .p 3, .w4⟩]
def matWords : List Instr := [.mmad g0 ⟨false, 1, 0, 1, false, .s 9, .v 0, 1, 1⟩, .azero g0 false 2, .tbuild g0 ⟨false, 2, 0, .s 9, 1, 4, 0⟩, .lutmm g0 ⟨false, 0, 1, false, 0, .s 11, .v 0, 1, 4⟩, .tbinv g0 false 0,
  .tbqry g0 ⟨0, 0, .s 18, 0⟩, .accrd g0 ⟨0, 1, .v 20, 0, 0, 3⟩, .accwr g0 ⟨0, 1, .v 20, 0, 0, 3⟩, .twr g0 ⟨0, 1, .v 20, 3⟩, .trd g0 ⟨0, 1, .v 20, 3⟩, .mengq g0 ⟨0, false, .s 20, 1⟩]
def cpyWords : List Instr := [.cpy g0 ⟨.local, .global, .s 16, some (.s 9), none, 1, .bf16⟩, .tload g0 ⟨.global, .s 16, none, none, 0, .q4, .raw⟩, .tstore g0 ⟨.local, .s 16, none, none, 0, .one, .raw⟩,
  .tdesc g0 ⟨0, .global, .s 16, .s 24, 1⟩, .cpyq g0 ⟨0, .s 16, .s 9⟩, .cpycan g0 (.s 9), .coll g0 ⟨.s 16, none, none⟩, .tpost g0 (.s 9), .tsig g0 (.s 9)]
def ctlWords : List Instr := [.braM g0 0x40, .braS g0 0x40, .brx g0 (.v 20), .call g0 3 0x400, .callx g0 (.v 20) 2, .ret g0, .join, .exit g0, .trap g0 7, .brk g0, .wflush g0, .wstat g0 (.s 20) .ring,
  .elect g0 (.p 1) false, .launch g0 (.s 20) (.s 22), .grow g0 (.s 20) (.iconst 1), .yield g0, .gsr g0 (.s 20) .nstat, .ssr g0 (.iconst 0) .nstat]
def sfuWords : List Instr := [.rcp g0 ⟨0, .f32, .v 20, .v 21⟩, .rsq g0 ⟨0, .f32, .v 20, .v 21⟩, .sqrt g0 ⟨0, .f32, .v 20, .v 21⟩, .exp2 g0 ⟨0, .f32, .v 20, .v 21⟩, .log2 g0 ⟨0, .f16, .v 20, .v 21⟩,
  .sin g0 ⟨0, .f32, .v 20, .v 21⟩, .cos g0 ⟨0, .f32, .v 20, .v 21⟩, .tanh g0 ⟨0, .bf16, .v 20, .v 21⟩, .cvt g0 ⟨0, .v 20, .v 21, .plain true .rn .e4m3 .f32⟩, .cvt g0 ⟨0, .v 20, .v 21, .toSlot .f32 2⟩,
  .cvt g0 ⟨0, .v 20, .v 21, .fromSlot .rn .f32 1⟩, .frnd g0 ⟨0, .rd, .f32, .v 20, .v 21⟩, .dbfpk g0 ⟨0, .v 20, .v 21, 2⟩, .dbfunpk g0 ⟨0, .rn, .f32, .v 20, .v 21, 2⟩]
def synWords : List Instr := [.wait g0 ⟨true, 63, 15⟩, .binit g0 ⟨.iconst 0, .iconst 1, 0x40⟩, .barrive g0 ⟨0, .s 10, .s 12, 0x40⟩, .bwait g0 ⟨.s 12, .iconst 1, 0x40⟩, .btry g0 ⟨0, .p 2, .s 12, .iconst 1, 0x40⟩,
  .binval g0 ⟨.s 12, 0x40⟩, .bstat g0 ⟨0, .s 20, .s 12, 0x40⟩, .bstatClr g0 ⟨0, .s 20, .s 12, 0x40⟩, .gbarrive g0 ⟨0, .s 20, .iconst 0, 3⟩, .gbwait g0 ⟨.iconst 0, .iconst 1, 3⟩, .racq g0 ⟨0, .s 20, 0⟩,
  .rcommit g0 ⟨.iconst 0, 0⟩, .rwait g0 ⟨0, .s 20, 0⟩, .rfree g0 ⟨.iconst 0, 0⟩, .tsync g0, .chanbind g0 ⟨.iconst 0, 1, 1⟩, .msgsend g0 ⟨.mo 1, .iconst 1, false⟩, .msgrecv g0 ⟨0, .s 20, .mi 1, true, 3⟩,
  .pwrreq g0 ⟨0, .s 20, .s 21⟩, .pwrrel g0 0 (.s 20), .perflvl g0 (.s 20)]
theorem test_vec_words_ready : vecWords.all isReady = true := by decide +kernel
theorem test_mem_words_ready : memWords.all isReady = true := by decide +kernel
theorem test_mat_words_ready : matWords.all isReady = true := by decide +kernel
theorem test_cpy_words_ready : cpyWords.all isReady = true := by decide +kernel
theorem test_ctl_words_ready : ctlWords.all isReady = true := by decide +kernel
theorem test_sfu_words_ready : sfuWords.all isReady = true := by decide +kernel
theorem test_syn_words_ready : synWords.all isReady = true := by decide +kernel
/-- The words that only HANDLER mode may issue. -/
def handlerWords : List Instr := [.eret g0, .eretSkip g0, .famkillWrite g0 (.iconst 1), .ssr g0 (.iconst 4) .formwait, .gsr g0 (.s 20) .tcause, .gsr g0 (.v 20) .tladdr]
def inHandler (s : State) : State := s.modGang key fun g => { g with handlerMode := true }
theorem test_handler_words_ready : handlerWords.all (fun i => ((inHandler (at32 i)).ready i).isSome) = true := by decide +kernel

-- The same for the hypotheses that stand beside a ready word

/-- The word is ready, and f holds of what it sees and of the state its effect starts from. -/
def readyWith (i : Instr) (s : State) (f : Issue → State → Bool) : Bool := match s.ready i with | some (x, s1) => f x s1 | none => false
def issuesWith (i : Instr) (s : State) (f : Issue → Bool) : Bool := match s.issuing i.guard with | some x => f x | none => false
/-- A writable page at VA 0x20000, its address in s4, s5. -/
def withPage (s : State) : State :=
  setS 4 0x20000 (s.modCore 0 fun c => { c with tlb := tset c.tlb 0 (⟨0x20000, 65536, 0x20000, false, true, 0, 31, 0, 2, true⟩ :: tgetD c.tlb 0 []) })
/-- Tables at 0x100000 that map the first GiB of context 0 onto itself, writable and coherent (R187, R188). -/
def withTables (s : State) : State :=
  let s := ((s.modCtx ⟨0, 0⟩ fun c => { c with tbase := 0x100000 }).modPkg fun p => { p with keys := tset p.keys 0 0 }).modPart 0 fun p => { p with kdmask := 1 }
  { s with mem := (((s.mem.writeN 0x100000 8 0x110001).writeN 0x110000 8 0x120001).writeN 0x120000 8 0xF).writeN 0x120008 8 0x1F020000 }
/-- An instruction of path 1 in flight, numbered n, aimed at ds. -/
def flightTo (n : Nat) (ds : List Dest) : Flight := ⟨n, some .ld, [], ds, [], some 3, 1, 0, false, false, false, false, 0, 0, none⟩

theorem witness_StepRunsTheDecodedWord : let s := at32 .nop
    s.pkg.powered = true ∧ (s.bench 0 0).slot[0]? = some key ∧ (Instr.issueSelect 0 0).isWord = false ∧ State.reset.pkg.powered = true ∧ State.reset.agenda = [] ∧
    (match s.running key with
     | some p => p.pos ≠ 0 && p.badTarget?.isNone && s.watchLets key (s.gang key) && (match s.fetchWord key ((s.launchOf key).va p.pc) with | .ok w => decide (parse (BitVec.ofNat 64 w) = .ok .nop) | .error _ => false)
     | none => false) = true := by decide +kernel
theorem witness_DecodeInvertsEncode : (Instr.yield g0).wellFormed = true ∧ encode (.yield g0) = some 0x8E00_0000_0000_0000 ∨ (encode (.yield g0)).isSome = true := by decide +kernel
theorem witness_EncodeInvertsDecode : decode 0xC000_0000_0000_0400 = .ok (.wait g0 ⟨true, 0, 0⟩) := by decide +kernel
theorem witness_JoinExitEretWords : field (0x8500_0000_0000_0000#64) 56 8 = 0x85#8 ∧ field (0x8601_0000_0000_0000#64) 56 8 = 0x86#8 ∧ field (0x9100_0001_0000_0000#64) 56 8 = 0x91#8 := by decide
theorem witness_ResetRegisterValues : State.reset.pkg.life.code < 1 ∧ (match exec (.lcstate 1) State.reset with | .next _ => true | _ => false) = true := by decide +kernel
/-- A privileged word in USER mode, a word whose destination has a result outstanding, a word guarded by not p0. -/
theorem witness_WordsWithoutEffect :
    issuesWith (.eret g0) (at32 (.eret g0)) (fun x => x.illegal (.eret g0) = some 0x06) = true ∧
    (let i := Instr.mov g0 ⟨.b32, .v 20, .imm false 5⟩
     issuesWith i ((at32 i).modGang key fun g => { g with flights := [flightTo 5 [.vec 20 1]] }) (fun x => x.illegal i = none && x.stalled i) = true) ∧
    (let i := Instr.mov ⟨0, true⟩ ⟨.b32, .v 20, .imm false 5⟩
     (match (at32 i).issueOf i with | some (x, _) => x.active = 0 | none => false) = true) := by decide +kernel
theorem witness_PredicateZeroAndOthers : (5 : Nat) < 32 ∧ (at32 .nop).gang key = (at32 .nop).gang key ∧ ((at32 .nop).gang key).width = 32 ∧ (3 : Nat) ≠ 0 := by decide +kernel
/-- A static, a place taken in a ring with room, a ring that grows, and one at its maximum with nothing to spill. -/
theorem witness_FirstWriteTakesAGranule :
    (let s := at32 .nop
     (s.gang key).taken.contains 7 = false ∧ (s.gang key).takenCount < (s.gang key).ringSize) ∧
    (let s := (at32 .nop).modGang key fun g => { g with taken := [2, 3, 4, 5, 6, 8, 9, 10, 11, 12, 13, 14, 15, 16] }
     (s.gang key).taken.contains 7 = false ∧ (s.gang key).takenCount ≥ (s.gang key).ringSize ∧ (s.gang key).ringSize < (s.launchOf key).winMax ∧ s.ringFits (s.gang key) 1 = true) ∧
    (let s := (at32 .nop).modGang key fun g => { g with ringSize := 20, taken := [2, 3, 4, 5, 6, 8, 9, 10, 11, 12, 13, 14, 15, 16, 17, 18, 19, 20] }
     (s.gang key).taken.contains 7 = false ∧ (s.gang key).takenCount ≥ (s.gang key).ringSize ∧ (s.gang key).ringSize ≥ (s.launchOf key).winMax ∧ (s.gang key).canSpill = false) := by decide +kernel
/-- Two NaNs, a NaN and a number, a number and a NaN, two numbers either way. -/
theorem witness_FloatingPoint : let f := F3.fmt .f32
    (f.decode 0x7FC00000).isNaN = true ∧ (f.decode 0xFF800001).isNaN = true ∧ (f.decode 0x3F800000).isNaN = false ∧
    (f.decode 0x3F800000).cmp (f.decode 0x40000000) < 0 ∧ (f.decode 0x40000000).cmp (f.decode 0x3F800000) > 0 ∧ isReady (.fmin g0 ⟨.f32, .v 20, .v 21, .reg (.v 22)⟩) = true := by decide +kernel
theorem witness_LaneExchange : [Instr.shfl g0 ⟨.xor, .b32, .v 21, .v 20, .reg (.iconst 3)⟩, .perm g0 ⟨.b32, .v 20, .v 21, .reg (.v 22)⟩, .vote g0 ⟨.ballot, .v 20, .p 1⟩,
    .redg g0 ⟨.add, .f32, .v 20, .v 21⟩, .elect g0 (.s 20) true, .elect g0 (.p 1) false].all isReady = true ∧ RedgTy.s32 ≠ .f32 := by decide +kernel
/-- A conversion into a slot of DBF blocks, one into a slot without, one out of a slot; a NaN, and a number below zero. -/
theorem witness_SfuResultsStandInFlight : [Instr.cvt g0 ⟨0, .v 20, .v 21, .toSlot .f32 2⟩, .cvt g0 ⟨0, .v 20, .v 21, .toSlot .f32 1⟩, .cvt g0 ⟨0, .v 20, .v 21, .fromSlot .rn .f32 1⟩].all isReady = true ∧
    fmtDbf (launch32.slot 2).fmt = true ∧ fmtDbf (launch32.slot 1).fmt = false ∧ ((F3.fmt .f32).decode 0x7FC00000).isNaN = true ∧
    ((F3.fmt .f32).decode 0xBF800000).isNaN = false ∧ ((F3.fmt .f32).decode 0xBF800000).isZero = false ∧ ((F3.fmt .f32).decode 0xBF800000).negative = true := by decide +kernel
theorem witness_FcmpWritesTheOutcome : (f3Value .f32 0x7FC00000).isNaN = true := by decide +kernel
/-- MOV with a flit, a binding with its credit, an open channel without a flit and a closed one. -/
def movIn : Instr := .mov g0 ⟨.b64, .v 20, .reg (.mi 1)⟩
def movOut : Instr := .mov g0 ⟨.b32, .mo 2, .reg (.v 20)⟩
theorem witness_CompareChooseMove :
    readyWith movIn ((at32 movIn).modCore 0 fun c => { c with flits := [(1, ⟨3, 0, 0, 1, some 9, 7⟩)] }) (fun x s => (tget (s.core (s.gang x.key).core).flits 1).isSome) = true ∧
    readyWith movOut ((at32 movOut).modCore 0 fun c => { c with mo := [(2, ⟨key, 5, 1, true, 7⟩)] })
      (fun x s => match tget (s.core (s.gang x.key).core).mo 2 with | some b => b.owner = x.key && b.credit && !s.pkg.fenced.contains (dieOf b.core) | none => false) = true ∧
    readyWith movIn ((at32 movIn).modCore 0 fun c => { c with producers := [(1, 1)] }) (fun x s => tget (s.core (s.gang x.key).core).flits 1 = none && tgetD (s.core (s.gang x.key).core).producers 1 0 ≠ 0) = true ∧
    readyWith movIn (at32 movIn) (fun x s => tget (s.core (s.gang x.key).core).flits 1 = none && tgetD (s.core (s.gang x.key).core).producers 1 0 = 0) = true := by decide +kernel
theorem witness_LaneResultReadsBack : readyWith .nop (at32 .nop) (fun x _ => x.lanes.contains 31 && x.lanes ≠ []) = true := by decide +kernel
theorem witness_RegisterAndFlightFrames : let i := Instr.iadd g0 ⟨.s32, false, .v 20, .v 21, .imm 7⟩
    i.isWord = true ∧ i.cls = 0 ∧ isReady i = true ∧ (Instr.rcp g0 ⟨0, .f32, .v 20, .v 21⟩).cls = 5 ∧
    (let q := Instr.tbqry g0 ⟨0, 0, .s 18, 0⟩
     readyWith q (at32 q) (fun x s => !x.engineWait s fun _ o => o.usesTable 0) = true) := by decide +kernel
theorem witness_ResultWritebackWritesOnce : let s := (at32 .nop).modGang key fun g => { g with flights := [flightTo 5 [.vec 20 1]] }
    (s.gang key).flights.find? Flight.writable = some (flightTo 5 [.vec 20 1]) ∧ (s.gang key).flights.find? (fun e => e.id = 5) = some (flightTo 5 [.vec 20 1]) ∧ (s.gang key).nodes = [] ∧ ((at32 .nop).gang key).flights.find? Flight.writable = none := by decide +kernel
def ldWord : Instr := .ld g0 ⟨2, .v 20, .s 4, .w4, false, 0, 4⟩
def lanesChecked (s : State) (x : Issue) (i : Instr) : Bool :=
  match i.memOp with
  | some m => (match s.checkLanes x.key m ((if m.once then x.lanes.take 1 else x.lanes).map fun l => (l, x.address s m l)) with | .ok _ => true | .error _ => false)
  | none => false
theorem witness_MemoryInstructionsStandInFlight : readyWith ldWord (withPage (at32 ldWord)) (fun x s => lanesChecked s x ldWord) = true ∧
    (let i := Instr.sts g0 ⟨.v 30, .v 20, .w4, 0, 0⟩
     readyWith i (at32 i) (fun x s => lanesChecked s x i) = true) := by decide +kernel
theorem witness_MemoryFaultsAreRestartable : readyWith ldWord (at32 ldWord) (fun x s => !lanesChecked s x ldWord) = true ∧
    (let i := Instr.lds g0 ⟨2, .v 20, .v 30, .w4, false, 0, 0⟩
     readyWith i (setV 30 [2] (at32 i)) (fun x s => !lanesChecked s x i) = true) ∧
    (let m : MemOp := ⟨.peer, .load, 4, .v 20, 0, none, none, false, true⟩
     let f := (at32 .nop).modPkg fun p => { p with fenced := [0] }
     (at32 .nop).checkLane key m 0 = .ok (.scratch 0 0) ∧ (at32 .nop).checkLane key m 2 = .error ⟨0x14, none⟩ ∧ (at32 .nop).checkLane key m (2 ^ 32) = .error ⟨0x11, none⟩ ∧
     f.checkLane key m 0 = .error ⟨0x61, none⟩) ∧
    (let i := Instr.ldp g0 ⟨2, .v 20, .s 4, .w4, false, 0, 0⟩
     readyWith i ((at32 i).modPkg fun p => { p with fenced := [0] }) (fun x s => match i.memOp with
       | some m => (match s.checkLanes x.key m (x.lanes.map fun l => (l, x.address s m l)) with | .error f => f.cause = 0x61 | .ok _ => false)
       | none => false) = true) := by decide +kernel
def access (loc : Loc) (op : AccessOp) : Flight := { flightTo 5 [.vec 20 1] with todo := [⟨0, 0x40, loc, op⟩] }
def withAccess (f : Flight) : State := (at32 .nop).modGang key fun g => { g with flights := [f] }
/-- A load, a store in a scratchpad and one in memory, an atomic and a compare-and-swap, each the next access; and no access left. -/
theorem witness_AccessesPerformed : ((at32 .nop).gang key).nextAccess = none ∧
    [access (.scratch 0 0x40) (.load 4 false false 0), access (.mem 0x20000 0 0 false) (.load 4 false false 0), access (.mem (0x7FF * 2 ^ 41) 0 0 false) (.load 4 false false 0),
      access (.scratch 0 0x40) (.store 4 7 0), access (.mem 0x20000 0 2 true) (.store 4 7 0), access (.scratch 0 0x40) (.atom .add .s32 1),
      access (.scratch 0 0x40) (.cas 4 0 7)].all (fun f => ((withAccess f).gang key).nextAccess = some f && f.dest ≠ [] && !f.returned) = true := by decide +kernel
/-- A step that runs a word in the memory just laid out, and one that stores: both from canonical memory. -/
theorem witness_MemoryStaysCanonical : (at32 .nop).mem.wf = true ∧ (at32 .nop).mem ≠ [] ∧ (match step (at32 .nop) with | .next _ => true | _ => false) = true ∧
    (match step { withAccess (access (.mem 0x20000 0 2 true) (.store 4 7 0)) with agenda := [.event (.accessPerformed key)] } with | .next _ => true | _ => false) = true := by decide +kernel
theorem witness_PrefetchAndFence : readyWith (.fenceAll g0) (at32 (.fenceAll g0)) (fun x s => s.fenceMet x.key 7) = true ∧
    readyWith (.fenceRepl g0) { at32 (.fenceRepl g0) with lags := [⟨0x20000, [0], [1], some key, []⟩] } (fun x s => !s.fenceMet x.key 1) = true ∧
    (match (at32 .nop).translate ⟨0, 0⟩ (some 0) .load none 0x20000 with | .error _ => true | .ok _ => false) = true := by decide +kernel
/-- A queue of four elements of four bytes at VA 0x20000 that holds n, and a QPOP.WAIT of lane 0. -/
def withQueue (n : Nat) (s : State) : State :=
  let s := setP 1 1 (withPage s)
  { s with mem := (((s.mem.writeN 0x20000 8 0x20100).writeN 0x20008 4 4).writeN 0x20014 4 n).writeN 0x20100 4 77 }
def popWord : Instr := .qpopWait ⟨1, false⟩ ⟨0, .v 20, .s 4, .p 3, .w4⟩
theorem witness_QueueOperations : let o := popOp true ⟨0, .v 20, .s 4, .p 3, .w4⟩
    let run (x : Issue) (s1 : State) := let s2 := s1.catchUp x.key
      let addrs := (queueActive o x).map fun l => (l, x.read s2 o.ab 2 .int l)
      (s2.checkQueues x.key o addrs, ((s2.fillTlbs x.key (addrs.map Prod.snd)).queueRun x.key o (addrs.map fun e => (e.1, 0)) o.wait addrs).2)
    readyWith popWord (withQueue 1 (at32 popWord)) (fun x s => (run x s).1 = none && (run x s).2 = [(0, true, 77)]) = true ∧
    readyWith popWord (withQueue 0 (at32 popWord)) (fun x s => (run x s).1 = none && (run x s).2 = [] && s.queueWaiters 0x20000 < 64) = true := by decide +kernel
def grant (s : State) : State := s.modGang key fun g => { g with leave := .granted }
def aMmad (pr : Bool) : Instr := .mmad g0 ⟨pr, 1, 0, 1, false, .s 9, .v 0, 1, 1⟩
theorem witness_EngineOperationsEnterTheQueue : let i := aMmad false
    readyWith i (grant (at32 i)) (fun x s => !x.pairRole false && (match x.jobNames s (some (.s 9)) none with | .ok (bar, none) => !s.bytesFull bar 0 | _ => false) &&
      (s.core (x.queueCore false)).engine.queue.length < 4 && (s.leaveNow x.key 4096 0).isSome) = true ∧
    issuesWith (aMmad true) (at32 (aMmad true)) (fun x => x.illegal (aMmad true) = none && !x.stalled (aMmad true) && x.active ≠ 0 && x.pairRole true) = true ∧
    issuesWith i (setS 9 4 (at32 i)) (fun x => x.illegal i = none && !x.stalled i && x.active ≠ 0 && x.jobNames (setS 9 4 (at32 i)) (some (.s 9)) none = .error (.of 0x39)) = true ∧
    readyWith i ((at32 i).modGang key fun g => { g with leave := .waiting 4096 1 0 }) (fun x s => (s.leaveNow x.key 4096 0).isNone) = true ∧
    readyWith (.azero g0 false 2) (at32 (.azero g0 false 2)) (fun x s => s.leaveUnits x.launch x.key.team 0 4 (.azero 2) = 0) = true := by decide +kernel
theorem witness_EngineRegistersReadAndWritten : let i := Instr.accrd g0 ⟨0, 1, .v 20, 0, 0, 3⟩
    readyWith i (at32 i) (fun x s => !(x.engineWait s fun c o => o.covers (s.team x.key.team) c x.span && o.kind.writesAcc 1) && !(s.team x.key.team).poison.contains (x.span, 1)) = true ∧
    readyWith i ((at32 i).modTeam 0 fun t => { t with poison := [(0, 1)] }) (fun x s => (s.team x.key.team).poison.contains (x.span, 1)) = true ∧
    (let q := Instr.mengq g0 ⟨0, true, .s 20, 0⟩
     readyWith q ((at32 q).modTeam 0 fun t => { t with pair := true }) (fun x _ => x.team.pair) = true ∧ readyWith q (at32 q) (fun x _ => !x.team.pair) = true) := by decide +kernel
def opOf (k : EngineKind) (pr : Bool) : EngineOp := ⟨k, pr, key, 1, 0xFF, none, 1, none, none, [], 0, false, none, [], []⟩
def queued (o : EngineOp) : State := (at32 .nop).modEngine 0 fun e => { e with queue := [o] }
theorem witness_EngineStepsAct : (queued (opOf (.azero 1) false)).startable 0 = some (opOf (.azero 1) false) ∧ (queued (opOf (.azero 1) false)).tableOk 0 (opOf (.azero 1) false) = true ∧
    (queued (opOf (.lutmm 0 0 1 1 4 none) false)).tableOk 0 (opOf (.lutmm 0 0 1 1 4 none) false) = false ∧
    (queued (opOf (.lutmm 0 0 1 1 4 none) false)).startable 0 = some (opOf (.lutmm 0 0 1 1 4 none) false) ∧ (at32 .nop).startable 0 = none ∧
    ((queued (opOf (.azero 1) true)).core 0).engine.queue = [opOf (.azero 1) true] ∧ ((queued (opOf (.azero 1) true)).core 1).engine.slaved = false ∧
    ((queued (opOf (.mmad 0 1 2 1 1 (some (1, 1))) false)).core 0).engine.queue.find? (fun o => !o.landed && o.paused.isNone) = some (opOf (.mmad 0 1 2 1 1 (some (1, 1))) false) ∧
    (opOf (.mmad 0 1 2 1 1 (some (1, 1))) false).operand 1024 = none ∧ ((at32 .nop).core 0).engine.running = none := by decide +kernel
/-- A handle whose operand has no valid byte lands, and one at an address that no page maps faults. -/
def handled (n : Nat) : EngineOp := { opOf (.mmad 0 1 2 1 1 (some (1, 1))) false with desc := some ⟨1, .global, ⟨0x90000, 0, 64, 256, 256, 256, n, n, 0, false, false⟩⟩ }
theorem witness_HandleFetches : let q := (handled 0).kind.quarterBytes launch32
    (handled 0).operand q = (handled 0).desc ∧ (handled 256).operand q = (handled 256).desc ∧
    [((0 : Nat), true), (256, false)].all (fun e => match (handled e.1).desc with
      | some h => (match (queued (handled e.1)).handleBytes 0 (handled e.1) h q 8 [] with | .ok _ => e.2 | .error _ => !e.2)
      | none => false) = true := by decide +kernel
theorem witness_EngineOperationLeaves : ((opOf (.mmad 0 1 2 1 1 none) false).errs.any fun e => e.bench = 0) = false ∧ Team.empty.poison.contains (0, 0) = false ∧
    (({ opOf (.mmad 0 1 2 1 1 none) false with errs := [⟨0x05, 0, 0, 0⟩] }).errs.any fun e => e.bench = 0) = true := by decide +kernel

-- Copies

/-- A raw copy of one row of 64 bytes from VA 0x20000 into the scratchpad at 0x100, its descriptor in s16 to s23. -/
def copyRow : Instr := .cpy g0 ⟨.local, .global, .s 16, none, none, 0, .raw⟩
def withRow (rows : Word) (s : State) : State :=
  withPage (setS 23 (rows * 524288 + 4096) <| setS 22 64 (setS 21 64 (setS 20 (rows * 65536 + 64) (setS 18 0x100 (setS 16 0x20000 s)))))
theorem witness_CopiesHandOverJobs : readyWith copyRow (withRow 1 (at32 copyRow)) (fun x s =>
      let w := x.descWords (.s 16)
      let f := x.fmtOf .raw 0
      descOk .local .global f w && descAligned f (parseDesc w) && s.rangesAllowed x .global (allReads f (parseDesc w) (tileParts .global 0)) &&
      s.rangesAllowed x .local (allWrites f (parseDesc w) (tileParts .local 0)) && !s.bytesFull none (destBytes f (parseDesc w))) = true ∧
    readyWith copyRow (setS 18 0x80000 (withRow 1 (at32 copyRow))) (fun x s => !s.rangesAllowed x .local (allWrites (x.fmtOf .raw 0) (parseDesc (x.descWords (.s 16))) (tileParts .local 0))) = true ∧
    readyWith copyRow (setS 23 1 (withRow 1 (at32 copyRow))) (fun x _ => !descOk .local .global (x.fmtOf .raw 0) (x.descWords (.s 16))) = true ∧
    readyWith copyRow (setS 23 8 (setS 16 0x20001 (withRow 1 (at32 copyRow)))) (fun x _ => !descAligned (x.fmtOf .raw 0) (parseDesc (x.descWords (.s 16)))) = true := by decide +kernel
def copied : State := after copyRow (withRow 1 (at32 copyRow))
theorem witness_JobsStandAndMove : ((at32 .nop).gang key).accessesLeft = 0 ∧
    (match copied.jobs with
     | [(n, j)] => !j.accepted && !copied.jobBlocked j && (match j.shape with | some sh => j.owes sh 0 | none => false) && (tget copied.jobs n).isSome
     | _ => false) = true ∧
    (let t := after (.copyJobAccept 1) copied
     match t.jobs with
     | [(_, j)] => j.accepted && j.paused.isNone && !j.stopped && (match j.shape with | some sh => (match t.unitPlaces j sh 0 with | .ok _ => true | .error _ => false) | none => false)
     | _ => false) = true := by decide +kernel
theorem witness_CopyRequestsAndHandles :
    (let i := Instr.tpost g0 (.s 9)
     readyWith i (at32 i) (fun x s => x.once s (.s 9) 1 < 65536) = true ∧ readyWith i (setS 9 0x10000 (at32 i)) (fun x s => 65536 ≤ x.once s (.s 9) 1) = true) ∧
    (let i := Instr.tdesc g0 ⟨0, .global, .s 16, .s 24, 1⟩
     readyWith i (withRow 4 (at32 i)) (fun x _ => handleOk .global (x.descWords (.s 16))) = true) := by decide +kernel

-- Control flow, traps, synchronisation

/-- A safe-point table at VA 0x20200 for the clauses at offsets 0 and 0x10, with reconvergence PC 0x10, and its live masks. -/
def withSafe (s : State) : State :=
  let s := withPage s
  let s := s.setGrid 0 { s.grid 0 with launch := { (s.grid 0).launch with safe := 0x20200, liveTab := 0x20400, liveRecs := 1 } }
  { s with mem := ((((s.mem.writeN 0x20200 4 0x4F5A5346).writeN 0x20204 4 2).writeN 0x20214 4 0x10).writeN 0x20220 4 0x10).writeN 0x20224 4 0x10 }
def bra (split : Bool) (off : BitVec 32) : Instr := if split then .braS ⟨1, false⟩ off else .braM ⟨1, false⟩ off
def checked (s : State) (x : Issue) (ts : List Nat) (ret : Option Nat) : SafeCheck := (s.divergeCheck x ts ret).2
/-- A header that a transfer may land on, at offset 0x10. -/
def withLanding (s : State) : State := { s with mem := s.mem.writeN 0x10010 8 (fetchHeader 0) }
def withBad (s : State) : State := (withPage s).setGrid 0 { s.grid 0 with launch := { (s.grid 0).launch with safe := 0x20200 } }
/-- A jump, a misaligned target, a fault of the table, a bad magic, a division; the same of a split with room and of one that waits; BRX to one target, to a bad one, to several. -/
theorem witness_BranchesDividePaths :
    (let i := bra false 0
     readyWith i (setP 1 0xFFFFFFFF (at32 i)) (fun x s => s.fetchable x.key x.path.hdr && (x.live &&& ~~~x.active) = 0) = true ∧
     readyWith i (setP 1 3 (at32 i)) (fun x s => match checked s x [0, 0x10] none with | .fault .. => true | _ => false) = true ∧
     readyWith i (setP 1 3 (withBad (at32 i))) (fun x s => checked s x [0, 0x10] none = .missing) = true ∧
     readyWith i (setP 1 3 (withSafe (at32 i))) (fun x s => checked s x [0, 0x10] none = .ok (some 0x10)) = true) ∧
    (let i := bra true 0
     readyWith i (setP 1 3 (withSafe (at32 i))) (fun x s => let r := s.divergeCheck x [0, 0x10] none
       r.2 = .ok (some 0x10) && !x.deepDepart 3 && x.gang.splitReady &&
       (match r.1.safeEntry x.key 0 with
        | (u, .ok (some e)) => (match u.spawnRoom x.gang.core (((lanesOf 3 32).map fun l => (u.spawnEntry x e 0 (some 0x10) 1 l).bytes).foldl (fun a b => a + b) 0) 1 with | .ok _ => true | _ => false)
        | _ => false)) = true ∧
     readyWith i (setP 1 3 ((withSafe (at32 i)).modGang key fun g => { g with lastPath := 1, flights := [{ flightTo 5 [.vec 90 1] with window := none }] })) (fun x s => checked s x [0, 0x10] none = .ok (some 0x10) && !x.gang.splitReady) = true ∧
     readyWith i (setP 1 3 ((withSafe (at32 i)).modTeam 0 fun t => { t with departs := [((0, 0), List.replicate 4 ⟨none, 1, 0, 0, 18, 0⟩)] })) (fun x _ => x.deepDepart 3) = true) ∧
    (let i := bra false 4
     readyWith i (setP 1 3 (at32 i)) (fun x _ => x.active ≠ 0) = true) ∧
    (let i := Instr.brx g0 (.v 20)
     readyWith i (at32 i) (fun x s => x.targets s (.v 20) = [(0, 0xFFFFFFFF)] && s.landing x.key 0) = true ∧
     readyWith i (setV 20 (List.replicate 32 8) (at32 i)) (fun x s => x.targets s (.v 20) = [(8, 0xFFFFFFFF)] && !s.landing x.key 8) = true ∧
     readyWith i (setV 20 [0x10] (at32 i)) (fun x s => match checked s x ((x.targets s (.v 20)).map Prod.fst) none with | .fault .. => true | _ => false) = true ∧
     readyWith i (setV 20 [0x10] (withBad (at32 i))) (fun x s => checked s x ((x.targets s (.v 20)).map Prod.fst) none = .missing) = true ∧
     readyWith i (setV 20 [0x10] (withSafe (at32 i))) (fun x s => decide (2 ≤ (x.targets s (.v 20)).length) && checked s x ((x.targets s (.v 20)).map Prod.fst) none = .ok (some 0x10)) = true) := by decide +kernel
theorem witness_DividedPathsStand : ((at32 .nop).gang key).paths.map (fun p => p.id) = [1] ∧ ((at32 .nop).gang key).accessesLeft = 0 := by decide +kernel
def stopped (s : State) : State := s.modGang key fun g => { g with spillStopped := some (0x90000, 0x10, none) }
theorem witness_CallsPushFrames : let i := Instr.call g0 3 0
    readyWith i (at32 i) (fun x s => s.fetchable x.key (x.target 0) && s.reserveOk x.key 26 && x.gang.depth ≠ 65535 && x.gang.spillStopped.isNone) = true ∧
    readyWith i (stopped (at32 i)) (fun x s => s.reserveOk x.key 26 && x.gang.depth ≠ 65535 && x.gang.spillStopped.isSome) = true ∧
    readyWith i ((at32 i).modGang key fun g => { g with reserve := 1020 }) (fun x s => !s.reserveOk x.key 26) = true ∧
    (let k := Instr.call g0 3 4
     readyWith k (at32 k) (fun x _ => x.gang.spillStopped.isNone) = true) ∧
    (let j := Instr.callx g0 (.v 20) 2
     readyWith j (at32 j) (fun x s => (x.targets s (.v 20)).length ≤ 1 && (x.targets s (.v 20)).all fun t => s.landing x.key t.1) = true ∧
     readyWith j (setV 20 [8] (at32 j)) (fun x s => !(x.targets s (.v 20)).all fun t => s.landing x.key t.1) = true ∧
     readyWith j (setV 20 [0x10] (withLanding (withSafe (at32 j)))) (fun x s => checked s x ((x.targets s (.v 20)).map Prod.fst) (some 0x10) = .ok (some 0x10) && (x.targets s (.v 20)).all fun t => s.landing x.key t.1) = true ∧
     readyWith j (setV 20 [0x10] (withLanding (withBad (at32 j)))) (fun x s => checked s x ((x.targets s (.v 20)).map Prod.fst) (some 0x10) = .missing) = true ∧
     readyWith j (setV 20 [0x10] (withLanding (at32 j))) (fun x s => match checked s x ((x.targets s (.v 20)).map Prod.fst) (some 0x10) with | .fault .. => true | _ => false) = true) := by decide +kernel
def inFrame (trap : Bool) (s : State) : State :=
  s.modGang key fun g => { g with frames := [⟨0, 2, trap, 0, 0, 1, [], false, none⟩], reserve := 18, nodes := [⟨1, 1, none, 0, .call 1, 0⟩], paths := g.paths.map fun p => { p with link := 1 } }
theorem witness_ReturnsPopFrames : readyWith (.ret g0) (at32 (.ret g0)) (fun x _ => x.gang.frames = []) = true ∧
    readyWith (.ret g0) (inFrame false (at32 (.ret g0))) (fun x s => !s.departedBelow x.key && (x.gang.frames.getLast?.map Frame.trapFrame) = some false && !x.gang.returnBlocked x.gang.depth &&
      (((x.gang.returnPath x ⟨0, 2, false, 0, 0, 1, [], false, none⟩ s.seq).prune 2).nodes.find? fun n => n.id = 1).any ((x.gang.returnPath x ⟨0, 2, false, 0, 0, 1, [], false, none⟩ s.seq).prune 2).nodeArrived &&
      (match s.refillTo x.key (x.gang.depth - 1) (14 * (x.gang.depth + 1)) with | .ok _ => true | _ => false)) = true ∧
    readyWith (.ret ⟨1, false⟩) (setP 1 3 (inFrame false (at32 (.ret ⟨1, false⟩)))) (fun x s =>
      !(((x.gang.returnPath x ⟨0, 2, false, 0, 0, 1, [], false, none⟩ s.seq).prune 2).nodes.find? fun n => n.id = 1).any ((x.gang.returnPath x ⟨0, 2, false, 0, 0, 1, [], false, none⟩ s.seq).prune 2).nodeArrived) = true ∧
    readyWith (.ret g0) ((inFrame false (at32 (.ret g0))).modGang key fun g => { g with lastPath := 1, flights := [{ flightTo 5 [.vec 90 1] with window := none, depth := 1 }] }) (fun x _ => x.gang.returnBlocked x.gang.depth) = true ∧
    readyWith (.ret g0) (inFrame true (at32 (.ret g0))) (fun x _ => (x.gang.frames.getLast?.map Frame.trapFrame) = some true) = true ∧
    readyWith (.ret g0) ((inFrame false (at32 (.ret g0))).modTeam 0 fun t => { t with departs := [((0, 5), [⟨none, 1, 0, 5, 18, 0⟩])] }) (fun x s => s.departedBelow x.key) = true := by decide +kernel
/-- A formed gang whose 32 threads left gang 0 by a split with this PC as reconvergence PC, and their one-entry live mask. -/
def formedKey : GangKey := ⟨0, 32⟩
def formed (s : State) : State :=
  let home := (List.range 32).map fun l => (0, l)
  let s := s.setGang formedKey { s.gang key with home := home, paths := (s.gang key).paths.map fun p => { p with id := 9 } }
  let s := (s.setBench 0 0 { s.bench 0 0 with slot := [formedKey] }).modTeam 0 fun t => { t with departs := home.map fun h => (h, [⟨some 0, 0, 0, h.2, 0, 0⟩]) }
  { s.modGang key (fun g => { g with away := fullMask 32, paths := [] }) with cur := some formedKey }
theorem witness_JoinMergesPaths : readyWith .join (at32 .join) (fun x s => x.returners = [] && ((s.gang x.key).paths.any fun p => p.id = x.path.id) && x.path.rpc ≠ some x.path.hdr) = true ∧
    readyWith .join ((at32 .join).modGang key fun g => { g with paths := g.paths.map fun p => { p with rpc := some 0 } }) (fun x _ => x.path.rpc = some x.path.hdr) = true ∧
    readyWith .join (formed (withSafe (at32 .join))) (fun x s => x.returners.length = 32 && !x.gang.resultPending && (match (s.catchUp x.key).safeEntry x.key x.path.hdr with
      | (u, .ok (some e)) => (match u.returnAll x e (x.returners.take 2) with | .ok _ => true | _ => false)
      | _ => false)) = true ∧
    readyWith .join (formed (at32 .join)) (fun x s => match ((s.catchUp x.key).safeEntry x.key x.path.hdr).2 with | .error _ => true | .ok _ => false) = true ∧
    readyWith .join ((formed (at32 .join)).modGang formedKey fun g => { g with lastPath := 9, flights := [{ flightTo 5 [.vec 90 1] with window := none }] }) (fun x _ => x.gang.resultPending) = true := by decide +kernel
theorem witness_SystemRegisters : (Instr.gsr g0 (.s 20) .nstat).isWord = true ∧ SysReg.nstat ≠ SysReg.tladdr ∧
    readyWith (.famkillWrite g0 (.iconst 1)) (inHandler (at32 (.famkillWrite g0 (.iconst 1)))) (fun x s => x.once s (.iconst 1) 1 % 2 = 1) = true := by decide +kernel
theorem witness_PrivilegeGuardsTheHandler : let i := Instr.eret g0
    issuesWith i (at32 i) (fun x => !x.gang.handlerMode && i.shapeOk && i.launchFieldOk x.launch x.team.pair && i.operandsOk && i.launchOperandsOk x.launch && i.roleOk x.gang.role) = true ∧
    issuesWith i (inHandler (at32 i)) (fun x => x.gang.handlerMode) = true := by decide +kernel
/-- A launch record with one gang of width 8, window 14, VTOP 15, 16 scalars and a spill stack of 1 KiB, at VA 0x20000. -/
def withRecord (s : State) : State :=
  let s := withPage s
  { s with mem := ((s.mem.writeN 0x2001C 1 1).writeN 0x20024 6 0x100F000E000E).writeN 0x2002C 4 1024 }
def spillAt (s : State) : State := (inFrame false s).modGang key fun g => { g with frames := g.frames ++ [⟨0, 2, false, 0, 0, 2, [], false, none⟩], reserve := 36 }
theorem witness_LaunchGrowAndWflush :
    (let i := Instr.launch g0 (.s 20) (.s 4)
     let c : CtxKey := ⟨0, 0⟩
     readyWith i (withPage (at32 i)) (fun x s => match (s.catchUp x.key).launchAt x.key (x.once s (.s 4) 2) with | .status _ st => st = 4 | _ => false) = true ∧
     readyWith i (at32 i) (fun x s => match (s.catchUp x.key).launchAt x.key (x.once s (.s 4) 2) with | .fault .. => true | _ => false) = true ∧
     (match (withRecord (at32 i)).launchAt key 0x20000 with | .status _ st => st = 3 | _ => false) = true ∧
     (let s := (withTables (withRecord (at32 i))).modCtx c fun k => { k with devbase := 4, taskarea := 0x20000, childrec := 0x30000 }
      s.launchOk 0 (s.mem.readBytes 0x20000 512) 0x20000 = true ∧ s.freeDevice c = some 4 ∧ s.taskForeign c 4 = false ∧
      [0x301FF, s.taskVa c 4].all (fun va => match s.translate c none .store none va with | .ok _ => true | .error _ => false) = true) ∧
     ((at32 i).grid ((at32 i).team 0).grid).depth ≠ 10 ∧ formedKey.idx ≠ 0 ∧ key.idx = 0) ∧
    (let i := Instr.grow g0 (.s 20) (.iconst 1)
     readyWith i (at32 i) (fun x s => !(s.grid x.team.grid).launch.growable) = true ∧
     readyWith i ((at32 i).setGrid 0 { (at32 i).grid 0 with launch := { launch32 with growable := true } }) (fun x s => (s.grid x.team.grid).launch.growable && (s.grid x.team.grid).x + 1 ≤ 2 ^ 32 - 1) = true) ∧
    (let i := Instr.wflush g0
     readyWith i (at32 i) (fun x s => !x.gang.flushBlocked && (match s.spillAll x.key x.gang.spillFuel with | .ok _ => true | _ => false)) = true ∧
     readyWith i (spillAt (at32 i)) (fun x s => !x.gang.flushBlocked && (match s.spillAll x.key x.gang.spillFuel with | .fault .. => true | _ => false)) = true ∧
     readyWith i ((spillAt (at32 i)).modGang key fun g => { g with lastPath := 1, taken := [2, 3, 4, 5, 6], flights := [{ flightTo 5 [.vec 40 1] with window := none }] }) (fun x _ => x.gang.flushBlocked) = true) ∧
    (((at32 .nop).gang key).nextSpill).isNone = true ∧ (((spillAt (at32 .nop)).gang key).nextSpill).isSome = true := by decide +kernel
/-- A handler at offset 0 of the code, a landing clause, in a launch whose VTOP leaves room for the handler's slide. -/
def withHandler (s : State) : State :=
  (s.modCtx ⟨0, 0⟩ fun c => { c with handler := 0x10000 }).setGrid 0 { s.grid 0 with launch := { launch32 with vtop := 95 } }
theorem witness_TrapEntrySavesAndEnters : (let s := withHandler (at32 .nop)
     (s.gang key).trapReady = true ∧ (s.launchOf key).vtop ≠ 127 ∧ ((s.ctx ⟨0, 0⟩).handler + 2 ^ 64 - (s.launchOf key).codeBase) % 2 ^ 64 = 0 ∧ (s.leaveSlot key).canEnter key 0 = true) ∧
    (((at32 .nop).modGang key fun g => { g with flights := [flightTo 5 [.vec 20 1]] }).gang key).trapReady = false ∧ ((at32 .nop).landing key 8) = false := by decide +kernel
def trapState : TrapState := ⟨0x50, 8, 8, false, 1, 0, [], none, false, 1, [{ Path.empty with id := 1, pos := 1, mask := fullMask 32 }], [], none⟩
def trapped (tr : TrapState) (s : State) : State := (inFrame true (inHandler s)).modGang key fun g => { g with traps := [tr] }
def blocked (s : State) : State := s.modGang key fun g => { g with lastPath := 1, flights := [{ flightTo 5 [.vec 90 1] with window := none, depth := 1 }] }
/-- An ERET ready to leave: no other handler path stands anywhere but at this ERET. -/
def awaited (x : Issue) : Bool := x.gang.paths.any fun p => p.id ≠ x.path.id && !(p.st = .atEret && p.hdr = x.path.hdr && p.pos = x.path.pos)
def leaves (s : State) (f : Issue → State → Bool) : Bool := readyWith (.eret g0) s fun x s => !awaited x && f x s
/-- An ERET that leaves, one that waits for another path, one from a call's frame, one to a bad TNEXT, one that waits for a result, one whose refill faults. -/
theorem witness_EretRestoresTheTrappedPaths : let i := Instr.eret g0
    leaves (trapped trapState (at32 i)) (fun x s => (x.gang.frames.getLast?.map Frame.trapFrame) = some true && !x.gang.topTrap.tnextWritten && !x.gang.returnBlocked x.gang.depth &&
      (match s.refillTo x.key (x.gang.depth - 1) (14 * (x.gang.depth + 1)) with | .ok _ => true | _ => false)) = true ∧
    readyWith i ((trapped trapState (at32 i)).modGang key fun g => { g with paths := g.paths ++ [{ Path.empty with id := 7, mask := 1 }] }) (fun x _ => awaited x) = true ∧
    readyWith i ((trapped trapState (at32 i)).modGang key fun g => { g with paths := g.paths ++ [{ Path.empty with id := 7, hdr := 8, mask := 1, st := .atEret }] }) (fun x _ => awaited x) = true ∧
    leaves (inFrame false (inHandler (at32 i))) (fun x _ => (x.gang.frames.getLast?.map Frame.trapFrame) = some false) = true ∧
    leaves (trapped { trapState with tnextWritten := true } (at32 i)) (fun x s => x.gang.topTrap.tnextWritten && !s.landing x.key x.gang.topTrap.tnext.toNat) = true ∧
    leaves (blocked (trapped trapState (at32 i))) (fun x _ => x.gang.returnBlocked x.gang.depth) = true ∧
    leaves ((trapped trapState (at32 i)).modGang key fun g => { g with frames := g.frames.map fun f => { f with recSpilled := true } })
      (fun x s => match s.refillTo x.key (x.gang.depth - 1) (14 * (x.gang.depth + 1)) with | .fault .. => true | _ => false) = true := by decide +kernel
theorem witness_WaitWatchesTheCounters : let i := Instr.wait g0 ⟨true, 0, 15⟩
    field (0xC000_0000_0000_000A#64) 56 8 = 0xC0#8 ∧ readyWith i (at32 i) (fun x s => (s.gang x.key).waitMet true 0 15) = true ∧
    readyWith i ((at32 i).modGang key fun g => { g with lastPath := 1, flights := [flightTo 5 [.vec 20 1]] }) (fun x s => !(s.gang x.key).waitMet true 0 15) = true := by decide +kernel
/-- A barrier object of two arrivals at 0x40, and one made invalid. -/
def withBarrier (w0 : Nat) (s : State) : State := s.setObjWord 0 0x40 0 w0
theorem witness_BarrierInstructions :
    (let i := Instr.binit g0 ⟨.iconst 0, .iconst 2, 0x40⟩
     readyWith i (at32 i) (fun x s => x.barrierOf s (.iconst 0) 0x40 = .ok (0, 0x40) && !(s.syncPoint x.key).barrierBusy 0 0x40) = true ∧
     readyWith i ((at32 i).setObjWord 0 0x40 1 64) (fun x s => (s.syncPoint x.key).barrierBusy 0 0x40) = true) ∧
    (let i := Instr.binit g0 ⟨.iconst 0, .s 9, 0x40⟩
     readyWith i (setS 9 0x8000 (at32 i)) (fun x s => 32767 < x.once s (.s 9) 1 % 2 ^ 32) = true) ∧
    (let i := Instr.bwait g0 ⟨.iconst 0, .iconst 0, 0x40⟩
     readyWith i (withBarrier 0x00020002 (at32 i)) (fun x s => !decide ((s.catchUp x.key).objWord 0 0x40 0 ≥ 2 ^ 31)) = true ∧
     readyWith i (withBarrier 0x80020002 (at32 i)) (fun x s => decide ((s.catchUp x.key).objWord 0 0x40 0 ≥ 2 ^ 31)) = true) ∧
    (let i := Instr.barrive g0 ⟨0, .s 10, .iconst 0, 0x40⟩
     readyWith i (withBarrier 0xFFFFFFFF (at32 i)) (fun x s => (s.syncPoint x.key).objWord 0 0x40 0 = 0xFFFFFFFF) = true) ∧
    Team.empty.holds launch32 0x40 = true ∧ Team.empty.holds launch32 0x10000 = false := by decide +kernel
theorem witness_ArrivalsFlipTheBarrier : [0x00020002, 0x80020001, 0x00020000].all (fun w => (withBarrier w (at32 .nop)).objWord 0 0x40 0 = w) = true := by
  decide +kernel
/-- A global barrier 3 of context 0 with two arrivals, and ring 0 of depth 2. -/
def withSync (ph : Bool) (w1 : Nat) (s : State) : State :=
  let s := (s.modPart 0 fun p => { p with gbars := [(3, ⟨ph, 2, 2, 0⟩)] }).setGrid 0 { s.grid 0 with launch := { launch32 with rings := [2] } }
  (s.setObjWord 0 4096 0 1).setObjWord 0 4096 1 w1
theorem witness_GlobalBarriersRingsAndTsync :
    (let i := Instr.gbarrive g0 ⟨0, .s 20, .iconst 0, 3⟩
     readyWith i (withSync false 0 (at32 i)) (fun x s => x.gbarOf s (.iconst 0) 3 = some 3) = true ∧ readyWith i (at32 i) (fun x s => x.gbarOf s (.iconst 0) 3 = none) = true) ∧
    (let i := Instr.gbwait g0 ⟨.iconst 0, .iconst 0, 3⟩
     readyWith i (withSync true 0 (at32 i)) (fun x s => (s.gbar x.team.ctx.part 3).ph) = true ∧ readyWith i (withSync false 0 (at32 i)) (fun x s => !(s.gbar x.team.ctx.part 3).ph) = true) ∧
    (let i := Instr.racq g0 ⟨0, .s 20, 0⟩
     readyWith i (withSync false 0 (at32 i)) (fun x s => x.ringAt (s.syncPoint x.key) 0 = some (0, 4096) && ringStage ((s.syncPoint x.key).objWord 0 4096 1) 0 = 0) = true ∧
     readyWith i (withSync false 1 (at32 i)) (fun x s => ringStage ((s.syncPoint x.key).objWord 0 4096 1) 0 = 1) = true ∧ readyWith i (at32 i) (fun x s => x.ringAt (s.syncPoint x.key) 0 = none) = true) ∧
    (let i := Instr.rwait g0 ⟨0, .s 20, 0⟩
     readyWith i (withSync false 2 (at32 i)) (fun x s => ringStage ((s.syncPoint x.key).objWord 0 4096 1) 0 = 2) = true) ∧
    (let i := Instr.rcommit g0 ⟨.iconst 0, 0⟩
     readyWith i (withSync false 1 (at32 i)) (fun x s => ringStage ((s.syncPoint x.key).objWord 0 4096 1) 0 = 1) = true) ∧
    (let i := Instr.rfree g0 ⟨.iconst 0, 0⟩
     readyWith i (withSync false 3 (at32 i)) (fun x s => ringStage ((s.syncPoint x.key).objWord 0 4096 1) 0 = 3) = true) ∧
    readyWith (.tsync g0) (at32 (.tsync g0)) (fun x s => (s.gang x.key).drained) = true := by decide +kernel
def send : Instr := .msgsend g0 ⟨.mo 1, .iconst 1, false⟩
def receive (nb : Bool) : Instr := .msgrecv g0 ⟨0, .s 20, .mi 1, nb, 3⟩
def flit : Flit := ⟨3, 0, 0, 1, some 9, 7⟩
def bound (owner : GangKey) (credit : Bool) (s : State) : State := s.modCore 0 fun c => { c with mo := [(1, ⟨owner, 5, 1, credit, 7⟩)] }
/-- CHANBIND to a core without a team, to one, to a fenced one, and over another gang's binding; the four answers to a send; a flit, an open and a closed channel; flits on their way, one behind another. -/
theorem witness_ChannelsAndMessages :
    (let i := Instr.chanbind g0 ⟨.iconst 0, 1, 1⟩
     let far := Instr.chanbind g0 ⟨.iconst 3, 1, 1⟩
     let there (x : Issue) (s : State) : Bool := (s.part x.team.ctx.part).ownsCore 0 && s.coreHasTeam x.team.ctx 0
     readyWith i (at32 i) (fun x s => there x s && !s.pkg.fenced.contains (dieOf 0) && (s.core 0).mo = []) = true ∧
     readyWith i ((at32 i).modPkg fun p => { p with fenced := [0] }) (fun x s => there x s && s.pkg.fenced.contains (dieOf 0)) = true ∧
     readyWith far (at32 far) (fun x s => !s.coreHasTeam x.team.ctx 3) = true ∧
     readyWith i (bound ⟨0, 1⟩ true (at32 i)) (fun x s => there x s && (match tget (s.core x.gang.core).mo 1 with | some b => b.owner ≠ x.key | none => false)) = true) ∧
    readyWith send (bound key true (at32 send)) (fun x s => match s.sendCheck x.key 1 with | .ready _ => true | _ => false) = true ∧
    readyWith send (bound key false (at32 send)) (fun x s => match s.sendCheck x.key 1 with | .full => true | _ => false) = true ∧
    readyWith send (at32 send) (fun x s => match s.sendCheck x.key 1 with | .closed => true | _ => false) = true ∧
    readyWith send ((bound key true (at32 send)).modPkg fun p => { p with fenced := [0] }) (fun x s => match s.sendCheck x.key 1 with | .fenced => true | _ => false) = true ∧
    readyWith (receive false) ((at32 (receive false)).modCore 0 fun c => { c with flits := [(1, flit)] }) (fun x s => tget (s.core (s.gang x.key).core).flits 1 = some flit) = true ∧
    [true, false].all (fun nb => readyWith (receive nb) ((at32 (receive nb)).modCore 0 fun c => { c with producers := [(1, 1)] }) (fun x s => tgetD (s.core (s.gang x.key).core).producers 1 0 ≠ 0)) = true ∧
    readyWith (receive false) (at32 (receive false)) (fun x s => tgetD (s.core (s.gang x.key).core).producers 1 0 = 0) = true ∧
    readyWith movOut ((at32 movOut).modCore 0 fun c => { c with mo := [(2, ⟨key, 5, 1, false, 7⟩)] }) (fun x s => match s.sendCheck x.key 2 with | .full => true | _ => false) = true ∧
    ({ at32 .nop with transit := [flit] }).nextFlit 3 0 [] [flit] = some (flit, []) ∧ ({ at32 .nop with transit := [flit] }).pkg.fenced.contains (dieOf flit.core) = false ∧
    ({ at32 .nop with transit := [flit, flit] }).nextFlit 3 0 [] [flit, flit] = some (flit, [flit]) := by decide +kernel
-- The other agents

/-- The weighbridge's limit and the temperatures are the firmware's (log 2): where a clause compares with them, the witness names the value it needs. -/
theorem witness_PowerRequestsAndSteps :
    (let i := Instr.pwrreq g0 ⟨0, .s 20, .s 21⟩
     readyWith i (at32 i) (fun x s => x.once s (.s 21) 1 = 0) = true ∧ readyWith i (setS 21 65536 (at32 i)) (fun x s => 65535 < x.once s (.s 21) 1) = true ∧
     readyWith i (setS 21 1 (at32 i)) (fun x s => x.once s (.s 21) 1 = 1 && s.reserved (clusterOf x.gang.core) = 0) = true) ∧
    (at32 .nop).oldestRequest 0 (fun _ _ => true) = none ∧ ((at32 .nop).modGang key fun g => { g with leave := .waiting 4096 7 3 }).oldestRequest 0 (fun _ _ => true) = some (key, 7, 4096, 3) ∧
    (at32 .nop).clusterTeams 0 ≠ [] ∧ (at32 .nop).clusterTeams 5 = [] ∧ (at32 .nop).gang key = (at32 .nop).gang key := by decide +kernel
theorem witness_CoreEventsAct : let s := at32 .nop
    let idle := s.leaveSlot key
    (s.bench 0 0).slot ≠ [] ∧ (State.reset.bench 0 0).slot = [] ∧ (State.reset.noteReady 0).readyOn 0 0 = [] ∧ (idle.bench 0 0).slot = [] ∧
    (tget s.gangs key).isSome = true ∧ (tget (s.modGang key fun g => { g with passed := 48 }).gangs key).any (fun g => decide (48 ≤ g.passed)) = true ∧
    (match s.lookup (some 0) ⟨0, 0⟩ 0x10000 with | .ok _ => true | .error _ => false) = true := by decide +kernel
theorem witness_IssueSelectPicks : let s := (at32 .nop).leaveSlot key
    let t := (s.modGang key fun g => { g with paths := [{ Path.empty with id := 1, mask := fullMask 32 }] }).noteReady 0
    (t.bench 0 0).slot = [] ∧ 16 < (t.gang key).width := by decide +kernel
def trapAt : TrapInfo := ⟨0x50, 0, false, 8, 8, 1, 0, [], none, 1⟩
theorem witness_TrapWatchdogAndReplySteps : let s := (at32 .nop).modGang key fun g => { g with pendingTrap := some trapAt }
    (s.gang key).pendingTrap = some trapAt ∧ (s.gang key).trapReady = true ∧
    (s.modGang key fun g => { g with flights := [flightTo 5 [.vec 20 1]] }).gang key = { s.gang key with flights := [flightTo 5 [.vec 20 1]] } ∧
    (({ s.gang key with flights := [flightTo 5 [.vec 20 1]] } : Gang).trapReady) = false ∧
    ((at32 .nop).gang key).watch = .counting ∧ ((at32 .nop).team 0).res = .placed ∧ ((at32 .nop).ctx ⟨0, 0⟩).wdlimit = 0 ∧
    ((at32 .nop).leaveSlot key).watchPath key = none ∧
    (tget ((at32 .nop).modGang key fun g => { g with watch := .grace 0 }).gangs key).any (fun g => decide (g.watch = .grace 0)) = true ∧
    ((at32 .nop).part 0).fq = [] ∧ ((at32 .nop).modPart 0 fun p => { p with fq := [⟨4, ⟨0, 0⟩, 0x20000, 0x10, 1, [.gang key]⟩] }).part 0 ≠ (at32 .nop).part 0 := by decide +kernel
/-- A page that holds the gangs' spill area, whose base is 0 in these launches. -/
def withStack (s : State) : State :=
  s.modCore 0 fun c => { c with tlb := tset c.tlb 0 (⟨0, 65536, 0x30000, false, true, 0, 31, 0, 2, true⟩ :: tgetD c.tlb 0 []) }
def entry : Spawn := ⟨0x10, ⟨some 0x10, 0, 0, 3, 0, 1⟩, 1, 0, 3, [], [], 0, 32, 0, 0, none⟩
theorem witness_FormerPorterAndGangEnd : let s := (at32 .nop).modTeam 0 fun t => { t with spawn := List.replicate 32 entry }
    (s.spawnKeys 0).find? (s.keyFull 0) ≠ none ∧
    (let u := (at32 .nop).modTeam 0 fun t => { t with spawn := [entry] }
     (u.spawnKeys 0).find? (u.keyFull 0) = none ∧ u.spawnKeys 0 ≠ [] ∧ u.teamIdle 0 = false ∧ (u.modGang key fun g => { g with exited := fullMask 32 }).teamIdle 0 = true) ∧
    (let u := (at32 .nop).modTeam 0 fun t => { t with spawn := [{ entry with age := 65535 }] }
     (u.spawnKeys 0).find? (u.keyOld 0) ≠ none) ∧
    ((at32 .nop).gang key).over = false ∧ ((at32 .nop).modGang key fun g => { g with exited := fullMask 32 }).gang key = { (at32 .nop).gang key with exited := fullMask 32 } ∧
    ({ (at32 .nop).gang key with exited := fullMask 32 } : Gang).over = true ∧
    (match ((inFrame false (at32 .nop)).spillItem key).1 with | .fault .. => true | _ => false) = true ∧ (match ((inFrame false (withStack (at32 .nop))).spillItem key).1 with | .ok _ => true | _ => false) = true ∧
    (((inFrame false (at32 .nop)).modGang key fun g => { g with frames := g.frames.map fun f => { f with recSpilled := true } }).gang key).wantsRefill = true := by decide +kernel
def task (k : TaskKind) (st : TaskStatus) : Task := { parseTask (List.replicate 128 0) k 0 0 with status := st }
def withTask (t : Task) : State :=
  { (State.reset.modCtx ⟨0, 0⟩ fun c => { c with run := true }) with tasks := [((⟨0, 0⟩, 3), t)] }
def gridOf (l : Launch) : Grid := { (at32 .nop).grid 0 with ctx := ⟨0, 0⟩, task := 3, launch := l, x := 1, next := 0, codebooks := none }
def smallLaunch : Launch := { launch32 with gangs := 1, slots := [], vtop := 0, scalars := 0, scratch := 0, barriers := 0, rings := [], tiles := 0, accs := 0, tables := 0, winMax := 2, winMin := 1 }
theorem witness_ForemanEvents : let s := State.reset.modCtx ⟨0, 0⟩ fun c => { c with run := true }
    (s.ctx ⟨0, 0⟩).run = true ∧ s.pkg.wiping = false ∧ 3 < (s.ctx ⟨0, 0⟩).devbase ∧ (State.reset.ctx ⟨0, 0⟩).run = false ∧ (State.reset.ctx ⟨0, 0⟩).posts = [] ∧
    (s.modCtx ⟨0, 0⟩ fun c => { c with posts := [3] }).ctx ⟨0, 0⟩ ≠ s.ctx ⟨0, 0⟩ ∧ State.reset.readyOrder 0 = [] ∧
    (let u := (withTask (task .grid .ready)).setGrid 0 (gridOf smallLaunch)
     (tget u.tasks (⟨0, 0⟩, 3)).map (fun k => k.status) = some .ready ∧ (tget u.grids 0).map (fun g => g.codebooks) = some none ∧
     (match u.readBooks ⟨0, 0⟩ ((List.range 8).map fun i => (i, smallLaunch.slot i)) with | .ok _ => true | _ => false) = true) ∧
    (let g := { gridOf smallLaunch with codebooks := some [] }
     let u := ((withTask (task .grid .ready)).setGrid 0 g).modPart 0 fun p => { p with hcmask := 1 }
     (u.readyOrder 0).map Prod.fst = [0] ∧ (u.placeTeam 0 0 g ⟨0, 0, 0⟩).isSome = true) ∧
    (task .copy .ready).job = none ∧ (task .copy .pending).status ≠ .ready := by decide +kernel
theorem witness_OnlyPowerOffStops : State.reset.pkg.powered = true ∧ ({ State.reset with pkg := { State.reset.pkg with powered := false } }).pkg.powered = false := by decide +kernel

-- Pre-emption, the host's registers, security, links and errors

/-- A placed team that stands at a safe clause with a little launch, told to pre-empt, and a page at 0x40000 for its save slot. -/
def preempted (n : Nat) : State :=
  let s := withSafe (at32 .nop)
  let s := s.setGrid 0 { s.grid 0 with launch := { smallLaunch with safe := 0x20200, liveTab := 0x20400, liveRecs := 1 }, ctx := ⟨0, 0⟩ }
  let s := (s.modCtx ⟨0, 0⟩ fun c => { c with savebase := 0x20800, saveslots := 1, tbase := 0x100000 }).modTeam 0 fun t => { t with preempting := true }
  s.modGang key fun g => { g with preempt := .pending n, paths := g.paths.map fun p => { p with pos := 0 } }
theorem witness_PreemptionEventsAct :
    State.placedTeams (at32 .nop) (fun t => decide (t.ctx = ⟨0, 0⟩)) = [0] ∧ ((at32 .nop).gang key).preempt = .no ∧ (tget ((at32 .nop).setGang ⟨1, 0⟩ Gang.empty).gangs ⟨1, 0⟩).isSome = true ∧
    (let s := (at32 .nop).modGang key fun g => { g with preempt := .pending 140000, paths := g.paths.map fun p => { p with pos := 0 } }
     (s.gang key).preempt = .pending 140000 ∧ s.arrived key = false ∧ s.atBoundary key = true) ∧
    (let s := (at32 .nop).modGang key fun g => { g with preempt := .pending 3, paths := g.paths.map fun p => { p with pos := 0 } }
     (s.gang key).preempt = .pending 3 ∧ s.arrived key = false ∧ s.atBoundary key = true) ∧
    ((at32 .nop).team 0).preempting = false ∧ ((at32 .nop).part 0).swapping = false ∧
    (let s := (State.reset.modPart 0 fun p => { p with swapping := true })
     (s.part 0).swapping = true ∧ s.partFlits 0 = false ∧ s.placedTeams (fun t => t.ctx.part = 0) = []) := by decide +kernel
theorem witness_TeamSave : let s := preempted 0
    s.teamHalted 0 = true ∧ s.flitsDue 0 = false ∧ s.freeSlot ⟨0, 0⟩ = some 0 ∧ (match s.spillTeam 0 with | .ok _ => true | .error _ => false) = true ∧
    (match ((inFrame false s).modCore 0 fun c => { c with tlb := [] }).spillTeam 0 with | .ok _ => false | .error _ => true) = true := by decide +kernel

/-- Partition 0 at reset with key domain 0, and a running context. -/
def domained : State := State.reset.modPart 0 fun p => { p with kdmask := 1 }
def running : State := State.reset.modCtx ⟨0, 0⟩ fun c => { c with run := true }
theorem witness_RegisterWrites : (domained.stopped 0 = true ∧ (domained.part 0).kdmask.getLsbD 0 = true ∧ domained.ownsRange 0 0 (2 ^ 17) = true) ∧
    running.stopped 0 = false ∧ (running.ctx ⟨0, 0⟩).run = true ∧ (State.reset.ctx ⟨0, 0⟩).run = false ∧ State.reset.pkg.fwGood = true ∧
    shapeOk 1 = true ∧ shapeOk 0x00F = true ∧ shapeOk 5 = true ∧ shapeOk 0x0C3 = false ∧ (State.reset.gbar 0 0).pending = (State.reset.gbar 0 0).expect ∧
    ((State.reset.modPart 0 fun p => { p with gbars := [(3, ⟨false, 1, 2, 0⟩)] }).gbar 0 3).pending ≠ ((State.reset.modPart 0 fun p => { p with gbars := [(3, ⟨false, 1, 2, 0⟩)] }).gbar 0 3).expect ∧
    (0x8000000000000000#64).toNat.testBit 63 = true := by decide +kernel
/-- Which images are signed, their versions, and which wrapped keys unwrap are opaque (log 2): those premises are each one way or the other. -/
theorem witness_SecurityEvents : (State.reset.part 0).kdmask.getLsbD 0 = false ∧ (domained.part 0).kdmask.getLsbD 0 = true ∧ (Config.unwraps 0 [] [] = true ∨ Config.unwraps 0 [] [] = false) ∧
    State.reset.pkg.life = .manufacture ∧ ({ State.reset.pkg with life := LifeCycle.deployed }).idKey = true ∧ State.reset.pkg.life.code < 1 ∧
    ({ State.reset.pkg with fwGood := false }).fwGood = false ∧ (Config.imageSigned [] = true ∨ Config.imageSigned [] = false) := by
  refine ⟨by decide +kernel, by decide +kernel, by cases Config.unwraps 0 [] [] <;> simp, by decide +kernel, by decide +kernel, by decide +kernel, by decide +kernel,
    by cases Config.imageSigned [] <;> simp⟩
def hostFlight : Flight :=
  { flightTo 5 [] with slot := some ⟨0, 1, [(0, 0x20000)], [], none⟩, todo := [⟨0, 0x20000, .mem (0x7FF * 2 ^ 41) 0 0 false, .load 4 false false 0⟩] }
def keyed : State := { State.reset with pkg := { State.reset.pkg with keys := [(0, 1)] } }
theorem witness_LinkEvents : isHost (0x7FF * 2 ^ 41) = true ∧ isHost 0x1000 = false ∧ keyed.domainGone 0 = false ∧ keyed.domainGone 1 = true ∧ keyed.heldHbm 0x1000 8 = true ∧
    keyed.heldHbm (2 ^ 41) 8 = false ∧ keyed.poisonedIn 0x1000 8 = false ∧ (keyed.modPkg fun p => { p with poisoned := [0x10] }).poisonedIn 0x1000 8 = true ∧
    ((∀ i, i < 8 → packageOf (2 ^ 41 + i) ≠ keyed.pkg.pkgid ∧ isHost (2 ^ 41 + i) = false) ∧ isHost (2 ^ 41) = false) ∧
    (∀ p, p < 12 → State.reset.stopped p = true) ∧ running.stopped 0 = false ∧ State.reset.pkg.fabricFixed = false ∧
    (((at32 .nop).gang key).hostFlight = none) ∧
    (((at32 .nop).modGang key fun g => { g with flights := [hostFlight] }).gang key).hostFlight = some (hostFlight, ⟨0, 1, [(0, 0x20000)], [], none⟩) := by decide +kernel
def anError (cls unit : BitVec 8) : HwError := ⟨0, cls, unit, 0, none, 0x1000, 0⟩
theorem witness_DieAndErrorEvents : State.reset.pkg.fenced.contains 3 = false ∧ ({ State.reset.pkg with fenced := [3] }).fenced.contains 3 = true ∧ State.reset.pkg.absent.contains 3 = false ∧
    ({ State.reset.pkg with absent := [3] }).absent.contains 3 = true ∧ (anError 1 5).cls = 1 ∧ tgetD State.reset.pkg.logged (errorUnit (anError 1 5)) (0, 0) = (0, 0) ∧
    State.reset.ownHbm (anError 2 5).pa.toNat 1 = true ∧ (anError 2 5).pa ≠ 0 ∧ (anError 2 5).unit ≠ 1 ∧ (anError 2 5).unit ≠ 2 ∧ (anError 2 5).part < 12 ∧ (anError 2 1).unit = 1 ∧
    (let t := after (.copyJobAccept 1) copied
     (match t.jobs with | [(_, j)] => t.jobReads { j with kind := .copy .global .local .raw Slot.none } 2 0 | _ => false)) = true ∧
    (let s := (at32 .nop).modEngine 0 fun e => { e with running := some (opOf (.azero 1) false) }
     (s.core 0).engine.slaved = false ∧ (s.core 0).engine.running = some (opOf (.azero 1) false)) := by decide +kernel
-- More of the hypotheses

/-- A group table of two members at VA 0x20000, its COLL descriptor in s16 to s23: one F32 element, ALLREDUCE. -/
def collWord : Instr := .coll g0 ⟨.s 16, none, none⟩
def withColl (count : Word) (s : State) : State :=
  let s := withPage (setS 21 0x20000 (setS 20 count s))
  { s with mem := s.mem.writeN 0x20000 2 2 }
theorem witness_CollHandsOver :
    readyWith collWord (grant (withColl 1 (at32 collWord))) (fun x s => let w := x.descWords (.s 16)
      collFieldsOk w && ((s.catchUp x.key).tableHead x.team.ctx (some x.gang.core) (parseColl w).table).map Prod.snd = some 2 && (s.leaveNow x.key 64 0).isSome) = true ∧
    readyWith collWord (withColl 0 (at32 collWord)) (fun x _ => !collFieldsOk (x.descWords (.s 16))) = true ∧
    readyWith collWord ((withColl 1 (at32 collWord)).modGang key fun g => { g with leave := .waiting 64 1 0 }) (fun x s => (s.leaveNow x.key 64 0).isNone) = true := by decide +kernel
theorem witness_TaskQueries : let i := Instr.cpyq g0 ⟨0, .s 16, .s 9⟩
    readyWith i (at32 i) (fun x s => match s.queryTask x.team.ctx (x.once s (.s 9) 1) with | .error _ => true | .ok _ => false) = true ∧
    readyWith i ((withTables (at32 i)).modCtx ⟨0, 0⟩ fun c => { c with taskarea := 0x20000 }) (fun x s => match s.queryTask x.team.ctx (x.once s (.s 9) 1) with | .ok _ => true | .error _ => false) = true := by decide +kernel
/-- An accepted copy of a row that no page maps, one whose units are all moved, one behind an unaccepted job, and an empty one. -/
theorem witness_JobsFaultAndEnd : (match copied.jobs with
     | [(n, j)] =>
       let u := copied.modCore 0 fun c => { c with tlb := [] }
       (u.jobFault n { j with accepted := true }).isSome && (match j.shape with | some sh => ({ j with moved := List.range 64 } : Job).unitsLeft sh = [] && 0 ∈ j.unitsLeft sh | none => false) &&
       ({ copied with jobs := [(0, { j with order := 0 }), (n, { j with order := 5 })] }).jobBlocked { j with order := 5 }
     | _ => false) = true ∧
    readyWith copyRow (withRow 0 (at32 copyRow)) (fun x _ => destBytes (x.fmtOf .raw 0) (parseDesc (x.descWords (.s 16))) = 0) = true := by decide +kernel
/-- LUTMM with leave: its table never built, built, and behind a running operation. -/
def lutWord : Instr := .lutmm g0 ⟨false, 0, 1, false, 0, .s 11, .v 0, 1, 4⟩
def lutGo (x : Issue) (s : State) (f : State → Bool) : Bool :=
  match engineIssue (.lutmm 0 0 1 1 4 (x.handleOf s false (.v 0))) false (some (.s 11)) x s with | .done sq => f sq | _ => false
def ownOp (sq : State) (ok : Bool) : Bool := match sq.startable 0 with | some o => o.order + 1 = sq.seq && sq.tableOk 0 o = ok | none => false
theorem witness_LutmmChecksItsTable :
    readyWith lutWord (grant (at32 lutWord)) (fun x s => lutGo x s fun sq => ownOp sq false) = true ∧
    readyWith lutWord (grant ((at32 lutWord).modTeam 0 fun t => { t with records := (List.range 4).map fun b => ((b, 0), ⟨.valid, 0, 1, 4, 0⟩) })) (fun x s => lutGo x s fun sq => ownOp sq true) = true ∧
    readyWith lutWord (grant ((at32 lutWord).modEngine 0 fun e => { e with running := some (opOf (.azero 1) false) })) (fun x s => lutGo x s fun sq => sq.startable 0 = none) = true ∧
    readyWith (aMmad false) (grant ((at32 (aMmad false)).modEngine 0 fun e => { e with queue := List.replicate 4 (opOf (.azero 1) false) }))
      (fun x s => decide (4 ≤ (s.core (x.queueCore false)).engine.queue.length) && (s.gang x.key).leave = .granted) = true := by decide +kernel
/-- Sixty-four paths that wait at the queue. -/
theorem witness_QueueOverflows : readyWith popWord ((withQueue 0 (at32 popWord)).modGang key fun g =>
      { g with traps := [{ trapState with paths := List.replicate 64 { Path.empty with id := 7, st := .parked (.queue 0x20000 1) } }], handlerMode := true })
    (fun _ s => 64 ≤ s.queueWaiters 0x20000) = true ∧
    readyWith popWord (withQueue 0 (at32 popWord)) (fun _ s => s.queueWaiters 0x20000 < 64) = true ∧
    (let i := Instr.qpush g0 ⟨0, .p 3, .s 4, .v 22, .w4⟩
     let o := pushOp ⟨0, .p 3, .s 4, .v 22, .w4⟩
     readyWith i (withQueue 4 (at32 i)) (fun x s => (s.catchUp x.key).checkQueues x.key o [(0, 0x20000)] = none &&
       (match s.translate x.team.ctx (some 0) .atomic none 0x20000 with | .ok l => (match (s.queueAt l).2 with | some q => decide (q.capacity ≤ q.count) | none => false) | .error _ => false)) = true ∧
     readyWith i (at32 i) (fun x s => ((s.catchUp x.key).checkQueues x.key o [(0, 0x90000)]).isSome) = true) := by decide +kernel
/-- A misaligned barrier offset, one outside the allocation, BTRY and BSTAT of a valid object. -/
theorem witness_BarrierCauses :
    [(0x44, Trap.of 0x39), (0x8000, Trap.of 0x11)].all (fun e => let i := Instr.bstat g0 ⟨0, .s 20, .iconst 0, BitVec.ofNat 16 e.1⟩
      readyWith i (at32 i) fun x s => match x.barrierOf s (.iconst 0) (BitVec.ofNat 16 e.1) with | .error c => c = e.2 | .ok _ => false) = true ∧
    (let i := Instr.bstatClr g0 ⟨0, .s 20, .iconst 0, 0x40⟩
     readyWith i (withBarrier 0x00020002 (at32 i)) (fun x s => x.barrierOf s (.iconst 0) 0x40 = .ok (0, 0x40)) = true) ∧
    (let i := Instr.btry g0 ⟨0, .p 2, .iconst 0, .iconst 1, 0x40⟩
     readyWith i (withBarrier 0x00020002 (at32 i)) (fun x s => (s.catchUp x.key).objWord 0 0x40 0 ≠ 0xFFFFFFFF) = true) := by decide +kernel
theorem witness_TimesRebase : (State.reset.part 0).top + 2 ^ 21 < 2 ^ 48 ∧ 2 ^ 48 ≤ ((State.reset.modPart 0 fun p => { p with top := 2 ^ 48 - 1 }).part 0).top + 2 ^ 21 ∧
    (State.reset.part 0).ownsCore 0 = true ∧ (State.reset.part 1).ownsCore 0 = false ∧
    (let l : Lag := ⟨0x20000, [0, 0], [1, 2], some key, []⟩
     1 ∈ l.dies ∧ l.addr ≤ 0x20001 ∧ 0x20001 < l.addr + l.olds.length) := by decide +kernel
/-- A watchdog that has run out, on a gang at a clause boundary; a path that waits; an entry of the queue with its gang parked. -/
theorem witness_WatchdogRunsOut :
    (let s := ((at32 .nop).modCtx ⟨0, 0⟩ fun c => { c with wdlimit := 5 }).modGang key fun g => { g with wdCycles := 5, paths := g.paths.map fun p => { p with pos := 0 } }
     (s.gang key).wdCycles = 5 ∧ (s.gang key).watch = .counting ∧ (s.gang key).pendingTrap = none ∧ (s.watchPath key).isSome = true ∧ (s.gang key).faultWait = none ∧
     ((s.modGang key fun g => { g with pendingTrap := some trapAt }).gang key).pendingTrap.isSome = true) ∧
    (let w : PageWait := ⟨trapAt, 0x20000, 0x10, .load, 1, some 4, none⟩
     let s := ((at32 .nop).modPart 0 fun p => { p with fq := [⟨4, ⟨0, 0⟩, 0x20000, 0x10, 1, [.gang key]⟩] }).modGang key fun g => { g with faultWait := some w }
     ((s.part 0).fq.find? fun e => e.seq = 4).isSome = true ∧ (∀ e ∈ (s.part 0).fq, e.seq ≠ 5) ∧ (s.gang key).faultWait = some w ∧ w.info.replay = none ∧
     ({ w.info with replay := some ⟨0, 1, [], [], none⟩ } : TrapInfo).replay.isSome = true) := by decide +kernel
/-- A key that is released, one with an entry in the overflow area, an entry that returns, and a refill that goes well. -/
theorem witness_FormerReleases :
    (let s := (at32 .nop).modTeam 0 fun t => { t with spawn := [entry] }
     let cell := { entry with cell := some 0 }
     let u := (at32 .nop).modTeam 0 fun t => { t with spawn := [cell] }
     (s.spawnKeys 0).all (fun k => (s.release 0 k).isSome && (s.underKey 0 k).length = 1) = true ∧ (u.spawnKeys 0).all (fun k => (u.release 0 k).isNone) = true ∧
     s.nextBack 0 (s.team 0).spawn [] = none ∧ u.nextBack 0 (u.team 0).spawn [] = some cell ∧
     (match (u.modCore 0 fun c => { c with tlb := [] }).locs ⟨0, 0⟩ (some 0) .refill none (u.cellAddr 0 0) 32 with | .error _ => true | .ok _ => false) = true ∧
     (match (withStack u).locs ⟨0, 0⟩ (some 0) .refill none ((withStack u).cellAddr 0 0) 32 with | .ok _ => true | .error _ => false) = true) ∧
    (let s := (inFrame false (withStack (at32 .nop))).modGang key fun g => { g with frames := g.frames.map fun f => { f with recSpilled := true } }
     (s.gang key).wantsRefill = true ∧ (match s.refillItem key with | .ok _ => true | _ => false) = true) ∧
    (stopped (at32 .nop)).gang key ≠ (at32 .nop).gang key ∧ ((at32 .nop).gang key).wantsRefill = false := by decide +kernel
/-- A posted task's codebook that cannot be read, and a task that is ready to start. -/
theorem witness_CodebooksFault :
    (let u := (withTask (task .grid .ready)).setGrid 0 { gridOf smallLaunch with launch := { launch32 with slots := [⟨0x22, false, .rn, 0, 0, 16, 0, 0x40000000⟩] } }
     (match u.readBooks ⟨0, 0⟩ ((List.range 8).map fun i => (i, (u.grid 0).launch.slot i)) with | .error _ => true | .ok _ => false) = true) ∧
    (tget (withTask (task .copy .ready)).tasks (⟨0, 0⟩, 3)).map (fun k => (k.status, k.job)) = some (.ready, none) ∧
    (let g := { gridOf smallLaunch with codebooks := some [] }
     let u := ((withTask (task .grid .ready)).setGrid 0 g).modPart 0 fun p => { p with hcmask := 1 }
     u.placeTeam 0 0 g ⟨64 * 23, 0, 0⟩ = none ∧ u.fitsSomewhere 0 0 g = true) := by decide +kernel
/-- A save slot whose header reads, its team waiting for it. -/
theorem witness_TeamRestore : let s := ((withTables (at32 .nop)).modCtx ⟨0, 0⟩ fun c => { c with savebase := 0x200000, saveslots := 1 }).modTeam 0 fun t => { t with res := .saved 0 }
    (match s.foremanRead ⟨0, 0⟩ 0x200000 64 with | .ok h => leField h 36 4 = 0 | .error _ => false) = true ∧ (s.team 0).res = .saved 0 ∧ (s.restoreFrom 0 0 []).isSome = true ∧ ((s.modTeam 0 fun t => { t with scratchBase := 524288 }).restoreFrom 0 0 []).isNone = true ∧ (State.reset.part 0).shadow = none := by decide +kernel
theorem witness_PreemptRequests : (2 : Nat) % 4 = 2 ∧ (6 : Nat).testBit 2 = true ∧ (6 : Nat) % 4 = 2 ∧ (5 : Nat).testBit 2 = true ∧ (5 : Nat) % 4 ≠ 2 ∧ (2 : Nat).testBit 2 = false ∧
    (BitVec.ofNat 12 0xFFF = (State.reset.part 0).hcmask ∧ shapeOk 0xFFF = true ∧ shapeOk 1 = true ∧ (1 : BitVec 12) ≠ (State.reset.part 0).hcmask) := by decide +kernel

-- The hypotheses of the widened clauses

/-- What copiesAgree asks, on the lists. -/
def agreesOn (s : State) (core kd pa : Nat) : Bool :=
  decide (s.cores.map Prod.fst).Nodup && (s.cores.all fun e => s.cores.all fun e' => e.2.dirty.all fun n => !e'.2.dirty.contains n || e.1 = e'.1) &&
  (s.cores.all fun e => e.2.dirty.all fun n => match tget e.2.l1 n with | some c => !c.leased && (n / 4 ≠ lineOf pa || (e.1 = core && c.kd = kd)) | none => false) &&
  (s.core core).l1.all fun e => e.1 / 4 ≠ lineOf pa || e.2.leased || e.2.kd ≠ kd || e.2.bytes = (List.range 256).map fun i => s.keyRead kd (256 * e.1 + i)
theorem copiesAgree_of_lists (s : State) (core kd pa : Nat) (h : agreesOn s core kd pa = true) : s.copiesAgree core kd pa := by
  simp only [agreesOn, Bool.and_eq_true, decide_eq_true_eq, List.all_eq_true, Bool.or_eq_true, Bool.not_eq_true', decide_eq_true_eq] at h
  obtain ⟨⟨⟨h1, h2⟩, h3⟩, h4⟩ := h
  refine ⟨h1, fun e he e' he' n hn hn' => ?_, fun e he n hn => ?_, fun n c hn hc hl hk => ?_⟩
  · have := h2 e he e' he' n hn
    simp_all
  · have := h3 e he n hn
    cases hg : tget e.2.l1 n with
    | none => simp [hg] at this
    | some c => exact ⟨c, rfl, by simp_all, by simp_all; tauto⟩
  · have := h4 (n, c) (mem_of_tget hc)
    simp_all
/-- A sector of 0x20000's line that core 0 holds dirty. -/
def dirtied (kd : Nat) (s : State) : State := s.modCore 0 fun c => { c with l1 := [(0x200, ⟨List.replicate 256 5, 0, 0, kd, 0, false⟩)], dirty := [0x200] }
theorem witness_CopiesAgree : (at32 .nop).copiesAgree 0 0 0x20000 ∧ (dirtied 0 (at32 .nop)).copiesAgree 0 0 0x20000 :=
  ⟨copiesAgree_of_lists _ _ _ _ (by decide +kernel), copiesAgree_of_lists _ _ _ _ (by decide +kernel)⟩
/-- A RED of two lanes that one slice serves, and one of two slices. -/
theorem witness_RequestsOfLanes : let red (b : Nat) : Flight := { flightTo 5 [] with todo := [⟨0, 0x20000, .mem 0x20000 0 2 true, .atom .add .s32 1⟩, ⟨1, b, .mem b 0 2 true, .atom .add .s32 1⟩] }
    (withAccess (red 0x20004)).requestLanes key = 2 ∧ ((withAccess (red 0x20004)).gang key).nextAccess = some (red 0x20004) ∧
    (withAccess (access (.mem 0x20000 0 2 true) (.atom .add .s32 1))).requestLanes key = 1 := by decide +kernel
/-- Places of a unit's two bytes in a scratchpad and on a page, in a state with a dirty sector. -/
theorem witness_UnitPlaces : ([.loc (.scratch 0 0x100), .loc (.mem 0x20000 0 2 true)] : List Place).Nodup ∧
    (∀ e ∈ (dirtied 0 (at32 .nop)).cores, ∀ n ∈ e.2.dirty, ∀ c, tget e.2.l1 n = some c → c.leased = false ∧ c.bytes.length = 256) := by
  refine ⟨by decide, ?_⟩
  have h : (dirtied 0 (at32 .nop)).cores.all (fun e => e.2.dirty.all fun n => (tget e.2.l1 n).all fun c => !c.leased && c.bytes.length = 256) = true := by decide +kernel
  intro e he n hn c hc
  have := List.all_eq_true.1 (List.all_eq_true.1 h e he) n hn
  simpa [hc] using this
/-- A call that runs recursively: its path's node stands inside a call's. -/
theorem witness_MergesInsideACall : let n : Node := ⟨2, 1, some 0, 1, .branch, 0⟩
    ((inFrame false (at32 .nop)).gang key).callLink n.link = true ∧ ((at32 .nop).gang key).callLink n.link = false ∧ (∀ d, n.kind ≠ .call d) :=
  ⟨by decide +kernel, by decide +kernel, fun _ h => by cases h⟩
/-- A free index of the device range, and a range without one. -/
theorem witness_DeviceIndices : let c : CtxKey := ⟨0, 0⟩
    (((at32 .nop).modCtx c fun k => { k with devbase := 4, devUsed := [4, 6] }).freeDevice c) = some 5 ∧ (((at32 .nop).modCtx c fun k => { k with devbase := 65535, devUsed := [65535] }).freeDevice c) = none := by decide +kernel
/-- MOV between channels: with a flit and credit, without credit, without a flit; a send that is closed, and one to a fenced die. -/
def movAcross : Instr := .mov g0 ⟨.b64, .mo 2, .reg (.mi 1)⟩
def across (credit : Bool) (s : State) : State := s.modCore 0 fun c => { c with flits := [(1, flit)], mo := [(2, ⟨key, 5, 1, credit, 7⟩)] }
theorem witness_MovBetweenChannels :
    readyWith movAcross (across true (at32 movAcross)) (fun x s => tget (s.core (s.gang x.key).core).flits 1 = some flit && (match s.sendCheck x.key 2 with | .ready _ => true | _ => false)) = true ∧
    readyWith movAcross (across false (at32 movAcross)) (fun x s => tget (s.core (s.gang x.key).core).flits 1 = some flit && (match s.sendCheck x.key 2 with | .full => true | _ => false)) = true ∧
    readyWith movAcross ((at32 movAcross).modCore 0 fun c => { c with producers := [(1, 1)] }) (fun x s => tget (s.core (s.gang x.key).core).flits 1 = none && tgetD (s.core (s.gang x.key).core).producers 1 0 ≠ 0) = true ∧
    readyWith movAcross (at32 movAcross) (fun x s => tget (s.core (s.gang x.key).core).flits 1 = none && tgetD (s.core (s.gang x.key).core).producers 1 0 = 0) = true ∧
    readyWith movOut (at32 movOut) (fun x s => match s.sendCheck x.key 2 with | .closed => true | _ => false) = true ∧
    readyWith movAcross ((across true (at32 movAcross)).modPkg fun p => { p with fenced := [0] }) (fun x s => (tget (s.core (s.gang x.key).core).flits 1).isSome &&
      (match s.sendCheck x.key 2 with | .fenced => true | _ => false)) = true := by decide +kernel
/-- A flit bound for a saved unit, and a sender that is saved, and one that is not. -/
theorem witness_SavedUnits : let u : MsgUnit := ⟨[(0, ⟨key, 5, 1, false, 7⟩)], [], [], [], 9⟩
    let s := (at32 .nop).modPart 0 fun p => { p with units := [((0, 0), u), ((0, 3), u)] }
    s.savedUnit flit = some (0, 0, 0) ∧ (at32 .nop).savedUnit flit = none ∧ (tget s.parts 0).isSome = true ∧ tget (s.part 0).units (0, 3) = some u ∧ flit.fromCore = 3 ∧ tget u.mo flit.fromMo = some ⟨key, 5, 1, false, 7⟩ ∧ flit.id = 7 := by
  decide +kernel
/-- Two gangs of width 8 that may share a slot, and a walk that meets a cause. -/
theorem witness_NarrowGangs : let s := ((at32 .nop).leaveSlot key).modGang key fun g => { g with width := 8, live := 255, paths := [{ Path.empty with id := 1, mask := 255 }] }
    let s := s.setGang ⟨0, 1⟩ { s.gang key with quarter := 1 }
    let t := s.noteReady 0
    (t.bench 0 0).slot = [] ∧ (t.gang key).width ≤ 16 ∧ t.clauseEng key = t.clauseEng ⟨0, 1⟩ ∧ (t.gang key).quarters = [0] ∧ (t.gang ⟨0, 1⟩).quarters = [1] ∧
    (t.readyOn 0 0).length = 2 ∧ (match t.lookup (some 0) ⟨0, 0⟩ 0x90000 with | .error _ => true | .ok _ => false) = true := by decide +kernel
/-- A finished call, and an ended handler, whose refill faults; and the path that takes it. -/
theorem witness_RefillFaults : let spilled (s : State) : State := s.modGang key fun g => { g with frames := ⟨0, 2, false, 0, 0, 1, [], true, none⟩ :: g.frames }
    (let s := spilled ((inFrame true (at32 .nop)).modGang key fun g => { g with nodes := [] })
     (s.gang key).wantsRefill = true ∧ (s.gang key).closing = true ∧ (match s.refillItem key with | .fault .. => true | _ => false) = true) ∧
    ((at32 .nop).gang key).paths.find? (fun p => p.mask &&& ~~~((at32 .nop).gang key).exited ≠ 0) ≠ none ∧ ((at32 .nop).gang key).faultWait = none ∧ ((at32 .nop).gang key).pendingTrap = none := by decide +kernel
/-- A host completion's failure that must wait for a trap's entry. -/
theorem witness_HostFailureWaits : let s := (at32 .nop).modGang key fun g => { g with flights := [hostFlight, flightTo 6 [.vec 20 1]], pendingTrap := some trapAt }
    (s.gang key).hostFlight.isSome = true ∧ (s.gang key).pendingTrap.isSome = true ∧
    (((s.useFree.modGang key fun y => y.failFlight hostFlight.id).gang key).trapReady) = false ∧ keyed.dirtyCopy 0 (2 ^ 41) = none ∧ (dirtied 0 keyed).dirtyCopy 0 0x20000 ≠ none := by decide +kernel

end Sys2Proof.Tests
end

section
/-! PROOFS. Memory under a key domain: what a keyed write leaves in memory and in the L1 copies that stand in its place (R190, R191, R195), what the times of its lines leave alone
(R206, R210), and the links that write and read it (O59). -/
namespace Sys2Proof.Machine

-- Folds and tables

/-- What every turn of a fold leaves alone, the fold leaves alone. -/
theorem foldl_keeps {α β : Type} {f : State → α → State} (g : State → β) (h : ∀ s a, g (f s a) = g s) (xs : List α) (s : State) : g (xs.foldl f s) = g s := by
  induction xs generalizing s with
  | nil => rfl
  | cons x xs ih => rw [List.foldl_cons, ih, h]

theorem tget_tmap {κ ν : Type} [DecidableEq κ] (t : Tbl κ ν) (p : κ → ν → Bool) (f : ν → ν) (k : κ) :
    tget (tmap t p f) k = (tget t k).map fun v => if p k v then f v else v := by
  induction t with
  | nil => rfl
  | cons e t ih =>
    have hk : (if p e.1 e.2 then (e.1, f e.2) else e).1 = e.1 := by split <;> rfl
    rw [tmap, List.map_cons, tget_cons, tget_cons, hk]
    by_cases h : e.1 = k
    · subst h
      by_cases hp : p e.1 e.2 = true <;> simp [hp]
    · rw [if_neg h, if_neg h]
      exact ih

/-- Two searches whose finds agree under g at every element agree under g. -/
theorem findSome?_map_congr {α β γ : Type} {f f' : α → Option β} {l : List α} (g : β → γ) (h : ∀ a ∈ l, (f' a).map g = (f a).map g) :
    (l.findSome? f').map g = (l.findSome? f).map g := by
  simp only [List.map_findSome?]
  induction l with
  | nil => rfl
  | cons x l ih =>
    simp only [List.findSome?_cons, Function.comp_apply, h x List.mem_cons_self]
    rw [ih fun a ha => h a (List.mem_cons_of_mem x ha)]

/-- A fold that rewrites each byte of a range, from the byte that stands there. -/
theorem Memory.read_rewriteRange (g : Nat → Byte → Byte) (base n : Nat) (m : Memory) (c : Nat) :
    ((List.range n).foldl (fun m i => Memory.write m (base + i) (g (base + i) (Memory.read m (base + i)))) m).read c =
      if base ≤ c ∧ c < base + n then g c (m.read c) else m.read c := by
  induction n with
  | zero => rw [if_neg (by omega)]; rfl
  | succ n ih =>
    rw [List.range_succ, List.foldl_append, List.foldl_cons, List.foldl_nil, Memory.read_write]
    by_cases hc : c = base + n
    · subst hc
      rw [if_pos rfl, ih, if_neg (by omega), if_pos (by omega)]
    · rw [if_neg hc, ih]
      exact if_congr (by omega) rfl rfl

-- Lines and their keys

theorem packageOf_lineStart (pa : Nat) : packageOf (lineOf pa * 1024) = packageOf pa := by simp only [packageOf, lineOf]; omega
theorem State.keyOf_lineStart (s : State) (kd pa : Nat) : s.keyOf kd (lineOf pa * 1024) = s.keyOf kd pa := by simp only [State.keyOf, packageOf_lineStart]
theorem lineOf_eq_iff (a line : Nat) : lineOf a = line ↔ line * 1024 ≤ a ∧ a < line * 1024 + 1024 := by simp only [lineOf]; omega

/-- What re-encrypting a line does, by the key under which it stands: none yet, the writer's own, another one. -/
theorem State.retag_cases (s : State) (kd line : Nat) :
    (tget s.pkg.lineKeys line = none ∧ s.retag kd line = { s with pkg := { s.pkg with lineKeys := tset s.pkg.lineKeys line (kd, s.keyOf kd (line * 1024)) } }) ∨
    (∃ d, tget s.pkg.lineKeys line = some (d, s.keyOf kd (line * 1024)) ∧ s.retag kd line = s) ∨
    ∃ d w, tget s.pkg.lineKeys line = some (d, w) ∧ w ≠ s.keyOf kd (line * 1024) ∧
      s.retag kd line = { s with
        mem := (List.range 1024).foldl (fun m i => Memory.write m (line * 1024 + i) (Config.scramble w (s.keyOf kd (line * 1024)) (line * 1024 + i) (Memory.read m (line * 1024 + i)))) s.mem,
        pkg := { s.pkg with lineKeys := tset s.pkg.lineKeys line (kd, s.keyOf kd (line * 1024)) } } := by
  rcases h : tget s.pkg.lineKeys line with _ | ⟨d, w⟩
  · exact .inl ⟨rfl, by simp only [State.retag, h]⟩
  · by_cases hw : w = s.keyOf kd (line * 1024)
    · exact .inr (.inl ⟨d, by rw [hw], by simp only [State.retag, h, hw, if_true]⟩)
    · exact .inr (.inr ⟨d, w, rfl, hw, by simp only [State.retag, h, hw, if_false]⟩)

/-- Re-encrypting a line changes memory's bytes and the line's key, and nothing else. -/
theorem State.retag_frame (s : State) (kd line : Nat) : ∃ m l, s.retag kd line = { s with mem := m, pkg := { s.pkg with lineKeys := l } } := by
  obtain ⟨-, h⟩ | ⟨_, -, h⟩ | ⟨_, _, -, -, h⟩ := s.retag_cases kd line
  · exact ⟨_, _, h⟩
  · exact ⟨s.mem, s.pkg.lineKeys, h⟩
  · exact ⟨_, _, h⟩
@[simp] theorem State.keyOf_retag (s : State) (kd line kd' pa : Nat) : (s.retag kd line).keyOf kd' pa = s.keyOf kd' pa := by
  obtain ⟨m, l, h⟩ := s.retag_frame kd line
  rw [h]; rfl

/-- The line stands under the writer's key afterwards; no other line's key or byte changes. -/
theorem State.lineKeys_retag_self (s : State) (kd line : Nat) : ∃ d, tget (s.retag kd line).pkg.lineKeys line = some (d, s.keyOf kd (line * 1024)) := by
  obtain ⟨-, h⟩ | ⟨d, hd, h⟩ | ⟨_, _, -, -, h⟩ := s.retag_cases kd line
  · exact ⟨kd, by simp [h, tget_tset]⟩
  · exact ⟨d, by rw [h, hd]⟩
  · exact ⟨kd, by simp [h, tget_tset]⟩
theorem State.lineKeys_retag_ne (s : State) {kd line n : Nat} (hn : n ≠ line) : tget (s.retag kd line).pkg.lineKeys n = tget s.pkg.lineKeys n := by
  obtain ⟨-, h⟩ | ⟨_, -, h⟩ | ⟨_, _, -, -, h⟩ := s.retag_cases kd line <;> simp [h, tget_tset, hn]
theorem State.read_retag_ne (s : State) {kd line a : Nat} (hn : lineOf a ≠ line) : (s.retag kd line).mem.read a = s.mem.read a := by
  obtain ⟨-, h⟩ | ⟨_, -, h⟩ | ⟨_, w, -, -, h⟩ := s.retag_cases kd line
  · rw [h]
  · rw [h]
  · rw [h]
    dsimp only
    rw [Memory.read_rewriteRange (Config.scramble w _), if_neg (mt (lineOf_eq_iff a line).2 hn)]

/-- A byte whose line stands under the reader's key is read as it stands. -/
theorem State.memByte_of_key {s : State} {kd pa d : Nat} (h : tget s.pkg.lineKeys (lineOf pa) = some (d, s.keyOf kd pa)) : s.memByte kd pa = s.mem.read pa := by
  simp only [State.memByte, h, if_true]
theorem State.memByte_congr {s t : State} {kd pa : Nat} (hm : t.mem.read pa = s.mem.read pa) (hl : tget t.pkg.lineKeys (lineOf pa) = tget s.pkg.lineKeys (lineOf pa))
    (hk : t.keyOf kd pa = s.keyOf kd pa) : t.memByte kd pa = s.memByte kd pa := by
  simp only [State.memByte, hm, hl, hk]

theorem State.memByte_retag_key (s : State) {kd line a : Nat} (ha : lineOf a = line) : (s.retag kd line).memByte kd a = (s.retag kd line).mem.read a := by
  subst ha
  obtain ⟨d, hd⟩ := s.lineKeys_retag_self kd (lineOf a)
  exact State.memByte_of_key (d := d) (by rw [hd, State.keyOf_lineStart, State.keyOf_retag])
/-- A key domain reads the same bytes after a line is re-encrypted for it (R191). -/
theorem State.memByte_retag (s : State) (kd line a : Nat) : (s.retag kd line).memByte kd a = s.memByte kd a := by
  by_cases ha : lineOf a = line
  · rw [s.memByte_retag_key ha]
    subst ha
    obtain ⟨hn, h⟩ | ⟨d, hd, h⟩ | ⟨d, w, hd, hw, h⟩ := s.retag_cases kd (lineOf a)
    · simp only [h, State.memByte, hn]
    · rw [h, State.memByte_of_key (d := d) (by rw [hd, State.keyOf_lineStart])]
    · have hr := (lineOf_eq_iff a _).1 rfl
      rw [State.keyOf_lineStart] at hw h
      rw [h]
      dsimp only
      rw [Memory.read_rewriteRange (Config.scramble w _), if_pos hr]
      simp only [State.memByte, hd, Ne.symm hw, if_false]
  · exact State.memByte_congr (s.read_retag_ne ha) (s.lineKeys_retag_ne ha) (s.keyOf_retag ..)

-- A keyed write

/-- A keyed write changes memory's bytes and the lines' keys and poison, and the L1 copies that stand in memory's place; nothing else. -/
theorem State.keyWrite_frame (s : State) (kd pa : Nat) (b : Byte) : ∃ m l,
    s.keyWrite kd pa b = { s with mem := m, pkg := { s.pkg with lineKeys := l, poisoned := s.pkg.poisoned.filter fun x => x ≠ sectorOf pa }, cores := s.cores.map fun e => (e.1, e.2.patch kd pa b) } := by
  obtain ⟨m, l, h⟩ := s.retag_frame kd (lineOf pa)
  exact ⟨_, l, by rw [State.keyWrite, h]⟩
theorem State.keyWrite_teams (s : State) (kd pa : Nat) (b : Byte) : (s.keyWrite kd pa b).teams = s.teams := by
  obtain ⟨m, l, h⟩ := s.keyWrite_frame kd pa b; rw [h]
theorem State.keyWrite_gangs (s : State) (kd pa : Nat) (b : Byte) : (s.keyWrite kd pa b).gangs = s.gangs := by
  obtain ⟨m, l, h⟩ := s.keyWrite_frame kd pa b; rw [h]
theorem State.keyWrite_parts (s : State) (kd pa : Nat) (b : Byte) : (s.keyWrite kd pa b).parts = s.parts := by
  obtain ⟨m, l, h⟩ := s.keyWrite_frame kd pa b; rw [h]
theorem State.keyWrite_out (s : State) (kd pa : Nat) (b : Byte) : (s.keyWrite kd pa b).pkg.out = s.pkg.out := by
  obtain ⟨m, l, h⟩ := s.keyWrite_frame kd pa b; rw [h]
/-- A key domain reads the byte it wrote, and every other one as before (R191). -/
theorem State.memByte_keyWrite (s : State) (kd pa : Nat) (b : Byte) (a : Nat) : (s.keyWrite kd pa b).memByte kd a = if a = pa then b else s.memByte kd a := by
  have hr : (s.keyWrite kd pa b).mem.read a = if a = pa then b else (s.retag kd (lineOf pa)).mem.read a := Memory.read_write ..
  by_cases ha : a = pa
  · subst ha
    have hk : (s.keyWrite kd a b).keyOf kd a = s.keyOf kd (lineOf a * 1024) := (s.keyOf_retag kd (lineOf a) kd a).trans (s.keyOf_lineStart kd a).symm
    obtain ⟨d, hd⟩ := s.lineKeys_retag_self kd (lineOf a)
    rw [State.memByte_of_key (d := d) (hk ▸ hd), hr]
    simp only [if_true]
  · rw [if_neg ha] at hr ⊢
    rw [← s.memByte_retag kd (lineOf pa) a]
    exact State.memByte_congr hr rfl rfl
/-- What keyed writes of consecutive bytes leave alone. -/
theorem State.keyWriteBytes_keeps {β : Type} (g : State → β) (h : ∀ s kd pa b, g (State.keyWrite s kd pa b) = g s) (s : State) (kd pa : Nat) (bs : List Byte) :
    g (s.keyWriteBytes kd pa bs) = g s := by
  induction bs generalizing s pa with
  | nil => rfl
  | cons b bs ih => rw [State.keyWriteBytes, ih, h]
/-- Keyed writes of consecutive bytes: each is found at its address, and every other address is as before. -/
theorem State.memByte_keyWriteBytes (s : State) (kd pa : Nat) (bs : List Byte) (a : Nat) :
    (s.keyWriteBytes kd pa bs).memByte kd a = if pa ≤ a ∧ a < pa + bs.length then bs.getD (a - pa) 0 else s.memByte kd a := by
  induction bs generalizing s pa with
  | nil => rw [if_neg (by simp only [List.length_nil]; omega)]; rfl
  | cons b bs ih =>
    rw [State.keyWriteBytes, ih, State.memByte_keyWrite, List.length_cons]
    by_cases h0 : a = pa
    · subst h0; simp
    · by_cases h1 : pa + 1 ≤ a ∧ a < pa + 1 + bs.length
      · rw [if_pos h1, if_pos (by omega), show a - pa = (a - (pa + 1)) + 1 by omega, List.getD_cons_succ]
      · rw [if_neg h1, if_neg h0, if_neg (by omega)]
/-- The sectors written are no longer poisoned (R281). -/
theorem State.poisoned_keyWriteBytes (s : State) (kd pa : Nat) (bs : List Byte) (n : Nat) :
    n ∈ (s.keyWriteBytes kd pa bs).pkg.poisoned ↔ n ∈ s.pkg.poisoned ∧ ∀ i < bs.length, n ≠ sectorOf (pa + i) := by
  induction bs generalizing s pa with
  | nil => simp [State.keyWriteBytes]
  | cons b bs ih =>
    obtain ⟨m, l, h⟩ := s.keyWrite_frame kd pa b
    simp only [State.keyWriteBytes, ih, h, List.mem_filter, decide_eq_true_eq, List.length_cons, Nat.forall_lt_succ_left, Nat.add_zero, Nat.add_assoc, Nat.add_comm 1, and_assoc]

-- The L1 copies in memory's place

/-- The dirty sector that one core's L1 holds in memory's place. -/
def Core.dirtyCopy (c : Core) (kd pa : Nat) : Option Sector :=
  if c.dirty.contains (sectorOf pa) then (tget c.l1 (sectorOf pa)).filter fun x => x.kd = kd else none
theorem Core.dirtyCopy_of_dirty {c : Core} {pa : Nat} (h : sectorOf pa ∈ c.dirty) (kd : Nat) : c.dirtyCopy kd pa = (tget c.l1 (sectorOf pa)).filter fun x => x.kd = kd :=
  if_pos (List.contains_iff_mem.2 h)
theorem Core.dirtyCopy_of_clean {c : Core} {pa : Nat} (h : sectorOf pa ∉ c.dirty) (kd : Nat) : c.dirtyCopy kd pa = none := if_neg (mt List.contains_iff_mem.1 h)
theorem State.dirtyCopy_eq (s : State) (kd pa : Nat) : s.dirtyCopy kd pa = s.cores.findSome? fun e => e.2.dirtyCopy kd pa := rfl

theorem State.keyRead_eq (s : State) (kd pa : Nat) :
    s.keyRead kd pa = ((s.dirtyCopy kd pa).map Sector.bytes).elim (s.memByte kd pa) fun bs => bs.getD (pa % 256) 0 := by
  unfold State.keyRead
  cases s.dirtyCopy kd pa <;> rfl

/-- Every core's dirty sectors, the cores in their order. -/
def State.dirtyLists (s : State) : List (List Nat) := s.cores.map fun e => e.2.dirty
theorem State.dirtyCopy_eq_none_of_clean {s : State} {kd pa : Nat} (h : ∀ d ∈ s.dirtyLists, sectorOf pa ∉ d) : s.dirtyCopy kd pa = none := by
  rw [State.dirtyCopy_eq, List.findSome?_eq_none_iff]
  exact fun e he => Core.dirtyCopy_of_clean (h _ (List.mem_map_of_mem he)) kd
/-- Where no L1 holds a sector that is to be written back, a key domain reads memory. -/
theorem State.keyRead_of_clean {s : State} {kd pa : Nat} (h : ∀ d ∈ s.dirtyLists, sectorOf pa ∉ d) : s.keyRead kd pa = s.memByte kd pa := by
  simp only [State.keyRead, State.dirtyCopy_eq_none_of_clean h]
theorem State.dirtyLists_keyWrite (s : State) (kd pa : Nat) (b : Byte) : (s.keyWrite kd pa b).dirtyLists = s.dirtyLists := by
  obtain ⟨m, l, h⟩ := s.keyWrite_frame kd pa b
  simp only [h, State.dirtyLists, List.map_map]
  rfl

theorem Core.dirtyCopy_patch (c : Core) (kd pa kd' pa' : Nat) (b : Byte) : (c.patch kd' pa' b).dirtyCopy kd pa =
    (c.dirtyCopy kd pa).map fun x => if sectorOf pa = sectorOf pa' && !x.leased && x.kd = kd' then x.put pa' b else x := by
  by_cases hd : sectorOf pa ∈ c.dirty
  · rw [Core.dirtyCopy_of_dirty hd, Core.dirtyCopy_of_dirty (c := c.patch kd' pa' b) hd, Core.patch, tget_tmap, Option.filter_map]
    congr 2
    funext x
    simp only [Function.comp_apply]
    split <;> rfl
  · rw [Core.dirtyCopy_of_clean hd, Core.dirtyCopy_of_clean (c := c.patch kd' pa' b) hd]
    rfl
/-- A keyed write makes no dirty sector and removes none. -/
theorem State.dirtyCopy_keyWrite_eq_none (s : State) (kd pa kd' pa' : Nat) (b : Byte) : (s.keyWrite kd' pa' b).dirtyCopy kd pa = none ↔ s.dirtyCopy kd pa = none := by
  obtain ⟨m, l, h⟩ := s.keyWrite_frame kd' pa' b
  simp only [h, State.dirtyCopy_eq, List.findSome?_eq_none_iff, List.forall_mem_map, Core.dirtyCopy_patch, Option.map_eq_none_iff]

-- The times of the lines written and read

/-- A core of a partition whose times fall: its copies' times fall, and leases that had ended are dropped (R210). -/
def Core.rebase (c : Core) (d : Nat) : Core := { c with l1 := rebaseSectors d c.l1 }
theorem Core.rebase_l1 (c : Core) (d : Nat) : (c.rebase d).l1 = rebaseSectors d c.l1 := rfl
theorem State.rebase_cores (s : State) (p : Nat) :
    (s.rebase p).cores = tmap s.cores (fun c _ => (s.part p).ownsCore c) fun c => c.rebase (s.rebaseBy p) := rfl
theorem State.rebase_pkg (s : State) (p : Nat) : (s.rebase p).pkg = s.pkg := rfl
theorem State.rebase_teams (s : State) (p : Nat) : (s.rebase p).teams = s.teams := rfl
theorem State.rebase_dirtyLists (s : State) (p : Nat) : (s.rebase p).dirtyLists = s.dirtyLists := by
  rw [State.dirtyLists, State.rebase_cores, tmap, List.map_map]
  refine List.map_congr_left fun e _ => ?_
  simp only [Function.comp_apply]
  split <;> rfl

/-- A copy without a lease outlasts a rebase (R210). -/
theorem tget_rebaseSectors {d n : Nat} {xs : Tbl Nat Sector} (h : ∀ c, tget xs n = some c → c.leased = false) :
    tget (rebaseSectors d xs) n = (tget xs n).map fun c => c.rebase d := by
  induction xs with
  | nil => rfl
  | cons e xs ih =>
    rw [rebaseSectors] at ih
    by_cases hn : e.1 = n
    · have hl : e.2.leased = false := h e.2 (by simp [tget_cons, hn])
      simp [rebaseSectors, tget_cons, hn, hl]
    · have hi := ih fun c hc => h c (by rwa [tget_cons, if_neg hn])
      rw [rebaseSectors, List.filter_cons]
      split
      · rw [List.map_cons, tget_cons, tget_cons, if_neg hn, if_neg hn, hi]
      · rw [tget_cons, if_neg hn, hi]

/-- The copies that a core is to write back stand without leases, as those of a PRIVATE page do (R190). -/
def Core.dirtyUnleased (c : Core) : Prop := ∀ m ∈ c.dirty, ∀ x, tget c.l1 m = some x → x.leased = false
theorem Core.dirtyCopy_rebase {c : Core} (h : c.dirtyUnleased) (d kd pa : Nat) : (c.rebase d).dirtyCopy kd pa = (c.dirtyCopy kd pa).map fun x => x.rebase d := by
  by_cases hd : sectorOf pa ∈ c.dirty
  · rw [Core.dirtyCopy_of_dirty hd, Core.dirtyCopy_of_dirty (c := c.rebase d) hd, Core.rebase_l1, tget_rebaseSectors (h _ hd), Option.filter_map]
    rfl
  · rw [Core.dirtyCopy_of_clean hd, Core.dirtyCopy_of_clean (c := c.rebase d) hd]
    rfl
theorem Core.dirtyUnleased_rebase {c : Core} (h : c.dirtyUnleased) (d : Nat) : (c.rebase d).dirtyUnleased := by
  intro m hm x hx
  rw [Core.rebase_l1, tget_rebaseSectors (h m hm), Option.map_eq_some_iff] at hx
  obtain ⟨y, hy, rfl⟩ := hx
  exact h m hm y hy

def State.dirtyUnleased (s : State) : Prop := ∀ e ∈ s.cores, e.2.dirtyUnleased
theorem State.dirtyUnleased_rebase {s : State} (h : s.dirtyUnleased) (p : Nat) : (s.rebase p).dirtyUnleased := by
  rw [State.dirtyUnleased, State.rebase_cores, tmap, List.forall_mem_map]
  intro e he
  split
  · exact Core.dirtyUnleased_rebase (h e he) _
  · exact h e he
theorem State.memByte_rebase (s : State) (p kd pa : Nat) : (s.rebase p).memByte kd pa = s.memByte kd pa := State.memByte_congr (by rw [State.rebase_mem]) rfl rfl
/-- A rebase leaves every byte that a key domain reads. -/
theorem State.keyRead_rebase {s : State} (h : s.dirtyUnleased) (p kd pa : Nat) : (s.rebase p).keyRead kd pa = s.keyRead kd pa := by
  have hc : ((s.rebase p).dirtyCopy kd pa).map Sector.bytes = (s.dirtyCopy kd pa).map Sector.bytes := by
    rw [State.dirtyCopy_eq, State.rebase_cores, tmap, List.findSome?_map, State.dirtyCopy_eq]
    refine findSome?_map_congr Sector.bytes fun e he => ?_
    simp only [Function.comp_apply]
    split
    · rw [Core.dirtyCopy_rebase (h e he), Option.map_map]
      rfl
    · rfl
  rw [State.keyRead_eq, State.keyRead_eq, hc, State.memByte_rebase]

section Times
variable {P : State → Prop}
theorem State.timeRoom_keeps (hr : ∀ s p, P s → P (s.rebase p)) {s : State} (h : P s) (p : Nat) : P (s.timeRoom p) := by
  unfold State.timeRoom
  split
  · exact hr _ _ h
  · exact h
variable (hr : ∀ s p, P s → P (s.rebase p)) (hp : ∀ s p f, P s → P (s.modPart p f))
include hr hp
theorem State.timeStore_keeps {s : State} (h : P s) (p pt key : Nat) : P (s.timeStore p pt key).1 := by
  unfold State.timeStore
  dsimp only
  exact hp _ _ _ (State.timeRoom_keeps hr h p)
/-- What a rebase and a change of a partition's record keep, the times of lines written keep. -/
theorem State.stampLines_keeps {s : State} (h : P s) (pa n : Nat) : P (s.stampLines pa n) := by
  unfold State.stampLines
  refine List.foldlRecOn _ _ h fun t ht key _ => ?_
  split
  · exact State.timeStore_keeps hr hp ht ..
  · exact ht
/-- What a rebase and a change of a partition's record keep, the leases of lines read keep. -/
theorem State.leaseLines_keeps {s : State} (h : P s) (pa n : Nat) : P (s.leaseLines pa n) := by
  unfold State.leaseLines
  refine List.foldlRecOn _ _ h fun t ht key _ => ?_
  split
  · exact ht
  · exact hp _ _ _ (State.timeRoom_keeps hr ht _)
end Times

-- Writes at the home slice

/-- A key domain finds the bytes of a write in memory; and where no L1 holds a sector that is to be written back, an agent reads them there. -/
def State.Lands (s t : State) (kd pa : Nat) (bs : List Byte) : Prop :=
  (∀ a, t.memByte kd a = if pa ≤ a ∧ a < pa + bs.length then bs.getD (a - pa) 0 else s.memByte kd a) ∧
  ∀ a, (∀ e ∈ s.cores, sectorOf a ∉ e.2.dirty) → t.keyRead kd a = if pa ≤ a ∧ a < pa + bs.length then bs.getD (a - pa) 0 else s.keyRead kd a

section FabricWrite
variable (s : State) (pa kd : Nat) (bs : List Byte)
theorem State.fabricWrite_memByte (a : Nat) : (s.fabricWrite pa kd bs).memByte kd a = if pa ≤ a ∧ a < pa + bs.length then bs.getD (a - pa) 0 else s.memByte kd a := by
  rw [← s.memByte_keyWriteBytes]
  exact State.stampLines_keeps (P := fun t => t.memByte kd a = (s.keyWriteBytes kd pa bs).memByte kd a) (fun t p h => (t.memByte_rebase p kd a).trans h) (fun _ _ _ h => h) rfl _ _
theorem State.fabricWrite_dirtyLists : (s.fabricWrite pa kd bs).dirtyLists = s.dirtyLists := by
  rw [← State.keyWriteBytes_keeps State.dirtyLists State.dirtyLists_keyWrite s kd pa bs]
  exact State.stampLines_keeps (P := fun t => t.dirtyLists = (s.keyWriteBytes kd pa bs).dirtyLists) (fun t p h => (t.rebase_dirtyLists p).trans h) (fun _ _ _ h => h) rfl _ _
theorem State.fabricWrite_teams : (s.fabricWrite pa kd bs).teams = s.teams := by
  rw [← State.keyWriteBytes_keeps State.teams State.keyWrite_teams s kd pa bs]
  exact State.stampLines_keeps (P := fun t => t.teams = (s.keyWriteBytes kd pa bs).teams) (fun _ _ h => h) (fun _ _ _ h => h) rfl _ _
theorem State.fabricWrite_pkg : (s.fabricWrite pa kd bs).pkg = (s.keyWriteBytes kd pa bs).pkg :=
  State.stampLines_keeps (P := fun t => t.pkg = (s.keyWriteBytes kd pa bs).pkg) (fun _ _ h => h) (fun _ _ _ h => h) rfl _ _
theorem State.fabricWrite_out : (s.fabricWrite pa kd bs).pkg.out = s.pkg.out := by
  rw [State.fabricWrite_pkg]
  exact State.keyWriteBytes_keeps (fun t => t.pkg.out) State.keyWrite_out s kd pa bs
/-- A write of another package, or of the host, lands (R191, R195). -/
theorem State.fabricWrite_lands : s.Lands (s.fabricWrite pa kd bs) kd pa bs := by
  refine ⟨s.fabricWrite_memByte pa kd bs, fun a ha => ?_⟩
  have hs : ∀ d ∈ s.dirtyLists, sectorOf a ∉ d := List.forall_mem_map.2 ha
  rw [State.keyRead_of_clean hs, State.keyRead_of_clean (by rwa [State.fabricWrite_dirtyLists]), State.fabricWrite_memByte]
/-- The write fills the poisoned sectors (R281). -/
theorem State.fabricWrite_unpoisons {i : Nat} (hi : i < bs.length) : (s.fabricWrite pa kd bs).pkg.poisoned.contains ((pa + i) / 256) = false := by
  rw [State.fabricWrite_pkg, Bool.eq_false_iff, Ne, List.contains_iff_mem, State.poisoned_keyWriteBytes]
  exact fun h => h.2 i hi rfl
end FabricWrite

-- The host's writes

theorem exec_hostLinkWrite (pa kd : Nat) (bs : List Byte) (s : State) : exec (.hostLinkWrite pa kd bs) s = execHostLinkWrite pa kd bs s := rfl
theorem hostLinkWrite_host {s : State} {pa : Nat} (h : isHost pa = true) (kd : Nat) (bs : List Byte) :
    exec (.hostLinkWrite pa kd bs) s = .next { s with mem := s.mem.writeBytes pa bs } := by
  rw [exec_hostLinkWrite, execHostLinkWrite, if_pos h]
theorem hostLinkWrite_hbm {s : State} {pa : Nat} (h : isHost pa = false) (kd : Nat) (bs : List Byte) :
    exec (.hostLinkWrite pa kd bs) s = if s.serves pa kd bs.length then .next (s.fabricWrite pa kd bs) else .next s := by
  rw [exec_hostLinkWrite, execHostLinkWrite, h, State.serves]
  cases s.domainGone kd <;> cases s.heldHbm pa bs.length <;> rfl

-- Accesses of other packages

theorem State.serves_iff (s : State) (pa kd n : Nat) : s.serves pa kd n = true ↔ s.heldHbm pa n = true ∧ s.domainGone kd = false := by
  simp [State.serves]
theorem State.serves_eq_false_iff (s : State) (pa kd n : Nat) : s.serves pa kd n = false ↔ s.heldHbm pa n = false ∨ s.domainGone kd = true := by
  simp only [State.serves, Bool.and_eq_false_iff, Bool.not_eq_false']

theorem halfColumn_lineStart (pa : Nat) : lineOf pa * 1024 % 2 ^ 41 / 2 ^ 37 = pa % 2 ^ 41 / 2 ^ 37 := by simp only [lineOf]; omega
/-- HBM that is held belongs to a partition (R23), to which its home slice reports (R282). -/
theorem State.reportHome_of_held {s : State} {pa n : Nat} (h : s.heldHbm pa n = true) :
    ∃ part, s.reportHome pa = s.logTo part pa 0x02 0x05 ((s.part part).homeSlice 31 pa) none 0 := by
  have hp : (s.linePart (lineOf pa)).isSome = true := by
    simp only [State.heldHbm, Bool.and_eq_true] at h
    rw [State.linePart, Option.isSome_map, List.find?_isSome, halfColumn_lineStart]
    exact List.any_eq_true.1 h.1.2
  obtain ⟨part, hp⟩ := Option.isSome_iff_exists.1 hp
  exact ⟨part, by rw [State.reportHome, hp]⟩

/-- A load leaves what every agent reads through a key domain, and takes the lines' leases (R206). -/
theorem State.leaseLines_keyRead {s : State} (h : s.dirtyUnleased) (pa n kd a : Nat) : (s.leaseLines pa n).keyRead kd a = s.keyRead kd a :=
  (State.leaseLines_keeps (P := fun t => t.dirtyUnleased ∧ t.keyRead kd a = s.keyRead kd a)
    (fun _ p ⟨hd, hk⟩ => ⟨State.dirtyUnleased_rebase hd p, (State.keyRead_rebase hd p kd a).trans hk⟩) (fun _ _ _ h => h) ⟨h, rfl⟩ pa n).2
theorem State.leaseLines_teams (s : State) (pa n : Nat) : (s.leaseLines pa n).teams = s.teams :=
  State.leaseLines_keeps (P := fun t => t.teams = s.teams) (fun _ _ h => h) (fun _ _ _ h => h) rfl pa n
theorem State.leaseLines_pkg (s : State) (pa n : Nat) : (s.leaseLines pa n).pkg = s.pkg :=
  State.leaseLines_keeps (P := fun t => t.pkg = s.pkg) (fun _ _ h => h) (fun _ _ _ h => h) rfl pa n

theorem exec_fabricRemoteAccess (p : RemotePacket) (s : State) : exec (.fabricRemoteAccess p) s = execFabricRemoteAccess p s := rfl

/-- A load and an atomic of another package: n bytes at an address, through a key domain. -/
def fabricReads (p : RemotePacket) (pa kd n : Nat) : Prop :=
  p = .read pa kd n ∨ (∃ op ty x, p = .atomic pa kd op ty x ∧ n = if ty.regs = 2 then 8 else 4) ∨ ∃ cmp y, p = .cas pa kd n cmp y
/-- An atomic of another package on n bytes that writes new where it finds old. -/
def fabricUpdates (p : RemotePacket) (pa kd n old new : Nat) : Prop :=
  (∃ op ty x, p = .atomic pa kd op ty x ∧ n = (if ty.regs = 2 then 8 else 4) ∧ new = atomResult op ty old x.toNat) ∨
  ∃ cmp y, p = .cas pa kd n cmp y ∧ new = if old = cmp % 2 ^ (8 * n) then y else old

theorem fabricAccess_unserved {s : State} {p : RemotePacket} {pa kd n : Nat} (hp : fabricReads p pa kd n) (h : s.serves pa kd n = false) :
    exec (.fabricRemoteAccess p) s = .next s := by
  obtain rfl | ⟨op, ty, x, rfl, rfl⟩ | ⟨cmp, y, rfl⟩ := hp <;> simp [exec_fabricRemoteAccess, execFabricRemoteAccess, h]
theorem fabricAccess_poisoned {s : State} {p : RemotePacket} {pa kd n : Nat} (hp : fabricReads p pa kd n) (h : s.serves pa kd n = true) (hx : s.poisonedIn pa n = true) :
    exec (.fabricRemoteAccess p) s = .next (s.reportHome pa) := by
  obtain rfl | ⟨op, ty, x, rfl, rfl⟩ | ⟨cmp, y, rfl⟩ := hp <;> simp [exec_fabricRemoteAccess, execFabricRemoteAccess, State.fabricAtomic, h, hx]
theorem fabricAccess_read {s : State} {pa kd n : Nat} (h : s.serves pa kd n = true) (hx : s.poisonedIn pa n = false) :
    exec (.fabricRemoteAccess (.read pa kd n)) s = .next ((s.leaseLines pa n).answer pa kd n) := by
  simp [exec_fabricRemoteAccess, execFabricRemoteAccess, h, hx]
theorem fabricAccess_atomic {s : State} {p : RemotePacket} {pa kd n new : Nat} (hp : fabricUpdates p pa kd n (s.keyReadN kd pa n) new) (h : s.serves pa kd n = true)
    (hx : s.poisonedIn pa n = false) : exec (.fabricRemoteAccess p) s = .next ((s.answer pa kd n).fabricWrite pa kd (bytesOfNat n new)) := by
  obtain ⟨op, ty, x, rfl, rfl, rfl⟩ | ⟨cmp, y, rfl, rfl⟩ := hp <;> simp [exec_fabricRemoteAccess, execFabricRemoteAccess, State.fabricAtomic, h, hx]
theorem fabricAccess_write (s : State) (pa kd : Nat) (bs : List Byte) :
    exec (.fabricRemoteAccess (.write pa kd bs)) s = if s.serves pa kd bs.length then .next (s.fabricWrite pa kd bs) else .next s := rfl

theorem State.answer_out (s : State) (pa kd n : Nat) :
    (s.answer pa kd n).pkg.out = s.pkg.out ++ [.reply pa kd ((List.range n).map fun i => s.keyRead kd (pa + i))] := rfl
/-- An answer on its way changes no byte that a key domain reads. -/
theorem State.Lands.of_answer {s t : State} {pa kd n pa' kd' : Nat} {bs : List Byte} (h : (s.answer pa kd n).Lands t kd' pa' bs) : s.Lands t kd' pa' bs := h

-- Replies and the packets of trees

section TakeReply
variable (s : State) (pa kd : Nat) (bs : List Byte)
/-- One byte of a reply, kept where no dirty sector holds a newer one. -/
def State.takeReplyByte (s : State) (pa kd : Nat) (b : Byte × Nat) : State :=
  if (s.dirtyCopy kd (pa + b.2)).isSome then s else s.keyWrite kd (pa + b.2) b.1
theorem State.takeReply_eq : s.takeReply pa kd bs = bs.zipIdx.foldl (fun s b => s.takeReplyByte pa kd b) s := rfl

theorem State.takeReply_keeps {β : Type} (g : State → β) (h : ∀ s kd pa b, g (State.keyWrite s kd pa b) = g s) : g (s.takeReply pa kd bs) = g s := by
  rw [State.takeReply_eq]
  refine foldl_keeps g (fun s b => ?_) bs.zipIdx s
  unfold State.takeReplyByte
  split
  · rfl
  · exact h ..
theorem State.dirtyCopy_takeReplyByte_eq_none (b : Byte × Nat) (a : Nat) : (s.takeReplyByte pa kd b).dirtyCopy kd a = none ↔ s.dirtyCopy kd a = none := by
  unfold State.takeReplyByte
  split
  · rfl
  · exact s.dirtyCopy_keyWrite_eq_none ..
theorem State.memByte_takeReplyByte (b : Byte × Nat) (a : Nat) :
    (s.takeReplyByte pa kd b).memByte kd a = if a = pa + b.2 ∧ s.dirtyCopy kd a = none then b.1 else s.memByte kd a := by
  unfold State.takeReplyByte
  by_cases hd : (s.dirtyCopy kd (pa + b.2)).isSome = true
  · rw [if_pos hd, if_neg]
    rintro ⟨rfl, hn⟩
    simp [hn] at hd
  · rw [if_neg hd, State.memByte_keyWrite]
    refine if_congr ⟨?_, And.left⟩ rfl rfl
    rintro rfl
    exact ⟨rfl, by simpa using hd⟩
/-- The bytes of a reply, from the k-th on, stand in memory but under a dirty sector. -/
theorem State.memByte_takeReplyFrom (k a : Nat) : ((bs.zipIdx k).foldl (fun s b => s.takeReplyByte pa kd b) s).memByte kd a =
    if pa + k ≤ a ∧ a < pa + k + bs.length ∧ s.dirtyCopy kd a = none then bs.getD (a - (pa + k)) 0 else s.memByte kd a := by
  induction bs generalizing s k with
  | nil => rw [if_neg (by simp only [List.length_nil]; omega)]; rfl
  | cons b bs ih =>
    rw [List.zipIdx_cons, List.foldl_cons, ih, State.memByte_takeReplyByte]
    simp only [State.dirtyCopy_takeReplyByte_eq_none, List.length_cons]
    by_cases hd : s.dirtyCopy kd a = none
    · by_cases h0 : a = pa + k
      · subst h0; simp [hd]
      · by_cases h1 : pa + (k + 1) ≤ a ∧ a < pa + (k + 1) + bs.length
        · rw [if_pos ⟨h1.1, h1.2, hd⟩, if_pos ⟨by omega, by omega, hd⟩, show a - (pa + k) = (a - (pa + (k + 1))) + 1 by omega, List.getD_cons_succ]
        · rw [if_neg (fun h => h1 ⟨h.1, h.2.1⟩), if_neg (fun h => h0 h.1), if_neg (fun h => h1 (by omega))]
    · simp [hd]
theorem State.memByte_takeReply (a : Nat) : (s.takeReply pa kd bs).memByte kd a =
    if pa ≤ a ∧ a < pa + bs.length ∧ s.dirtyCopy kd a = none then bs.getD (a - pa) 0 else s.memByte kd a := by
  rw [State.takeReply_eq]
  exact s.memByte_takeReplyFrom pa kd bs 0 a
end TakeReply

theorem fabricAccess_reply {s : State} {pa kd : Nat} {bs : List Byte} (h : isHost pa = false)
    (hb : ∀ i, i < bs.length → packageOf (pa + i) ≠ s.pkg.pkgid ∧ isHost (pa + i) = false) :
    exec (.fabricRemoteAccess (.reply pa kd bs)) s = .next (s.takeReply pa kd bs) := by
  have hn : ((List.range bs.length).any fun i => packageOf (pa + i) = s.pkg.pkgid || isHost (pa + i)) = false := by
    rw [List.any_eq_false]
    intro i hi
    obtain ⟨hp, hh⟩ := hb i (List.mem_range.1 hi)
    simp [hp, hh]
  rw [exec_fabricRemoteAccess]
  simp only [execFabricRemoteAccess, h, hn, Bool.or_false, Bool.false_eq_true, if_false]
theorem fabricAccess_reply_own {s : State} {pa kd : Nat} {bs : List Byte}
    (h : isHost pa = true ∨ ∃ i, i < bs.length ∧ (packageOf (pa + i) = s.pkg.pkgid ∨ isHost (pa + i) = true)) :
    exec (.fabricRemoteAccess (.reply pa kd bs)) s = .next s := by
  have hn : (isHost pa || (List.range bs.length).any fun i => packageOf (pa + i) = s.pkg.pkgid || isHost (pa + i)) = true := by
    simpa [List.any_eq_true] using h
  rw [exec_fabricRemoteAccess]
  simp only [execFabricRemoteAccess, hn, if_true]
theorem fabricAccess_tree {s : State} {p : RemotePacket} {g q r : Nat} {d e : List (BitVec 32)} (h : p = .collUp g q r d e ∨ p = .collDown g q d e) :
    exec (.fabricRemoteAccess p) s = .next (s.modPkg fun k => { k with inbox := k.inbox ++ [p] }) := by
  obtain rfl | rfl := h <;> rfl

-- FABRIC_CONFIGURATION

/-- When FABRIC_CONFIGURATION is taken: an id that exists, every context stopped, and no other id of this boot (R19, log 108). -/
def State.configurable (s : State) (n : Nat) : Prop := n < 1152 ∧ (∀ p, p < 12 → s.stopped p = true) ∧ (s.pkg.fabricFixed = false ∨ n = s.pkg.pkgid)
theorem exec_fabricConfiguration (n : Nat) (ms : List Nat) (s : State) : exec (.fabricConfiguration n ms) s = execFabricConfiguration n ms s := rfl
theorem fabricConfiguration_taken {s : State} {n : Nat} (h : s.configurable n) (ms : List Nat) :
    exec (.fabricConfiguration n ms) s = .next (s.configureFabric ⟨n, h.1⟩ ms) := by
  obtain ⟨hn, hs, hf⟩ := h
  rw [exec_fabricConfiguration, execFabricConfiguration, dif_pos hn, if_pos]
  simpa [List.all_eq_true] using And.intro hs hf
theorem fabricConfiguration_left {s : State} {n : Nat} (h : ¬ s.configurable n) (ms : List Nat) : exec (.fabricConfiguration n ms) s = .next s := by
  rw [exec_fabricConfiguration, execFabricConfiguration]
  split
  · rename_i hn
    rw [if_neg]
    exact fun hc => h ⟨hn, by simpa [List.all_eq_true] using hc⟩
  · rfl

-- HOST_COMPLETION_ERROR

section Completion
theorem Flight.failing_mem {f : Flight} {m : Mask} {a : LaneAccess} (h : a ∈ f.failing m) : a ∈ f.todo ∧ a.completes = true := by
  unfold Flight.failing at h
  dsimp only at h
  split at h
  · exact List.mem_filter.1 h
  · exact List.mem_filter.1 (List.mem_filter.1 h).1
/-- Every completion of a failed lane fails. -/
theorem Flight.mem_failing {f : Flight} {m : Mask} {a : LaneAccess} (ha : a ∈ f.todo) (hc : a.completes = true) (hm : m.getLsbD a.lane = true) : a ∈ f.failing m := by
  have h : a ∈ (f.todo.filter LaneAccess.completes).filter fun a => m.getLsbD a.lane := List.mem_filter.2 ⟨List.mem_filter.2 ⟨ha, hc⟩, hm⟩
  unfold Flight.failing
  dsimp only
  split
  · rename_i hn
    exact absurd (hn ▸ h) List.not_mem_nil
  · exact h
/-- Some completion fails. -/
theorem Flight.failing_ne_nil {f : Flight} (h : f.todo.any LaneAccess.completes = true) (m : Mask) : f.failing m ≠ [] := by
  obtain ⟨a, ha, hc⟩ := List.any_eq_true.1 h
  unfold Flight.failing
  dsimp only
  split
  · exact List.ne_nil_of_mem (List.mem_filter.2 ⟨ha, hc⟩)
  · assumption
theorem Gang.hostFlight_completes {g : Gang} {f : Flight} {r : Replay} (h : g.hostFlight = some (f, r)) : f.todo.any LaneAccess.completes = true := by
  obtain ⟨e, -, he⟩ := List.exists_of_findSome?_eq_some h
  split at he
  · obtain ⟨_, _, hx⟩ := Option.map_eq_some_iff.1 he
    cases hx
    assumption
  · cases he

/-- The gang after its flight's completions have failed: the flight's replay executes it. -/
def State.completionFailed (s : State) (k : GangKey) (f : Flight) : State := s.useFree.modGang k fun y => y.failFlight f.id
/-- What keeps a failed completion waiting: the gang is parked in the fault queue, or another trap waits for what is outstanding (R269, log 126). -/
def State.completionHeld (s : State) (k : GangKey) (f : Flight) : Prop :=
  (s.gang k).faultWait.isSome = true ∨ ((s.gang k).pendingTrap.isSome = true ∧ ((s.completionFailed k f).gang k).trapReady = false)
/-- DATA_UNCORRECTABLE at the lanes whose completions failed, restartably (R293). -/
def State.completionTrap (s : State) (k : GangKey) (f : Flight) (r : Replay) : TrapInfo :=
  let p := (s.gang k).path ((s.gang k).issuerOf f.path r.mask)
  let lanes := f.failing (Config.failedLanes s.freeNext)
  let m := maskOf (lanes.map LaneAccess.lane)
  ⟨0x60, 0, false, f.pc, p.pc, m, (lanes.head?.map LaneAccess.va).getD 0, r.addrs.filter fun e => m.getLsbD e.1, some r, p.id⟩

theorem exec_hostCompletionError (k : GangKey) (s : State) : exec (.hostCompletionError k) s = execHostCompletionError k s := rfl
theorem hostCompletionError_none {s : State} {k : GangKey} (h : (s.gang k).hostFlight = none) : exec (.hostCompletionError k) s = .next s := by
  simp only [exec_hostCompletionError, execHostCompletionError, h]
variable {s : State} {k : GangKey} {f : Flight} {r : Replay} (h : (s.gang k).hostFlight = some (f, r))
include h
theorem hostCompletionError_held (hh : s.completionHeld k f) : exec (.hostCompletionError k) s = .next s := by
  simp only [exec_hostCompletionError, execHostCompletionError, h]
  exact if_pos (by simpa [State.completionHeld, State.completionFailed] using hh)
theorem hostCompletionError_traps (hh : ¬ s.completionHeld k f) :
    exec (.hostCompletionError k) s = .next ((s.completionFailed k f).takeTrap k (s.completionTrap k f r)) := by
  simp only [exec_hostCompletionError, execHostCompletionError, h]
  exact if_neg (by simpa [State.completionHeld, State.completionFailed] using hh)
end Completion

-- The obligation

/-- Settles O59: each link's step is the write, the answer, the report, the configuration or the trap named above, and the rules of keyed writes, leases and dirty sectors say what it leaves. -/
theorem linkEvents : Obligations.LinkEvents := by
  intro s
  have served {pa kd n : Nat} (hh : s.heldHbm pa n = true) (hd : s.domainGone kd = false) : s.serves pa kd n = true := (s.serves_iff pa kd n).2 ⟨hh, hd⟩
  have unserved {pa kd n : Nat} (h : s.heldHbm pa n = false ∨ s.domainGone kd = true) : s.serves pa kd n = false := (s.serves_eq_false_iff pa kd n).2 h
  refine ⟨?hostMemory, ?hostHbm, ?hostOutside, ?write, ?read, ?atomic, ?readsRefused, ?writeRefused, ?reply, ?replyOwn, ?tree, ?configure, ?completion, ?noCompletion⟩
  case hostMemory => exact fun pa kd bs h => ⟨_, hostLinkWrite_host h kd bs, fun a => Memory.read_writeBytes .., rfl⟩
  case hostHbm =>
    intro pa kd bs h hd hh
    exact ⟨_, by rw [hostLinkWrite_hbm h, if_pos (served hh hd)], s.fabricWrite_lands pa kd bs, s.fabricWrite_teams pa kd bs⟩
  case hostOutside =>
    intro pa kd bs h hx
    simp [hostLinkWrite_hbm h, unserved hx.symm]
  case write =>
    intro pa kd bs hh hd
    exact ⟨_, by rw [fabricAccess_write, if_pos (served hh hd)], s.fabricWrite_lands pa kd bs, fun i hi => s.fabricWrite_unpoisons pa kd bs hi, s.fabricWrite_teams pa kd bs⟩
  case read =>
    intro pa kd n hh hd hx hl
    refine ⟨_, fabricAccess_read (served hh hd) hx, s.leaseLines_mem pa n, ?_, s.leaseLines_teams pa n⟩
    simp only [State.answer_out, s.leaseLines_pkg, State.leaseLines_keyRead (s := s) hl]
  case atomic =>
    intro pa kd n new p hh hd hx hp
    exact ⟨_, fabricAccess_atomic hp (served hh hd) hx, State.fabricWrite_out .., (State.fabricWrite_lands _ pa kd _).of_answer⟩
  case readsRefused =>
    intro pa kd n p hp
    refine ⟨fun h => fabricAccess_unserved hp (unserved h), fun hh hd hx => ?_⟩
    obtain ⟨part, hr⟩ := State.reportHome_of_held hh
    exact ⟨part, hr ▸ fabricAccess_poisoned hp (served hh hd) hx⟩
  case writeRefused =>
    intro pa kd bs h
    simp [fabricAccess_write, unserved h]
  case reply =>
    intro pa kd bs h hb
    exact ⟨_, fabricAccess_reply h hb, s.memByte_takeReply pa kd bs, s.takeReply_keeps pa kd bs _ State.keyWrite_gangs, s.takeReply_keeps pa kd bs _ State.keyWrite_teams,
      s.takeReply_keeps pa kd bs _ State.keyWrite_parts⟩
  case replyOwn => exact fun pa kd bs h => fabricAccess_reply_own h
  case tree => exact fun g q r d e p h => ⟨_, fabricAccess_tree h, rfl, rfl⟩
  case configure =>
    intro n ms
    exact ⟨fun h => ⟨_, fabricConfiguration_taken h ms, rfl, rfl, rfl, rfl, rfl⟩, fun h => fabricConfiguration_left h ms⟩
  case completion =>
    intro k f r h
    exact ⟨Flight.failing_ne_nil (Gang.hostFlight_completes h) _, fun a ha => Flight.failing_mem ha, fun a ha hc hm => Flight.mem_failing ha hc hm,
      hostCompletionError_held h, hostCompletionError_traps h⟩
  case noCompletion => exact fun k h => hostCompletionError_none h

end Sys2Proof.Machine
end

section
/-! PROOFS. What a gang does for its grid and its frames: LAUNCH posts a child under the lowest free index of the device range, GROW widens X, WFLUSH spills what stands below the current frame (O42). -/
namespace Sys2Proof.Machine

-- LAUNCH: the free index (R41, R244)

/-- An index of the device range that LAUNCH may take: below 65,536 and not in use. -/
def Context.deviceFree (x : Context) (i : Nat) : Bool := i < 65536 && !x.devUsed.contains i
theorem Context.deviceFree_iff (x : Context) (i : Nat) : x.deviceFree i = true ↔ i < 65536 ∧ x.devUsed.contains i = false := by simp [Context.deviceFree]
theorem State.freeDevice_eq (s : State) (c : CtxKey) : s.freeDevice c =
    ((List.range ((s.ctx c).devUsed.length + 1)).find? fun n => (s.ctx c).deviceFree ((s.ctx c).devbase + n)).map ((s.ctx c).devbase + ·) := by
  change ((List.range _).findSome? fun n => if (s.ctx c).deviceFree ((s.ctx c).devbase + n) then some ((s.ctx c).devbase + n) else none) = _
  rw [List.find?_eq_findSome?_guard, List.map_findSome?]
  congr 1
  funext n
  cases hf : (s.ctx c).deviceFree ((s.ctx c).devbase + n) <;> simp [Option.guard, hf]

/-- A list shorter than a range of numbers leaves one of them out. -/
theorem exists_not_mem_of_length_lt {used : List Nat} {n : Nat} (h : used.length < n) (base : Nat) : ∃ k < n, base + k ∉ used := by
  by_contra! hall
  have hsub : ((List.range n).map (base + ·)) ⊆ used := by
    intro i hi
    obtain ⟨k, hk, rfl⟩ := List.mem_map.1 hi
    exact hall k (List.mem_range.1 hk)
  have hnodup : ((List.range n).map (base + ·)).Nodup := List.nodup_range.map fun _ _ => Nat.add_left_cancel
  have := (hnodup.subperm hsub).length_le
  simp only [List.length_map, List.length_range] at this
  omega

section FreeDevice
variable {s : State} {c : CtxKey}
/-- The index that LAUNCH takes is free, and the lowest free one of the range. -/
theorem State.freeDevice_lowest {i : Nat} (h : s.freeDevice c = some i) :
    (s.ctx c).devbase ≤ i ∧ (s.ctx c).deviceFree i = true ∧ ∀ j, (s.ctx c).devbase ≤ j → j < i → (s.ctx c).deviceFree j = false := by
  rw [State.freeDevice_eq, Option.map_eq_some_iff] at h
  obtain ⟨n, hn, rfl⟩ := h
  obtain ⟨hfree, -, hbelow⟩ := List.find?_range_eq_some.1 hn
  refine ⟨Nat.le_add_right .., hfree, fun j hj hlt => ?_⟩
  obtain ⟨m, rfl⟩ := Nat.exists_eq_add_of_le hj
  simpa using hbelow m (by omega)
/-- No index at all is free when the search, one longer than the list of those in use, finds none. -/
theorem State.freeDevice_none (h : s.freeDevice c = none) {j : Nat} (hj : (s.ctx c).devbase ≤ j) : (s.ctx c).deviceFree j = false := by
  rw [State.freeDevice_eq, Option.map_eq_none_iff, List.find?_range_eq_none] at h
  have hsearch : ∀ n, n < (s.ctx c).devUsed.length + 1 → (s.ctx c).deviceFree ((s.ctx c).devbase + n) = false := by simpa using h
  obtain ⟨n, hn, hout⟩ := exists_not_mem_of_length_lt (Nat.lt_succ_self (s.ctx c).devUsed.length) (s.ctx c).devbase
  have hend : 65536 ≤ (s.ctx c).devbase + n := by simpa [Context.deviceFree, hout] using hsearch n hn
  by_cases hlt : j < 65536
  · have hj' := hsearch (j - (s.ctx c).devbase) (by omega)
    rwa [Nat.add_sub_cancel' hj] at hj'
  · simp [Context.deviceFree, hlt]
end FreeDevice
theorem Context.used_of_not_free {x : Context} {j : Nat} (h : x.deviceFree j = false) (hj : j < 65536) : x.devUsed.contains j = true := by
  simpa [Context.deviceFree, hj] using h

-- LAUNCH: the statuses in their order (R364)

/-- A child that is posted gives its task index in bits 31:16. -/
theorem State.postChild_status {s t : State} {k : GangKey} {bs : List Byte} {i st : Nat} (h : s.postChild k bs i = .status t st) : st = i * 65536 := by
  simp only [State.postChild] at h
  repeat' split at h
  all_goals cases h
  rfl

section LaunchAt
variable {s : State} {k : GangKey} {addr : Nat}
theorem State.launchAt_otherGang (h : k.idx ≠ 0) : s.launchAt k addr = .status s 0x02 := if_pos h
variable (hk : k.idx = 0)
include hk
theorem State.launchAt_deepest (hd : (s.grid (s.team k.team).grid).depth = 10) : s.launchAt k addr = .status s 0x01 := by
  simp only [State.launchAt, hk, hd, ne_eq, not_true, if_false, if_true]
variable (hd : (s.grid (s.team k.team).grid).depth ≠ 10)
include hd
theorem State.launchAt_misaligned (ha : addr % 64 ≠ 0) : s.launchAt k addr = .status s 0x04 := by
  simp only [State.launchAt, hk, hd, ha, ne_eq, not_true, not_false_eq_true, if_false, if_true]
variable (ha : addr % 64 = 0)
include ha
theorem State.launchAt_unread {e : Nat × MFault} (hl : s.locs (s.team k.team).ctx (some (s.gang k).core) .load none addr 512 = .error e) :
    s.launchAt k addr = .fault e.1 e.2 .load := by
  simp only [State.launchAt, hk, hd, ha, hl, ne_eq, not_true, if_false]
section Read
variable {ls : List Loc} (hl : s.locs (s.team k.team).ctx (some (s.gang k).core) .load none addr 512 = .ok ls)
include hl
theorem State.launchAt_refused (hr : (s.gangRead k (s.team k.team).ctx addr ls).launchOk (s.team k.team).ctx.part (ls.map s.locByte) addr = false) :
    s.launchAt k addr = .status (s.gangRead k (s.team k.team).ctx addr ls) 0x04 := by
  simp only [State.launchAt, hk, hd, ha, hl, hr, ne_eq, not_true, if_false, Bool.not_false, if_true]
variable (hr : (s.gangRead k (s.team k.team).ctx addr ls).launchOk (s.team k.team).ctx.part (ls.map s.locByte) addr = true)
include hr
theorem State.launchAt_noIndex (hn : (s.gangRead k (s.team k.team).ctx addr ls).freeDevice (s.team k.team).ctx = none) :
    s.launchAt k addr = .status (s.gangRead k (s.team k.team).ctx addr ls) 0x03 := by
  simp only [State.launchAt, hk, hd, ha, hl, hr, hn, ne_eq, not_true, if_false, Bool.not_true, Bool.false_eq_true]
theorem State.launchAt_posts {i : Nat} (hn : (s.gangRead k (s.team k.team).ctx addr ls).freeDevice (s.team k.team).ctx = some i) :
    s.launchAt k addr = ((s.gangRead k (s.team k.team).ctx addr ls).observe k).postChild k (ls.map s.locByte) i := by
  simp only [State.launchAt, hk, hd, ha, hl, hr, hn, ne_eq, not_true, if_false, Bool.not_true, Bool.false_eq_true]
end Read
end LaunchAt

section LaunchWord
variable {s s1 : State} {x : Issue} {g : Guard} {d a : Operand} (h : s.ready (.launch g d a) = some (x, s1))
include h
theorem exec_launch_status {t : State} {st : Nat} (hl : (s1.catchUp x.key).launchAt x.key (x.once s1 a 2) = .status t st) :
    exec (.launch g d a) s = .next ((t.modGang x.key fun e => e.writeRegs ((x.gang.dest d 1).writes x.low st)).advance x.key x.path.id) :=
  issueWord_done (eff := launchEffect d a) h (by simp only [launchEffect, hl])
/-- A fault of LAUNCH is a memory fault of its word, never DIE_FENCED. -/
theorem exec_launch_fault {va : Nat} {f : MFault} {kind : AccessKind} (hl : (s1.catchUp x.key).launchAt x.key (x.once s1 a 2) = .fault va f kind) :
    exec (.launch g d a) s = .next (s1.memFault x 0 (launchFault x.low va f kind (x.once s1 a 2) (x.gang.dest d 1))) :=
  issueWord_mfault (eff := launchEffect d a) h (by simp only [launchEffect, hl]) (State.launchAt_cause hl)
end LaunchWord

-- GROW (R45, R356)

section GrowWord
variable {s s1 : State} {x : Issue} {g : Guard} {d n : Operand} (h : s.ready (.grow g d n) = some (x, s1))
include h
theorem exec_grow_grows (hg : (s1.grid x.team.grid).launch.growable = true) (hx : (s1.grid x.team.grid).x + x.once s1 n 1 ≤ 2 ^ 32 - 1) :
    exec (.grow g d n) s = .next ((((s1.catchUp x.key).setGrid x.team.grid { s1.grid x.team.grid with x := (s1.grid x.team.grid).x + x.once s1 n 1 }).modGang x.key fun e =>
      e.writeRegs ((x.gang.dest d 1).writes x.low (s1.grid x.team.grid).x)).advance x.key x.path.id) := by
  refine issueWord_done (eff := growEffect d n) h (if_neg ?_)
  simpa [hg] using hx
theorem exec_grow_limit (hx : (s1.grid x.team.grid).launch.growable = false ∨ 2 ^ 32 - 1 < (s1.grid x.team.grid).x + x.once s1 n 1) :
    ∃ s0, s.issueOf (.grow g d n) = some (x, s0) ∧ exec (.grow g d n) s = .next (s0.raise x (.of 0x41)) := by
  refine issueWord_trap (eff := growEffect d n) h (if_pos ?_)
  simpa using hx
end GrowWord

-- WFLUSH (R95, R418)

section WflushWord
variable {s s1 : State} {x : Issue} {g : Guard} (h : s.ready (.wflush g) = some (x, s1))
include h
theorem exec_wflush_blocked (hb : x.gang.flushBlocked = true) :
    ∃ s0, s.issueOf (.wflush g) = some (x, s0) ∧ exec (.wflush g) s = .next (s0.hold x.key x.path.id .flush) :=
  issueWord_hold (eff := wflushEffect) h (if_pos hb)
variable (hb : x.gang.flushBlocked = false)
include hb
theorem exec_wflush_flushes {t : State} (hs : s1.spillAll x.key x.gang.spillFuel = .ok t) :
    exec (.wflush g) s = .next ((t.modGang x.key fun e => { e with refillOff := true, spillOpen := e.handlerMode }).advance x.key x.path.id) :=
  issueWord_done (eff := wflushEffect) h (by simp only [wflushEffect, hb, hs, Bool.false_eq_true, if_false])
theorem exec_wflush_fault {t : State} {va : Nat} {f : MFault} {kind : AccessKind} (hs : s1.spillAll x.key x.gang.spillFuel = .fault t va f kind) :
    exec (.wflush g) s = .next (t.spillFault x va f kind) :=
  issueWord_spill (eff := wflushEffect) h (by simp only [wflushEffect, hb, hs, Bool.false_eq_true, if_false])
end WflushWord

/-- Nothing is left to spill once every frame's record is: SFRAMES counts the frames whose records are out (R87). -/
theorem Gang.nextSpill_eq_none_iff (g : Gang) : g.nextSpill = none ↔ ∀ f ∈ g.frames, f.recSpilled = true := by
  have hend : g.frames[g.sframes]? = none ↔ ∀ f ∈ g.frames, f.recSpilled = true := by
    rw [List.getElem?_eq_none_iff, ← List.takeWhile_eq_self_iff]
    refine ⟨fun hle => (List.takeWhile_prefix _).eq_of_length_le hle, fun heq => ?_⟩
    rw [Gang.sframes, heq]
  rw [← hend, Gang.nextSpill]
  cases g.frames[g.sframes]? <;> simp
theorem State.spillAll_done {s : State} {k : GangKey} (h : (s.gang k).nextSpill = none) (n : Nat) : s.spillAll k n = .ok s := by
  cases n with
  | zero => rfl
  | succ n => simp only [State.spillAll, h]
/-- A fault, a stall or a want of room at an item ends the spilling. -/
theorem State.spillAll_item {s : State} {k : GangKey} {e : Nat × Frame × Option Nat} (h : (s.gang k).nextSpill = some e) (n : Nat) :
    s.spillAll k (n + 1) = match (s.spillItem k).1 with | .ok u => u.spillAll k n | r => r := by
  cases hi : (s.spillItem k).1 <;> simp only [State.spillAll, h, hi]

-- The obligation

/-- Settles O42: LAUNCH's answer is launchAt's in the order of its statuses, GROW's is the grid's X, and WFLUSH spills item by item. -/
theorem launchGrowAndWflush : Obligations.LaunchGrowAndWflush := by
  refine ⟨fun s s1 x g d a => ⟨?launch, ?statuses, ?indices, ?grow⟩, ?wflush, ?spill⟩
  case launch => exact fun h => ⟨fun t st hl => exec_launch_status h hl, fun va f kind hl => exec_launch_fault h hl⟩
  case statuses =>
    intro t k addr
    refine ⟨State.launchAt_otherGang, State.launchAt_deepest, State.launchAt_misaligned, fun e hk hd ha => State.launchAt_unread hk hd ha, fun ls hk hd ha hl => ?_⟩
    exact ⟨State.launchAt_refused hk hd ha hl, State.launchAt_noIndex hk hd ha hl,
      fun i hr hn => ⟨State.launchAt_posts hk hd ha hl hr hn, fun u st => State.postChild_status⟩⟩
  case indices =>
    intro t c
    refine ⟨fun i h => ?_, fun h j hj hlt => Context.used_of_not_free (State.freeDevice_none h hj) hlt⟩
    obtain ⟨hbase, hfree, hbelow⟩ := State.freeDevice_lowest h
    obtain ⟨hlt, hnew⟩ := ((t.ctx c).deviceFree_iff i).1 hfree
    exact ⟨hbase, hlt, hnew, fun j hj hji => Context.used_of_not_free (hbelow j hj hji) (hji.trans hlt)⟩
  case grow => exact fun h => ⟨exec_grow_grows h, exec_grow_limit h⟩
  case wflush => exact fun s s1 x g h => ⟨exec_wflush_blocked h, fun t hb => exec_wflush_flushes h hb, fun t va f kind hb => exec_wflush_fault h hb⟩
  case spill => exact fun t k => ⟨(t.gang k).nextSpill_eq_none_iff, State.spillAll_done, fun n e h => State.spillAll_item h n⟩

end Sys2Proof.Machine
end

section
/-! PROOFS. The lane instructions of the whole gang: each sets one result for every active lane, and REDG's value is a fold over the active lanes' operands (O17). -/
namespace Sys2Proof.Machine

-- One result for each lane (R115)

section LaneWord
variable {s s1 : State} {x : Issue}
/-- A ready word whose effect is per lane writes its results in the active lanes, and its path goes on. -/
theorem issueWord_lanes_set {i : Instr} {al : Bool} {d : Operand} {n : Nat} {f : Issue → State → Nat → Nat} (h : s.ready i = some (x, s1)) :
    s.issueWord i al (laneEffect d n f) = .next ((s1.lanesSet x d n (f x s1)).advance x.key x.path.id) := issueWord_done h rfl

/-- The place that SHFL's mode names, from lane l by k, inside the gang or not (R398). -/
def shflTarget (mode : ShflMode) (l k : Nat) : Int :=
  match mode with
  | .idx => (k : Int)
  | .up => (l : Int) - k
  | .dn => (l : Int) + k
  | .xor => ((l ^^^ k : Nat) : Int)
theorem shflLane_getD (mode : ShflMode) (w l k : Nat) :
    (shflLane mode w l k).getD l = if 0 ≤ shflTarget mode l k ∧ shflTarget mode l k < w then (shflTarget mode l k).toNat else l :=
  apply_ite (Option.getD · l) (0 ≤ shflTarget mode l k ∧ shflTarget mode l k < w) _ _

variable {g : Guard}
theorem exec_shfl {a : ShflArgs} (h : s.ready (.shfl g a) = some (x, s1)) :
    exec (.shfl g a) s = .next ((s1.lanesSet x a.d a.ty.regs fun l =>
      let j := shflTarget a.mode l (x.readSrc s1 a.s2 1 .int l)
      x.read s1 a.s1 a.ty.regs .int (if 0 ≤ j ∧ j < x.gang.width then j.toNat else l)).advance x.key x.path.id) := by
  refine (issueWord_lanes_set h).trans ?_
  simp only [shflLane_getD]
theorem exec_perm {a : PermArgs} (h : s.ready (.perm g a) = some (x, s1)) :
    exec (.perm g a) s = .next ((s1.lanesSet x a.d a.ty.regs fun l =>
      x.read s1 a.s1 a.ty.regs .int (x.readSrc s1 a.s2 1 .int l % x.gang.width)).advance x.key x.path.id) := issueWord_lanes_set h
theorem exec_vote {a : VoteArgs} (h : s.ready (.vote g a) = some (x, s1)) :
    exec (.vote g a) s = .next ((s1.lanesSet x a.d (if a.mode = .ballot ∧ x.gang.width = 64 then 2 else 1) fun _ =>
      voteValue a.mode x.lanes fun l => x.read s1 a.s1 1 .int l).advance x.key x.path.id) := by
  refine (issueWord_done h rfl).trans ?_
  simp only [State.lanesSet, Bool.and_eq_true, decide_eq_true_eq]
theorem exec_redg {a : RedgArgs} (h : s.ready (.redg g a) = some (x, s1)) :
    exec (.redg g a) s = .next ((s1.lanesSet x a.d a.ty.regs fun _ =>
      redgValue a.op a.ty (x.lanes.map fun l => x.read s1 a.s1 a.ty.regs (if a.ty = .f32 then .f32 else .int) l)).advance x.key x.path.id) := issueWord_lanes_set h
theorem exec_elect {d : Operand} {sform : Bool} (h : s.ready (.elect g d sform) = some (x, s1)) :
    exec (.elect g d sform) s = .next ((s1.lanesSet x d 1 fun l =>
      if sform then (x.gang.homeOf x.key x.low).2 else boolNat (l = x.low)).advance x.key x.path.id) := issueWord_lanes_set h
theorem boolNat_decide (p : Prop) [Decidable p] : boolNat (decide p) = if p then 1 else 0 := by
  simp only [boolNat, decide_eq_true_eq]
end LaneWord

-- REDG's value over the active lanes (R393)

section Choice
variable {α : Type} (beats : α → α → Bool)
/-- Of two values, the second where it is better. -/
def pickBetter (m z : α) : α := if beats z m then z else m
theorem foldl_pickBetter_mem (y : α) (ys : List α) : ys.foldl (pickBetter beats) y ∈ y :: ys := by
  induction ys generalizing y with
  | nil => exact List.mem_cons_self
  | cons z zs ih =>
    have hpick : pickBetter beats y z = y ∨ pickBetter beats y z = z := (ite_eq_or_eq ..).symm
    grind
/-- Where the value of the lower measure is taken, the one held in the end has the lowest. -/
theorem foldl_pickBetter_le {v : α → Int} (hv : ∀ a b, beats a b = true ↔ v a < v b) (y : α) (ys : List α) : ∀ z ∈ y :: ys, v (ys.foldl (pickBetter beats) y) ≤ v z := by
  induction ys generalizing y with
  | nil => simp
  | cons z zs ih =>
    have hpick : v (pickBetter beats y z) ≤ v y ∧ v (pickBetter beats y z) ≤ v z := by
      unfold pickBetter
      split
      · rename_i h
        exact ⟨((hv z y).1 h).le, le_rfl⟩
      · rename_i h
        exact ⟨le_rfl, not_lt.1 (mt (hv z y).2 h)⟩
    have hfold := ih (pickBetter beats y z)
    have hstart := hfold _ List.mem_cons_self
    intro c hc
    obtain rfl | hc := List.mem_cons.1 hc
    · exact hstart.trans hpick.1
    · obtain rfl | hc := List.mem_cons.1 hc
      · exact hstart.trans hpick.2
      · exact hfold c (List.mem_cons_of_mem _ hc)
end Choice

/-- The bits that REDG combines under a type. -/
def redgWidth (ty : RedgTy) : Nat := if ty.regs = 2 then 64 else 32
/-- The integer that an operand is under a type. -/
def redgInt (ty : RedgTy) (n : Nat) : Int := if ty = .s32 ∨ ty = .s64 then signedOf (redgWidth ty) n else ((n % 2 ^ redgWidth ty : Nat) : Int)
/-- The order by which .MIN and .MAX choose. -/
def redgLess (ty : RedgTy) (a b : Nat) : Bool :=
  if ty = .s32 || ty = .s64 then signedOf (redgWidth ty) a < signedOf (redgWidth ty) b else a % 2 ^ redgWidth ty < b % 2 ^ redgWidth ty
theorem redgLess_iff (ty : RedgTy) (a b : Nat) : redgLess ty a b = true ↔ redgInt ty a < redgInt ty b := by
  by_cases h : ty = .s32 ∨ ty = .s64
  · simp [redgLess, redgInt, h]
  · simp only [redgLess, redgInt, h, Bool.or_eq_true, decide_eq_true_eq, if_false, Nat.cast_lt]

section RedgValue
variable {ty : RedgTy} (y : Nat) (ys : List Nat)
theorem redgValue_add (hf : ty ≠ .f32) : redgValue .add ty (y :: ys) = (y :: ys).sum % 2 ^ redgWidth ty := by
  rw [List.sum_eq_foldl]
  cases ty with
  | f32 => exact absurd rfl hf
  | _ => rfl
theorem redgValue_min (hf : ty ≠ .f32) : redgValue .min ty (y :: ys) = ys.foldl (pickBetter (redgLess ty)) y := by
  cases ty with
  | f32 => exact absurd rfl hf
  | _ => rfl
theorem redgValue_max (hf : ty ≠ .f32) : redgValue .max ty (y :: ys) = ys.foldl (pickBetter fun a b => redgLess ty b a) y := by
  cases ty with
  | f32 => exact absurd rfl hf
  | _ => rfl

variable (ty)
theorem redgValue_and : redgValue .and ty (y :: ys) = ys.foldl (· &&& ·) y := rfl
theorem redgValue_or : redgValue .or ty (y :: ys) = ys.foldl (· ||| ·) y := rfl
theorem redgValue_xor : redgValue .xor ty (y :: ys) = ys.foldl (· ^^^ ·) y := rfl
theorem testBit_redgValue_and (i : Nat) : (redgValue .and ty (y :: ys)).testBit i = (y :: ys).all fun z => z.testBit i := by
  rw [redgValue_and]
  induction ys generalizing y with
  | nil => simp
  | cons z zs ih => simp only [List.foldl_cons, ih, List.all_cons, Nat.testBit_and, Bool.and_assoc]
theorem testBit_redgValue_or (i : Nat) : (redgValue .or ty (y :: ys)).testBit i = (y :: ys).any fun z => z.testBit i := by
  rw [redgValue_or]
  induction ys generalizing y with
  | nil => simp
  | cons z zs ih => simp only [List.foldl_cons, ih, List.any_cons, Nat.testBit_or, Bool.or_assoc]
/-- An odd number of bits set. -/
theorem testBit_redgValue_xor (i : Nat) : (redgValue .xor ty (y :: ys)).testBit i = decide (((y :: ys).filter fun z => z.testBit i).length % 2 = 1) := by
  rw [redgValue_xor]
  induction ys generalizing y with
  | nil => cases h : y.testBit i <;> simp [h]
  | cons z zs ih =>
    simp only [List.foldl_cons, ih, List.filter_cons, Nat.testBit_xor]
    cases y.testBit i <;> cases z.testBit i <;> simp [Nat.add_assoc]
end RedgValue

-- The obligation

/-- Settles O17: each lane instruction sets its result lane by lane, and REDG's choices, sums and bits are folds over the active lanes. -/
theorem laneExchange : Obligations.LaneExchange := by
  refine ⟨fun s s1 x g => ⟨fun a => exec_shfl, fun a => exec_perm, fun a h => ?vote, fun a => exec_redg, fun d sform h => ?elect⟩,
    fun ty y ys => ⟨fun hf => ?integers, testBit_redgValue_and ty y ys, testBit_redgValue_or ty y ys, testBit_redgValue_xor ty y ys⟩, fun y ys => ⟨rfl, rfl, rfl⟩⟩
  case vote =>
    rw [exec_vote h]
    cases a.mode <;> rfl
  case elect =>
    rw [exec_elect h]
    simp only [boolNat_decide]
  case integers =>
    refine ⟨redgValue_add y ys hf, ?_⟩
    rw [redgValue_min y ys hf, redgValue_max y ys hf]
    refine ⟨foldl_pickBetter_mem _ y ys, foldl_pickBetter_le _ (redgLess_iff ty) y ys, foldl_pickBetter_mem _ y ys, fun z hz => ?_⟩
    exact neg_le_neg_iff.1 (foldl_pickBetter_le (v := fun n => -redgInt ty n) _ (fun a b => (redgLess_iff ty b a).trans neg_lt_neg_iff.symm) y ys z hz)

end Sys2Proof.Machine
end

section
/-! PROOFS. The division of paths (R57, R440): the children in the divided path's place, the node above them, and what a branch, a split and a call leave beside them (O35, O36). -/
namespace Sys2Proof.Machine

-- A gang out of its clause slot (R49)

section LeaveSlot
variable (s : State) (k : GangKey)
@[simp] theorem State.gang_leaveSlot (j : GangKey) : (s.leaveSlot k).gang j = s.gang j := rfl
@[simp] theorem State.team_leaveSlot (n : Nat) : (s.leaveSlot k).team n = s.team n := rfl
theorem State.benches_leaveSlot : (s.leaveSlot k).benches = tmap s.benches (fun _ _ => true) fun b => { b with slot := b.slot.filter fun j => j ≠ k } := rfl
theorem State.not_mem_slot_leaveSlot (c b : Nat) : k ∉ ((s.leaveSlot k).bench c b).slot := by
  rw [State.bench, tgetD, State.benches_leaveSlot, tget_tmap]
  cases tget s.benches (c, b) <;> simp [Bench.initial]
end LeaveSlot

-- Children in the place of their path

/-- One part of a division under its number. -/
def childPath (p : Path) (rpc : Option Nat) (link id : Nat) (c : Branch) : Path :=
  { (match c.hdr with | some h => p.goto h | none => p) with id := id, mask := c.mask, st := c.st, rpc := rpc, link := link }
theorem childPaths_eq (p : Path) (rpc : Option Nat) (link : Nat) (cs : List (Nat × Branch)) :
    childPaths p rpc link cs = cs.map fun c => childPath p rpc link c.1 c.2 := rfl

section ChildPath
variable {p : Path} {rpc : Option Nat} {link id : Nat} {c : Branch}
theorem childPath_at {h : Nat} (hc : c.hdr = some h) : (childPath p rpc link id c).hdr = h % 2 ^ 64 ∧ (childPath p rpc link id c).pos = 0 := by
  simp [childPath, hc, Path.goto]
theorem childPath_here (hc : c.hdr = none) : (childPath p rpc link id c).hdr = p.hdr ∧ (childPath p rpc link id c).pos = p.pos := by
  simp [childPath, hc]
end ChildPath

section Divide
variable {g : Gang} {p : Path} {ps qs : List Path}
theorem Gang.replacePath_paths (hp : g.paths = ps ++ p :: qs) (hid : ∀ q ∈ ps ++ qs, q.id ≠ p.id) (cs : List Path) : (g.replacePath p.id cs).paths = ps ++ cs ++ qs := by
  have hkeep (l : List Path) (hl : ∀ q ∈ l, q.id ≠ p.id) : (l.flatMap fun q => if q.id = p.id then cs else [q]) = l := by
    rw [List.flatMap_congr fun q hq => if_neg (hl q hq), List.flatMap_singleton']
  simp only [Gang.replacePath, hp, List.flatMap_append, List.flatMap_cons, if_true, List.append_assoc]
  rw [hkeep ps fun q hq => hid q (List.mem_append_left _ hq), hkeep qs fun q hq => hid q (List.mem_append_right _ hq)]
theorem Gang.divide_paths (hp : g.paths = ps ++ p :: qs) (hid : ∀ q ∈ ps ++ qs, q.id ≠ p.id) (node : Option Node) (rpc : Option Nat) (cs : List (Nat × Branch)) :
    (g.divide p node rpc cs).paths = ps ++ childPaths p rpc ((node.map Node.id).getD p.link) cs ++ qs := by
  cases node <;> exact Gang.replacePath_paths hp hid _
end Divide
section DivideLeaves
variable (g : Gang) (p : Path) (node : Option Node) (rpc : Option Nat) (cs : List (Nat × Branch))
@[simp] theorem Gang.divide_nodes : (g.divide p node rpc cs).nodes = node.toList ++ g.nodes := rfl
theorem Gang.divide_rest : { g.divide p node rpc cs with paths := g.paths, nodes := g.nodes } = g := rfl
end DivideLeaves

-- A branch (R57, R440)

/-- The node of a branch with a reconvergence PC: it keeps the divided path's own number, PC and link. -/
def branchNode (p : Path) (rpc : Option Nat) : Option Node := rpc.map fun _ => pathNode p p.id .branch 0
theorem branchNode_link (p : Path) (rpc : Option Nat) : ((branchNode p rpc).map Node.id).getD p.link = if rpc.isSome then p.id else p.link := by cases rpc <;> rfl
theorem branchNode_toList (p : Path) (rpc : Option Nat) : (branchNode p rpc).toList = if rpc.isSome then [⟨p.id, p.id, p.rpc, p.link, .branch, 0⟩] else [] := by cases rpc <;> rfl
/-- The parts of a branch with their fresh numbers. -/
def numbered (n : Nat) (cs : List Branch) : List (Nat × Branch) := cs.zipIdx.map fun c => (n + c.2, c.1)
theorem numbered_length (n : Nat) (cs : List Branch) : (numbered n cs).length = cs.length := by simp [numbered]
theorem numbered_getElem? (n : Nat) (cs : List Branch) (i : Nat) : (numbered n cs)[i]? = cs[i]?.map fun c => (n + i, c) := by simp [numbered, Function.comp_def]

section Branch
variable (s : State) (x : Issue) (rpc : Option Nat) (cs : List Branch)
theorem State.branch_gang : (s.branch x rpc cs).gang x.key = (s.gang x.key).divide x.path (branchNode x.path rpc) rpc (numbered s.seq cs) :=
  s.gang_modGang x.key fun g => g.divide x.path (branchNode x.path rpc) rpc (numbered s.seq cs)
theorem State.branch_gang_ne {k : GangKey} (h : k ≠ x.key) : (s.branch x rpc cs).gang k = s.gang k :=
  s.gang_modGang_ne (fun g => g.divide x.path (branchNode x.path rpc) rpc (numbered s.seq cs)) h
theorem State.branch_slot (c b : Nat) : x.key ∉ ((s.branch x rpc cs).bench c b).slot := State.not_mem_slot_leaveSlot _ _ c b
theorem State.branch_rest : { s.branch x rpc cs with gangs := s.gangs, benches := s.benches, seq := s.seq } = s := rfl
variable {s x} {ps qs : List Path} (hp : (s.gang x.key).paths = ps ++ x.path :: qs) (hid : ∀ p ∈ ps ++ qs, p.id ≠ x.path.id)
include hp hid
theorem State.branch_paths : ((s.branch x rpc cs).gang x.key).paths =
    ps ++ (numbered s.seq cs).map (fun c => childPath x.path rpc (if rpc.isSome then x.path.id else x.path.link) c.1 c.2) ++ qs := by
  rw [State.branch_gang, Gang.divide_paths hp hid, branchNode_link, childPaths_eq]
end Branch

-- A split (R59, R60)

theorem State.catchUp_of_performed {s : State} {k : GangKey} (h : (s.gang k).accessesLeft = 0) : s.catchUp k = s := by
  rw [State.catchUp, h]
  rfl

/-- The departing threads' records on their stacks. -/
def Team.pushDeparts (t : Team) (es : List Spawn) : Team :=
  { t with
    spawn := t.spawn ++ es,
    departs := es.foldl (fun ds e => tset ds (e.homeGang, e.homeLane) (e.depart :: tgetD ds (e.homeGang, e.homeLane) [])) t.departs }
/-- The staying lanes alone in the path's place, the departed ones away. -/
def Gang.splitOff (g : Gang) (p : Path) (m : Mask) (node : Option Node) (rpc : Option Nat) (stay : Branch) : Gang :=
  { g.divide p node rpc [(p.id, stay)] with away := g.away ||| m }
theorem Gang.splitOff_paths {g : Gang} {p : Path} {ps qs : List Path} (hp : g.paths = ps ++ p :: qs) (hid : ∀ q ∈ ps ++ qs, q.id ≠ p.id) (m : Mask) (node : Option Node)
    (rpc : Option Nat) (stay : Branch) : (g.splitOff p m node rpc stay).paths = ps ++ childPath p rpc ((node.map Node.id).getD p.link) p.id stay :: qs := by
  refine (Gang.divide_paths hp hid node rpc [(p.id, stay)]).trans ?_
  rw [childPaths_eq, List.append_assoc]
  rfl

section Depart
variable {s : State} {x : Issue} (m : Mask) (es : List Spawn) (node : Option Node) (rpc : Option Nat) (stay : Branch) (h : (s.gang x.key).accessesLeft = 0)
include h
theorem State.depart_eq : s.depart x m es node rpc stay =
    (((s.modTeam x.key.team (Team.pushDeparts · es)).modGang x.key fun g => g.splitOff x.path m node rpc stay).leaveSlot x.key).bump := by
  rw [State.depart, State.catchUp_of_performed h]; rfl
theorem State.depart_gang : (s.depart x m es node rpc stay).gang x.key = (s.gang x.key).splitOff x.path m node rpc stay := by
  rw [State.depart_eq m es node rpc stay h, State.gang_bump, State.gang_leaveSlot, State.gang_modGang, State.gang_modTeam]
theorem State.depart_gang_ne {k : GangKey} (hk : k ≠ x.key) : (s.depart x m es node rpc stay).gang k = s.gang k := by
  rw [State.depart_eq m es node rpc stay h, State.gang_bump, State.gang_leaveSlot, State.gang_modGang_ne _ _ hk, State.gang_modTeam]
theorem State.depart_team : (s.depart x m es node rpc stay).team x.key.team = (s.team x.key.team).pushDeparts es := by
  rw [State.depart_eq m es node rpc stay h, State.team_bump, State.team_leaveSlot, State.team_modGang, State.team_modTeam]
theorem State.depart_mem : (s.depart x m es node rpc stay).mem = s.mem := by rw [State.depart_eq m es node rpc stay h]; rfl
end Depart

/-- Settles O35: a branch's children are the numbered parts in the divided path's place, a split's the staying lanes alone. -/
theorem dividedPathsStand : Obligations.DividedPathsStand := by
  intro s x rpc ps qs hp hid
  refine ⟨fun cs => ?branch, fun m es node stay h hleft hstay => ?split⟩
  case branch =>
    have hpaths := State.branch_paths rpc cs hp hid
    refine ⟨?length, ?before, ?after, ?child, ?nodes, ?rest, fun k hk => s.branch_gang_ne x rpc cs hk, s.branch_slot x rpc cs, s.branch_rest x rpc cs⟩
    case length => simp [hpaths, numbered_length]; omega
    case before => rw [hpaths, List.append_assoc, List.take_left' rfl]
    case after => rw [hpaths, List.drop_left' (by simp [numbered_length])]
    case child =>
      intro i c hc
      refine ⟨childPath x.path rpc (if rpc.isSome then x.path.id else x.path.link) (s.seq + i) c, ?_, rfl, rfl, rfl, rfl, rfl, fun h => childPath_at, childPath_here⟩
      have hi : i < cs.length := (List.getElem?_eq_some_iff.1 hc).1
      rw [hpaths, List.append_assoc, List.getElem?_append_right (Nat.le_add_right ..), Nat.add_sub_cancel_left, List.getElem?_append_left (by simpa [numbered_length])]
      simp [numbered_getElem?, hc]
    case nodes => rw [State.branch_gang, Gang.divide_nodes, branchNode_toList]
    case rest => rw [State.branch_gang, Gang.divide_rest]
  case split =>
    have hgang := State.depart_gang m es node rpc stay hleft
    have hteam := State.depart_team m es node rpc stay hleft
    refine ⟨⟨childPath x.path rpc ((node.map Node.id).getD x.path.link) x.path.id stay, ?paths, rfl, rfl, rfl, rfl, rfl, childPath_at hstay⟩, congrArg Gang.nodes hgang,
      congrArg Gang.away hgang, (congrArg Gang.vregs hgang :), congrArg Team.spawn hteam,
      State.depart_mem m es node rpc stay hleft, ?departs, fun k hk => State.depart_gang_ne m es node rpc stay hleft hk⟩
    case paths => rw [hgang, Gang.splitOff_paths hp hid]
    case departs =>
      rintro e rfl
      rw [hteam]
      exact tgetD_tset_self ..

end Sys2Proof.Machine
end

section
/-! PROOFS. CALL and CALLX (R71, R80, R322): what keeps a call from being made, in its order, and what the call leaves, the frame record, the node and the paths below it (O36). -/
namespace Sys2Proof.Machine

-- What keeps a call from being made

/-- The window has room for one more call of the slide: WDEPTH and every thread's spill stack (R82, R91). -/
def Issue.callRoom (x : Issue) (s : State) (slide : Nat) : Prop := x.gang.depth ≠ 65535 ∧ s.reserveOk x.key (8 * slide + 2) = true

section CallEffect
variable {slide : Nat} {x : Issue} {s : State} (go : State → Act)
theorem callEffect_overflow (hr : ¬ x.callRoom s slide) : callEffect slide x s go = .trap (.of 0x20) := by
  refine if_pos ?_
  by_cases hd : x.gang.depth = 65535
  · simp [hd]
  · simpa [Issue.callRoom, hd] using hr
variable (hr : x.callRoom s slide)
include hr
theorem callRoom_unblocked : (decide (x.gang.depth = 65535) || !s.reserveOk x.key (8 * slide + 2)) = false := by
  obtain ⟨hd, hs⟩ := hr
  simp [hd, hs]
theorem callEffect_stopped {va c : Nat} {miss : Option Nat} (hs : x.gang.spillStopped = some (va, c, miss)) :
    callEffect slide x s go = .spill (s.modGang x.key fun g => { g with spillStopped := none }) va ⟨c, miss⟩ .spill := by
  simp only [callEffect, callRoom_unblocked hr, hs, Bool.false_eq_true, if_false]
theorem callEffect_goes (hs : x.gang.spillStopped = none) : callEffect slide x s go = go s := by
  simp only [callEffect, callRoom_unblocked hr, hs, Bool.false_eq_true, if_false]
end CallEffect

/-- CALL and CALLX are one word but for what follows the window's checks. -/
theorem exec_callWord {i : Instr} {g : Guard} {sl : BitVec 4} (hi : (∃ off, i = .call g sl off) ∨ ∃ ra, i = .callx g ra sl) :
    ∃ eff : Issue → State → Act, (∀ s, exec i s = s.issueWord i false eff) ∧ ∀ x s, ∃ go, eff x s = callEffect sl.toNat x s go := by
  obtain ⟨off, rfl⟩ | ⟨ra, rfl⟩ := hi
  · exact ⟨callRelEffect sl off, fun _ => rfl, fun _ _ => ⟨_, rfl⟩⟩
  · exact ⟨callxEffect ra sl, fun _ => rfl, fun _ _ => ⟨_, rfl⟩⟩

section CallWord
variable {s s1 : State} {x : Issue} {i : Instr} {g : Guard} {sl : BitVec 4} (hi : (∃ off, i = .call g sl off) ∨ ∃ ra, i = .callx g ra sl) (h : s.ready i = some (x, s1))
include hi h
theorem exec_callWord_overflow (hr : ¬ x.callRoom s1 sl.toNat) : ∃ s0, s.issueOf i = some (x, s0) ∧ exec i s = .next (s0.raise x (.of 0x20)) := by
  obtain ⟨eff, hexec, heff⟩ := exec_callWord hi
  obtain ⟨go, hgo⟩ := heff x s1
  rw [hexec]
  exact issueWord_trap h (hgo.trans (callEffect_overflow go hr))
theorem exec_callWord_stopped (hr : x.callRoom s1 sl.toNat) {va c : Nat} {miss : Option Nat} (hs : x.gang.spillStopped = some (va, c, miss)) :
    exec i s = .next ((s1.modGang x.key fun e => { e with spillStopped := none }).spillFault x va ⟨c, miss⟩ .spill) := by
  obtain ⟨eff, hexec, heff⟩ := exec_callWord hi
  obtain ⟨go, hgo⟩ := heff x s1
  rw [hexec]
  exact issueWord_spill h (hgo.trans (callEffect_stopped go hr hs))
end CallWord

-- The target of CALL, the targets of CALLX (R70)

section Call
variable {s s1 : State} {x : Issue} {g : Guard} {sl : BitVec 4} {off : BitVec 32} (h : s.ready (.call g sl off) = some (x, s1)) (hr : x.callRoom s1 sl.toNat)
  (hs : x.gang.spillStopped = none)
include h hr hs
theorem exec_call_made (ha : off.toNat % 8 = 0) (hf : s1.fetchable x.key (x.target off) = true) :
    exec (.call g sl off) s = .next (s1.call x sl.toNat [(x.target off, x.active)]) :=
  issueWord_moved (eff := callRelEffect sl off) h ((callEffect_goes _ hr hs).trans (if_neg (by simp [ha, hf])))
theorem exec_call_badTarget (hb : off.toNat % 8 ≠ 0 ∨ s1.fetchable x.key (x.target off) = false) :
    ∃ s0, s.issueOf (.call g sl off) = some (x, s0) ∧ exec (.call g sl off) s = .next (s0.raise x ⟨0x23, 0, none, (x.launch.codeBase + x.target off) % 2 ^ 64, false⟩) :=
  issueWord_trap (eff := callRelEffect sl off) h ((callEffect_goes _ hr hs).trans (if_pos (by simpa using hb)))
end Call

/-- The targets of a CALLX that are no landing headers. -/
def State.badTargets (s : State) (k : GangKey) (ts : List (Nat × Mask)) : List (Nat × Mask) := ts.filter fun t => !s.landing k t.1

section CallxGo
variable {slide : Nat} {ts : List (Nat × Mask)} {x : Issue} {s : State}
theorem callxGo_badTarget (hb : s.badTargets x.key ts ≠ []) :
    let m := (s.badTargets x.key ts).foldl (fun a t => a ||| t.2) 0
    callxGo slide ts x s = .trap ⟨0x23, 0, some m, (x.launch.codeBase + ((ts.find? fun t => t.2.getLsbD (lowest m)).map Prod.fst).getD 0) % 2 ^ 64, false⟩ := by
  obtain ⟨b, bs, hbs⟩ := List.exists_cons_of_ne_nil hb
  simp only [hbs]
  unfold callxGo
  rw [show (ts.filter fun t => !s.landing x.key t.1) = b :: bs from hbs]
  rfl
variable (hb : s.badTargets x.key ts = [])
include hb
theorem callxGo_one (hl : ts.length ≤ 1) : callxGo slide ts x s = .moved (s.call x slide ts) := by
  unfold callxGo
  rw [show (ts.filter fun t => !s.landing x.key t.1) = [] from hb]
  exact if_pos hl
theorem callxGo_many (hl : 2 ≤ ts.length) : callxGo slide ts x s = match s.divergeCheck x (ts.map Prod.fst) (some x.path.after) with
    | (_, .fault va f) => tableFault va f
    | (_, .missing) => notSafe
    | (s, .ok _) => .moved (s.call x slide ts) := by
  unfold callxGo
  rw [show (ts.filter fun t => !s.landing x.key t.1) = [] from hb]
  exact if_neg (by omega)
end CallxGo

section Callx
variable {s s1 : State} {x : Issue} {g : Guard} {sl : BitVec 4} {ra : Operand} (h : s.ready (.callx g ra sl) = some (x, s1)) (hr : x.callRoom s1 sl.toNat)
  (hs : x.gang.spillStopped = none)
include h hr hs
theorem exec_callx_badTarget (hb : s1.badTargets x.key (x.targets s1 ra) ≠ []) :
    let m := (s1.badTargets x.key (x.targets s1 ra)).foldl (fun a t => a ||| t.2) 0
    let first := (((x.targets s1 ra).find? fun t => t.2.getLsbD (lowest m)).map Prod.fst).getD 0
    ∃ s0, s.issueOf (.callx g ra sl) = some (x, s0) ∧ exec (.callx g ra sl) s = .next (s0.raise x ⟨0x23, 0, some m, (x.launch.codeBase + first) % 2 ^ 64, false⟩) :=
  issueWord_trap (eff := callxEffect ra sl) h ((callEffect_goes _ hr hs).trans (callxGo_badTarget hb))
variable (hb : s1.badTargets x.key (x.targets s1 ra) = [])
include hb
theorem exec_callx_one (hl : (x.targets s1 ra).length ≤ 1) : exec (.callx g ra sl) s = .next (s1.call x sl.toNat (x.targets s1 ra)) :=
  issueWord_moved (eff := callxEffect ra sl) h ((callEffect_goes _ hr hs).trans (callxGo_one hb hl))
variable (hl : 2 ≤ (x.targets s1 ra).length) {t : State}
include hl
theorem exec_callx_diverges {rpc : Option Nat} (hd : s1.divergeCheck x ((x.targets s1 ra).map Prod.fst) (some x.path.after) = (t, .ok rpc)) :
    exec (.callx g ra sl) s = .next (t.call x sl.toNat (x.targets s1 ra)) :=
  issueWord_moved (eff := callxEffect ra sl) h ((callEffect_goes _ hr hs).trans ((callxGo_many hb hl).trans (by rw [hd])))
theorem exec_callx_notSafe (hd : s1.divergeCheck x ((x.targets s1 ra).map Prod.fst) (some x.path.after) = (t, .missing)) :
    ∃ s0, s.issueOf (.callx g ra sl) = some (x, s0) ∧ exec (.callx g ra sl) s = .next (s0.raise x (.of 0x24)) :=
  issueWord_trap (eff := callxEffect ra sl) h ((callEffect_goes _ hr hs).trans ((callxGo_many hb hl).trans (by rw [hd]; rfl)))
theorem exec_callx_tableFault {va : Nat} {f : MFault} (hd : s1.divergeCheck x ((x.targets s1 ra).map Prod.fst) (some x.path.after) = (t, .fault va f)) :
    ∃ s0, s.issueOf (.callx g ra sl) = some (x, s0) ∧ exec (.callx g ra sl) s = .next (s0.restartTrap x ⟨f.cause, 0, none, va, false⟩ f.missing) :=
  issueWord_restart (eff := callxEffect ra sl) h ((callEffect_goes _ hr hs).trans ((callxGo_many hb hl).trans (by rw [hd]; rfl)))
end Callx

-- What a call leaves (R56, R71, R80)

section CallMade
variable (s : State) (x : Issue) (ts : List (Nat × Mask))
/-- The lanes outside the guard, which stay behind. -/
def Issue.callStays (x : Issue) : Mask := x.live &&& ~~~x.active
/-- The number of a call's node: with one target the path keeps its own number, and the node has a fresh one. -/
def State.callId (s : State) (x : Issue) (ts : List (Nat × Mask)) : Nat := if ts.length ≤ 1 then s.seq else x.path.id
/-- The reconvergence PC of a call's paths. -/
def Issue.callRpc (x : Issue) (ts : List (Nat × Mask)) : Option Nat := if ts.length ≤ 1 ∧ x.callStays = 0 then x.path.rpc else some x.path.after
/-- One part for each target, at its header. -/
def State.callGoes (s : State) (x : Issue) (ts : List (Nat × Mask)) : List (Nat × Branch) :=
  ts.zipIdx.map fun t => (if ts.length ≤ 1 then x.path.id else s.seq + 1 + t.2, ⟨some t.1.1, t.1.2, .ready⟩)
/-- The part that waits at the return point, where lanes stay behind. -/
def State.callWaits (s : State) (x : Issue) (ts : List (Nat × Mask)) : List (Nat × Branch) :=
  if x.callStays = 0 then [] else [(s.seq + 1 + ts.length, ⟨some x.path.after, x.callStays, .waiting⟩)]
/-- The gang of a call that is made. -/
def State.callGang (s : State) (x : Issue) (slide : Nat) (ts : List (Nat × Mask)) (g : Gang) : Gang :=
  (g.pushFrame x.path.after slide false (s.callId x ts)).divide x.path (some (pathNode x.path (s.callId x ts) (.call (x.gang.depth + 1)) 0)) (x.callRpc ts)
    (s.callGoes x ts ++ s.callWaits x ts)
theorem State.callGoes_length : (s.callGoes x ts).length = ts.length := by simp [State.callGoes]
theorem State.callGoes_getElem? (i : Nat) :
    (s.callGoes x ts)[i]? = ts[i]?.map fun c => (if ts.length ≤ 1 then x.path.id else s.seq + 1 + i, ⟨some c.1, c.2, .ready⟩) := by
  simp [State.callGoes, Function.comp_def]
theorem Issue.callRpc_diverges {x : Issue} {ts : List (Nat × Mask)} (h : 2 ≤ ts.length ∨ x.callStays ≠ 0) : x.callRpc ts = some x.path.after :=
  if_neg fun ⟨hl, h0⟩ => h.elim (by omega) (· h0)

variable (slide : Nat)
theorem State.call_eq : s.call x slide ts =
    { (s.modGang x.key (s.callGang x slide ts)).leaveSlot x.key with seq := s.seq + ts.length + 2 } := by
  simp only [State.call, decide_eq_true_eq, Bool.and_eq_true]
  rfl
theorem State.call_gang : (s.call x slide ts).gang x.key = s.callGang x slide ts (s.gang x.key) := by
  rw [State.call_eq]
  exact s.gang_modGang x.key (s.callGang x slide ts)
theorem State.call_gang_ne {k : GangKey} (hk : k ≠ x.key) : (s.call x slide ts).gang k = s.gang k := by
  rw [State.call_eq]
  exact s.gang_modGang_ne (s.callGang x slide ts) hk
theorem State.callGang_paths {g : Gang} {ps qs : List Path} (hp : g.paths = ps ++ x.path :: qs) (hid : ∀ p ∈ ps ++ qs, p.id ≠ x.path.id) :
    (s.callGang x slide ts g).paths = ps ++ childPaths x.path (x.callRpc ts) (s.callId x ts) (s.callGoes x ts) ++
      childPaths x.path (x.callRpc ts) (s.callId x ts) (s.callWaits x ts) ++ qs := by
  refine (Gang.divide_paths (g := g.pushFrame x.path.after slide false (s.callId x ts)) hp hid ..).trans ?_
  simp only [childPaths_eq, List.map_append, List.append_assoc]; rfl
end CallMade

/-- Settles O36: the window's checks come first, then the targets'; the call that is made divides the path below one node and pushes one frame record. -/
theorem callsPushFrames : Obligations.CallsPushFrames := by
  refine ⟨fun s s1 x g i sl targets hi h => ?checks, fun s x slide ts ps qs hp hid => ?made⟩
  case checks =>
    have hword : (∃ off, i = .call g sl off) ∨ ∃ ra, i = .callx g ra sl := hi.imp (fun ⟨off, hoff, _⟩ => ⟨off, hoff⟩) fun ⟨ra, hra, _⟩ => ⟨ra, hra⟩
    refine ⟨exec_callWord_overflow hword h, fun va c miss hr hs => exec_callWord_stopped hword h hr hs, fun off hoff hr hs => ?call, fun ra hra hr hs => ?callx⟩
    case call =>
      subst hoff
      obtain ⟨off', heq, rfl⟩ | ⟨ra, heq, -⟩ := hi
      · cases heq
        exact ⟨exec_call_made h hr hs, exec_call_badTarget h hr hs⟩
      · cases heq
    case callx =>
      subst hra
      obtain ⟨off, heq, -⟩ | ⟨ra', heq, rfl⟩ := hi
      · cases heq
      · cases heq
        refine ⟨exec_callx_badTarget h hr hs, exec_callx_one h hr hs, fun hb hl t c hd => ⟨fun rpc hc => ?_, fun hc => ?_, fun va f hc => ?_⟩⟩ <;> subst hc
        · exact exec_callx_diverges h hr hs hb hl hd
        · exact exec_callx_notSafe h hr hs hb hl hd
        · exact exec_callx_tableFault h hr hs hb hl hd
  case made =>
    have hgang := s.call_gang x ts slide
    have hpaths := s.callGang_paths x ts slide hp hid
    rw [← hgang] at hpaths
    refine ⟨congrArg Gang.frames hgang, congrArg Gang.reserve hgang, (congrArg Gang.depth hgang).trans List.length_append, ⟨_, _, hpaths, ?goes, ?child, ?noStays, ?stays⟩,
      congrArg Gang.nodes hgang, (congrArg Gang.vregs hgang :), (congrArg Gang.taken hgang :), (congrArg Gang.sregs hgang :), (congrArg Gang.preds hgang :),
      fun k hk => s.call_gang_ne x ts slide hk, rfl, rfl⟩
    case goes => simp [childPaths_eq, State.callGoes_length]
    case child =>
      intro i c hc
      refine ⟨childPath x.path (x.callRpc ts) (s.callId x ts) (if ts.length ≤ 1 then x.path.id else s.seq + 1 + i) ⟨some c.1, c.2, .ready⟩, ?_, rfl, rfl, rfl, rfl, rfl, rfl, ?_⟩
      · simp [childPaths_eq, State.callGoes_getElem?, hc]
      · exact Issue.callRpc_diverges
    case noStays =>
      intro h0
      rw [State.callWaits, Issue.callStays, if_pos h0]; rfl
    case stays =>
      intro h0
      rw [State.callWaits, Issue.callStays, if_neg h0]
      exact ⟨_, rfl, Nat.mod_mod .., rfl, rfl, rfl⟩

end Sys2Proof.Machine
end

section
/-! PROOFS. The former's releases (R62, R63), what returns from the overflow area (R93), the porter ahead of need (R85, R86, R94) and the end of a gang and of its team (R54, R343) (O53). -/
namespace Sys2Proof.Machine

theorem tget_eq_none_iff {κ ν : Type} [DecidableEq κ] {t : Tbl κ ν} {k : κ} : tget t k = none ↔ ∀ e ∈ t, e.1 ≠ k := by
  induction t with
  | nil => simp
  | cons e t ih =>
    rw [tget_cons, List.forall_mem_cons, ← ih]
    by_cases h : e.1 = k <;> simp [h]

-- The former (R62, R63)

section ReleaseFirst
variable {s : State} {team : Nat} {no : List SpawnKey} (h : ∀ k ∈ no, s.release team k = none)
include h
theorem State.releaseFirst_none : s.releaseFirst team no = s := by
  rw [State.releaseFirst, List.findSome?_eq_none_iff.2 h]
  rfl
theorem State.releaseFirst_some {key : SpawnKey} {t : State} (ht : s.release team key = some t) (rest : List SpawnKey) : s.releaseFirst team (no ++ key :: rest) = t := by
  rw [State.releaseFirst, List.findSome?_append, List.findSome?_eq_none_iff.2 h, Option.none_or, List.findSome?_cons, ht]
  rfl
end ReleaseFirst

theorem State.mem_underKey {s : State} {team : Nat} {key : SpawnKey} {e : Spawn} (h : e ∈ s.underKey team key) : e.target = key.1 ∧ e.sregs = key.2.1 := by
  obtain ⟨-, hk⟩ := List.mem_filter.1 h
  obtain rfl := of_decide_eq_true hk
  exact ⟨rfl, rfl⟩
theorem State.formedIndex_free {s : State} {team i : Nat} (h : s.formedIndex team = some i) : i < 32 ∧ tget s.gangs ⟨team, 32 + i⟩ = none :=
  ⟨List.mem_range.1 (List.mem_of_find?_eq_some h), by simpa using List.find?_some h⟩

/-- The oldest threads under a key, a gang's width of them. -/
def State.released (s : State) (team : Nat) (key : SpawnKey) : List Spawn := (s.underKey team key).take (s.grid (s.team team).grid).launch.width
/-- A release: the team is placed, some threads wait, all of them in spawn memory, and they are the lanes of a formed gang under a free index. -/
theorem State.release_some {s t : State} {team : Nat} {key : SpawnKey} (h : s.release team key = some t) :
    (s.team team).res = .placed ∧ s.released team key ≠ [] ∧ (∀ e ∈ s.released team key, e.cell = none) ∧
    ∃ i < 32, tget s.gangs ⟨team, 32 + i⟩ = none ∧ ∃ core bench q pid cycle pt pre,
      t.gang ⟨team, 32 + i⟩ = { formedGang (s.grid (s.team team).grid).launch key.2.2 core bench q pid cycle pt (s.released team key) with preempt := pre } := by
  simp only [State.release] at h
  split at h
  · rename_i i core bench q hi hplace
    split at h
    · cases h
    · rename_i hc
      simp only [ne_eq, Bool.or_eq_true, decide_eq_true_eq, List.isEmpty_iff, List.any_eq_true, not_or, not_not, not_exists, not_and, Bool.not_eq_true,
        Option.isSome_eq_false_iff, Option.isNone_iff_eq_none] at hc
      obtain ⟨⟨hplaced, hsome⟩, hcells⟩ := hc
      obtain ⟨hlt, hfree⟩ := State.formedIndex_free hi
      cases h
      exact ⟨hplaced, hsome, hcells, i, hlt, hfree, core, bench, q, _, _, _, _, State.gang_setGang ..⟩
  · cases h

/-- A formed gang's lanes are the entries, its one path stands at their target, and it has their carried scalars. -/
theorem formedGang_stands {l : Launch} {role : Role} {core bench q pid cycle pt target : Nat} {pre : Preempt} {regs : Tbl Nat Word} {es : List Spawn} (hsome : es ≠ [])
    (hkey : ∀ e ∈ es, e.target = target ∧ e.sregs = regs) :
    let g := { formedGang l role core bench q pid cycle pt es with preempt := pre }
    g.home = es.map (fun e => (e.homeGang, e.homeLane)) ∧ g.live = maskOf (List.range es.length) ∧ g.exited = 0 ∧ g.frames = [] ∧ g.sregs = regs ∧
    ∃ p, g.paths = [p] ∧ p.hdr = target ∧ p.pos = 0 ∧ p.mask = g.live ∧ p.st = .ready := by
  obtain ⟨e, es, rfl⟩ := List.exists_cons_of_ne_nil hsome
  obtain ⟨rfl, rfl⟩ := hkey e List.mem_cons_self
  exact ⟨rfl, rfl, rfl, rfl, rfl, _, rfl, rfl, rfl, rfl, rfl⟩

section Waiting
variable {s : State} {team : Nat} {key : SpawnKey} {e : Spawn} {es : List Spawn} (h : s.underKey team key = e :: es)
include h
theorem State.keyOld_iff : s.keyOld team key = true ↔ (s.ctx (s.team team).ctx).formwait ≤ e.age := by
  simp only [State.keyOld, h, ge_iff_le, decide_eq_true_eq]
theorem State.keyFull_iff : s.keyFull team key = true ↔ (s.grid (s.team team).grid).launch.width ≤ es.length + 1 := by
  simp only [State.keyFull, h, ge_iff_le, decide_eq_true_eq, List.length_cons]
end Waiting

-- The overflow area (R93)

theorem State.nextBack_some {s : State} {team : Nat} {e : Spawn} {es : List Spawn} {seen : List Nat} (h : s.nextBack team es seen = some e) :
    e ∈ es ∧ e.cell.isSome = true ∧ s.spawnUse (s.spawnCore team e) + e.bytes ≤ spawnMemory := by
  induction es generalizing seen with
  | nil => cases h
  | cons x xs ih =>
    have later {l : List Nat} (hl : s.nextBack team xs l = some e) : e ∈ x :: xs ∧ e.cell.isSome = true ∧ s.spawnUse (s.spawnCore team e) + e.bytes ≤ spawnMemory :=
      (ih hl).imp_left (List.mem_cons_of_mem x)
    simp only [State.nextBack] at h
    split at h
    · exact later h
    · rename_i hs
      split at h
      · rename_i hroom
        cases h
        rw [Bool.or_eq_true, not_or, Bool.not_eq_true, Option.isNone_eq_false_iff] at hs
        exact ⟨List.mem_cons_self, hs.1, hroom⟩
      · exact later h

theorem exec_spawnOverflowMove (team : Nat) (s : State) : exec (.spawnOverflowMove team) s = execSpawnOverflowMove team s := rfl
section OverflowMove
variable {s : State} {team : Nat}
theorem exec_spawnOverflowMove_none (h : s.nextBack team (s.team team).spawn [] = none) : exec (.spawnOverflowMove team) s = .next s := by
  simp only [exec_spawnOverflowMove, execSpawnOverflowMove, h]
variable {e : Spawn} (h : s.nextBack team (s.team team).spawn [] = some e)
include h
theorem exec_spawnOverflowMove_returns {ls : List Loc}
    (hl : s.locs (s.team team).ctx (some (s.spawnCore team e)) .refill none (s.cellAddr team (e.cell.getD 0)) e.bytes = .ok ls) :
    exec (.spawnOverflowMove team) s =
      .next (((s.fillRange (some (s.spawnCore team e)) (s.team team).ctx (s.cellAddr team (e.cell.getD 0)) e.bytes).askRemote ls).putSpawn team (e.reload (ls.map s.locByte))) := by
  simp only [exec_spawnOverflowMove, execSpawnOverflowMove, h, hl]
theorem exec_spawnOverflowMove_fault {f : Nat × MFault}
    (hl : s.locs (s.team team).ctx (some (s.spawnCore team e)) .refill none (s.cellAddr team (e.cell.getD 0)) e.bytes = .error f) :
    exec (.spawnOverflowMove team) s = .next s := by
  simp only [exec_spawnOverflowMove, execSpawnOverflowMove, h, hl]
end OverflowMove

-- The porter ahead of need (R85, R86, R94)

/-- A spill that faults has moved nothing. -/
theorem State.spillItem_fault_unmoved {s t : State} {k : GangKey} {va : Nat} {f : MFault} {kind : AccessKind} (h : (s.spillItem k).1 = .fault t va f kind) : t = s := by
  unfold State.spillItem at h
  dsimp only at h
  repeat' split at h
  all_goals cases h
  all_goals rfl

section Porter
variable {s : State} {k : GangKey} {g : Gang} (h : tget s.gangs k = some g)
include h
theorem State.gang_of_tget : s.gang k = g := by rw [State.gang, tgetD, h]; rfl
theorem exec_porterSpill_ahead (hs : g.spillStopped = none) : exec (.porterSpill k) s = match (s.spillItem k).1 with
    | .ok t => .next t
    | .fault t va f _ => .next (t.modGang k fun x => { x with spillStopped := some (va, f.cause, f.missing) })
    | _ => .next s := by
  refine if_neg ?_
  simp [h, State.gang_of_tget h, hs]
theorem exec_porterSpill_left (hs : g.spillStopped.isSome = true ∨ (s.spillItem k).1 = .stall ∨ (s.spillItem k).1 = .overflow) : exec (.porterSpill k) s = .next s := by
  cases hst : g.spillStopped with
  | some => exact if_pos (by simp [State.gang_of_tget h, hst])
  | none =>
    obtain hi | hi | hi := hs
    · simp [hst] at hi
    · rw [exec_porterSpill_ahead h hst, hi]
    · rw [exec_porterSpill_ahead h hst, hi]
theorem exec_porterRefill_unwanted (hw : g.wantsRefill = false) : exec (.porterRefill k) s = .next s :=
  if_pos (by rw [State.gang_of_tget h, hw]; rfl)
theorem exec_porterRefill_wanted (hw : g.wantsRefill = true) : exec (.porterRefill k) s = match s.refillItem k with
    | .ok t => .next ((t.modGang k fun x => x.closeFrame (t.launchOf k).winMin).mergePaths k)
    | .fault t va f kind => .next (if (t.gang k).callOver || (t.gang k).closing then t.porterFault k va f kind else t)
    | _ => .next s :=
  if_neg (by rw [State.gang_of_tget h, hw]; decide)
end Porter

theorem State.porterFault_eq {s : State} {k : GangKey} {p : Path} (hp : (s.gang k).paths.find? (fun p => p.mask &&& ~~~(s.gang k).exited ≠ 0) = some p)
    (hf : (s.gang k).faultWait = none) (ht : (s.gang k).pendingTrap = none) (va : Nat) (f : MFault) (kind : AccessKind) :
    let info : TrapInfo := ⟨0x21, 0, false, p.pc, p.pc, p.mask &&& ~~~(s.gang k).exited, va, [], none, p.id⟩
    s.porterFault k va f kind = match f.missing with
      | some level => s.pageFault k ⟨info, va, 0x21, kind, level, none, none⟩
      | none => s.takeTrap k info := by
  simp only [State.porterFault, hp]
  exact if_neg (by simp [hf, ht])

-- The end of a gang, and of its team (R54, R343)

theorem Gang.over_iff (g : Gang) : g.over = true ↔ g.live &&& ~~~g.exited = 0 ∧ g.counter .ld = 0 ∧ g.counter .st = 0 ∧ g.counter .sp = 0 := by
  simp only [Gang.over, Bool.and_eq_true, decide_eq_true_eq, and_assoc]
  exact Iff.rfl

theorem exec_gangEnd (k : GangKey) (s : State) : exec (.gangEnd k) s = execGangEnd k s := rfl
section GangEnd
variable {s : State} {k : GangKey}
theorem exec_gangEnd_eq {g : Gang} (h : tget s.gangs k = some g) :
    exec (.gangEnd k) s = if g.over = true ∧ (s.team k.team).res = .placed then .next (s.endGang k) else .next s := by
  simp only [exec_gangEnd, execGangEnd, h, Bool.and_eq_true, decide_eq_true_eq]

/-- The gang's own record, slot and bindings are gone. -/
def State.dropGang (s : State) (k : GangKey) : State :=
  let s := (s.unbind fun x => x = k).leaveSlot k
  { s with gangs := terase s.gangs k }
theorem State.dropGang_gangs (s : State) (k : GangKey) : (s.dropGang k).gangs = terase s.gangs k := rfl
theorem State.dropGang_teams (s : State) (k : GangKey) : (s.dropGang k).teams = s.teams := rfl
theorem State.dropGang_mem (s : State) (k : GangKey) : (s.dropGang k).mem = s.mem := rfl
theorem State.endGang_eq (s : State) (k : GangKey) :
    s.endGang k = if ((s.dropGang k).gangsOf k.team).isEmpty && (s.team k.team).spawn.isEmpty then (s.dropGang k).retireTeam k.team else s.dropGang k := rfl
theorem State.gangsOf_isEmpty_iff (s : State) (n : Nat) : (s.gangsOf n).isEmpty = true ↔ ∀ j : GangKey, j.team = n → tget s.gangs j = none := by
  simp only [State.gangsOf, List.isEmpty_iff, List.map_eq_nil_iff, List.filter_eq_nil_iff, decide_eq_true_eq]
  refine ⟨fun h j hj => tget_eq_none_iff.2 fun e he hk => h e he (hk ▸ hj), fun h e he hk => ?_⟩
  exact tget_eq_none_iff.1 (h e.1 hk) e he rfl
theorem State.gangsOf_dropGang_isEmpty_iff (s : State) (k : GangKey) :
    ((s.dropGang k).gangsOf k.team).isEmpty = true ↔ ∀ j : GangKey, j ≠ k → j.team = k.team → tget s.gangs j = none := by
  rw [State.gangsOf_isEmpty_iff]
  refine forall_congr' fun j => ?_
  rw [State.dropGang_gangs, tget_terase]
  by_cases hj : j = k <;> simp [hj]
theorem State.endGang_others {j : GangKey} {g : Gang} (hne : j ≠ k) (ht : j.team = k.team) (hj : tget s.gangs j = some g) : s.endGang k = s.dropGang k := by
  refine (s.endGang_eq k).trans (if_neg fun h => ?_)
  have := (s.gangsOf_dropGang_isEmpty_iff k).1 (Bool.and_eq_true_iff.1 h).1 j hne ht
  simp [hj] at this
theorem State.endGang_last (h : ∀ j : GangKey, j ≠ k → j.team = k.team → tget s.gangs j = none) (hs : (s.team k.team).spawn = []) :
    s.endGang k = (s.dropGang k).retireTeam k.team :=
  (s.endGang_eq k).trans (if_pos (Bool.and_eq_true_iff.2 ⟨(s.gangsOf_dropGang_isEmpty_iff k).2 h, List.isEmpty_iff.2 hs⟩))
end GangEnd

/-- Settles O53: what each event of the former, the overflow area, the porter and a gang's end does, and when it does nothing. -/
theorem formerPorterAndGangEnd : Obligations.FormerPorterAndGangEnd := by
  intro s
  refine ⟨fun team => ⟨rfl, rfl⟩, fun team no rest key t h => ⟨State.releaseFirst_none h, fun ht => State.releaseFirst_some h ht rest⟩, ?release,
    fun team key e es h => ⟨State.keyOld_iff h, State.keyFull_iff h⟩, ?overflow, ?porterAndEnd, ?fault, ?others, ?last⟩
  case release =>
    intro team key t h
    obtain ⟨hplaced, hsome, hcells, i, hi, hfree, core, bench, q, pid, cycle, pt, pre, hg⟩ := State.release_some h
    refine ⟨hplaced, hsome, hcells, 32 + i, by omega, by omega, hfree, ?_⟩
    rw [hg]
    exact formedGang_stands hsome fun e he => State.mem_underKey (List.mem_of_mem_take he)
  case overflow =>
    intro team
    refine ⟨exec_spawnOverflowMove_none, fun e he => ?_⟩
    obtain ⟨hmem, hcell, hroom⟩ := State.nextBack_some he
    exact ⟨hmem, hcell, hroom, fun ls => exec_spawnOverflowMove_returns he, fun f => exec_spawnOverflowMove_fault he⟩
  case porterAndEnd =>
    intro k g h
    refine ⟨fun t hs hi => ?spill, fun t va f kind hs hi => ?spillFault, exec_porterSpill_left h, fun t hw hi => ?refill, fun t va f kind hw hi => ?refillFault,
      exec_porterRefill_unwanted h, fun ho hp => ?ends, fun hn => ?stays, g.over_iff⟩
    case spill => rw [exec_porterSpill_ahead h hs, hi]
    case spillFault =>
      obtain rfl := State.spillItem_fault_unmoved hi
      rw [exec_porterSpill_ahead h hs, hi]
    case refill => rw [exec_porterRefill_wanted h hw, hi]
    case refillFault =>
      rw [exec_porterRefill_wanted h hw, hi]
      simp only [Bool.or_eq_true]
    case ends => rw [exec_gangEnd_eq h, if_pos ⟨ho, hp⟩]
    case stays =>
      rw [exec_gangEnd_eq h, if_neg]
      rintro ⟨ho, hp⟩
      exact hn.elim (by simp [ho]) fun hr => hr hp
  case fault =>
    intro k p va f kind hp hf ht
    refine ⟨fun hm => ?_, fun level hm => ?_⟩ <;> rw [State.porterFault_eq hp hf ht, hm]
  case others =>
    intro k j g hne ht hj
    rw [State.endGang_others hne ht hj, State.dropGang_gangs]
    exact ⟨by simp [tget_terase], fun i hi => by simp [tget_terase, hi], s.dropGang_teams k⟩
  case last => exact fun k h hs => ⟨s.dropGang k, State.endGang_last h hs, s.dropGang_gangs k, s.dropGang_mem k⟩

end Sys2Proof.Machine
end

section
/-! PROOFS. Register writes: what a list of them leaves in each register, and what a per-lane result leaves (R74, R76, R115) (O18). -/
namespace Sys2Proof.Machine

-- Lane masks

theorem getLsbD_laneBit (i : Nat) {k : Nat} (hk : k < 64) : (laneBit i).getLsbD k = decide (k = i) := by
  simp only [laneBit, BitVec.getLsbD_shiftLeft, BitVec.getLsbD_one, hk, decide_true, Bool.true_and]
  grind
theorem getLsbD_setBit (m : Mask) (i : Nat) (b : Bool) {k : Nat} (hk : k < 64) : (setBit m i b).getLsbD k = if k = i then b else m.getLsbD k := by
  cases b <;> simp only [setBit, if_true, if_false, Bool.false_eq_true, BitVec.getLsbD_or, BitVec.getLsbD_and, BitVec.getLsbD_not, getLsbD_laneBit i hk, hk] <;>
    by_cases h : k = i <;> simp [h]
theorem getLsbD_maskOf (ls : List Nat) {k : Nat} (hk : k < 64) : (maskOf ls).getLsbD k = decide (k ∈ ls) := by
  have from_acc (m : Mask) : (ls.foldl (fun m i => m ||| laneBit i) m).getLsbD k = (m.getLsbD k || decide (k ∈ ls)) := by
    induction ls generalizing m with
    | nil => simp
    | cons i ls ih => simp [ih, getLsbD_laneBit i hk, Bool.or_assoc, Bool.decide_or]
  simpa [maskOf] using from_acc 0

-- One write

/-- g with the registers of e. -/
def Gang.withRegs (g e : Gang) : Gang := { g with vregs := e.vregs, sregs := e.sregs, preds := e.preds }

section OneWrite
variable (g : Gang)
/-- A write to p0 is discarded (R76). -/
theorem Gang.writeReg_p0 (l : Nat) (b : Bool) : g.writeReg (.pred 0 l b) = g := rfl
theorem Gang.writeReg_pred {n : Nat} (hn : n ≠ 0) (l : Nat) (b : Bool) :
    g.writeReg (.pred n l b) = { g with preds := tset g.preds n (setBit (tgetD g.preds n 0) l b) } := if_neg hn
theorem Gang.writeReg_withRegs (w : RegWrite) : (g.writeReg w).withRegs g = g := by
  cases w with
  | vec | scal => rfl
  | pred n l b => by_cases hn : n = 0 <;> simp [Gang.writeReg, hn, Gang.withRegs]

@[simp] theorem Gang.vregs_writeReg_pred (n l : Nat) (b : Bool) : (g.writeReg (.pred n l b)).vregs = g.vregs := by
  by_cases hn : n = 0 <;> simp [Gang.writeReg, hn]
@[simp] theorem Gang.sregs_writeReg_pred (n l : Nat) (b : Bool) : (g.writeReg (.pred n l b)).sregs = g.sregs := by
  by_cases hn : n = 0 <;> simp [Gang.writeReg, hn]
theorem Gang.tget_vregs_writeReg (p m : Nat) (y : Word) (k : Nat × Nat) :
    tget (g.writeReg (.vec p m y)).vregs k = if k = (p, m) then some y else tget g.vregs k := tget_tset ..
theorem Gang.readS_writeReg (r : Nat) (y : Word) (m : Nat) : (g.writeReg (.scal r y)).readS m = if m = r then y else g.readS m := by
  by_cases h : m = r <;> simp [Gang.readS, Gang.writeReg, tgetD, tget_tset, h]
theorem Gang.readP_writeReg_ne {n m : Nat} (h : n = 0 ∨ m ≠ n) (l : Nat) (b : Bool) : (g.writeReg (.pred n l b)).readP m = g.readP m := by
  by_cases hn : n = 0
  · rw [hn, g.writeReg_p0]
  · simp only [g.writeReg_pred hn, Gang.readP, tgetD_tset_ne _ _ _ (h.resolve_left hn)]
theorem Gang.readP_writeReg_self {n : Nat} (hn : n ≠ 0) (l : Nat) (b : Bool) : (g.writeReg (.pred n l b)).readP n = setBit (g.readP n) l b := by
  simp only [g.writeReg_pred hn, Gang.readP, if_neg hn, tgetD_tset_self]
end OneWrite

-- A list of writes

section Writes
variable {g : Gang} {ws : List RegWrite} {α : Type} {read : Gang → α}
/-- What no write of a list changes, the list does not change. -/
theorem Gang.writeRegs_keeps (read : Gang → α) (h : ∀ w ∈ ws, ∀ e : Gang, read (e.writeReg w) = read e) : read (g.writeRegs ws) = read g :=
  List.foldlRecOn ws Gang.writeReg (motive := fun e => read e = read g) rfl fun e he w hw => (h w hw e).trans he
/-- What one write of a list sets to v, and none of them takes from v, holds v after the list. -/
theorem Gang.writeRegs_sets {v : α} {w : RegWrite} (hw : w ∈ ws) (hset : ∀ e : Gang, read (e.writeReg w) = v)
    (hkeep : ∀ u ∈ ws, ∀ e : Gang, read e = v → read (e.writeReg u) = v) : read (g.writeRegs ws) = v := by
  obtain ⟨us, vs, rfl⟩ := List.append_of_mem hw
  rw [Gang.writeRegs, List.foldl_append, List.foldl_cons]
  exact List.foldlRecOn vs Gang.writeReg (motive := fun e => read e = v) (hset _) fun e he u hu => hkeep u (by simp [hu]) e he
theorem Gang.writeRegs_withRegs (g : Gang) (ws : List RegWrite) : (g.writeRegs ws).withRegs g = g :=
  Gang.writeRegs_keeps (g := g) (fun e => e.withRegs g) fun w _ e => (congrArg (fun c : Gang => c.withRegs g) (e.writeReg_withRegs w) :)
end Writes

-- The writes of a per-lane result (R115)

section LaneWrites
variable {lanes : List Nat} {f : Nat → Nat} {w : RegWrite}
theorem Dest.mem_laneWrites_vec {p n : Nat} : w ∈ (Dest.vec p n).laneWrites lanes f ↔ ∃ l ∈ lanes, ∃ i < n, RegWrite.vec (p + i) l (wordAt (f l) i) = w := by
  simp [Dest.laneWrites, Dest.writes]
theorem Dest.mem_laneWrites_scal {r n : Nat} : w ∈ (Dest.scal r n).laneWrites lanes f ↔ ∃ l ∈ lanes.head?, ∃ i < n, RegWrite.scal (r + i) (wordAt (f l) i) = w := by
  cases lanes <;> simp [Dest.laneWrites, Dest.writes]
theorem Dest.mem_laneWrites_pred {p : Nat} : w ∈ (Dest.pred p).laneWrites lanes f ↔ ∃ l ∈ lanes, RegWrite.pred p l (f l % 2 = 1) = w := by
  simp [Dest.laneWrites, Dest.writes, eq_comm]
theorem Dest.laneWrites_none : Dest.none.laneWrites lanes f = [] := by simp [Dest.laneWrites, Dest.writes]

/-- The destination names registers of the write's kind, and the predicate that it writes. -/
def Dest.covers (d : Dest) (w : RegWrite) : Prop :=
  match w with
  | .vec .. => ∃ p n, d = .vec p n
  | .scal .. => ∃ r n, d = .scal r n
  | .pred p .. => d = .pred p
theorem Dest.covers_of_mem_laneWrites {d : Dest} (hw : w ∈ d.laneWrites lanes f) : d.covers w := by
  cases d with
  | vec p n =>
    obtain ⟨l, -, i, -, rfl⟩ := Dest.mem_laneWrites_vec.1 hw
    exact ⟨p, n, rfl⟩
  | scal r n =>
    obtain ⟨l, -, i, -, rfl⟩ := Dest.mem_laneWrites_scal.1 hw
    exact ⟨r, n, rfl⟩
  | pred p =>
    obtain ⟨l, -, rfl⟩ := Dest.mem_laneWrites_pred.1 hw
    rfl
  | none => simp [Dest.laneWrites_none] at hw
end LaneWrites

/-- A gang after a per-lane result. -/
def Gang.setLanes (g : Gang) (d : Dest) (lanes : List Nat) (f : Nat → Nat) : Gang := g.writeRegs (d.laneWrites lanes f)
theorem State.gang_lanesSet (s : State) (x : Issue) (d : Operand) (n : Nat) (v : Nat → Nat) :
    (s.lanesSet x d n v).gang x.key = (s.gang x.key).setLanes (x.gang.dest d n) x.lanes v := State.gang_modGang ..

section SetLanes
variable {g : Gang} {d : Dest} {lanes : List Nat} {f : Nat → Nat}
/-- A value stands in each active lane's registers, low word first. -/
theorem Gang.vregs_setLanes_lane (g : Gang) (p : Nat) {n i l : Nat} (hi : i < n) (hl : l ∈ lanes) :
    tget (g.setLanes (.vec p n) lanes f).vregs (p + i, l) = some (wordAt (f l) i) := by
  refine Gang.writeRegs_sets (read := fun e => tget e.vregs (p + i, l)) (Dest.mem_laneWrites_vec.2 ⟨l, hl, i, hi, rfl⟩) (fun e => ?set) fun u hu e he => ?keep
  case set => rw [Gang.tget_vregs_writeReg, if_pos rfl]
  case keep =>
    obtain ⟨m, -, j, -, rfl⟩ := Dest.mem_laneWrites_vec.1 hu
    rw [Gang.tget_vregs_writeReg]
    split
    · rename_i hk
      obtain ⟨hij, rfl⟩ := Prod.mk.inj hk
      rw [Nat.add_left_cancel hij]
    · exact he
theorem Gang.vregs_setLanes_other (g : Gang) {p n a l : Nat} (h : l ∉ lanes ∨ a < p ∨ p + n ≤ a) :
    tget (g.setLanes (.vec p n) lanes f).vregs (a, l) = tget g.vregs (a, l) := by
  refine Gang.writeRegs_keeps (fun e => tget e.vregs (a, l)) fun w hw e => ?_
  obtain ⟨m, hm, j, hj, rfl⟩ := Dest.mem_laneWrites_vec.1 hw
  rw [Gang.tget_vregs_writeReg, if_neg]
  intro hk
  obtain ⟨ha, rfl⟩ := Prod.mk.inj hk
  exact h.elim (· hm) fun h => by omega
theorem Gang.vregs_setLanes_of_not_vec (g : Gang) (h : ∀ p n, d ≠ .vec p n) : (g.setLanes d lanes f).vregs = g.vregs := by
  refine Gang.writeRegs_keeps Gang.vregs fun w hw e => ?_
  have hd := Dest.covers_of_mem_laneWrites hw
  cases w with
  | vec a l y =>
    obtain ⟨p, n, hd⟩ := hd
    exact absurd hd (h p n)
  | scal => rfl
  | pred => exact e.vregs_writeReg_pred ..

/-- A scalar holds the lowest active lane's value. -/
theorem Gang.readS_setLanes_low (g : Gang) (r : Nat) {n i : Nat} (hi : i < n) (hl : lanes ≠ []) :
    (g.setLanes (.scal r n) lanes f).readS (r + i) = wordAt (f (lanes.headD 0)) i := by
  obtain ⟨l, ls, rfl⟩ := List.exists_cons_of_ne_nil hl
  refine Gang.writeRegs_sets (read := fun e => e.readS (r + i)) (Dest.mem_laneWrites_scal.2 ⟨l, rfl, i, hi, rfl⟩) (fun e => ?set) fun u hu e he => ?keep
  case set => rw [Gang.readS_writeReg, if_pos rfl]; rfl
  case keep =>
    obtain ⟨m, hm, j, -, rfl⟩ := Dest.mem_laneWrites_scal.1 hu
    obtain rfl := Option.some.inj hm
    rw [Gang.readS_writeReg]
    split
    · rename_i hk
      rw [Nat.add_left_cancel hk]; rfl
    · exact he
theorem Gang.readS_setLanes_other (g : Gang) {r n m : Nat} (h : m < r ∨ r + n ≤ m) : (g.setLanes (.scal r n) lanes f).readS m = g.readS m := by
  refine Gang.writeRegs_keeps (fun e => e.readS m) fun w hw e => ?_
  obtain ⟨l, -, j, hj, rfl⟩ := Dest.mem_laneWrites_scal.1 hw
  rw [Gang.readS_writeReg, if_neg (by omega)]
theorem Gang.sregs_setLanes_of_not_scal (g : Gang) (h : ∀ r n, d ≠ .scal r n) : (g.setLanes d lanes f).sregs = g.sregs := by
  refine Gang.writeRegs_keeps Gang.sregs fun w hw e => ?_
  have hd := Dest.covers_of_mem_laneWrites hw
  cases w with
  | vec => rfl
  | scal m y =>
    obtain ⟨r, n, hd⟩ := hd
    exact absurd hd (h r n)
  | pred => exact e.sregs_writeReg_pred ..

/-- A predicate other than p0 holds bit 0 of each active lane's value. -/
theorem Gang.readP_setLanes (g : Gang) {p l : Nat} (hp : p ≠ 0) (hl : l < 64) :
    ((g.setLanes (.pred p) lanes f).readP p).getLsbD l = if l ∈ lanes then decide (f l % 2 = 1) else (g.readP p).getLsbD l := by
  have hbit (e : Gang) (m : Nat) (b : Bool) : ((e.writeReg (.pred p m b)).readP p).getLsbD l = if l = m then b else (e.readP p).getLsbD l := by
    rw [e.readP_writeReg_self hp, getLsbD_setBit _ _ _ hl]
  by_cases hm : l ∈ lanes
  · rw [if_pos hm]
    refine Gang.writeRegs_sets (read := fun e => (e.readP p).getLsbD l) (Dest.mem_laneWrites_pred.2 ⟨l, hm, rfl⟩) (fun e => ?set) fun u hu e he => ?keep
    case set => rw [hbit, if_pos rfl]
    case keep =>
      obtain ⟨m, -, rfl⟩ := Dest.mem_laneWrites_pred.1 hu
      rw [hbit]
      split
      · rename_i hk; rw [hk]
      · exact he
  · rw [if_neg hm]
    refine Gang.writeRegs_keeps (fun e => (e.readP p).getLsbD l) fun u hu e => ?_
    obtain ⟨m, hml, rfl⟩ := Dest.mem_laneWrites_pred.1 hu
    rw [hbit, if_neg (ne_of_mem_of_not_mem hml hm).symm]
theorem Gang.readP_setLanes_other (g : Gang) {m : Nat} (h : ∀ p, d = .pred p → p = 0 ∨ m ≠ p) : (g.setLanes d lanes f).readP m = g.readP m := by
  refine Gang.writeRegs_keeps (fun e => e.readP m) fun w hw e => ?_
  have hd := Dest.covers_of_mem_laneWrites hw
  cases w with
  | vec => rfl
  | scal => rfl
  | pred p l b => exact e.readP_writeReg_ne (h p hd) l b
end SetLanes

-- Where an operand is aimed

section OperandDest
variable {g : Gang} {d : Operand} {n : Nat}
theorem Gang.dest_not_vec (h : ∀ r, d ≠ .v r) (p m : Nat) : g.dest d n ≠ .vec p m := by
  cases d with
  | v r => exact absurd rfl (h r)
  | _ => simp [Gang.dest]
theorem Gang.dest_not_scal (h : ∀ r, d ≠ .s r) (p m : Nat) : g.dest d n ≠ .scal p m := by
  cases d with
  | s r => exact absurd rfl (h r)
  | _ => simp [Gang.dest]
theorem Gang.dest_pred {p : Nat} (h : g.dest d n = .pred p) : ∃ r, d = .p r ∧ r.toNat = p := by
  cases d with
  | p r => exact ⟨r, rfl, Dest.pred.inj h⟩
  | _ => simp [Gang.dest] at h
end OperandDest

/-- Settles O18: a per-lane result is a list of register writes, each of which sets its own register of its own lane. -/
theorem laneResultReadsBack : Obligations.LaneResultReadsBack := by
  intro s x d n v
  rw [s.gang_lanesSet x d n v]
  refine ⟨?vec, ?vecOther, ?notVec, ?scal, ?scalOther, ?notScal, ?pred, ?predOther, fun k hk => State.gang_modGang_ne s _ hk, rfl, (s.gang x.key).writeRegs_withRegs _⟩
  case vec =>
    rintro r i l rfl hi hl
    exact Gang.vregs_setLanes_lane _ _ hi hl
  case vecOther =>
    rintro r a l rfl h
    exact Gang.vregs_setLanes_other _ h
  case notVec => exact fun h => Gang.vregs_setLanes_of_not_vec _ (Gang.dest_not_vec h)
  case scal =>
    rintro r i rfl hi hl
    exact Gang.readS_setLanes_low _ _ hi hl
  case scalOther =>
    rintro r m rfl h
    exact Gang.readS_setLanes_other _ h
  case notScal => exact fun h => Gang.sregs_setLanes_of_not_scal _ (Gang.dest_not_scal h)
  case pred =>
    rintro r l rfl hr hl
    exact Gang.readP_setLanes _ (fun h => hr (BitVec.eq_of_toNat_eq h)) hl
  case predOther =>
    intro m h
    refine Gang.readP_setLanes_other _ fun p hp => ?_
    obtain ⟨r, hd, rfl⟩ := Gang.dest_pred hp
    exact (h r hd).imp_left fun h0 => by simp [h0]

end Sys2Proof.Machine
end

section
/-! PROOFS. The ring and the frames: a granule at its first write (R84), what a frame's push and its sliding out leave (R80, R81), and predicates, which no window moves (R76) (O10, O11). -/
namespace Sys2Proof.Machine

-- A granule at its first write (R84)

/-- A gang whose ring, in which there is room, holds one granule more. -/
def Gang.takeGranule (n : Nat) (g : Gang) : Gang := { g with taken := n :: g.taken, ringSize := max g.ringSize (g.takenCount + 1) }
theorem Gang.ringSize_takeGranule {n : Nat} {g : Gang} (h : g.takenCount < g.ringSize) : (g.takeGranule n).ringSize = g.ringSize := Nat.max_eq_left h

section Take
variable {s : State} {k : GangKey} {n : Nat}
theorem State.makeRoom_room (h : (s.gang k).takenCount < (s.gang k).ringSize) : s.makeRoom k = .ok s := if_pos h
theorem State.makeRoom_grows (h : (s.gang k).takenCount = (s.gang k).ringSize) (hw : (s.gang k).ringSize < (s.launchOf k).winMax) (hf : s.ringFits (s.gang k) 1 = true) :
    s.makeRoom k = .ok (s.setGang k { s.gang k with ringSize := (s.gang k).ringSize + 1 }) := by
  simp [State.makeRoom, h, hw, hf]
theorem State.makeRoom_overflow (h : (s.gang k).ringSize ≤ (s.gang k).takenCount) (hg : (s.launchOf k).winMax ≤ (s.gang k).ringSize ∨ s.ringFits (s.gang k) 1 = false)
    (hs : (s.gang k).canSpill = false) : s.makeRoom k = .overflow := by
  have hgrow : (decide ((s.gang k).ringSize < (s.launchOf k).winMax) && s.ringFits (s.gang k) 1) = false := by
    obtain hg | hg := hg
    · simp [Nat.not_lt.2 hg]
    · simp [hg]
  simp [State.makeRoom, Nat.not_lt.2 h, hgrow, hs]

theorem State.take_taken (h : n < 2 ∨ (s.gang k).taken.contains n = true) : s.take k n = .ok s := if_pos (by simpa using h)
variable (h2 : 2 ≤ n) (hn : (s.gang k).taken.contains n = false)
include h2 hn
/-- A granule not yet taken needs room. -/
theorem State.take_eq : s.take k n = match s.makeRoom k with | .ok t => .ok (t.modGang k (Gang.takeGranule n)) | r => r :=
  if_neg (by simpa using ⟨h2, by simpa using hn⟩)
theorem State.take_ok_of_room {t : State} (h : s.makeRoom k = .ok t) : s.take k n = .ok (t.modGang k (Gang.takeGranule n)) := by rw [State.take_eq h2 hn, h]
theorem State.take_overflow (h : s.makeRoom k = .overflow) : s.take k n = .overflow := by rw [State.take_eq h2 hn, h]
end Take

/-- Settles O11: a granule is there, or the ring has room, or it grows, or nothing is left; only the ring's own fields change. -/
theorem firstWriteTakesAGranule : Obligations.FirstWriteTakesAGranule := by
  intro s k n
  refine ⟨State.take_taken, fun h2 hn h => ?room, fun h2 hn h hw hf => ?grows, fun h2 hn h hg hs => State.take_overflow h2 hn (State.makeRoom_overflow h hg hs)⟩
  case room =>
    refine ⟨_, State.take_ok_of_room h2 hn (State.makeRoom_room h), ?_, ?_, rfl, rfl, ?_, ?_, fun j hj => State.gang_modGang_ne _ _ hj⟩ <;> rw [State.gang_modGang]
    · rfl
    · exact Gang.ringSize_takeGranule h
    · rfl
    · rfl
  case grows =>
    refine ⟨_, State.take_ok_of_room h2 hn (State.makeRoom_grows h hw hf), ?_, ?_, rfl, rfl, ?_, ?_,
      fun j hj => (State.gang_modGang_ne _ _ hj).trans (State.gang_setGang_ne _ _ hj)⟩ <;> rw [State.gang_modGang, State.gang_setGang]
    · rfl
    · exact Gang.ringSize_takeGranule (Nat.lt_succ_of_le h.le)
    · rfl
    · rfl

-- A frame slides out (R81)

section PopFrame
variable (g : Gang) (winMin : Nat)
/-- What a frame's sliding out changes: the frames, the window and the ring; no register but those of the granules it frees. -/
theorem Gang.popFrame_rest : { g.popFrame winMin with
    frames := g.frames, shift := g.shift, reserve := g.reserve, refillOff := g.refillOff, spillOpen := g.spillOpen, spillStopped := g.spillStopped,
    taken := g.taken, vregs := g.vregs, ringSize := g.ringSize } = g := by
  rw [Gang.popFrame]
  cases g.frames.getLast? with
  | none => rfl
  | some f => rfl
@[simp] theorem Gang.width_popFrame : (g.popFrame winMin).width = g.width := (congrArg Gang.width (g.popFrame_rest winMin) :)
@[simp] theorem Gang.sregs_popFrame : (g.popFrame winMin).sregs = g.sregs := (congrArg Gang.sregs (g.popFrame_rest winMin) :)
@[simp] theorem Gang.preds_popFrame : (g.popFrame winMin).preds = g.preds := (congrArg Gang.preds (g.popFrame_rest winMin) :)
@[simp] theorem Gang.flights_popFrame : (g.popFrame winMin).flights = g.flights := (congrArg Gang.flights (g.popFrame_rest winMin) :)
theorem Gang.readP_popFrame (n : Nat) : (g.popFrame winMin).readP n = g.readP n := by simp only [Gang.readP, Gang.width_popFrame, Gang.preds_popFrame]
end PopFrame
section PopTop
variable {g : Gang} {fs : List Frame} {f : Frame} (h : g.frames = fs ++ [f]) (winMin : Nat)
include h
theorem Gang.frames_popFrame : (g.popFrame winMin).frames = fs := by
  rw [Gang.popFrame, h, List.getLast?_concat]
  exact List.dropLast_concat
variable (hl : f.loose = none)
include hl
/-- Where no slide word was changed, the record gives the window and the reserve back what its call took. -/
theorem Gang.popFrame_firm : g.popFrame winMin =
    ({ g with frames := fs, reserve := g.reserve - (8 * f.slide + 2), refillOff := false, spillOpen := false, spillStopped := none }).free winMin
      (fun x => decide (x ≥ 2 + (slideSum fs + g.shift) + 14)) [] := by
  rw [Gang.popFrame, h, List.getLast?_concat]
  simp only [hl, List.dropLast_concat]
  rfl
end PopTop

theorem tget_filter {κ ν : Type} [DecidableEq κ] (t : Tbl κ ν) {p : κ × ν → Bool} {k : κ} (h : ∀ v, p (k, v) = true) : tget (t.filter p) k = tget t k := by
  induction t with
  | nil => rfl
  | cons e t ih =>
    rw [List.filter_cons, tget_cons]
    by_cases hk : e.1 = k
    · have hp : p e = true := by rw [← h e.2, ← hk]
      rw [if_pos hp, tget_cons]
      simp only [hk, if_true]
    · rw [if_neg hk, ← ih]
      split
      · rw [tget_cons, if_neg hk]
      · rfl
/-- A granule that is not freed keeps its values. -/
theorem Gang.tget_vregs_free (g : Gang) (winMin : Nat) {gone : Nat → Bool} (kept : List Nat) {a : Nat} (h : gone (granuleOf a) = false) (l : Nat) :
    tget (g.free winMin gone kept).vregs (a, l) = tget g.vregs (a, l) := tget_filter _ fun v => by simp [h]

-- Predicates (R76)

/-- The decode causes see an instruction through its checks alone. -/
theorem Issue.illegal_congr {x : Issue} {i j : Instr} (hshape : i.shapeOk = j.shapeOk) (hfield : i.launchFieldOk x.launch x.team.pair = j.launchFieldOk x.launch x.team.pair)
    (hops : i.operandsOk = j.operandsOk) (hlaunch : i.launchOperandsOk x.launch = j.launchOperandsOk x.launch) (hrole : i.roleOk x.gang.role = j.roleOk x.gang.role)
    (hmode : i.modeOk x.gang = j.modeOk x.gang) : x.illegal i = x.illegal j := by
  simp only [Issue.illegal, hshape, hfield, hops, hlaunch, hrole, hmode]
/-- A destination p0 is as legal as p1 (R76). -/
theorem Issue.illegal_icmp_p0 (x : Issue) (g : Guard) (a : ICmpArgs) : x.illegal (.icmp g { a with d := .p 0 }) = x.illegal (.icmp g { a with d := .p 1 }) :=
  Issue.illegal_congr rfl rfl rfl rfl rfl rfl
theorem Issue.illegal_fcmp_p0 (x : Issue) (g : Guard) (a : FCmpArgs) : x.illegal (.fcmp g { a with d := .p 0 }) = x.illegal (.fcmp g { a with d := .p 1 }) :=
  Issue.illegal_congr rfl rfl rfl rfl rfl rfl
theorem Issue.illegal_plop_p0 (x : Issue) (g : Guard) (a : PlopArgs) : x.illegal (.plop g { a with d := .p 0 }) = x.illegal (.plop g { a with d := .p 1 }) :=
  Issue.illegal_congr rfl rfl rfl rfl rfl rfl

theorem Gang.readP_p0 (g : Gang) {l : Nat} (hl : l < g.width) (hw : g.width ≤ 64) : (g.readP 0).getLsbD l = true := by
  rw [Gang.readP, if_pos rfl, fullMask, getLsbD_maskOf _ (hl.trans_le hw)]
  exact decide_eq_true (List.mem_range.2 hl)
/-- A write of a predicate other than p0 sets one thread's bit. -/
theorem Gang.getLsbD_readP_writeReg (g : Gang) {n : Nat} (hn : n ≠ 0) (m l : Nat) {k : Nat} (hk : k < 64) (b : Bool) :
    ((g.writeReg (.pred n l b)).readP m).getLsbD k = if m = n ∧ k = l then b else (g.readP m).getLsbD k := by
  by_cases hm : m = n
  · subst hm
    simp only [g.readP_writeReg_self hn, getLsbD_setBit _ _ _ hk, true_and]
  · rw [g.readP_writeReg_ne (.inr hm), if_neg fun h => hm h.1]

/-- Settles O10: p0 is the full mask and takes no write, and neither a frame's push nor its sliding out touches a predicate. -/
theorem predicateZeroAndOthers : Obligations.PredicateZeroAndOthers :=
  ⟨fun g _ => g.readP_p0, Gang.writeReg_p0, fun g _ m l _ b hn _ hk => g.getLsbD_readP_writeReg hn m l hk b, fun g _ _ _ _ w n => ⟨rfl, g.readP_popFrame w n⟩,
    fun x g a b c => ⟨x.illegal_icmp_p0 g a, x.illegal_fcmp_p0 g b, x.illegal_plop_p0 g c⟩⟩

end Sys2Proof.Machine
end

section
/-! PROOFS. RET (R81, R394): what it waits for and what traps it, the path that waits at the return point, and the frame that slides out with the last of a call's paths (O37). -/
namespace Sys2Proof.Machine

-- The last path of a call

/-- With this RET every path of the frame's call has returned or exited (R71). -/
def Issue.returnsLast (x : Issue) (f : Frame) (id : Nat) : Bool :=
  let e := (x.gang.returnPath x f id).prune (x.gang.nodes.length + 1)
  (e.nodes.find? fun n => n.id = f.node).any e.nodeArrived
/-- The refill of the caller's frame (R81). -/
def State.callerFrame (s : State) (x : Issue) : Room := s.refillTo x.key (x.gang.depth - 1) (14 * (x.gang.depth + 1))

section LastReturn
variable {x : Issue} {s : State} (f : Frame)
theorem lastReturn_blocked (hb : x.gang.returnBlocked x.gang.depth = true) : lastReturn x f s = .stall := if_pos hb
variable (hb : x.gang.returnBlocked x.gang.depth = false)
include hb
theorem lastReturn_eq : lastReturn x f s = match s.callerFrame x with
    | .fault t va e kind => .spill t va e kind
    | .ok t =>
      let fr := ((t.gang x.key).frames.getLast?).getD f
      .moved ((((t.modGang x.key fun e => (e.returnPath x fr t.seq).prune (e.nodes.length + 1)).bump.mergePaths x.key).leaveSlot x.key).checkReturn x fr.ret (x.gang.nodePath fr.node))
    | _ => .stall :=
  if_neg (by simp [hb])
theorem lastReturn_fault {t : State} {va : Nat} {e : MFault} {kind : AccessKind} (hr : s.callerFrame x = .fault t va e kind) : lastReturn x f s = .spill t va e kind := by
  rw [lastReturn_eq f hb, hr]
theorem lastReturn_returns {t : State} (hr : s.callerFrame x = .ok t) :
    let fr := ((t.gang x.key).frames.getLast?).getD f
    lastReturn x f s =
      .moved ((((t.modGang x.key fun e => (e.returnPath x fr t.seq).prune (e.nodes.length + 1)).bump.mergePaths x.key).leaveSlot x.key).checkReturn x fr.ret (x.gang.nodePath fr.node)) := by
  rw [lastReturn_eq f hb, hr]
end LastReturn

-- RET, in the order of its tests

section RetEffect
variable {x : Issue} {s : State}
theorem retEffect_noFrame (h : x.gang.frames = []) : retEffect x s = .trap (.of 0x22) := by
  simp only [retEffect, h, List.getLast?_nil]
theorem retEffect_departed (h : s.departedBelow x.key = true) : retEffect x s = .trap (.of 0x22) := by
  unfold retEffect
  cases x.gang.frames.getLast? with
  | none => rfl
  | some f => exact if_pos h
variable {f : Frame} (hf : x.gang.frames.getLast? = some f) (hd : s.departedBelow x.key = false)
include hf hd
theorem retEffect_eq : retEffect x s =
    if f.trapFrame then x.frameTrap
    else if x.returnsLast f s.seq then lastReturn x f s
    else .moved ((((s.setGang x.key ((s.gang x.key).returnPath x f s.seq)).bump).mergePaths x.key).leaveSlot x.key) := by
  simp only [retEffect, hf]
  exact if_neg (by simp [hd])
theorem retEffect_trapFrame (ht : f.trapFrame = true) : retEffect x s = x.frameTrap := by rw [retEffect_eq hf hd, if_pos ht]
variable (ht : f.trapFrame = false)
include ht
theorem retEffect_others (hl : x.returnsLast f s.seq = false) :
    retEffect x s = .moved ((((s.setGang x.key ((s.gang x.key).returnPath x f s.seq)).bump).mergePaths x.key).leaveSlot x.key) := by
  simp only [retEffect_eq hf hd, ht, hl, Bool.false_eq_true, if_false]
theorem retEffect_last (hl : x.returnsLast f s.seq = true) : retEffect x s = lastReturn x f s := by
  simp only [retEffect_eq hf hd, ht, hl, Bool.false_eq_true, if_false, if_true]
end RetEffect

-- The returning path

/-- The guard-false lanes, which go on at the next clause header. -/
def Issue.retStays (x : Issue) : List Path := if x.live &&& ~~~x.active = 0 then [] else [{ x.path.goto x.path.after with mask := x.live &&& ~~~x.active }]
/-- The returning lanes, which wait at the return point. -/
def Issue.retWaits (x : Issue) (f : Frame) (id : Nat) : Path :=
  { x.path.goto f.ret with
    id := if x.live &&& ~~~x.active = 0 then x.path.id else id, mask := x.active, st := .waiting, rpc := some f.ret, link := f.node, ret := some x.path.pc }
theorem Gang.returnPath_paths {e : Gang} {x : Issue} {ps qs : List Path} (hp : e.paths = ps ++ x.path :: qs) (hid : ∀ p ∈ ps ++ qs, p.id ≠ x.path.id) (f : Frame) (id : Nat) :
    (e.returnPath x f id).paths = ps ++ x.retStays ++ x.retWaits f id :: qs := by
  refine (Gang.replacePath_paths hp hid (x.retStays ++ [x.retWaits f id])).trans ?_
  simp only [List.append_assoc, List.singleton_append]

-- The node of a call

section CallNode
variable {n : Node} {d : Nat} (h : n.kind = .call d)
include h
theorem Node.merged_call (inCall : Bool) (q : Path) (m : Mask) :
    n.merged inCall q m = { q with id := n.path, mask := m, rpc := n.rpc, link := n.link, st := .ready } := by
  simp only [Node.merged, h]
theorem Gang.nodeDone_call {e : Gang} (hn : e.nodeDone n = true) : e.nodeArrived n = true ∧ d = e.depth ∧ e.returnBlocked d = false := by
  simp only [Gang.nodeDone, h, Bool.and_eq_true, Bool.not_eq_true', decide_eq_true_eq] at hn
  obtain ⟨harrived, ⟨hdepth, -⟩, hfree⟩ := hn
  exact ⟨harrived, hdepth, hfree⟩
end CallNode

/-- Settles O37: the tests of RET in their order, the path that waits, the merge at a call's node, and the frame that slides out. -/
theorem returnsPopFrames : Obligations.ReturnsPopFrames := by
  refine ⟨fun s s1 x g h => ⟨fun h0 => ?noFrame, fun hd => ?departed, fun f hf hd => ⟨fun ht => ?trapFrame, fun ht => ⟨fun hl => ?others, fun hl hb => ?blocked,
    fun t va e kind hl hb hr => ?fault, fun t hl hb hr => ?returns⟩⟩⟩, ?paths, fun e n q m inCall d hk => ⟨n.merged_call hk inCall q m, Gang.nodeDone_call hk⟩, ?pop, ?check⟩
  case noFrame => exact issueWord_trap h (retEffect_noFrame h0)
  case departed => exact issueWord_trap h (retEffect_departed hd)
  case trapFrame => exact issueWord_trap h (retEffect_trapFrame hf hd ht)
  case others => exact issueWord_moved h (retEffect_others hf hd ht hl)
  case blocked => exact issueWord_stall h ((retEffect_last hf hd ht hl).trans (lastReturn_blocked f hb))
  case fault => exact issueWord_spill h ((retEffect_last hf hd ht hl).trans (lastReturn_fault f hb hr))
  case returns => exact issueWord_moved h ((retEffect_last hf hd ht hl).trans (lastReturn_returns f hb hr))
  case paths =>
    intro e x f n ps qs hp hid
    refine ⟨x.retWaits f n, x.retStays, Gang.returnPath_paths hp hid f n, rfl, rfl, rfl, rfl, rfl, rfl, fun h0 => if_pos h0, fun h0 => ?_⟩
    rw [Issue.retStays, if_neg h0]
    exact ⟨_, rfl, Nat.mod_mod .., rfl, rfl⟩
  case pop =>
    intro e winMin f fs hf hl
    rw [Gang.popFrame_firm hf winMin hl]
    refine ⟨rfl, ?_, rfl, rfl, rfl, rfl, fun a l ha => Gang.tget_vregs_free _ winMin [] ?_ l⟩
    · simp only [Gang.depth, hf, List.length_append, List.length_singleton]
      rfl
    · exact decide_eq_false (Nat.not_le.2 ha)
  case check =>
    intro s x ret path
    rfl

end Sys2Proof.Machine
end

section
/-! PROOFS. ERET (R271, R341): what it waits for and what traps it, the trap state that pops, and the replay at which it ends (O44). -/
namespace Sys2Proof.Machine

-- ERET, in the order of its tests

/-- Another handler path is not yet at this ERET (R341). -/
def Issue.awaitsHandler (x : Issue) : Bool := x.gang.paths.any fun p => p.id ≠ x.path.id && !p.atEretOf x.path
/-- A written TNEXT that is no landing header (R271). -/
def State.badNext (s : State) (x : Issue) : Bool := x.gang.topTrap.tnextWritten && !s.landing x.key x.gang.topTrap.tnext.toNat

section EretWith
variable {x : Issue} {s : State} (replay : Bool)
theorem eretWith_awaits (hw : x.awaitsHandler = true) :
    eretWith replay x s = .moved ((s.modGang x.key fun e => { e.modPath x.path.id fun p => { p with st := .atEret } with refillOff := false, spillOpen := false }).leaveSlot x.key) :=
  if_pos hw
variable (hw : x.awaitsHandler = false)
include hw
theorem eretWith_noTrapFrame (hf : ∀ f, x.gang.frames.getLast? = some f → f.trapFrame = false) : eretWith replay x s = x.frameTrap := by
  refine (if_neg (Bool.eq_false_iff.1 hw)).trans (if_pos ?_)
  cases hl : x.gang.frames.getLast? with
  | none => rfl
  | some f => simp [hf f hl]
variable {f : Frame} (hf : x.gang.frames.getLast? = some f) (ht : f.trapFrame = true)
include hf ht
theorem eretWith_eq : eretWith replay x s =
    if s.badNext x then .trap (.of 0x23)
    else if x.gang.returnBlocked x.gang.depth then .stall
    else
      match s.callerFrame x with
      | .fault t va e kind => .spill t va e kind
      | .ok t => .moved (t.leaveWith x replay)
      | _ => .stall :=
  (if_neg (Bool.eq_false_iff.1 hw)).trans (if_neg (by simp [hf, ht]))
theorem eretWith_badNext (hn : s.badNext x = true) : eretWith replay x s = .trap (.of 0x23) := by rw [eretWith_eq replay hw hf ht, if_pos hn]
variable (hn : s.badNext x = false)
include hn
theorem eretWith_blocked (hb : x.gang.returnBlocked x.gang.depth = true) : eretWith replay x s = .stall := by
  simp only [eretWith_eq replay hw hf ht, hn, hb, Bool.false_eq_true, if_false, if_true]
variable (hb : x.gang.returnBlocked x.gang.depth = false)
include hb
theorem eretWith_leaves {t : State} (hr : s.callerFrame x = .ok t) : eretWith replay x s = .moved (t.leaveWith x replay) := by
  simp only [eretWith_eq replay hw hf ht, hn, hb, hr, Bool.false_eq_true, if_false]
theorem eretWith_fault {t : State} {va : Nat} {e : MFault} {kind : AccessKind} (hr : s.callerFrame x = .fault t va e kind) : eretWith replay x s = .spill t va e kind := by
  simp only [eretWith_eq replay hw hf ht, hn, hb, hr, Bool.false_eq_true, if_false]
end EretWith
theorem State.badNext_iff {s : State} {x : Issue} : s.badNext x = true ↔ x.gang.topTrap.tnextWritten = true ∧ s.landing x.key x.gang.topTrap.tnext.toNat = false := by
  simp only [State.badNext, Bool.and_eq_true, Bool.not_eq_true']
theorem State.badNext_eq_false {s : State} {x : Issue} (h : ¬ (x.gang.topTrap.tnextWritten = true ∧ s.landing x.key x.gang.topTrap.tnext.toNat = false)) : s.badNext x = false :=
  Bool.eq_false_iff.2 (mt State.badNext_iff.1 h)

/-- ERET and ERET.SKIP are one word but for the replay. -/
theorem exec_eretWord {i : Instr} {g : Guard} {replay : Bool} (hi : (i = .eret g ∧ replay = true) ∨ (i = .eretSkip g ∧ replay = false)) (s : State) :
    exec i s = s.issueWord i false (eretWith replay) := by
  obtain ⟨rfl, rfl⟩ | ⟨rfl, rfl⟩ := hi <;> rfl

-- The trap state that pops

/-- A path of those that were suspended: the trapped one stands at TNEXT when it was written, and has no header's wait left (R271). -/
def TrapState.resume (t : TrapState) (p : Path) : Path :=
  if p.id = t.path then (if t.tnextWritten then { p.goto t.tnext.toNat with resumed := true } else { p with resumed := true }) else p
section Resume
variable {t : TrapState} {p : Path}
theorem TrapState.resume_other (h : p.id ≠ t.path) : t.resume p = p := if_neg h
theorem TrapState.resume_here (h : p.id = t.path) (hw : t.tnextWritten = false) : t.resume p = { p with resumed := true } := by
  simp only [TrapState.resume, h, hw, if_true, Bool.false_eq_true, if_false]
theorem TrapState.resume_next (h : p.id = t.path) (hw : t.tnextWritten = true) : t.resume p = { p.goto t.tnext.toNat with resumed := true } := by
  simp only [TrapState.resume, h, hw, if_true]
end Resume
theorem Path.goto_hdr_of_word (p : Path) (a : BitVec 32) : (p.goto a.toNat).hdr = a.toNat := Nat.mod_eq_of_lt (by omega)

section LeaveHandler
variable {e : Gang} {tr : TrapState} {rest : List TrapState} (h : e.traps = tr :: rest) (winMin : Nat)
include h
theorem Gang.leaveHandler_eq : e.leaveHandler winMin = { e.popFrame winMin with
    traps := rest, handlerMode := tr.handlerMode, paths := tr.paths.map tr.resume, nodes := tr.nodes, pendingTrap := tr.pending } := by
  simp only [Gang.leaveHandler, h]
  rfl
theorem Gang.leaveHandler_paths : (e.leaveHandler winMin).paths = tr.paths.map tr.resume := congrArg Gang.paths (Gang.leaveHandler_eq h winMin)
theorem Gang.leaveHandler_path {n : Nat} {p : Path} (hp : tr.paths[n]? = some p) : (e.leaveHandler winMin).paths[n]? = some (tr.resume p) := by
  rw [Gang.leaveHandler_paths h, List.getElem?_map, hp, Option.map_some]
end LeaveHandler

-- The replay slot

/-- The gang out of its handler: what is left when the replay slot is empty, the watchdog of the family at 0 after WATCHDOG (R275). -/
def State.outOfHandler (s : State) (x : Issue) : State :=
  let u := (s.leaveTrap x.key).leaveSlot x.key
  if x.gang.topTrap.tcause.toNat % 256 = 0x48 then u.restartWatch x.key else u
section LeaveWith
variable {s : State} {x : Issue} (replay : Bool)
theorem State.leaveWith_noReplay (h : x.gang.topTrap.replay = none) : s.leaveWith x replay = s.outOfHandler x := by
  simp only [State.leaveWith, h]
  rfl
theorem State.leaveWith_replay {r : Replay} (h : x.gang.topTrap.replay = some r) : s.leaveWith x replay =
    if replay = true ∧ x.gang.topTrap.tcause.getLsbD 8 = true then (s.outOfHandler x).replay x.key r x.gang.topTrap
    else (s.outOfHandler x).modGang x.key fun e => e.dropFlight r.flight := by
  simp only [State.leaveWith, h, Bool.and_eq_true]
  rfl
end LeaveWith

/-- Settles O44: the tests of ERET in their order, the trap state that pops with the suspended paths, and the replay slot. -/
theorem eretRestoresTheTrappedPaths : Obligations.EretRestoresTheTrappedPaths := by
  refine ⟨fun s s1 x i g replay hi h => ?eret, fun e winMin tr rest fs f htr hfs => ?pops, fun s x replay => ⟨State.leaveWith_noReplay replay, fun r => State.leaveWith_replay replay⟩⟩
  case eret =>
    rw [exec_eretWord hi]
    refine ⟨fun hw => issueWord_moved h (eretWith_awaits replay hw), fun hw hf => issueWord_trap h (eretWith_noTrapFrame replay hw hf), fun f hw hf ht => ?_⟩
    refine ⟨fun hn => ?bad, fun hn hb => ?blocked, fun t hn hb hr => ?leaves, fun t va e kind hn hb hr => ?fault⟩
    case bad => exact issueWord_trap h (eretWith_badNext replay hw hf ht (State.badNext_iff.2 hn))
    case blocked => exact issueWord_stall h (eretWith_blocked replay hw hf ht (State.badNext_eq_false hn) hb)
    case leaves => exact issueWord_moved h (eretWith_leaves replay hw hf ht (State.badNext_eq_false hn) hb hr)
    case fault => exact issueWord_spill h (eretWith_fault replay hw hf ht (State.badNext_eq_false hn) hb hr)
  case pops =>
    have hb := Gang.leaveHandler_eq htr winMin
    refine ⟨congrArg Gang.traps hb, congrArg Gang.handlerMode hb, congrArg Gang.pendingTrap hb, (congrArg Gang.frames hb).trans (Gang.frames_popFrame hfs winMin), congrArg Gang.nodes hb,
      (congrArg Gang.sregs hb).trans (e.sregs_popFrame winMin), (congrArg Gang.preds hb).trans (e.preds_popFrame winMin), (congrArg Gang.flights hb).trans (e.flights_popFrame winMin),
      fun hl => ?reserve, ?length, fun n p hp hne => ?other, fun n p hp heq hw => ?here, fun n p hp heq hw => ?next⟩
    case reserve =>
      refine (congrArg Gang.reserve hb).trans ?_
      rw [Gang.popFrame_firm hfs winMin hl]
      rfl
    case length => rw [Gang.leaveHandler_paths htr winMin, List.length_map]
    case other => rw [Gang.leaveHandler_path htr winMin hp, TrapState.resume_other hne]
    case here => rw [Gang.leaveHandler_path htr winMin hp, TrapState.resume_here heq hw]
    case next =>
      rw [Gang.leaveHandler_path htr winMin hp, TrapState.resume_next heq hw]
      exact ⟨_, rfl, p.goto_hdr_of_word tr.tnext, rfl, rfl, rfl⟩

end Sys2Proof.Machine
end

section
/-! PROOFS. Words and instructions correspond (R109, R111, R112, R123): a word is its fields joined, and an instruction's fields read back (O2, O3, O4). -/
namespace Sys2Proof

-- From instructions to words

/-- The word of a well-formed instruction decodes to it, whichever instruction it is; a step of another agent is no word. -/
theorem decode_toWord (i : Instr) : Laws.RoundTrip.Statement i := by
  open Laws in
  cases i with
    | nop => exact RoundTrip.nop | mov g a => exact RoundTrip.mov g a | iadd g a => exact RoundTrip.iadd g a | isub g a => exact RoundTrip.isub g a
    | imul g a => exact RoundTrip.imul g a | imad g a => exact RoundTrip.imad g a | imin g a => exact RoundTrip.imin g a | imax g a => exact RoundTrip.imax g a
    | and g a => exact RoundTrip.and g a | andn g a => exact RoundTrip.andn g a | or g a => exact RoundTrip.or g a | xor g a => exact RoundTrip.xor g a
    | shl g a => exact RoundTrip.shl g a | shr g a => exact RoundTrip.shr g a | sar g a => exact RoundTrip.sar g a | bcnt g a => exact RoundTrip.bcnt g a
    | bfx g a => exact RoundTrip.bfx g a | bfi g a => exact RoundTrip.bfi g a | fadd g a => exact RoundTrip.fadd g a | fmul g a => exact RoundTrip.fmul g a
    | ffma g a => exact RoundTrip.ffma g a | fmin g a => exact RoundTrip.fmin g a | fmax g a => exact RoundTrip.fmax g a | icmp g a => exact RoundTrip.icmp g a
    | fcmp g a => exact RoundTrip.fcmp g a | sel g a => exact RoundTrip.sel g a | plop g a => exact RoundTrip.plop g a | shfl g a => exact RoundTrip.shfl g a
    | vote g a => exact RoundTrip.vote g a | perm g a => exact RoundTrip.perm g a | redg g a => exact RoundTrip.redg g a | lea g a => exact RoundTrip.lea g a
    | ld g a => exact RoundTrip.ld g a | ldPoll g a => exact RoundTrip.ldPoll g a | ldc g a => exact RoundTrip.ldc g a | lds g a => exact RoundTrip.lds g a
    | ldp g a => exact RoundTrip.ldp g a | st g a => exact RoundTrip.st g a | sts g a => exact RoundTrip.sts g a | stp g a => exact RoundTrip.stp g a
    | atom g a => exact RoundTrip.atom g a | atoms g a => exact RoundTrip.atoms g a | atomp g a => exact RoundTrip.atomp g a | red g a => exact RoundTrip.red g a
    | cas g a => exact RoundTrip.cas g a | cass g a => exact RoundTrip.cass g a | prefL1 g a => exact RoundTrip.prefL1 g a | prefLlc g a => exact RoundTrip.prefLlc g a
    | fenceRepl g => exact RoundTrip.fenceRepl g | fenceHost g => exact RoundTrip.fenceHost g | fenceEng g => exact RoundTrip.fenceEng g
    | fenceAll g => exact RoundTrip.fenceAll g | cmntWb g a => exact RoundTrip.cmntWb g a | cmntDrop g a => exact RoundTrip.cmntDrop g a
    | qpush g a => exact RoundTrip.qpush g a | qpop g a => exact RoundTrip.qpop g a | qpopWait g a => exact RoundTrip.qpopWait g a | mmad g a => exact RoundTrip.mmad g a
    | azero g pr ac => exact RoundTrip.azero g pr ac | tbuild g a => exact RoundTrip.tbuild g a | lutmm g a => exact RoundTrip.lutmm g a
    | tbinv g pr kt => exact RoundTrip.tbinv g pr kt | tbqry g a => exact RoundTrip.tbqry g a | accrd g a => exact RoundTrip.accrd g a | accwr g a => exact RoundTrip.accwr g a
    | twr g a => exact RoundTrip.twr g a | trd g a => exact RoundTrip.trd g a | mengq g a => exact RoundTrip.mengq g a | cpy g a => exact RoundTrip.cpy g a
    | tload g a => exact RoundTrip.tload g a | tstore g a => exact RoundTrip.tstore g a | tdesc g a => exact RoundTrip.tdesc g a | cpyq g a => exact RoundTrip.cpyq g a
    | cpycan g tk => exact RoundTrip.cpycan g tk | coll g a => exact RoundTrip.coll g a | tpost g tk => exact RoundTrip.tpost g tk | tsig g tk => exact RoundTrip.tsig g tk
    | braM g off => exact RoundTrip.braM g off | braS g off => exact RoundTrip.braS g off | brx g ra => exact RoundTrip.brx g ra
    | call g sl off => exact RoundTrip.call g sl off | callx g ra sl => exact RoundTrip.callx g ra sl | ret g => exact RoundTrip.ret g | join => exact RoundTrip.join
    | exit g => exact RoundTrip.exit g | trap g n => exact RoundTrip.trap g n | brk g => exact RoundTrip.brk g | wflush g => exact RoundTrip.wflush g
    | wstat g d sel => exact RoundTrip.wstat g d sel | elect g d sform => exact RoundTrip.elect g d sform | launch g d ar => exact RoundTrip.launch g d ar
    | grow g d n => exact RoundTrip.grow g d n | yield g => exact RoundTrip.yield g | gsr g d reg => exact RoundTrip.gsr g d reg | ssr g s reg => exact RoundTrip.ssr g s reg
    | famkillWrite g s => exact RoundTrip.famkillWrite g s | eret g => exact RoundTrip.eret g | eretSkip g => exact RoundTrip.eretSkip g | rcp g a => exact RoundTrip.rcp g a
    | rsq g a => exact RoundTrip.rsq g a | sqrt g a => exact RoundTrip.sqrt g a | exp2 g a => exact RoundTrip.exp2 g a | log2 g a => exact RoundTrip.log2 g a
    | sin g a => exact RoundTrip.sin g a | cos g a => exact RoundTrip.cos g a | tanh g a => exact RoundTrip.tanh g a | cvt g a => exact RoundTrip.cvt g a
    | frnd g a => exact RoundTrip.frnd g a | dbfpk g a => exact RoundTrip.dbfpk g a | dbfunpk g a => exact RoundTrip.dbfunpk g a | wait g a => exact RoundTrip.wait g a
    | binit g a => exact RoundTrip.binit g a | barrive g a => exact RoundTrip.barrive g a | bwait g a => exact RoundTrip.bwait g a | btry g a => exact RoundTrip.btry g a
    | binval g a => exact RoundTrip.binval g a | bstat g a => exact RoundTrip.bstat g a | bstatClr g a => exact RoundTrip.bstatClr g a
    | gbarrive g a => exact RoundTrip.gbarrive g a | gbwait g a => exact RoundTrip.gbwait g a | racq g a => exact RoundTrip.racq g a
    | rcommit g a => exact RoundTrip.rcommit g a | rwait g a => exact RoundTrip.rwait g a | rfree g a => exact RoundTrip.rfree g a | tsync g => exact RoundTrip.tsync g
    | chanbind g a => exact RoundTrip.chanbind g a | msgsend g a => exact RoundTrip.msgsend g a | msgrecv g a => exact RoundTrip.msgrecv g a
    | pwrreq g a => exact RoundTrip.pwrreq g a | pwrrel g la d => exact RoundTrip.pwrrel g la d | perflvl g s1 => exact RoundTrip.perflvl g s1
    | _ => exact fun h => nomatch h

theorem encode_eq_some {i : Instr} {w : BitVec 64} : encode i = some w ↔ i.isWord = true ∧ i.toWord.join = w := by
  simp only [encode, Option.ite_none_right_eq_some, Option.some.injEq]

/-- Settles O3: each instruction's fields read back, its round trip. -/
theorem decodeInvertsEncode : Obligations.DecodeInvertsEncode := by
  intro i w hwf hw
  obtain ⟨-, rfl⟩ := encode_eq_some.1 hw
  exact decode_toWord i hwf

-- From words to instructions

/-- Two fields that stand side by side are one. -/
theorem field_append_field {w : Nat} (x : BitVec w) {lo m hi : Nat} (n : Nat) (h : lo + m = hi) : field x hi n ++ field x lo m = field x lo (n + m) := by
  subst h
  apply BitVec.eq_of_getLsbD_eq
  intro i hi
  simp only [field, BitVec.getLsbD_append, BitVec.getLsbD_extractLsb']
  grind

/-- No bit of a body is passed over: in every format the fields, joined, are the body. -/
theorem body_splitBody (cls : Nat) (b : BitVec 51) : (splitBody cls b).body = b := by
  have whole {f : Fields} (h : f.body = field b 0 51) : f.body = b := h.trans (field_all b)
  unfold splitBody
  split
  case h_1 | h_2 =>
    split
    next h =>
      refine whole ?_
      simp only [Fields.body, splitI, ← h]
      simp (disch := decide) only [field_append_field, -Nat.reduceAdd]
    next h =>
      have h0 : field b 50 1 = 0#1 := (BitVec.eq_zero_or_eq_one _).resolve_right h
      refine whole ?_
      simp only [Fields.body, splitA, ← h0]
      simp (disch := decide) only [field_append_field, -Nat.reduceAdd]
  all_goals
    refine whole ?_
    simp (disch := decide) only [Fields.body, splitM, splitX, splitQ, splitC, splitS, field_append_field, -Nat.reduceAdd]

theorem boolBit_bitBool (x : BitVec 1) : boolBit (bitBool x) = x := by revert x; decide

theorem join_splitWord (w : BitVec 64) : (splitWord w).join = w := by
  simp (disch := decide) only [splitWord, WordFields.join, boolBit_bitBool, body_splitBody, field_append_field, -Nat.reduceAdd]
  exact field_all w

/-- A step of another agent bears an opcode that is not assigned. -/
theorem opcode_of_not_isWord {i : Instr} (h : i.isWord = false) : i.opcode = 0xFF := by
  cases i <;> cases h <;> rfl
theorem isWord_of_assigned {i : Instr} (h : assigned i.opcode = true) : i.isWord = true := by
  by_contra hw
  rw [opcode_of_not_isWord (Bool.eq_false_iff.2 hw)] at h
  exact absurd h (by decide)

/-- A word that parses is cut into its instruction's own fields, under an assigned opcode. -/
theorem toWord_of_parse {w : BitVec 64} {i : Instr} (h : parse w = .ok i) : i.toWord = splitWord w ∧ assigned i.opcode = true := by
  simp only [parse] at h
  split at h
  next ha =>
    split at h
    next j _ =>
      split at h
      next hj =>
        obtain rfl := Except.ok.inj h
        exact ⟨hj.2, by rwa [← hj.2] at ha⟩
      next => cases h
    next => cases h
  next => cases h
theorem parse_of_decode {w : BitVec 64} {i : Instr} (h : decode w = .ok i) : parse w = .ok i := by
  unfold decode at h
  split at h
  next j hj =>
    split at h
    next => exact Except.ok.inj h ▸ hj
    next => cases h
  next => cases h

/-- Settles O4: a word that decodes is cut into its instruction's own fields, and is those fields joined. -/
theorem encodeInvertsDecode : Obligations.EncodeInvertsDecode := by
  intro w i h
  obtain ⟨hf, ha⟩ := toWord_of_parse (parse_of_decode h)
  exact encode_eq_some.2 ⟨isWord_of_assigned ha, hf ▸ join_splitWord w⟩

/-- Settles O2: each word is cut and read field by field. -/
theorem specWordsDecode : Obligations.SpecWordsDecode := by
  unfold Obligations.SpecWordsDecode
  decide +kernel

end Sys2Proof
end

section
/-! PROOFS. The issue of a word: what keeps it from its effect, and what the issue of any word leaves as it was (R108, R118 to R125) (O9, O41). -/
namespace Sys2Proof.Machine

/-- Every word issues with an effect of its own; branches and JOIN act without an active lane too (R125). -/
theorem exec_word {i : Instr} (h : i.isWord = true) : ∃ al eff, (∀ s, exec i s = s.issueWord i al eff) ∧
    (al = true → i = .join ∨ ∃ g off split, (i = .braM g off ∨ i = .braS g off) ∧ eff = braEffect split off) := by
  cases i <;> cases h
  case join => exact ⟨true, joinEffect, fun _ => rfl, fun _ => .inl rfl⟩
  case braM g off => exact ⟨true, _, fun _ => rfl, fun _ => .inr ⟨g, off, false, .inl rfl, rfl⟩⟩
  case braS g off => exact ⟨true, _, fun _ => rfl, fun _ => .inr ⟨g, off, true, .inr rfl, rfl⟩⟩
  all_goals exact ⟨false, _, fun _ => rfl, nofun⟩

section Exec
variable {s : State} {i : Instr} {x : Issue} (hw : i.isWord = true)
include hw
/-- A word that breaks a decode rule traps precisely (R123, R265). -/
theorem exec_of_illegal {c : Nat} (h : s.issuing i.guard = some x) (hc : x.illegal i = some c) :
    exec i s = .next (s.raise x ⟨c, x.path.pos - 1, none, 0, false⟩) := by
  obtain ⟨al, eff, he, -⟩ := exec_word hw
  simp only [he, State.issueWord, State.issueNext, h, hc]
theorem exec_of_stalled (h : s.issuing i.guard = some x) (hc : x.illegal i = none) (hs : x.stalled i = true) : exec i s = .next s := by
  obtain ⟨al, eff, he, -⟩ := exec_word hw
  simp only [he, State.issueWord, State.issueNext, h, hc, hs, if_true]
/-- A word with no active lane only moves its path on (R125). -/
theorem exec_of_inactive {s0 : State} (hj : i ≠ .join) (h : s.issueOf i = some (x, s0)) (ha : x.active = 0) :
    exec i s = .next ((s0.begin x i).advance x.key x.path.id) := by
  obtain ⟨al, eff, he, hal⟩ := exec_word hw
  rw [he, State.issueWord, issueNext_of_issueOf al eff h]
  cases al with
  | false => simp only [State.act, ha, Bool.not_false, Bool.true_and, decide_true, if_true]
  | true =>
    obtain ⟨g, off, split, hi, rfl⟩ := (hal rfl).resolve_left hj
    have hdest : x.dests i = [] := by rcases hi with rfl | rfl <;> rfl
    have heff (t : State) : braEffect split off x t = .done t := if_pos ha
    simp only [State.act, hdest, List.flatMap_nil, State.takeAll, heff, Bool.not_true, Bool.false_and, Bool.false_eq_true, if_false]
end Exec

-- What every issued word leaves

section Frame
variable (s : State) (x : Issue) (i : Instr) (k : GangKey) (id : Nat)

theorem Gang.completed_rest (g : Gang) : { g.completed i with flights := g.flights } = g := by
  unfold Gang.completed
  split <;> rfl
theorem Gang.length_flights_completed (g : Gang) : (g.completed i).flights.length = g.flights.length := by
  unfold Gang.completed
  split
  · exact List.length_map ..
  · rfl
theorem Gang.length_flights_countdown (g : Gang) : g.countdown.flights.length = g.flights.length := List.length_map ..

@[simp] theorem State.gang_begin : (s.begin x i).gang x.key = { (s.gang x.key).countdown.completed i with lastPath := x.path.id } :=
  (State.gang_setCluster ..).trans (s.gang_modGang x.key _)
@[simp] theorem State.gang_begin_ne (h : k ≠ x.key) : (s.begin x i).gang k = s.gang k := (State.gang_setCluster ..).trans (s.gang_modGang_ne _ h)
theorem State.begin_rest : { s.begin x i with gangs := s.gangs, clusters := s.clusters } = s := rfl

/-- The path goes on, and after a clause's last word the gang leaves the slot (R108). -/
theorem State.advance_rest : { s.advance k id with gangs := s.gangs, benches := s.benches } = s := by
  unfold State.advance
  simp only
  split <;> rfl
theorem State.gangs_advance : (s.advance k id).gangs = (s.modPath k id Path.next).gangs := by
  unfold State.advance
  simp only
  split <;> rfl
@[simp] theorem State.gang_advance : (s.advance k id).gang k = (s.gang k).modPath id Path.next := by
  rw [State.gang, State.gangs_advance]
  exact s.gang_modGang k _
@[simp] theorem State.gang_advance_ne {j : GangKey} (h : j ≠ k) : (s.advance k id).gang j = s.gang j := by
  rw [State.gang, State.gangs_advance]
  exact s.gang_modGang_ne _ h

/-- A word that begins and moves on leaves its gang but for the windows and the path. -/
theorem State.gang_advance_begin_rest : { ((s.begin x i).advance x.key id).gang x.key with
    flights := (s.gang x.key).flights, paths := (s.gang x.key).paths, lastPath := (s.gang x.key).lastPath } = s.gang x.key := by
  rw [State.gang_advance, State.gang_begin]
  exact congrArg (fun g : Gang => { g with flights := (s.gang x.key).flights, paths := (s.gang x.key).paths, lastPath := (s.gang x.key).lastPath })
    ((s.gang x.key).countdown.completed_rest i)
theorem State.length_flights_advance_begin : (((s.begin x i).advance x.key id).gang x.key).flights.length = (s.gang x.key).flights.length := by
  rw [State.gang_advance, State.gang_begin]
  exact ((s.gang x.key).countdown.length_flights_completed i).trans (s.gang x.key).length_flights_countdown
end Frame

/-- Settles O9: the three answers of an issue before its effect, and the frame of a word with no active lane. -/
theorem wordsWithoutEffect : Obligations.WordsWithoutEffect := by
  refine ⟨fun s i x c hw h hc => exec_of_illegal hw h hc, fun s i x hw h hc hs => exec_of_stalled hw h hc hs, fun s s0 i x hw hj h ha => ?_⟩
  have hmem := congrArg State.mem ((s0.begin x i).advance_rest x.key x.path.id)
  have hcores := congrArg State.cores ((s0.begin x i).advance_rest x.key x.path.id)
  have hrest := s0.gang_advance_begin_rest x i x.path.id
  exact ⟨exec_of_inactive hw hj h ha, hmem, hcores, fun n l => (congrArg (Gang.readV · n l) hrest :), fun n => (congrArg (Gang.readS · n) hrest :),
    fun n => (congrArg (Gang.readP · n) hrest :), s0.length_flights_advance_begin x i x.path.id⟩

-- The mode test (R268)

/-- In USER mode the mode test refuses the handler's words and registers, and an EXIT from a trap frame. -/
theorem modeOk_user_iff {g : Gang} (hu : g.handlerMode = false) (i : Instr) : i.modeOk g = false ↔
    (∃ g v, i = .famkillWrite g v) ∨ (∃ g, i = .eret g) ∨ (∃ g, i = .eretSkip g) ∨ (∃ g v r, i = .ssr g v r ∧ r ≠ .nstat) ∨
      (∃ g d r, i = .gsr g d r ∧ (r = .tcause ∨ r = .tpc ∨ r = .tnext ∨ r = .tmask ∨ r = .taddr ∨ r = .tladdr ∨ r = .famkill)) ∨
      (∃ u f, i = .exit u ∧ g.frames.getLast? = some f ∧ f.trapFrame = true) := by
  cases i with
  | gsr u d r => cases r <;> simp [Instr.modeOk, SysReg.handlerRead, hu]
  | exit u => cases hf : g.frames.getLast? <;> simp [Instr.modeOk, hu, hf]
  | _ => simp [Instr.modeOk, hu]

section Illegal
variable {x : Issue} {i : Instr}
/-- PRIVILEGE is the mode test's cause alone. -/
theorem Issue.modeOk_of_privilege (h : x.illegal i = some 0x06) : i.modeOk x.gang = false := by
  unfold Issue.illegal at h
  repeat' split at h
  all_goals simp_all
/-- It is the last of the causes (R124). -/
theorem Issue.privilege_iff (hs : i.shapeOk = true) (hf : i.launchFieldOk x.launch x.team.pair = true) (ho : i.operandsOk = true)
    (hl : i.launchOperandsOk x.launch = true) (hr : i.roleOk x.gang.role = true) : x.illegal i = some 0x06 ↔ i.modeOk x.gang = false := by
  refine ⟨Issue.modeOk_of_privilege, fun h => ?_⟩
  simp [Issue.illegal, hs, hf, ho, hl, hr, h]
end Illegal

/-- Settles O41: PRIVILEGE comes of the mode test alone, which HANDLER mode passes. -/
theorem privilegeGuardsTheHandler : Obligations.PrivilegeGuardsTheHandler := by
  refine ⟨fun x i hh h => ?_, fun x i hu hs hf ho hl hr => ?_, fun s x i c hw h hc => exec_of_illegal hw h hc⟩
  · have hm := Issue.modeOk_of_privilege h
    simp [Instr.modeOk, hh] at hm
  · exact ((Issue.privilege_iff hs hf ho hl hr).trans (modeOk_user_iff hu i)).symm

end Sys2Proof.Machine
end

section
/-! PROOFS. Table walks, which cache translations and send packets (R273, R294), and one step of the machine: the agenda's first turn (O1). -/
namespace Sys2Proof.Machine

-- What a walk leaves

theorem State.core_modCore_ne (s : State) {n m : Nat} (f : Core → Core) (h : m ≠ n) : (s.modCore n f).core m = s.core m := tgetD_tset_ne s.cores _ _ h

/-- t is s with translations cached in the cores and packets sent to other packages, and nothing else. -/
structure State.Caches (s t : State) : Prop where
  rest : { t with cores := s.cores, pkg := s.pkg } = s
  pkg : { t.pkg with out := s.pkg.out } = s.pkg
  core : ∀ c, { t.core c with tlb := (s.core c).tlb } = s.core c

section Caches
variable {s t u : State}
theorem State.Caches.refl (s : State) : s.Caches s := ⟨rfl, rfl, fun _ => rfl⟩
theorem State.Caches.trans (h : s.Caches t) (h' : t.Caches u) : s.Caches u where
  rest := (congrArg (fun v : State => { v with cores := s.cores, pkg := s.pkg }) h'.rest).trans h.rest
  pkg := (congrArg (fun p : Package => { p with out := s.pkg.out }) h'.pkg).trans h.pkg
  core c := (congrArg (fun x : Core => { x with tlb := (s.core c).tlb }) (h'.core c)).trans (h.core c)
theorem State.Caches.foldl {α : Type} {f : State → α → State} (h : ∀ (s : State) (a : α), s.Caches (f s a)) (xs : List α) (s : State) : s.Caches (xs.foldl f s) := by
  induction xs generalizing s with
  | nil => exact .refl s
  | cons a xs ih => exact (h s a).trans (ih _)
theorem State.Caches.gang (h : s.Caches t) (k : GangKey) : t.gang k = s.gang k := (congrArg (State.gang · k) h.rest :)
theorem State.Caches.scratch (h : s.Caches t) (c : Nat) : (t.core c).scratch = (s.core c).scratch := (congrArg Core.scratch (h.core c) :)

variable (s)
theorem State.caches_sendRemote (pa : Nat) (p : RemotePacket) : s.Caches (s.sendRemote pa p) := by
  unfold State.sendRemote
  split
  · exact .refl s
  · exact ⟨rfl, rfl, fun _ => rfl⟩
theorem State.caches_askRemote (ls : List Loc) : s.Caches (s.askRemote ls) := by
  refine .foldl (fun s l => ?_) ls s
  cases l with
  | mem pa kd coh ra => exact s.caches_sendRemote pa _
  | scratch c off => exact .refl s
theorem State.caches_modTlb (n : Nat) (f : Core → Tbl Nat (List Leaf)) : s.Caches (s.modCore n fun k => { k with tlb := f k }) where
  rest := rfl
  pkg := rfl
  core c := by
    rcases eq_or_ne c n with rfl | h
    · rw [State.core_modCore]
    · rw [State.core_modCore_ne s _ h]
theorem State.caches_fillTlb (n : Nat) (c : CtxKey) (va : Nat) : s.Caches (s.fillTlb n c va) := by
  unfold State.fillTlb
  split
  · exact .refl s
  · simp only
    split
    · exact .refl s
    · exact (State.Caches.foldl (fun s a => s.caches_sendRemote a _) _ s).trans (State.caches_modTlb _ n _)
theorem State.caches_fillTlbs (k : GangKey) (vas : List Nat) : s.Caches (s.fillTlbs k vas) := .foldl (fun s va => s.caches_fillTlb _ _ va) vas s
theorem State.caches_useCode (k : GangKey) (off : Nat) : s.Caches (s.useCode k off) := by
  simp only [State.useCode]
  split
  · exact (s.caches_fillTlb ..).trans (State.caches_askRemote ..)
  · exact s.caches_fillTlb ..
theorem State.caches_fetched (k : GangKey) : s.Caches (s.fetched k) := by
  unfold State.fetched
  split
  · exact s.caches_useCode k _
  · exact .refl s
end Caches

-- One step (log 1)

section Step
variable {s : State} (hp : s.pkg.powered = true)
include hp
theorem step_turn (t : Turn) : step { s with agenda := t :: s.agenda } = s.runTurn t := by
  simp only [step, hp, Bool.not_true, Bool.false_eq_true, if_false]
theorem step_empty (ha : s.agenda = []) : step s = .next { s with agenda := s.round } := by
  simp only [step, hp, ha, Bool.not_true, Bool.false_eq_true, if_false]
end Step

/-- The next word of a gang in a clause slot, when it can be fetched and parsed. -/
theorem State.nextWord_eq {s : State} {core bench n : Nat} {k : GangKey} {p : Path} {w : Nat} {i : Instr} (hs : (s.bench core bench).slot[n]? = some k)
    (hr : s.running k = some p) (h0 : p.pos ≠ 0) (hl : s.watchLets k (s.gang k) = true) (hb : p.badTarget? = none)
    (hf : s.fetchWord k ((s.launchOf k).va p.pc) = .ok w) (hi : parse (BitVec.ofNat 64 w) = .ok i) :
    s.nextWord core bench n = .word k (BitVec.ofNat 64 w) i := by
  simp [State.nextWord, hs, hr, h0, hl, hb, hf, hi]

/-- Settles O1: a step is the agenda's first turn; an issue turn runs the next word, its fetch a walk. -/
theorem stepRunsTheDecodedWord : Obligations.StepRunsTheDecodedWord := by
  refine ⟨fun s core bench n k p w i hp hs hr h0 hl hb hf hi => ?issue, fun s k => ⟨(s.caches_fetched k).rest, (s.caches_fetched k).pkg, (s.caches_fetched k).core⟩,
    fun s e hp he => ?event, fun s hp ha => step_empty hp ha⟩
  case issue => simp only [step_turn hp, State.runTurn, State.nextWord_eq hs hr h0 hl hb hf hi]
  case event => simp only [step_turn hp, State.runTurn, he, Bool.false_eq_true, if_false]

end Sys2Proof.Machine
end

section
/-! PROOFS. RESULT_WRITEBACK (R118, R121, R142, R343): the oldest known result is written once, in every lane at once (O21). -/
namespace Sys2Proof.Machine

-- The list of instructions in flight (R121)

theorem mem_of_mem_popReturned {e : Flight} {fs : List Flight} {held : List Counter} (h : e ∈ popReturned fs held) : e ∈ fs := by
  induction fs generalizing held with
  | nil => exact absurd h (List.not_mem_nil)
  | cons f fs ih =>
    simp only [popReturned] at h
    repeat' split at h
    all_goals grind
/-- An instruction that has not returned stays in the list. -/
theorem mem_popReturned {e : Flight} {fs : List Flight} (h : e ∈ fs) (hr : e.returned = false) (held : List Counter) : e ∈ popReturned fs held := by
  induction fs generalizing held with
  | nil => exact absurd h (List.not_mem_nil)
  | cons f fs ih =>
    simp only [popReturned]
    repeat' split
    all_goals grind

-- The write-back of one result

/-- The flight under a number has returned. -/
def Flight.markReturned (id : Nat) (e : Flight) : Flight := if e.id = id then { e with returned := true } else e
theorem Flight.markReturned_ne {id : Nat} {e : Flight} (h : e.id ≠ id) : e.markReturned id = e := if_neg h
theorem Flight.returned_markReturned {id : Nat} {e : Flight} (h : (e.markReturned id).id = id) : (e.markReturned id).returned = true := by
  unfold Flight.markReturned at h ⊢
  split
  · rfl
  · rename_i hne
    exact absurd (by rwa [if_neg hne] at h) hne

section Writeback
variable {g : Gang} {f : Flight} (h : g.flights.find? (fun e => e.id = f.id) = some f)
include h
theorem Gang.writeback_eq : g.writeback f.id =
    { (g.writeRegs (f.results.filter g.wanted)).saturate f.sat with flights := popReturned (g.flights.map (Flight.markReturned f.id)) [] } := by
  simp only [Gang.writeback, h]
  rfl
theorem Gang.nstat_writeback : (g.writeback f.id).nstat = (g.nstat || f.sat) := by
  rw [Gang.writeback_eq h]
  exact congrArg (· || f.sat) (congrArg Gang.nstat (g.writeRegs_withRegs (f.results.filter g.wanted)) :)
theorem Gang.returned_writeback : ∀ e ∈ (g.writeback f.id).flights, e.id = f.id → e.returned = true := by
  intro e he hid
  rw [Gang.writeback_eq h] at he
  obtain ⟨e', -, rfl⟩ := List.mem_map.1 (mem_of_mem_popReturned he)
  exact Flight.returned_markReturned hid
theorem Gang.mem_flights_writeback : ∀ e ∈ g.flights, e.returned = false → e.id ≠ f.id → e ∈ (g.writeback f.id).flights := by
  intro e he hr hid
  rw [Gang.writeback_eq h]
  exact mem_popReturned (List.mem_map.2 ⟨e, he, Flight.markReturned_ne hid⟩) hr []
end Writeback

/-- Where no node is done, nothing merges (R66). -/
theorem Gang.mergeAll_of_none_done {g : Gang} (h : ∀ n ∈ g.nodes, g.nodeDone n = false) (winMin fuel : Nat) : g.mergeAll winMin fuel = g := by
  cases fuel with
  | zero => rfl
  | succ n =>
    have hf : g.nodes.find? g.nodeDone = none := List.find?_eq_none.2 fun m hm => by simp [h m hm]
    simp only [Gang.mergeAll, hf]

/-- Settles O21: the step is the write-back of the oldest known result and the merges that are due. -/
theorem resultWritebackWritesOnce : Obligations.ResultWritebackWritesOnce := by
  refine ⟨fun s k h => ?none, fun s k f h hf => ?some, fun g l a n v b => ⟨rfl, rfl, rfl⟩⟩
  case none =>
    show execResultWriteback k s = .next s
    simp only [execResultWriteback, h]
  case some =>
    have hw := Gang.writeback_eq hf
    refine ⟨?exec, Gang.nstat_writeback hf, (congrArg Gang.vregs hw :), (congrArg Gang.sregs hw :), (congrArg Gang.preds hw :), Gang.returned_writeback hf, Gang.mem_flights_writeback hf,
      fun hn => ?merge, rfl, rfl, fun j hj => (State.gang_modGang_ne _ _ hj).trans (State.gang_modGang_ne _ _ hj)⟩
    case exec =>
      show execResultWriteback k s = _
      simp only [execResultWriteback, h]
    case merge =>
      rw [State.mergePaths, State.gang_modGang, State.gang_modGang]
      exact Gang.mergeAll_of_none_done hn _ _

end Sys2Proof.Machine
end

section
/-! PROOFS. The memory instructions: every lane checked, then the accesses in flight (R118, R120, R184, R308, R366, R401) (O22). -/
namespace Sys2Proof.Machine

-- The lanes of an instruction

theorem lanesOf_pairwise (m : Mask) (w : Nat) : (lanesOf m w).Pairwise (· < ·) := List.pairwise_lt_range.filter _

-- The checks of all lanes (R189)

/-- A fold that keeps one of its two arguments at each step ends at an element of its list, or where it began. -/
theorem foldl_picks {β : Type} {f : Option β → β → Option β} {l : List β} {b r : Option β} (h : l.foldl f b = r)
    (hf : ∀ b e, f b e = some e ∨ (b.isSome = true ∧ f b e = b)) : (∃ c ∈ l, r = some c) ∨ (r = b ∧ (l = [] ∨ b.isSome = true)) := by
  induction l generalizing b with
  | nil => exact .inr ⟨h.symm, .inl rfl⟩
  | cons e l ih =>
    rcases ih h with ⟨c, hc, hr⟩ | ⟨hr, -⟩
    · exact .inl ⟨c, List.mem_cons_of_mem e hc, hr⟩
    · rcases hf b e with he | ⟨hb, he⟩
      · exact .inl ⟨e, List.mem_cons_self, hr.trans he⟩
      · exact .inr ⟨hr.trans he, .inr hb⟩
/-- Lanes that met a cause give a fault. -/
theorem eq_nil_of_worstBad {bad : List Bad} (h : worstBad bad = none) : bad = [] := by
  unfold worstBad at h
  generalize hf : List.foldl _ none bad = r at h
  have hpick := foldl_picks hf (by
    rintro (_ | c) e
    · exact .inl rfl
    · exact (ite_eq_or_eq (e.rank < c.rank) (some e) (some c)).imp_right fun h => ⟨rfl, h⟩)
  rcases hpick with ⟨c, hc, rfl⟩ | ⟨-, hn⟩
  · have hmem : c ∈ bad.filter fun e => e.f.cause = c.f.cause := List.mem_filter.2 ⟨hc, decide_eq_true rfl⟩
    simp only at h
    split at h
    next hn => exact absurd (hn ▸ hmem) List.not_mem_nil
    next => cases h
  · exact hn.resolve_right Bool.false_ne_true

section Checks
variable {s : State} {k : GangKey} {m : MemOp} {addrs : Tbl Nat Nat} {ls : List (Nat × Nat × Loc)}
/-- Where no lane meets a cause, every lane has its place. -/
theorem State.checkLanes_addrs (h : s.checkLanes k m addrs = .ok ls) : ls.map (fun e => (e.1, e.2.1)) = addrs := by
  unfold State.checkLanes at h
  simp only at h
  split at h
  · cases h
  · rename_i hbad
    cases h
    have hnone := List.map_eq_nil_iff.1 (eq_nil_of_worstBad hbad)
    clear hbad
    induction addrs with
    | nil => rfl
    | cons e es ih =>
      rw [List.map_cons, List.filterMap_cons] at hnone
      cases hc : s.checkLane k m e.2 with
      | error f => simp [hc] at hnone
      | ok l =>
        simp only [hc] at hnone
        rw [List.map_cons, List.filterMap_cons]
        simp only [hc, List.map_cons, ih hnone]
end Checks

-- In flight (R118, R120)

section Flight
variable (s : State) (k : GangKey) (f : Flight)
theorem State.gang_addFlight : (s.addFlight k f).gang k = { s.gang k with flights := (s.gang k).flights ++ [f] } :=
  (s.gang_modGang k fun g => { g with flights := g.flights ++ [f] } :)
theorem State.gang_addFlight_ne {j : GangKey} (h : j ≠ k) : (s.addFlight k f).gang j = s.gang j :=
  (s.gang_modGang_ne (fun g => { g with flights := g.flights ++ [f] }) h :)
theorem State.addFlight_rest : { s.addFlight k f with gangs := s.gangs, seq := s.seq } = s := rfl
/-- One more instruction of its counter stands in flight. -/
theorem State.counter_addFlight (c : Counter) : ((s.addFlight k f).gang k).counter c = (s.gang k).counter c + if f.counter = some c then 1 else 0 := by
  rw [State.gang_addFlight]
  by_cases h : f.counter = some c <;> simp [Gang.counter, List.filter_append, h]
end Flight

-- The obligation

theorem exec_memOp {i : Instr} {m : MemOp} (h : i.memOp = some m) (s : State) : exec i s = s.issueWord i false (memEffect i m) := by
  have hm : s.memInstr i = s.issueWord i false (memEffect i m) := by rw [State.memInstr, h]
  rw [← hm]
  unfold Instr.memOp at h
  split at h <;> cases h <;> rfl
/-- LDC alone acts once for all its lanes (R366). -/
theorem Instr.memOp_once {i : Instr} {m : MemOp} (h : i.memOp = some m) : m.once = true ↔ ∃ g a, i = .ldc g a := by
  unfold Instr.memOp at h
  split at h <;> cases h
  case h_3 g a => exact ⟨fun _ => ⟨g, a, rfl⟩, fun _ => rfl⟩
  all_goals simp [LoadArgs.memOp, StoreArgs.memOp, AtomArgs.memOp, CasArgs.memOp, LineArgs.memOp]

/-- The address is the base plus the scaled offset, in the width of its space. -/
theorem Issue.address_eq (x : Issue) (s : State) (m : MemOp) (l : Nat) :
    (x.address s m l : Int) = if m.space = .local then ((x.read s m.ab 1 .int l : Int) + signedOf 11 m.off.toNat * m.w) % 2 ^ 32
      else ((x.read s m.ab 2 .int l : Int) + signedOf 11 m.off.toNat * m.w) % 2 ^ 64 := by
  unfold Issue.address bitsOf
  split
  · exact Int.toNat_of_nonneg (Int.emod_nonneg _ (by norm_num))
  · exact Int.toNat_of_nonneg (Int.emod_nonneg _ (by norm_num))

/-- Settles O22: the accesses of the checked lanes stand in flight in lane order, and an address is the base plus the scaled offset. -/
theorem memoryInstructionsStandInFlight : Obligations.MemoryInstructionsStandInFlight := by
  refine ⟨fun g l a o r c n i h => ?isMem, fun s s1 x i m ls hm h => ?inFlight⟩
  case isMem => rcases h with rfl | rfl | rfl | rfl | rfl | rfl | rfl | rfl | rfl | rfl | rfl | rfl | rfl | rfl | rfl | rfl <;> rfl
  case inFlight =>
    intro addrs data hls s2 s3
    have heff : memEffect i m x s1 = .done s3 := by
      simp only [addrs] at hls
      simp only [memEffect, hls]
      rfl
    have hgang : s2.gang x.key = s1.gang x.key := by
      show (if m.translated then s1.fillTlbs x.key (addrs.map Prod.snd) else s1).gang x.key = _
      split
      · exact (s1.caches_fillTlbs ..).gang _
      · rfl
    refine ⟨?_, fun c => ?_, x.address_eq s1 m, ⟨State.checkLanes_addrs hls, ?_⟩, Instr.memOp_once hm⟩
    · rw [exec_memOp hm]
      exact issueWord_done h heff
    · exact (s2.counter_addFlight x.key _ c).trans (by rw [hgang]; rfl)
    · have hlanes : ((if m.once then x.lanes.take 1 else x.lanes)).Pairwise (· < ·) := by
        split
        · exact (lanesOf_pairwise ..).sublist (List.take_sublist ..)
        · exact lanesOf_pairwise ..
      rwa [List.map_map, show Prod.fst ∘ (fun l => (l, x.address s1 m l)) = id from rfl, List.map_id]

end Sys2Proof.Machine
end

section
/-! PROOFS. The frames of the words that write registers at once and of those that put one result in flight (R115, R118, R120, R273) (O19). -/
namespace Sys2Proof.Machine

-- The destinations of a word

theorem Issue.dest_mem (x : Issue) {i : Instr} {o : Operand} {n : Nat} {k : OpKind} (h : dUse o n k ∈ i.usesAt x.gang.width) : x.gang.dest o n ∈ x.dests i :=
  List.mem_map.2 ⟨dUse o n k, List.mem_filter.2 ⟨h, rfl⟩, rfl⟩

/-- A write into a register of a destination, in one of some lanes. -/
def Dest.spans (d : Dest) (lanes : List Nat) (w : RegWrite) : Prop :=
  match w with
  | .vec a l _ => ∃ p n, d = .vec p n ∧ l ∈ lanes ∧ p ≤ a ∧ a < p + n
  | .scal r _ => ∃ p n, d = .scal p n ∧ p ≤ r ∧ r < p + n
  | .pred p _ _ => d = .pred p

section Spans
variable {d : Dest} {lanes : List Nat} {w : RegWrite}
theorem Dest.spans_of_mem_laneWrites {f : Nat → Nat} (h : w ∈ d.laneWrites lanes f) : d.spans lanes w := by
  cases d with
  | vec p n =>
    obtain ⟨l, hl, i, hi, rfl⟩ := Dest.mem_laneWrites_vec.1 h
    exact ⟨p, n, rfl, hl, by omega, by omega⟩
  | scal r n =>
    obtain ⟨l, -, i, hi, rfl⟩ := Dest.mem_laneWrites_scal.1 h
    exact ⟨r, n, rfl, by omega, by omega⟩
  | pred p =>
    obtain ⟨l, -, rfl⟩ := Dest.mem_laneWrites_pred.1 h
    rfl
  | none => simp [Dest.laneWrites_none] at h
theorem Dest.spans_of_mem_writes {l v : Nat} (hd : ∀ p n, d ≠ .vec p n) (h : w ∈ d.writes l v) : d.spans lanes w := by
  cases d with
  | vec p n => exact absurd rfl (hd p n)
  | scal r n =>
    obtain ⟨i, hi, rfl⟩ := List.mem_map.1 h
    exact ⟨r, n, rfl, by omega, by simpa using hi⟩
  | pred p =>
    obtain rfl := List.mem_singleton.1 h
    rfl
  | none => exact absurd h List.not_mem_nil
end Spans

-- Words that write registers at once

/-- u is s with a list of register writes made in gang k, and nothing else. -/
structure State.Wrote (s : State) (k : GangKey) (ws : List RegWrite) (u : State) : Prop where
  gang : u.gang k = (s.gang k).writeRegs ws
  other : ∀ j, j ≠ k → u.gang j = s.gang j
  rest : { u with gangs := s.gangs } = s
theorem State.wrote_modGang (s : State) (k : GangKey) (ws : List RegWrite) : s.Wrote k ws (s.modGang k fun g => g.writeRegs ws) :=
  ⟨s.gang_modGang k _, fun _ hj => s.gang_modGang_ne _ hj, rfl⟩
theorem State.wrote_nil (s : State) (k : GangKey) : s.Wrote k [] s := ⟨rfl, fun _ _ => rfl, rfl⟩

/-- The word's effect is some register writes into its destinations. -/
def Issue.Writes (x : Issue) (s s1 : State) (i : Instr) : Prop :=
  ∃ ws u, (∀ w ∈ ws, ∃ d ∈ x.dests i, d.spans x.lanes w) ∧ s1.Wrote x.key ws u ∧ exec i s = .next (u.advance x.key x.path.id)

/-- A scalar operand is no vector register. -/
theorem Gang.dest_ne_vec_of_scal {o : Operand} (h : OpKind.accepts .scal o = true) (g : Gang) (n p m : Nat) : g.dest o n ≠ .vec p m := by
  cases o with
  | v r => exact absurd h Bool.false_ne_true
  | _ => simp [Gang.dest]

theorem Issue.operandsOk_of_legal {x : Issue} {i : Instr} (h : x.illegal i = none) : i.operandsOk = true := by
  unfold Issue.illegal at h
  repeat' split at h
  all_goals simp_all
theorem Instr.accepts_of_operandsOk {i : Instr} (h : i.operandsOk = true) {u : Use} (hu : u ∈ i.uses) : u.kind.accepts u.o = true := by
  have hall := List.all_eq_true.1 (Bool.and_eq_true_iff.1 h).1 u hu
  exact (Bool.and_eq_true_iff.1 hall).1

/-- A result for every active lane. -/
theorem Issue.writes_lanes {s s1 : State} {i : Instr} {x : Issue} {o : Operand} {n : Nat} {k : OpKind} {v : Nat → Nat} (hu : dUse o n k ∈ i.usesAt x.gang.width)
    (he : exec i s = .next ((s1.lanesSet x o n v).advance x.key x.path.id)) : x.Writes s s1 i :=
  ⟨_, _, fun _ hw => ⟨_, x.dest_mem hu, Dest.spans_of_mem_laneWrites hw⟩, s1.wrote_modGang x.key _, he⟩
section Ready
variable {s s1 : State} {i : Instr} {x : Issue} (h : s.ready i = some (x, s1))
include h
theorem illegal_of_ready (hc : i.isCollective = false) : x.illegal i = none := by
  obtain ⟨s0, -, h0, -⟩ := ready_issueOf h
  unfold State.issueOf at h0
  split at h0
  · cases h0
  · split at h0
    · cases h0
    · rename_i hn
      simp only [hc, Bool.not_false, if_true, Option.some.injEq, Prod.mk.injEq] at h0
      obtain ⟨rfl, -⟩ := h0
      exact (by simpa using hn : Issue.illegal _ i = none ∧ _).1
/-- A result for the gang, in a scalar. -/
theorem Issue.writes_once {o : Operand} {n v : Nat} (hu : dUse o n .scal ∈ i.uses) (hi : i.isCollective = false) (hv : i.usesAt x.gang.width = i.uses)
    (he : exec i s = .next ((s1.writeOnce x o n v).advance x.key x.path.id)) : x.Writes s s1 i := by
  have hok := Issue.operandsOk_of_legal (illegal_of_ready h hi)
  have hs := Instr.accepts_of_operandsOk hok hu
  exact ⟨_, _, fun _ hw => ⟨_, x.dest_mem (hv ▸ hu), Dest.spans_of_mem_writes (Gang.dest_ne_vec_of_scal hs _ _) hw⟩, s1.wrote_modGang x.key _, he⟩
end Ready

section Words
variable {s s1 : State} {x : Issue}
theorem vote_use (w : Nat) (g : Guard) (a : VoteArgs) :
    ∃ k, dUse a.d (if a.mode = .ballot ∧ w = 64 then 2 else 1) k ∈ (Instr.vote g a).usesAt w := by
  simp only [Instr.usesAt, Bool.and_eq_true, decide_eq_true_eq]
  split
  · exact ⟨_, List.mem_cons_self⟩
  · exact ⟨_, List.mem_cons_self⟩
theorem writes_of_mov {g : Guard} {a : MovArgs} (h : s.ready (.mov g a) = some (x, s1)) (hd : ∀ n, a.d ≠ .mo n) (hs : ∀ n, a.s1 ≠ .reg (.mi n)) :
    x.Writes s s1 (.mov g a) := by
  have heff : movEffect a x s1 = movTo a (fun l => x.readB s1 a.s1 a.ty l) none x s1 := by
    unfold movEffect
    split
    · rename_i n hn
      exact absurd hn (hs n)
    · rfl
  have hto (v : Nat → Nat) : movTo a v none x s1 = .done (s1.lanesSet x a.d a.ty.regs v) := by
    simp only [movTo]
    rfl
  exact Issue.writes_lanes List.mem_cons_self (issueWord_done h (heff.trans (hto _)))

/-- What class VEC's words do, MOV on message registers aside. -/
theorem writes_of_vec {i : Instr} (h : s.ready i = some (x, s1)) (hc : i.cls = 0)
    (hm : ∀ g a, i = .mov g a → (∀ n, a.d ≠ .mo n) ∧ ∀ n, a.s1 ≠ .reg (.mi n)) : x.Writes s s1 i := by
  cases i <;> simp [Instr.cls, Instr.opcode, opcClass] at hc
  case nop => exact ⟨[], s1, nofun, s1.wrote_nil x.key, issueWord_done h rfl⟩
  case mov g a => exact writes_of_mov h (hm g a rfl).1 (hm g a rfl).2
  case vote g a =>
    obtain ⟨k, hu⟩ := vote_use x.gang.width g a
    exact Issue.writes_lanes hu (exec_vote h)
  all_goals exact Issue.writes_lanes List.mem_cons_self (issueWord_lanes_set h)
theorem writes_of_elect {g : Guard} {d : Operand} {f : Bool} (h : s.ready (.elect g d f) = some (x, s1)) : x.Writes s s1 (.elect g d f) :=
  Issue.writes_lanes List.mem_cons_self (issueWord_lanes_set h)
theorem writes_of_wstat {g : Guard} {d : Operand} {w : WSel} (h : s.ready (.wstat g d w) = some (x, s1)) : x.Writes s s1 (.wstat g d w) :=
  Issue.writes_once h List.mem_cons_self rfl rfl (issueWord_done h rfl)
theorem writes_of_gsr {g : Guard} {d : Operand} {r : SysReg} (h : s.ready (.gsr g d r) = some (x, s1)) : x.Writes s s1 (.gsr g d r) := by
  cases r
  case tladdr => exact Issue.writes_lanes List.mem_cons_self (issueWord_done h rfl)
  all_goals exact Issue.writes_once h List.mem_cons_self rfl rfl (issueWord_done h rfl)
/-- A word that writes registers at once leaves all but its destinations, its path and its clause slot. -/
theorem Issue.Writes.frame {i : Instr} {t : State} (hw : x.Writes s s1 i) (he : exec i s = .next t) :
    (∀ a l, (∀ d ∈ x.dests i, ∀ p n, d = .vec p n → l ∉ x.lanes ∨ a < p ∨ p + n ≤ a) → tget (t.gang x.key).vregs (a, l) = tget (s1.gang x.key).vregs (a, l)) ∧
    (∀ m, (∀ d ∈ x.dests i, ∀ p n, d = .scal p n → m < p ∨ p + n ≤ m) → (t.gang x.key).readS m = (s1.gang x.key).readS m) ∧
    (∀ m, (∀ d ∈ x.dests i, d ≠ .pred m) → (t.gang x.key).readP m = (s1.gang x.key).readP m) ∧
    { t.gang x.key with
      vregs := (s1.gang x.key).vregs, sregs := (s1.gang x.key).sregs, preds := (s1.gang x.key).preds, paths := (s1.gang x.key).paths } = s1.gang x.key ∧
    (∀ k, k ≠ x.key → t.gang k = s1.gang k) ∧ { t with gangs := s1.gangs, benches := s1.benches } = s1 := by
  obtain ⟨ws, u, hspan, hwrote, hx⟩ := hw
  obtain rfl : u.advance x.key x.path.id = t := by simpa [hx] using he
  rw [State.gang_advance, hwrote.gang]
  refine ⟨fun a l hd => ?vec, fun m hd => ?scal, fun m hd => ?pred, ?gang, fun k hk => (State.gang_advance_ne _ _ _ hk).trans (hwrote.other k hk), ?rest⟩
  case vec =>
    refine Gang.writeRegs_keeps (fun e => tget e.vregs (a, l)) fun w hw e => ?_
    obtain ⟨d, hmem, hsp⟩ := hspan w hw
    cases w with
    | vec a' l' v =>
      obtain ⟨p, n, hp, hl, h1, h2⟩ := hsp
      rw [Gang.tget_vregs_writeReg, if_neg]
      intro hk
      obtain ⟨rfl, rfl⟩ := Prod.mk.inj hk
      exact (hd d hmem p n hp).elim (· hl) fun h => by omega
    | scal => rfl
    | pred n l' b => rw [Gang.vregs_writeReg_pred]
  case scal =>
    refine Gang.writeRegs_keeps (fun e => e.readS m) fun w hw e => ?_
    obtain ⟨d, hmem, hsp⟩ := hspan w hw
    cases w with
    | vec => rfl
    | scal r v =>
      obtain ⟨p, n, hp, h1, h2⟩ := hsp
      rw [Gang.readS_writeReg, if_neg]
      have := hd d hmem p n hp
      omega
    | pred n l' b => simp only [Gang.readS, Gang.sregs_writeReg_pred]
  case pred =>
    refine Gang.writeRegs_keeps (fun e => e.readP m) fun w hw e => ?_
    obtain ⟨d, hmem, hsp⟩ := hspan w hw
    cases w with
    | vec => rfl
    | scal => rfl
    | pred n l' b => exact e.readP_writeReg_ne (.inr (by rintro rfl; exact hd d hmem hsp)) l' b
  case gang => exact (congrArg (fun g : Gang => { g with paths := (s1.gang x.key).paths }) ((s1.gang x.key).writeRegs_withRegs ws) :)
  case rest =>
    exact (congrArg (fun v : State => { v with gangs := s1.gangs, benches := s1.benches }) (u.advance_rest x.key x.path.id)).trans
      (congrArg (fun v : State => { v with benches := s1.benches }) hwrote.rest)
end Words

-- Words that put one result in flight

/-- The word's effect is one instruction in flight for its destinations, and translations cached. -/
def Issue.Flies (x : Issue) (s s1 : State) (i : Instr) : Prop :=
  ∃ u f, s1.Caches u ∧ f.counter = i.counter ∧ f.dest = x.dests i ∧ exec i s = .next ((u.addFlight x.key f).advance x.key x.path.id)

section Flying
variable {s s1 : State} {x : Issue} {i : Instr} (h : s.ready i = some (x, s1))
include h
theorem Issue.flies_result {al : Bool} {eff : Issue → State → Act} {la : BitVec 4} {ds : List Dest} {ws : List RegWrite} {sat : Bool} (hd : ds = x.dests i)
    (he : exec i s = s.issueWord i al eff) (ha : eff x s1 = .done (s1.addResult x i.counter la ds ws sat)) : x.Flies s s1 i :=
  ⟨s1, _, .refl s1, rfl, hd, he.trans (issueWord_done h ha)⟩
theorem flies_of_sfu (hc : i.cls = 5) : x.Flies s s1 i := by
  cases i <;> simp [Instr.cls, Instr.opcode, opcClass] at hc
  case cvt g a =>
    refine Issue.flies_result h ?_ rfl rfl
    obtain ⟨la, d, s1, _ | _ | _⟩ := a <;> rfl
  all_goals exact Issue.flies_result h rfl rfl rfl
theorem flies_of_memOp {m : MemOp} {ls : List (Nat × Nat × Loc)} (hm : i.memOp = some m)
    (hc : s1.checkLanes x.key m ((if m.once then x.lanes.take 1 else x.lanes).map fun l => (l, x.address s1 m l)) = .ok ls) : x.Flies s s1 i := by
  refine ⟨_, _, ?_, ?_, ?_, (memoryInstructionsStandInFlight.2 s s1 x i m ls hm h hc).1⟩
  · split
    · exact s1.caches_fillTlbs ..
    · exact .refl s1
  · rfl
  · rfl
end Flying
theorem flies_of_trd {s s1 : State} {x : Issue} {g : Guard} {a : TileArgs} (h : s.ready (.trd g a) = some (x, s1)) : x.Flies s s1 (.trd g a) :=
  Issue.flies_result h rfl rfl rfl
theorem flies_of_tbqry {s s1 : State} {x : Issue} {g : Guard} {a : TbqryArgs} (h : s.ready (.tbqry g a) = some (x, s1))
    (hw : x.engineWait s1 (fun _ o => o.usesTable a.kt.toNat) = false) : x.Flies s s1 (.tbqry g a) :=
  Issue.flies_result h rfl rfl (by rw [tbqryEffect, hw]; rfl)

/-- A word that puts one result in flight leaves all else of its gang and of the machine, but for cached translations and the requests of their walks. -/
theorem Issue.Flies.frame {s s1 t : State} {x : Issue} {i : Instr} (hf : x.Flies s s1 i) (he : exec i s = .next t) :
    { t.gang x.key with flights := (s1.gang x.key).flights, paths := (s1.gang x.key).paths } = s1.gang x.key ∧
    (∃ f, (t.gang x.key).flights = (s1.gang x.key).flights ++ [f] ∧ f.counter = i.counter ∧ f.dest = x.dests i) ∧
    (∀ k, k ≠ x.key → t.gang k = s1.gang k) ∧ (∀ c, (t.core c).scratch = (s1.core c).scratch) ∧
    { t with gangs := s1.gangs, benches := s1.benches, cores := s1.cores, seq := s1.seq, pkg := s1.pkg } = s1 ∧ { t.pkg with out := s1.pkg.out } = s1.pkg := by
  obtain ⟨u, f, hu, hcnt, hdest, hx⟩ := hf
  obtain rfl : (u.addFlight x.key f).advance x.key x.path.id = t := by simpa [hx] using he
  have hrest := (u.addFlight x.key f).advance_rest x.key x.path.id
  have hgang := (State.gang_advance (u.addFlight x.key f) x.key x.path.id).trans (congrArg (Gang.modPath · x.path.id Path.next) (u.gang_addFlight x.key f))
  rw [hu.gang] at hgang
  refine ⟨?_, ⟨f, ?_, hcnt, hdest⟩, fun k hk => ?_, fun c => ?_, ?_, ?_⟩
  · rw [hgang]
    rfl
  · rw [hgang]
    rfl
  · rw [State.gang_advance_ne _ _ _ hk, State.gang_addFlight_ne _ _ _ hk, hu.gang]
  · exact (congrArg (fun v : State => (v.core c).scratch) hrest :).trans (hu.scratch c)
  · exact (congrArg (fun v : State => { v with gangs := s1.gangs, benches := s1.benches, cores := s1.cores, seq := s1.seq, pkg := s1.pkg }) hrest).trans
      (congrArg (fun v : State => { v with gangs := s1.gangs, benches := s1.benches, seq := s1.seq }) hu.rest)
  · exact (congrArg (fun v : State => { v.pkg with out := s1.pkg.out }) hrest :).trans hu.pkg

/-- Settles O19: the words of the first frame write registers alone, those of the second put one instruction in flight. -/
theorem registerAndFlightFrames : Obligations.RegisterAndFlightFrames := by
  refine ⟨fun s s1 t x i _ hi hm h he => ?writes, fun s s1 t x i h he hi => ?flies⟩
  case writes =>
    refine Issue.Writes.frame (i := i) ?_ he
    obtain hc | ⟨g, d, f, rfl⟩ | ⟨g, d, r, rfl⟩ | ⟨g, d, w, rfl⟩ := hi
    · exact writes_of_vec h hc hm
    · exact writes_of_elect h
    · exact writes_of_gsr h
    · exact writes_of_wstat h
  case flies =>
    refine Issue.Flies.frame ?_ he
    obtain ⟨-, hc⟩ | ⟨g, a, rfl⟩ | ⟨g, a, rfl, hw⟩ | ⟨m, ls, hm, hls⟩ := hi
    · exact flies_of_sfu h hc
    · exact flies_of_trd h
    · exact flies_of_tbqry h hw
    · exact flies_of_memOp h hm hls

end Sys2Proof.Machine
end
section
/-! PROOFS. Class SFU: the results in flight, the special values of its functions, and the conversions through a slot (R118, R120, R328, R334, R336, R346, R353, R390) (O20). -/

-- Special values (R328, R346, R353, R390)
namespace Sys2Proof

/-- The result of a special function on a pattern whose value is NaN, or negative where the function has none. -/
theorem SfuFn.bits_nan (fn : SfuFn) {f : FloatFmt} {n : Nat} (h : (f.decode n).isNaN = true) : f.rne (fn.apply (f.decode n)) = f.nan := by
  cases hd : f.decode n with
  | nan => cases fn <;> rfl
  | _ => simp [hd, Exact.isNaN] at h
theorem SfuFn.bits_negative {f : FloatFmt} {n : Nat} (hz : (f.decode n).isZero = false) (hn : (f.decode n).negative = true)
    {fn : SfuFn} (hf : fn = .rsq ∨ fn = .sqrt ∨ fn = .log2) : f.rne (fn.apply (f.decode n)) = f.nan := by
  cases hd : f.decode n with
  | nan => simp [hd, Exact.negative] at hn
  | inf s =>
    obtain rfl : s = true := by simpa [hd, Exact.negative] using hn
    rcases hf with rfl | rfl | rfl <;> rfl
  | fin s m d e =>
    obtain rfl : s = true := by simpa [hd, Exact.negative] using hn
    have hm : m ≠ 0 := by simpa [hd, Exact.isZero] using hz
    rcases hf with rfl | rfl | rfl <;> simp [SfuFn.apply, hm, FloatFmt.rne, FloatFmt.round]
theorem FloatFmt.integral_nan {f : FloatFmt} {n : Nat} (rnd : Rnd) (h : (f.decode n).isNaN = true) : f.integral rnd n = f.nan := by
  cases hd : f.decode n with
  | nan => simp [FloatFmt.integral, hd]
  | _ => simp [hd, Exact.isNaN] at h

theorem scaleFrac_zero (d : Nat) (k : Int) : (scaleFrac 0 d k).1 = 0 := by
  cases k with
  | ofNat n => exact Nat.zero_shiftLeft n
  | negSucc n => rfl
theorem roundFrac_zero (rnd : Rnd) (neg : Bool) (d : Nat) : roundFrac rnd neg 0 d = 0 := by cases rnd <;> simp [roundFrac]

section Values
variable (t : F3)
/-- The zeros, the infinities and 1 of a format. -/
theorem F3.decode_zero : t.fmt.decode 0 = .fin false 0 1 t.fmt.minExp := by cases t <;> decide
theorem F3.decode_negZero : t.fmt.decode t.fmt.signBit = .fin true 0 1 t.fmt.minExp := by cases t <;> decide
theorem F3.decode_infinity : t.fmt.decode t.fmt.infinity = .inf false := by cases t <;> decide
theorem F3.decode_negInfinity : t.fmt.decode (t.fmt.signBit + t.fmt.infinity) = .inf true := by cases t <;> decide
theorem F3.decode_one : t.fmt.decode (t.fmt.bias * 2 ^ t.fmt.fbits) = .fin false (2 ^ t.fmt.fbits) 1 (-t.fmt.fbits) := by cases t <;> decide

theorem F3.rne_zero (neg : Bool) (d : Nat) (e : Int) : t.fmt.rne (.fin neg 0 d e) = t.fmt.withSign neg 0 := rfl
theorem F3.rne_inf (neg : Bool) : t.fmt.rne (.inf neg) = t.fmt.withSign neg t.fmt.infinity := by cases t <;> rfl
theorem F3.rne_nan : t.fmt.rne .nan = t.fmt.nan := rfl
theorem F3.rne_one (neg : Bool) : t.fmt.rne (.fin neg 1 1 0) = t.fmt.withSign neg (t.fmt.bias * 2 ^ t.fmt.fbits) := by cases t <;> cases neg <;> decide
theorem F3.log2_one : log2Exact (2 ^ t.fmt.fbits) 1 (-t.fmt.fbits) = .fin false 0 1 0 := by cases t <;> decide
end Values

end Sys2Proof

namespace Sys2Proof.Machine

-- Results in flight (R118, R120)

section Effect
variable {s s1 : State} {x : Issue} {i : Instr} {d : Operand} {n : Nat} {la : BitVec 4} {f : Issue → State → Nat → Rounded} {eff : Issue → State → Act}
  (h : s.ready i = some (x, s1)) (he : exec i s = s.issueWord i false eff)
include h he
theorem exec_sfuEffect {b : Bool} (ha : eff x s1 = sfuEffect d n la b f x s1) :
    exec i s = .next ((s1.inFlight x none la d n (fun l => (f x s1 l).bits)
      ((if b then (List.range (x.gang.width / 32)).map fun h => 32 * h else x.lanes).any fun l => (f x s1 l).sat)).advance x.key x.path.id) :=
  he.trans (issueWord_done h ha)
/-- A function that saturates in no lane. -/
theorem exec_sfu_exact {v : Nat → Nat} (ha : eff x s1 = sfuEffect d n la false f x s1) (hv : ∀ l, f x s1 l = ⟨v l, false⟩) :
    exec i s = .next ((s1.inFlight x none la d n v false).advance x.key x.path.id) := by
  have hsat : (x.lanes.any fun l => (f x s1 l).sat) = false := List.any_eq_false.2 fun l _ => by simp [hv]
  simp only [exec_sfuEffect h he ha, Bool.false_eq_true, if_false, hsat]
  simp only [hv]
end Effect

/-- Settles O20: an SFU word's results stand in flight, each lane's the value of its entry; the special values are those of the zeros, the infinities, 1 and NaN. -/
theorem sfuResultsStandInFlight : Obligations.SfuResultsStandInFlight := by
  refine ⟨fun s s1 x g => ⟨fun c fn a hc h => ?fn, fun a h => ?frnd, fun a h => ?cvt, fun a h => ?dbfpk, fun a h => ?dbfunpk⟩, fun t => ?special,
    fun a x s l => ⟨fun ty fs hf hb => ?toSlot, fun rnd ty fs hf => ?fromSlot⟩⟩
  case fn => rcases hc with ⟨rfl, rfl⟩ | ⟨rfl, rfl⟩ | ⟨rfl, rfl⟩ | ⟨rfl, rfl⟩ | ⟨rfl, rfl⟩ | ⟨rfl, rfl⟩ | ⟨rfl, rfl⟩ | ⟨rfl, rfl⟩ <;> exact exec_sfu_exact h rfl rfl fun _ => rfl
  case frnd => exact exec_sfu_exact h rfl rfl fun _ => rfl
  case cvt => exact exec_sfuEffect h rfl rfl
  case dbfpk =>
    refine (exec_sfuEffect h rfl rfl).trans ?_
    have hdiv (h : Nat) : 32 * h / 32 = h := Nat.mul_div_cancel_left h (by decide)
    simp only [if_true, Issue.halfValues, List.any_map, Function.comp_def, hdiv, Nat.mul_comm _ 32]
  case dbfunpk =>
    refine (exec_sfuEffect h rfl rfl).trans ?_
    rfl
  case special =>
    refine ⟨fun fn n h => fn.bits_nan h, ?rcp, ?rsq, ?sqrt, ?exp2, ?log2, ?sin, ?cos, ?tanh,
      fun n _ hz hn => ⟨SfuFn.bits_negative hz hn (by simp), SfuFn.bits_negative hz hn (by simp), SfuFn.bits_negative hz hn (by simp)⟩, fun rnd n h => FloatFmt.integral_nan rnd h, ?integral⟩
    case integral =>
      simp [FloatFmt.integral, t.decode_zero, t.decode_negZero, t.decode_infinity, t.decode_negInfinity, scaleFrac_zero, roundFrac_zero, t.rne_zero, FloatFmt.withSign]
    all_goals simp [t.decode_zero, t.decode_negZero, t.decode_infinity, t.decode_negInfinity, t.decode_one, SfuFn.apply, Exact.zero, Exact.one,
      t.rne_zero, t.rne_inf, t.rne_nan, t.rne_one, t.log2_one, FloatFmt.withSign]
  case toSlot => simp only [cvtLane, hf, hb, Bool.false_eq_true, if_false]
  case fromSlot => simp only [cvtLane, hf, Slot.real]

end Sys2Proof.Machine
end

section
/-! PROOFS. Trap entry, the watchdog and the replies of the fault queue (R119, R265, R269, R274 to R276, R295) (O52). -/
namespace Sys2Proof.Machine

-- TRAP_ENTRY (R269)

section TrapEntry
variable {s : State} {k : GangKey}
theorem exec_trapEntry_waiting {i : TrapInfo} (h : (s.gang k).pendingTrap = some i) :
    exec (.trapEntry k) s = if (s.gang k).trapReady then .next (s.enterTrap k i) else .next s := by
  show execTrapEntry k s = _
  rw [execTrapEntry, h]
theorem exec_trapEntry_none (h : (s.gang k).pendingTrap = none) : exec (.trapEntry k) s = .next s := by
  show execTrapEntry k s = _
  rw [execTrapEntry, h]
end TrapEntry

-- The watchdog (R275, R276)

theorem Gang.path_id (g : Gang) (n : Nat) : (g.path n).id = n := by
  unfold Gang.path
  cases h : g.paths.find? fun p => p.id = n with
  | none => rfl
  | some p => simpa using List.find?_some h

section Watchdog
variable {s : State} {k : GangKey} {g : Gang}
/-- The watchdog of a placed home gang that counts. -/
theorem exec_watchdogExpiry (hg : tget s.gangs k = some g) (hk : k.idx < 32) (hp : (s.team k.team).res = .placed) (hw : g.watch = .counting) :
    exec (.watchdogExpiry k) s = if g.wdCycles < watchLimit (s.ctx (s.team k.team).ctx).wdlimit then .next s
      else .next (if g.pendingTrap.isSome then s.modGang k fun x => { x with watch := .expired } else (s.modGang k fun x => { x with watch := .expired }).deliverWatch k) := by
  show execWatchdogExpiry k s = _
  by_cases hc : g.wdCycles < watchLimit (s.ctx (s.team k.team).ctx).wdlimit
  · simp [execWatchdogExpiry, hg, hw, hp, hc]
  · cases ht : g.pendingTrap.isSome <;> simp [execWatchdogExpiry, hg, hw, hp, hc, Nat.not_le.2 hk, Nat.not_lt.1 hc, ht]
theorem exec_watchdogGraceExpiry (hg : tget s.gangs k = some g) {n : Nat} (hw : g.watch = .grace n) :
    exec (.watchdogGraceExpiry k) s = .next (if n = 0 then s.teardown (s.team k.team).ctx else s) := by
  show execWatchdogGraceExpiry k s = _
  simp only [execWatchdogGraceExpiry, hg, hw]
  cases n <;> rfl
theorem State.deliverWatch_none (h : s.watchPath k = none) : s.deliverWatch k = s := by rw [State.deliverWatch, h]
/-- A gang that no page fault holds takes WATCHDOG where its path stands, unparked. -/
theorem State.deliverWatch_some {p : Path} (h : s.watchPath k = some p) (hf : (s.gang k).faultWait = none) :
    s.deliverWatch k = (s.modPath k p.id fun q => if q.isParked then { q with st := .ready, resumed := true } else q).takeTrap k
      ⟨0x48, 0, false, ((s.gang k).path p.id).pc, ((s.gang k).path p.id).pc, ((s.gang k).path p.id).mask &&& ~~~(s.gang k).exited, 0, [], none, p.id⟩ := by
  have hu : s.unparkFault k = s := by rw [State.unparkFault, hf]
  simp only [State.deliverWatch, h, hu, State.modPath, State.gang_modGang, Gang.path_id]
  rfl
end Watchdog

-- FQREPLY (R274, R295)

theorem State.part_modPart_ne (s : State) {n m : Nat} (f : Part → Part) (h : m ≠ n) : (s.modPart n f).part m = s.part m := tgetD_tset_ne s.parts _ _ h

section Reply
variable {s : State} {p n : Nat} {ok : Bool}
theorem exec_fqreply {i : Instr} (h : (i = .fqreplyServiced p n ∧ ok = true) ∨ (i = .fqreplyRefused p n ∧ ok = false)) : exec i s = .next (s.reply p n ok) := by
  obtain ⟨rfl, rfl⟩ | ⟨rfl, rfl⟩ := h <;> rfl
theorem State.reply_unknown (h : ∀ e ∈ (s.part p).fq, e.seq ≠ n) : s.reply p n ok = s.reject p := by
  have hf : (s.part p).fq.find? (fun e => e.seq = n) = none := List.find?_eq_none.2 fun e he => by simp [h e he]
  rw [State.reply, hf]
theorem State.reply_known {e : FaultEntry} (h : (s.part p).fq.find? (fun e => e.seq = n) = some e) :
    s.reply p n ok = (e.agents.foldl (fun t a => t.answerAgent p ok a) (s.modPart p fun x => { x with fq := x.fq.filter fun y => y.seq ≠ n })).requeue p := by
  rw [State.reply, h]

/-- The gang's paths that its page fault parked are free again. -/
theorem State.answerAgent_gang {k : GangKey} {g : Gang} {w : PageWait} (hg : tget s.gangs k = some g) (hw : g.faultWait = some w) :
    s.answerAgent p ok (.gang k) =
      (let u := s.modGang k fun g => { g.modPath w.info.path (fun q => if q.st = .parked .service then { q with st := .ready, resumed := false } else q) with faultWait := none }
      if ok then match w.info.replay with | some r => u.replaySlot k r ⟨w.info.tpc, w.info.tnext, w.info.path⟩ | none => u else u.takeTrap k w.info) := by
  have hk : (s.gang k).faultWait = some w := by rw [State.gang_of_tget hg, hw]
  simp only [State.answerAgent, hg, Option.isSome_some, if_true, State.answerGang, hk]
  cases ok <;> rfl
end Reply

/-- Settles O52: each turn is its function's answer at the state it meets; a reply goes to the agents of its entry. -/
theorem trapWatchdogAndReplySteps : Obligations.TrapWatchdogAndReplySteps := by
  refine ⟨fun s k => ⟨?enter, ?waits, exec_trapEntry_none, fun g hg hk hp hw => ?expiry, State.deliverWatch_none, fun p => State.deliverWatch_some, ?grace, ?counting⟩,
    fun s p n i ok hi => ⟨fun hn => ?unknown, fun e he => ?known, ?agent⟩⟩
  case enter => exact fun i hi hr => (exec_trapEntry_waiting hi).trans (if_pos hr)
  case waits => exact fun i hi hr => (exec_trapEntry_waiting hi).trans (if_neg (by simp [hr]))
  case expiry =>
    have hx := exec_watchdogExpiry hg hk hp hw
    refine ⟨fun hc => hx.trans (if_pos hc), fun hc ht => (hx.trans (if_neg (Nat.not_lt.2 hc))).trans ?_, fun hc ht => (hx.trans (if_neg (Nat.not_lt.2 hc))).trans ?_⟩
    · rw [ht]
      rfl
    · rw [ht]
      rfl
  case grace => exact fun g hg hw => exec_watchdogGraceExpiry hg hw
  case counting => exact fun g n hg hw => exec_watchdogGraceExpiry hg hw
  case unknown =>
    refine ⟨s.reject p, (exec_fqreply hi).trans (by rw [State.reply_unknown hn]), s.part_modPart p _, fun q hq => s.part_modPart_ne _ hq, rfl⟩
  case known => rw [exec_fqreply hi, State.reply_known he]
  case agent =>
    intro k g w hg hw
    refine ⟨?_, fun r => ?_, ?_⟩
    · rintro rfl
      exact State.answerAgent_gang hg hw
    · rintro rfl hr
      rw [State.answerAgent_gang hg hw, hr]
      rfl
    · rintro rfl hr
      rw [State.answerAgent_gang hg hw, hr]
      rfl

end Sys2Proof.Machine
end

section
/-! PROOFS. A job's bytes at their places (R219, R220): a state that the statement admits, in which a store to a scratchpad changes what a key domain reads elsewhere (O32). -/
namespace Sys2Proof.Machine

/-- A core whose L1 holds the first sector of memory dirty under key domain 0, b in every byte. -/
def Core.dirtyFirst (b : Byte) : Core := { Core.initial with l1 := [(0, ⟨List.replicate 256 b, 0, 0, 0, 0, false⟩)], dirty := [0] }
/-- Cores 0 and 1 hold the sector dirty, with different bytes. -/
def State.twoDirty : State := { State.reset with cores := [(0, .dirtyFirst 1), (1, .dirtyFirst 2)] }

/-- The two copies stand as the statement asks of dirty ones: without leases, 256 bytes long. -/
theorem State.twoDirty_copies : ∀ e ∈ State.twoDirty.cores, ∀ n ∈ e.2.dirty, ∀ c, tget e.2.l1 n = some c → c.leased = false ∧ c.bytes.length = 256 := by
  have hcopy (b : Byte) : ∀ n ∈ (Core.dirtyFirst b).dirty, ∀ c, tget (Core.dirtyFirst b).l1 n = some c → c.leased = false ∧ c.bytes.length = 256 := by
    intro n hn c hc
    obtain rfl := List.mem_singleton.1 hn
    obtain rfl := Option.some.inj hc
    exact ⟨rfl, List.length_replicate⟩
  intro e he
  obtain rfl | he := List.mem_cons.1 he
  · exact hcopy 1
  · obtain rfl := List.mem_singleton.1 he
    exact hcopy 2
/-- The first core's copy is read; a store to core 1's scratchpad puts that core first in the table. -/
theorem State.twoDirty_keyRead : State.twoDirty.keyRead 0 0 = 1 := by decide
theorem State.twoDirty_setPlaces_keyRead : (State.twoDirty.setPlaces 0 [.loc (.scratch 1 0)] [0]).keyRead 0 0 = 2 := by decide

/-- Refutes O32, at its clause that a byte of memory which no place names is read as before: the statement admits a state in which two L1s hold one sector dirty with different bytes, where
State.keyRead takes the first core of the table that holds one; the byte stored to core 1's scratchpad moves that core to the table's head, and key domain 0 reads 2 at address 0, not 1. The
machine reaches no such state, as a dirty sector stands in one L1 alone (State.copiesAgree); the premise does not say so. -/
theorem not_jobsStandAndMove : ¬ Obligations.JobsStandAndMove := by
  rintro ⟨-, -, -, hplaces, -⟩
  obtain ⟨-, -, hmem, -⟩ := hplaces State.twoDirty 0 [.loc (.scratch 1 0)] [0] 0 0 false (List.nodup_singleton _) rfl (by simp) State.twoDirty_copies
  have hread := hmem 0 (by simp)
  rw [if_neg (by decide), State.twoDirty_keyRead, State.twoDirty_setPlaces_keyRead] at hread
  exact absurd hread (by decide)

end Sys2Proof.Machine
end

section
/-! PROOFS. What an engine operation leaves in its benches (R150, R162, R165 to R170, R175, R310, R374, R402, R405): an accumulator's 1,024 elements, a table's 32 KiB, and the values of an
element and an entry (O30). -/
namespace Sys2Proof.Machine

-- Little-endian words in memory (R4)

theorem bytesOfNat_length (n x : Nat) : (bytesOfNat n x).length = n := by simp [bytesOfNat]
theorem bytesOfNat_succ (n x : Nat) : bytesOfNat (n + 1) x = BitVec.ofNat 8 x :: bytesOfNat n (x >>> 8) := by
  simp only [bytesOfNat, List.range_succ_eq_map, List.map_cons, List.map_map, Nat.mul_zero, Nat.shiftRight_zero, ← Nat.shiftRight_add]
  congr 2
  funext k
  simp only [Function.comp_apply]
  rw [Nat.add_comm 8, Nat.mul_succ]
/-- The bytes of a value read back as the value, modulo their width. -/
theorem natOfBytes_bytesOfNat (n x : Nat) : natOfBytes (bytesOfNat n x) = x % 256 ^ n := by
  induction n generalizing x with
  | zero => simp [bytesOfNat, natOfBytes, Nat.mod_one]
  | succ n ih =>
    rw [bytesOfNat_succ, natOfBytes, ih, BitVec.toNat_ofNat, Nat.shiftRight_eq_div_pow, Nat.pow_succ' (n := n), Nat.mod_mul]

theorem Memory.writeBytes_append (m : Memory) (a : Nat) (bs cs : List Byte) : m.writeBytes a (bs ++ cs) = (m.writeBytes a bs).writeBytes (a + bs.length) cs := by
  induction bs generalizing m a with
  | nil => rfl
  | cons b bs ih => rw [List.cons_append, Memory.writeBytes, ih, Memory.writeBytes, List.length_cons, Nat.add_assoc, Nat.add_comm 1]
theorem Memory.readN_congr {m m' : Memory} {a n : Nat} (h : ∀ c, a ≤ c → c < a + n → m.read c = m'.read c) : m.readN a n = m'.readN a n := by
  refine congrArg natOfBytes (List.map_congr_left fun i hi => h _ (Nat.le_add_right ..) ?_)
  exact Nat.add_lt_add_left (List.mem_range.1 hi) a
theorem Memory.readN_writeN (m : Memory) (a n x : Nat) : (m.writeN a n x).readN a n = x % 256 ^ n := by
  have h := m.readBytes_writeBytes a (bytesOfNat n x)
  rw [bytesOfNat_length] at h
  exact (congrArg natOfBytes h).trans (natOfBytes_bytesOfNat n x)

/-- 4-byte words one after another. -/
def wordBytes (ws : List Nat) : List Byte := ws.flatMap (bytesOfNat 4)
theorem wordBytes_append (ws vs : List Nat) : wordBytes (ws ++ vs) = wordBytes ws ++ wordBytes vs := List.flatMap_append
theorem wordBytes_length (ws : List Nat) : (wordBytes ws).length = 4 * ws.length := by
  simp [wordBytes, List.length_flatMap, bytesOfNat_length, Nat.mul_comm]
theorem Memory.writeBytes_wordBytes_cons (m : Memory) (a w : Nat) (ws : List Nat) :
    m.writeBytes a (wordBytes (w :: ws)) = (m.writeN a 4 w).writeBytes (a + 4) (wordBytes ws) := m.writeBytes_append a (bytesOfNat 4 w) (wordBytes ws)
/-- Words written one after another are each found at their place. -/
theorem Memory.readN_writeBytes_wordBytes {m : Memory} {a i w : Nat} {ws : List Nat} (h : ws[i]? = some w) :
    (m.writeBytes a (wordBytes ws)).readN (a + 4 * i) 4 = w % 2 ^ 32 := by
  induction ws generalizing m a i with
  | nil => cases h
  | cons v ws ih =>
    rw [Memory.writeBytes_wordBytes_cons]
    cases i with
    | zero =>
      obtain rfl : v = w := Option.some.inj h
      refine (Memory.readN_congr fun c _ hc => ?_).trans (m.readN_writeN a 4 v)
      exact (Memory.read_writeBytes ..).trans (if_neg (by omega))
    | succ i =>
      rw [show a + 4 * (i + 1) = a + 4 + 4 * i by omega]
      exact ih h
theorem Memory.read_writeBytes_outside (m : Memory) {a c : Nat} {bs : List Byte} (h : ¬(a ≤ c ∧ c < a + bs.length)) : (m.writeBytes a bs).read c = m.read c :=
  (m.read_writeBytes a c bs).trans (if_neg h)

-- The words of an accumulator, and of a table (R151, R166)

/-- The words that Team.mapAcc puts into an accumulator. -/
def Team.accWords (t0 : Team) (span a : Nat) (f : Nat → Nat → Nat → Nat) : List Nat :=
  (List.range 1024).map fun i => f (i / 64) (i % 64) (t0.accs.readN (accAt span a (i / 64) (i % 64)) 4)
theorem accAt_div_mod (span a i : Nat) : accAt span a (i / 64) (i % 64) = accAt span a 0 0 + 4 * i := by
  simp only [accAt]
  omega
theorem Memory.foldl_writeN (m : Memory) (a : Nat) (v : Nat → Nat) (n : Nat) :
    (List.range n).foldl (fun m i => m.writeN (a + 4 * i) 4 (v i)) m = m.writeBytes a (wordBytes ((List.range n).map v)) := by
  induction n with
  | zero => rfl
  | succ n ih =>
    rw [List.range_succ, List.foldl_append, ih, List.map_append, wordBytes_append, Memory.writeBytes_append, wordBytes_length, List.length_map, List.length_range]
    simp [Memory.writeN, wordBytes]
theorem Team.accs_mapAcc (t t0 : Team) (span a : Nat) (f : Nat → Nat → Nat → Nat) :
    (t.mapAcc t0 span a f).accs = t.accs.writeBytes (accAt span a 0 0) (wordBytes (t0.accWords span a f)) := by
  refine Eq.trans ?_ (Memory.foldl_writeN ..)
  simp only [Team.mapAcc, accAt_div_mod]
theorem Team.mapAcc_rest (t t0 : Team) (span a : Nat) (f : Nat → Nat → Nat → Nat) :
    { t.mapAcc t0 span a f with accs := t.accs, poison := t.poison } = t ∧ { t.mapAcc t0 span a f with accs := t.accs } = t := by
  rw [Team.mapAcc]
  exact ⟨rfl, rfl⟩
theorem Team.accWords_length (t0 : Team) (span a : Nat) (f : Nat → Nat → Nat → Nat) : (t0.accWords span a f).length = 1024 := by simp [Team.accWords]
theorem Team.readN_mapAcc (t t0 : Team) (span a : Nat) (f : Nat → Nat → Nat → Nat) {r j : Nat} (hr : r < 16) (hj : j < 64) :
    (t.mapAcc t0 span a f).accs.readN (accAt span a r j) 4 = f r j (t0.accs.readN (accAt span a r j) 4) % 2 ^ 32 := by
  have hdiv : (64 * r + j) / 64 = r := by omega
  have hmod : (64 * r + j) % 64 = j := by omega
  have hat : accAt span a r j = accAt span a 0 0 + 4 * (64 * r + j) := by rw [← accAt_div_mod, hdiv, hmod]
  rw [Team.accs_mapAcc, hat]
  refine Memory.readN_writeBytes_wordBytes ?_
  rw [Team.accWords, List.getElem?_map, List.getElem?_range (by omega), Option.map_some, hdiv, hmod, hat]
theorem Team.read_mapAcc_outside (t t0 : Team) (span a : Nat) (f : Nat → Nat → Nat → Nat) {c : Nat}
    (h : ¬(span * 2 ^ 14 + a * 2 ^ 12 ≤ c ∧ c < span * 2 ^ 14 + (a + 1) * 2 ^ 12)) : (t.mapAcc t0 span a f).accs.read c = t.accs.read c := by
  rw [Team.accs_mapAcc]
  refine Memory.read_writeBytes_outside _ ?_
  rw [wordBytes_length, Team.accWords_length, accAt]
  exact fun hc => h ⟨by omega, by omega⟩

theorem mul_add_lt_mul {i n j w : Nat} (hi : i < n) (hj : j < w) : i * w + j < n * w :=
  calc i * w + j < (i + 1) * w := by rw [Nat.succ_mul]; omega
    _ ≤ n * w := Nat.mul_le_mul_right w hi
/-- Lists of one length joined: where the elements of the i-th stand. -/
theorem getElem?_flatMap_range {α : Type} {f : Nat → List α} {w n i j : Nat} (hf : ∀ i, (f i).length = w) (hi : i < n) (hj : j < w) :
    ((List.range n).flatMap f)[i * w + j]? = (f i)[j]? := by
  induction n with
  | zero => omega
  | succ n ih =>
    have hlen : ((List.range n).flatMap f).length = n * w := by simp [List.length_flatMap, hf]
    rw [List.range_succ, List.flatMap_append, List.flatMap_singleton]
    by_cases h : i = n
    · subst h
      rw [List.getElem?_append_right (by omega), hlen, Nat.add_sub_cancel_left]
    · have := mul_add_lt_mul (show i < n by omega) hj
      rw [List.getElem?_append_left (by omega), ih (by omega)]

section Table
variable (t : Team) (g : Grid) (l : Launch) (span ta fa fb kq : Nat)
/-- The entries of a table in the order of their places. -/
def tableWords : List Nat :=
  (List.range 16).flatMap fun r => (List.range (lutGroups (l.slot fb).fmt)).flatMap fun n => (List.range (lutEntries (l.slot fb).fmt)).map fun e =>
    buildEntry t g (l.slot fa) (l.slot fb) span ta fb kq r n e
theorem buildTable_eq : buildTable t g l span ta fa fb kq = wordBytes (tableWords t g l span ta fa fb kq) := by
  simp only [buildTable, tableWords, wordBytes, List.flatMap_assoc, List.flatMap_map]
/-- A row of a table has 512 entries in each of R164's modes. -/
theorem lutGroups_mul_lutEntries (f : Nat) : lutGroups f * lutEntries f = 512 := by
  unfold lutGroups lutEntries lutK lutSize
  by_cases h : f = 0x20
  · simp [h]
  · by_cases h' : f = 0x22 <;> simp [h, h']
theorem tableWords_length : (tableWords t g l span ta fa fb kq).length = 8192 := by
  simp [tableWords, List.length_flatMap, lutGroups_mul_lutEntries]
theorem tableWords_getElem? {r n e : Nat} (hr : r < 16) (hn : n < lutGroups (l.slot fb).fmt) (he : e < lutEntries (l.slot fb).fmt) :
    (tableWords t g l span ta fa fb kq)[(r * lutGroups (l.slot fb).fmt + n) * lutEntries (l.slot fb).fmt + e]? =
      some (buildEntry t g (l.slot fa) (l.slot fb) span ta fb kq r n e) := by
  rw [Nat.add_mul, Nat.mul_assoc, Nat.add_assoc, tableWords, getElem?_flatMap_range (fun i => by simp [List.length_flatMap]) hr (mul_add_lt_mul hn he),
    getElem?_flatMap_range (fun i => by simp) hn he, List.getElem?_map, List.getElem?_range he, Option.map_some]
theorem readN_buildTable (m : Memory) (k : Nat) {r n e : Nat} (hr : r < 16) (hn : n < lutGroups (l.slot fb).fmt) (he : e < lutEntries (l.slot fb).fmt) :
    (m.writeBytes (span * 2 ^ 17 + k * 2 ^ 15) (buildTable t g l span ta fa fb kq)).readN (tableAt span k (l.slot fb).fmt r n e) 4 =
      buildEntry t g (l.slot fa) (l.slot fb) span ta fb kq r n e % 2 ^ 32 := by
  rw [buildTable_eq]
  exact Memory.readN_writeBytes_wordBytes (tableWords_getElem? t g l span ta fa fb kq hr hn he)
theorem read_buildTable_outside (m : Memory) (k : Nat) {c : Nat} (h : ¬(span * 2 ^ 17 + k * 2 ^ 15 ≤ c ∧ c < span * 2 ^ 17 + (k + 1) * 2 ^ 15)) :
    (m.writeBytes (span * 2 ^ 17 + k * 2 ^ 15) (buildTable t g l span ta fa fb kq)).read c = m.read c := by
  refine Memory.read_writeBytes_outside m ?_
  rw [buildTable_eq, wordBytes_length, tableWords_length]
  exact fun hc => h ⟨hc.1, by omega⟩
end Table

-- One bench's slice (R162, R165, R168, R175, R310, R402, R405)

section AccBench
variable {o : EngineOp} {t0 t : Team} {b span a : Nat} {f : Nat → Nat → Nat → Nat} {errs : List Err}
/-- An accumulator that is not poisoned, on a bench that no hardware error has hit, is replaced. -/
theorem EngineOp.accBench_clean (hhit : (o.errs.any fun e => e.bench = b) = false) (hp : t.poison.contains (span, a) = false) :
    o.accBench t0 b span a f t errs = (t.mapAcc t0 span a f, errs) := by
  rw [EngineOp.accBench, hp, hhit]
  rfl
/-- Any other stays as it is and is poisoned. -/
theorem EngineOp.accBench_spoiled (h : (o.errs.any fun e => e.bench = b) = true ∨ t.poison.contains (span, a) = true) :
    (o.accBench t0 b span a f t errs).1.accs = t.accs ∧ (o.accBench t0 b span a f t errs).1.poison.contains (span, a) = true ∧
      (o.accBench t0 b span a f t errs).2 = if t.poison.contains (span, a) then errs ++ [⟨0x05, b, 0, 0⟩] else errs := by
  unfold EngineOp.accBench
  cases hp : t.poison.contains (span, a) with
  | true => exact ⟨rfl, hp, rfl⟩
  | false =>
    have hhit := h.resolve_right (by rw [hp]; exact Bool.false_ne_true)
    rw [hhit]
    exact ⟨rfl, by simp, rfl⟩
end AccBench

/-- AZERO: the accumulator's bytes read 0, every other as before. -/
theorem Team.read_mapAcc_zero (t t0 : Team) (span a c : Nat) : (t.mapAcc t0 span a fun _ _ _ => 0).accs.read c =
    if span * 2 ^ 14 + a * 2 ^ 12 ≤ c ∧ c < span * 2 ^ 14 + (a + 1) * 2 ^ 12 then 0 else t.accs.read c := by
  by_cases h : span * 2 ^ 14 + a * 2 ^ 12 ≤ c ∧ c < span * 2 ^ 14 + (a + 1) * 2 ^ 12
  · rw [if_pos h, Team.accs_mapAcc]
    have hall : ∀ x ∈ wordBytes (t0.accWords span a fun _ _ _ => 0), x = 0 := by
      intro x hx
      obtain ⟨w, hw, hb⟩ := List.mem_flatMap.1 hx
      obtain ⟨_, -, rfl⟩ := List.mem_map.1 hw
      obtain ⟨k, -, rfl⟩ := List.mem_map.1 hb
      rw [Nat.zero_shiftRight]
      rfl
    refine (Memory.read_writeBytes ..).trans ((if_pos ?_).trans ?_)
    · rw [wordBytes_length, Team.accWords_length, accAt]
      exact ⟨by omega, by omega⟩
    · rw [List.getD_eq_getElem?_getD]
      cases hx : (wordBytes (t0.accWords span a fun _ _ _ => 0))[c - accAt span a 0 0]? with
      | none => rfl
      | some x => exact hall x (List.mem_of_getElem? hx)
  · rw [if_neg h, Team.read_mapAcc_outside _ _ _ _ _ h]

-- The values (R150, R165, R167, R168)

section Lookup
variable (o : EngineOp) (t : Team) (sa sb : Slot) (base span k tb r j c : Nat)
theorem EngineOp.lookup_planes (h : sb.fmt = 0x20) : o.lookup t sa sb base span k tb r j c =
    accFold (scaleProduct sa sb) c 8 fun n => Exact.sum ((List.range 8).flatMap fun i => (List.range sb.planes).map fun p =>
      (lutEntry t sb span k r (8 * n + i) (o.code t base tb sb.fmt p (8 * n + i) j)).mul (.fin false 1 1 p)) := by
  simp only [EngineOp.lookup, h, lutSize, lutK, if_true]
  simp [Nat.mul_comm]
theorem EngineOp.lookup_codebook (h : sb.fmt ≠ 0x20) : o.lookup t sa sb base span k tb r j c =
    accFold (scaleProduct sa sb) c (lutK sb.fmt / 32) fun n => Exact.sum ((List.range (32 / lutSize sb.fmt)).map fun i =>
      (lutEntry t sb span k r (32 / lutSize sb.fmt * n + i) (o.code t base tb sb.fmt 0 (32 / lutSize sb.fmt * n + i) j)).mul (.fin false 1 1 0)) := by
  simp only [EngineOp.lookup, h, if_false, List.range_one, List.map_singleton, ← List.map_eq_flatMap, Nat.mul_comm, Nat.cast_zero]
end Lookup

section Entry
variable (t : Team) (g : Grid) (sa sb : Slot) (span ta fb k kq r n e c : Nat)
theorem buildEntry_planes (h : sb.fmt = 0x20) : buildEntry t g sa sb span ta fb kq r n e =
    FloatFmt.fp32.rne (Exact.sum ((List.range 4).map fun i =>
      let a := sa.elementAt t.tiles (tileAt span ta + r * copyOff sa.fmt 0 256) (64 * kq + lutSize sb.fmt * n + i)
      if (8 + e).testBit i then a else a.neg)) := by
  simp only [buildEntry, h, ne_eq, not_true_eq_false, decide_false, Bool.false_and, Bool.false_eq_true, if_false, if_true]
  rfl
theorem buildEntry_codebook (h : sb.fmt ≠ 0x20) (he : e < sb.cbSize) : buildEntry t g sa sb span ta fb kq r n e =
    FloatFmt.fp32.rne (Exact.sum ((List.range (lutSize sb.fmt)).map fun i =>
      (sa.elementAt t.tiles (tileAt span ta + r * copyOff sa.fmt 0 256) (64 * kq + lutSize sb.fmt * n + i)).mul (centroid g fb sb.fmt e i))) := by
  simp [buildEntry, h, he]
theorem buildEntry_past (h : sb.fmt ≠ 0x20) (he : sb.cbSize ≤ e) : buildEntry t g sa sb span ta fb kq r n e = 0 := by
  simp [buildEntry, h, he]
theorem lutEntry_planes (h : sb.fmt = 0x20) : lutEntry t sb span k r n c =
    if c < 8 then (FloatFmt.fp32.decode (t.tables.readN (tableAt span k sb.fmt r n (7 - c)) 4)).neg
    else FloatFmt.fp32.decode (t.tables.readN (tableAt span k sb.fmt r n (c - 8)) 4) := by
  rw [lutEntry, if_pos h]
  by_cases hc : c < 8 <;> simp [hc]
theorem lutEntry_codebook (h : sb.fmt ≠ 0x20) : lutEntry t sb span k r n c =
    if c < sb.cbSize then FloatFmt.fp32.decode (t.tables.readN (tableAt span k sb.fmt r n c) 4) else .zero := by
  rw [lutEntry, if_neg h]
  by_cases hc : c < sb.cbSize <;> simp [hc]
end Entry

/-- Settles O30: each kind's slice is a replacement of its accumulator's elements, its record or its table's words, and an element is R150's fold of its blocks.
IDX_RANGE is recorded for a LUTMM on a poisoned or hit accumulator as well, which is log 85's reading, and entries past the codebook are 0 as log 86 has it. -/
theorem engineOperationLeaves : Obligations.EngineOperationLeaves := by
  refine ⟨fun o t0 t g base b errs => ⟨fun ac hk _ => ?azero, fun ac ta tb fa fb h hk _ hhit hp => ?mmad, fun ac kt tb fa fb h hk _ hhit hp => ?lutmm,
    fun ac kt tb fa fb h hk hs => ?lutmmSpoiled, fun ac ta tb fa fb h hk hs => ?mmadSpoiled, fun kt hk => ?tbinv, fun kt ta fa fb kq hk hhit => ?tbuild,
    fun kt ta fa fb kq hk hhit => ?tbuildHit⟩,
    fun o t sa sb base span ta tb k r j c => ⟨rfl, fun h => ?planes, fun h => ?codebook⟩,
    fun t g sa sb span ta fb k kq r n e c => ⟨buildEntry_planes t g sa sb span ta fb kq r n e, buildEntry_codebook t g sa sb span ta fb kq r n e,
      buildEntry_past t g sa sb span ta fb kq r n e, lutEntry_planes t sb span k r n c, lutEntry_codebook t sb span k r n c⟩⟩
  case azero =>
    simp only [EngineOp.bench, hk]
    exact ⟨by simp, (t.mapAcc_rest t0 (base + b) ac _).1, fun a => t.read_mapAcc_zero t0 (base + b) ac a⟩
  case mmad =>
    simp only [EngineOp.bench, hk, EngineOp.accBench_clean hhit hp, true_and]
    exact ⟨(t.mapAcc_rest t0 (base + b) ac _).2, fun r j hr hj => t.readN_mapAcc t0 (base + b) ac _ hr hj, fun a ha => t.read_mapAcc_outside t0 (base + b) ac _ ha⟩
  case lutmm =>
    simp only [EngineOp.bench, hk, EngineOp.accBench_clean hhit hp, true_and]
    exact ⟨(t.mapAcc_rest t0 (base + b) ac _).2, fun r j hr hj => t.readN_mapAcc t0 (base + b) ac _ hr hj, fun a ha => t.read_mapAcc_outside t0 (base + b) ac _ ha⟩
  case lutmmSpoiled =>
    simp only [EngineOp.bench, hk]
    obtain ⟨haccs, hpoison, herrs⟩ := EngineOp.accBench_spoiled hs
    exact ⟨haccs, hpoison, by rw [herrs]⟩
  case mmadSpoiled =>
    simp only [EngineOp.bench, hk]
    exact EngineOp.accBench_spoiled hs
  case tbinv =>
    simp only [EngineOp.bench, hk, true_and]
    exact ⟨(tget_terase ..).trans (if_pos rfl), fun q hq => (tget_terase ..).trans (if_neg hq)⟩
  case tbuild =>
    simp only [EngineOp.bench, hk, hhit, Bool.false_eq_true, if_false, true_and]
    exact ⟨(tget_tset ..).trans (if_pos rfl), fun r n e hr hn he => readN_buildTable t0 g g.launch (base + b) ta fa fb kq t.tables kt hr hn he,
      fun a ha => read_buildTable_outside t0 g g.launch (base + b) ta fa fb kq t.tables kt ha⟩
  case tbuildHit =>
    simp only [EngineOp.bench, hk, hhit, if_true, and_true]
    exact (tget_terase ..).trans (if_pos rfl)
  case planes => exact o.lookup_planes t sa sb base span k tb r j c h
  case codebook => exact o.lookup_codebook t sa sb base span k tb r j c h

end Sys2Proof.Machine
end

section
/-! PROOFS. The engine's own steps: slaving, start, handle fetch and retirement (R154, R156, R163, R171, R173, R227, R274) (O29). -/
namespace Sys2Proof.Machine

-- ENGINE_SLAVE and ENGINE_OP_START (R154, R156, R171)

theorem State.engine_modEngine (s : State) (core : Nat) (f : Engine → Engine) : ((s.modEngine core f).core core).engine = f (s.core core).engine :=
  congrArg Core.engine (s.core_modCore core _)
theorem State.core_modEngine_ne (s : State) {core c : Nat} (f : Engine → Engine) (h : c ≠ core) : (s.modEngine core f).core c = s.core c := s.core_modCore_ne _ h

theorem followerOf_even {core : Nat} (h : core % 2 = 0) : followerOf core = core + 1 := by simp [followerOf, leaderOf, h]
section Slave
variable {s : State} {core : Nat} {o : EngineOp} {q : List EngineOp}
theorem exec_engineSlave (he : core % 2 = 0) (hr : (s.core core).engine.running = none) (hs : (s.core core).engine.slaved = false)
    (hq : (s.core core).engine.queue = o :: q) (hp : o.pair = true) (hfr : (s.core (core + 1)).engine.running = none) (hfs : (s.core (core + 1)).engine.slaved = false) :
    exec (.engineSlave core) s = .next (s.modEngine (core + 1) fun e => { e with slaved := true }) := by
  show execEngineSlave core s = _
  simp [execEngineSlave, followerOf_even he, he, hr, hs, hq, hp, hfr, hfs]
end Slave

section Start
variable (s : State) (core : Nat) (o : EngineOp)
theorem State.rebuild_cores (team span k : Nat) : (s.rebuild team span k).cores = s.cores := by
  simp only [State.rebuild]
  split <;> rfl
theorem State.rebuildAll_cores : (s.rebuildAll core o).cores = s.cores := by
  unfold State.rebuildAll
  split
  · split
    · rfl
    · exact foldl_keeps State.cores (fun t b => t.rebuild_cores ..) _ s
  · rfl
/-- The engine of an operation that starts; its rebuilt tables and its gang's path stand outside the cores. -/
theorem State.engine_startOp : ((s.startOp core o).core core).engine =
    { (s.core core).engine with queue := (s.core core).engine.queue.tail, running := some { o with touched := s.lostBenches core o } } := by
  refine Eq.trans ?_ (s.engine_modEngine core fun e => { e with queue := e.queue.tail, running := some { o with touched := s.lostBenches core o } })
  have hcores := (s.modEngine core fun e => { e with queue := e.queue.tail, running := some { o with touched := s.lostBenches core o } }).rebuildAll_cores core o
  unfold State.startOp
  simp only
  split <;> exact congrArg (fun cs => (tgetD cs core .initial).engine) hcores
variable {s core o}
theorem exec_engineOpStart (h : s.startable core = some o) :
    exec (.engineOpStart core) s = .next (if s.tableOk core o then s.startOp core o else s.staleTrap core o) := by
  show execEngineOpStart core s = _
  simp only [execEngineOpStart, h]
theorem exec_engineOpStart_none (h : s.startable core = none) : exec (.engineOpStart core) s = .next s := by
  show execEngineOpStart core s = _
  simp only [execEngineOpStart, h]
end Start

-- HANDLE_FETCH (R163, R227, R274)

section Fetch
variable {s : State} {core : Nat} {o : EngineOp} {q : Nat}
/-- The operation that the fetch serves: the oldest whose operand has not landed and is not paused. -/
def State.toFetch (s : State) (core : Nat) : Option EngineOp := (s.core core).engine.queue.find? fun o => !o.landed && o.paused.isNone
theorem exec_handleFetch_none (h : s.toFetch core = none) : exec (.handleFetch core) s = .next s := by
  show execHandleFetch core s = _
  rw [execHandleFetch, show List.find? _ _ = _ from h]
section Operand
variable {hd : Nat × Nat} (h : s.toFetch core = some o) (hk : o.kind.handle = some hd) (hq : o.kind.quarterBytes (s.grid (s.team o.gang.team).grid).launch = q)
include h hk hq
theorem exec_handleFetch_fails (ho : o.operand q = none) : exec (.handleFetch core) s = .next (s.failFetch core o) := by
  show execHandleFetch core s = _
  rw [execHandleFetch, show List.find? _ _ = _ from h]
  simp only [hk, hq, ho]
variable {d : Handle} (ho : o.operand q = some d)
include ho
theorem exec_handleFetch_lands {m : Memory} (hm : s.handleBytes core o d q (4 * q) [] = .ok m) :
    exec (.handleFetch core) s = .next ((s.askHandle core o d q).landFetch core o m) := by
  show execHandleFetch core s = _
  rw [execHandleFetch, show List.find? _ _ = _ from h]
  simp only [hk, hq, ho, hm]
theorem exec_handleFetch_faults {va : Nat} {f : MFault} (he : s.handleBytes core o d q (4 * q) [] = .error (va, f)) :
    exec (.handleFetch core) s = .next (s.faultFetch core o va f) := by
  show execHandleFetch core s = _
  rw [execHandleFetch, show List.find? _ _ = _ from h]
  simp only [hk, hq, ho, he]
end Operand
theorem EngineOp.operand_eq_some {h : Handle} : o.operand q = some h ↔ o.desc = some h ∧ h.desc.rows * h.desc.cols = 4 * q ∧ q ≠ 0 := by
  simp [EngineOp.operand, Option.filter_eq_some_iff]
end Fetch
/-- An operation takes the descriptor of its handle's slot when the generation is the handle's (R227). -/
theorem Issue.engineOp_desc_eq_some {x : Issue} {k : EngineKind} {pr : Bool} {bar : Option (Nat × Nat)} {order left slot gen : Nat} {h : Handle}
    (hk : k.handle = some (slot, gen)) : (x.engineOp k pr bar order left).desc = some h ↔ tget x.team.handles slot = some h ∧ h.gen = gen := by
  simp [Issue.engineOp, hk, Option.filter_eq_some_iff]

/-- Settles O29: each step is its function's answer at the head of the queue, at the first operand to land or at the running operation. -/
theorem engineStepsAct : Obligations.EngineStepsAct := by
  refine fun s core => ⟨fun he hr hs ⟨o, q, hq, hp⟩ hfr hfs => ?slave, fun o h hok => ?start, fun o h hok => ?stale, exec_engineOpStart_none, exec_handleFetch_none,
    fun o slot gen hf hk => ?fetch, fun x k pr bar order left slot gen h hk => Issue.engineOp_desc_eq_some hk, fun o h => ?retire, fun h => ?idle⟩
  case slave => exact ⟨_, exec_engineSlave he hr hs hq hp hfr hfs, s.engine_modEngine (core + 1) _, fun c hc => s.core_modEngine_ne _ hc, rfl⟩
  case start =>
    have hengine := s.engine_startOp core o
    exact ⟨_, (exec_engineOpStart h).trans (by rw [if_pos hok]), rfl, congrArg Engine.queue hengine, _, congrArg Engine.running hengine, rfl⟩
  case stale => exact (exec_engineOpStart h).trans (by rw [hok]; rfl)
  case fetch =>
    exact ⟨fun h m ho => exec_handleFetch_lands hf hk rfl ho, fun h va f ho => exec_handleFetch_faults hf hk rfl ho, exec_handleFetch_fails hf hk rfl,
      fun h => EngineOp.operand_eq_some⟩
  case retire =>
    show execEngineOpRetire core s = _
    simp only [execEngineOpRetire, h]
  case idle =>
    show execEngineOpRetire core s = _
    simp only [execEngineOpRetire, h]

end Sys2Proof.Machine
end

section
/-! PROOFS. MMAD, TBUILD, LUTMM, AZERO and TBINV enter their engine's queue (R154, R163, R171, R178, R259, R310, R371, R374, R402, R405) (O27). The leave that a word holds while it waits for a
full queue or barrier is log 83's choice. -/
namespace Sys2Proof.Machine

-- The first causes: PAIR_ROLE and the barrier operand's (R371)

section Traps
variable {s : State} {x : Issue} {i : Instr}
theorem Issue.pairRole_true_iff : x.pairRole true = true ↔ x.team.pair = false ∨ x.gang.core ≠ x.team.core := by simp [Issue.pairRole]
theorem Issue.jobNames_barrier (b : Operand) : x.jobNames s (some b) none =
    if x.once s b 1 % 16 ≠ 0 then .error (.of 0x39) else if x.team.holds x.launch (x.once s b 1) = false then .error (.of 0x11) else .ok (some (x.team.core, x.once s b 1), none) := by
  simp [Issue.jobNames]
theorem Issue.engineTrap_pairRole {pr : Bool} {b : Operand} (h : x.pairRole pr = true) : x.engineTrap s pr b = some (.of 0x31) := if_pos h
theorem Issue.engineTrap_jobNames {pr : Bool} {b : Operand} {c : Trap} (h : x.pairRole pr = false) (hc : x.jobNames s (some b) none = .error c) :
    x.engineTrap s pr b = some c := by
  rw [Issue.engineTrap, h, hc]
  rfl

/-- A collective's own causes come before its paths meet (R68, R371). -/
theorem exec_of_gatherTrap {t : Trap} (hw : i.isWord = true) (hc : i.isCollective = true) (h : s.issuing i.guard = some x) (hl : x.illegal i = none) (hs : x.stalled i = false)
    (ht : x.gatherTrap s i = some t) : exec i s = .next (s.raise x t) := by
  obtain ⟨al, eff, he, -⟩ := exec_word hw
  rw [he, State.issueWord, State.issueNext]
  simp only [h, hl, hs, hc, ht, Bool.not_true, Bool.false_eq_true, if_false]
/-- A word that is no collective and has no destination is ready at once. -/
theorem ready_of_noDest (hc : i.isCollective = false) (hd : x.dests i = []) (h : s.issuing i.guard = some x) (hl : x.illegal i = none) (hs : x.stalled i = false)
    (ha : x.active ≠ 0) : s.issueOf i = some (x, s) ∧ s.ready i = some (x, s.begin x i) := by
  have h0 : s.issueOf i = some (x, s) := by simp [State.issueOf, h, hl, hs, hc]
  refine ⟨h0, ?_⟩
  simp only [State.ready, h0, hd, ha, if_false, List.flatMap_nil, State.takeAll]
end Traps

-- The common issue (R154, R163, R178, R259)

/-- The leave units an operation asks for, and the bytes of a handle's operand. -/
abbrev Issue.leaveAsked (x : Issue) (s : State) (k : EngineKind) (pr : Bool) : Nat :=
  (if pr then 8 else 4) * s.leaveUnits x.launch x.key.team (x.queueCore pr) (if pr then 8 else 4) k
abbrev Issue.bytesOwed (x : Issue) (k : EngineKind) : Nat := if k.handle.isSome then 4 * k.quarterBytes x.launch else 0
abbrev State.oweBytes (s : State) (bar : Option (Nat × Nat)) (n : Nat) : State := match bar with | some (c, off) => s.addBytes c off n | none => s
/-- The operation stands last in its queue, its bytes added to the barrier's. -/
abbrev State.enters (s : State) (x : Issue) (k : EngineKind) (pr : Bool) (bar : Option (Nat × Nat)) : State :=
  let t := (s.catchUp x.key).oweBytes bar (x.bytesOwed k)
  t.enqueue (x.queueCore pr) (x.engineOp k pr bar t.seq (x.bytesOwed k))

section EngineIssue
variable {k : EngineKind} {pr : Bool} {bs : Option Operand} {x : Issue} {s : State}
theorem engineIssue_pairRole (h : x.pairRole pr = true) : engineIssue k pr bs x s = .trap (.of 0x31) := if_pos h
variable {bar : Option (Nat × Nat)} (hr : x.pairRole pr = false) (hn : x.jobNames s bs none = .ok (bar, none))
include hr hn
theorem engineIssue_asks (hu : x.leaveAsked s k pr ≠ 0) (hl : s.leaveNow x.key (x.leaveAsked s k pr) (x.ownCharge s k.opcode) = none) :
    engineIssue k pr bs x s = .asks (x.leaveAsked s k pr) := by
  simp only [engineIssue, hr, hn, Bool.false_eq_true, if_false]
  rw [if_neg hu, hl]
theorem engineIssue_waits (hf : 4 ≤ (s.core (x.queueCore pr)).engine.queue.length ∨ s.bytesFull bar (x.bytesOwed k) = true)
    (hl : x.leaveAsked s k pr = 0 ∨ s.leaveNow x.key (x.leaveAsked s k pr) (x.ownCharge s k.opcode) ≠ none) :
    engineIssue k pr bs x s = .waits (if x.leaveAsked s k pr = 0 ∨ (s.gang x.key).leave = .granted then none else some (x.leaveAsked s k pr)) := by
  obtain ⟨t, ht⟩ : ∃ t, (if x.leaveAsked s k pr = 0 then some s else s.leaveNow x.key (x.leaveAsked s k pr) (x.ownCharge s k.opcode)) = some t := by
    by_cases hu : x.leaveAsked s k pr = 0
    · exact ⟨s, if_pos hu⟩
    · rw [if_neg hu]
      exact Option.ne_none_iff_exists'.1 (hl.resolve_left hu)
  simp only [engineIssue, hr, hn, Bool.false_eq_true, if_false]
  rw [ht]
  simp only [Bool.or_eq_true, decide_eq_true_eq]
  exact if_pos hf
theorem engineIssue_enters {t : State} (hq : (s.core (x.queueCore pr)).engine.queue.length < 4) (hb : s.bytesFull bar (x.bytesOwed k) = false)
    (hl : x.leaveAsked s k pr = 0 ∧ t = s ∨ x.leaveAsked s k pr ≠ 0 ∧ s.leaveNow x.key (x.leaveAsked s k pr) (x.ownCharge s k.opcode) = some t) :
    engineIssue k pr bs x s = .done (t.enters x k pr bar) := by
  have ht : (if x.leaveAsked s k pr = 0 then some s else s.leaveNow x.key (x.leaveAsked s k pr) (x.ownCharge s k.opcode)) = some t := by
    obtain ⟨hu, rfl⟩ | ⟨hu, ht⟩ := hl
    · exact if_pos hu
    · exact (if_neg hu).trans ht
  simp only [engineIssue, hr, hn, Bool.false_eq_true, if_false]
  rw [ht]
  simp only [Bool.or_eq_true, decide_eq_true_eq]
  exact if_neg (by simp [hb, hq])
end EngineIssue

-- The five words (R310, R371, R374, R402, R405)

/-- What LUTMM's check makes of the common issue's answer (R171). -/
def Issue.checks (x : Issue) (pr : Bool) : Act → Act
  | .done t =>
    match t.startable (x.queueCore pr) with
    | some o =>
      if o.order + 1 = t.seq then (if t.tableOk (x.queueCore pr) o then .done (t.startOp (x.queueCore pr) o) else .trap (.of 0x30))
      else .moved (t.hold x.key x.path.id .check)
    | none => .moved (t.hold x.key x.path.id .check)
  | e => e
theorem lutmmEffect_eq (a : LutmmArgs) (x : Issue) (s : State) : lutmmEffect a x s = x.checks a.pr
    (engineIssue (.lutmm a.ac.toNat a.kt.toNat a.tb.toNat a.fa.toNat a.fb.toNat (x.handleOf s a.hb a.hs)) a.pr (some a.bs) x s) := by
  unfold lutmmEffect Issue.checks
  rfl

/-- An instruction that enters an engine's queue, its pair form and its barrier operand. -/
def EntersQueue (i : Instr) (g : Guard) (pr : Bool) (bs : Option Operand) : Prop :=
  (∃ a : MmadArgs, i = .mmad g a ∧ pr = a.pr ∧ bs = some a.bs) ∨ (∃ a : LutmmArgs, i = .lutmm g a ∧ pr = a.pr ∧ bs = some a.bs) ∨
    (∃ a : TbuildArgs, i = .tbuild g a ∧ pr = a.pr ∧ bs = some a.bs) ∨ (∃ ac, i = .azero g pr ac ∧ bs = none) ∨ (∃ kt, i = .tbinv g pr kt ∧ bs = none)
/-- The same with the operation it enters. -/
def Issue.EntersAs (x : Issue) (s : State) (g : Guard) (i : Instr) (k : EngineKind) (pr : Bool) (bs : Option Operand) : Prop :=
  (∃ a : MmadArgs, i = .mmad g a ∧ pr = a.pr ∧ bs = some a.bs ∧ k = .mmad a.ac.toNat a.ta.toNat a.tb.toNat a.fa.toNat a.fb.toNat (x.handleOf s a.hb a.hs)) ∨
    (∃ a : LutmmArgs, i = .lutmm g a ∧ pr = a.pr ∧ bs = some a.bs ∧ k = .lutmm a.ac.toNat a.kt.toNat a.tb.toNat a.fa.toNat a.fb.toNat (x.handleOf s a.hb a.hs)) ∨
    (∃ a : TbuildArgs, i = .tbuild g a ∧ pr = a.pr ∧ bs = some a.bs ∧ k = .tbuild a.kt.toNat a.ta.toNat a.fa.toNat a.fb.toNat a.kq.toNat) ∨
    (∃ ac, i = .azero g pr ac ∧ bs = none ∧ k = .azero ac.toNat) ∨ (∃ kt, i = .tbinv g pr kt ∧ bs = none ∧ k = .tbinv kt.toNat)

section Causes
variable {s : State} {x : Issue} {g : Guard} {i : Instr} {pr : Bool} {bs : Option Operand} (hi : EntersQueue i g pr bs)
include hi
/-- The forms with a barrier are collectives, whose causes come before the paths meet; the others have no destination and the common issue as their effect. -/
theorem EntersQueue.cases (x : Issue) : (∃ b, bs = some b ∧ i.isWord = true ∧ i.isCollective = true ∧ ∀ s, x.active ≠ 0 → x.gatherTrap s i = x.engineTrap s pr b) ∨
    bs = none ∧ i.isCollective = false ∧ x.dests i = [] ∧ ∃ k, ∀ s, exec i s = s.issueWord i false (engineIssue k pr none) := by
  obtain ⟨a, rfl, rfl, rfl⟩ | ⟨a, rfl, rfl, rfl⟩ | ⟨a, rfl, rfl, rfl⟩ | ⟨ac, rfl, rfl⟩ | ⟨kt, rfl, rfl⟩ := hi
  · exact .inl ⟨_, rfl, rfl, rfl, fun s ha => if_neg ha⟩
  · exact .inl ⟨_, rfl, rfl, rfl, fun s ha => if_neg ha⟩
  · exact .inl ⟨_, rfl, rfl, rfl, fun s ha => if_neg ha⟩
  · exact .inr ⟨rfl, rfl, rfl, _, fun s => rfl⟩
  · exact .inr ⟨rfl, rfl, rfl, _, fun s => rfl⟩
variable (h : s.issuing i.guard = some x) (hl : x.illegal i = none) (hs : x.stalled i = false) (ha : x.active ≠ 0)
include h hl hs ha
theorem exec_entersQueue_pairRole (hp : x.pairRole pr = true) : exec i s = .next (s.raise x (.of 0x31)) := by
  obtain ⟨b, rfl, hw, hc, hg⟩ | ⟨rfl, hc, hd, k, he⟩ := hi.cases x
  · exact exec_of_gatherTrap hw hc h hl hs ((hg s ha).trans (Issue.engineTrap_pairRole hp))
  · obtain ⟨h0, hr⟩ := ready_of_noDest hc hd h hl hs ha
    obtain ⟨s0, h0', hx⟩ := issueWord_trap (al := false) hr (engineIssue_pairRole (k := k) (bs := none) hp)
    obtain ⟨-, rfl⟩ := Prod.mk.inj (Option.some.inj (h0.symm.trans h0'))
    exact (he s).trans hx
theorem exec_entersQueue_jobNames {c : Trap} (hp : x.pairRole pr = false) (hn : x.jobNames s bs none = .error c) : exec i s = .next (s.raise x c) := by
  obtain ⟨b, rfl, hw, hc, hg⟩ | ⟨rfl, -⟩ := hi.cases x
  · exact exec_of_gatherTrap hw hc h hl hs ((hg s ha).trans (Issue.engineTrap_jobNames hp hn))
  · cases hn
end Causes

section Entry
variable {s s1 : State} {x : Issue} {g : Guard} {i : Instr} {k : EngineKind} {pr : Bool} {bs : Option Operand} (hi : x.EntersAs s1 g i k pr bs)
include hi
/-- The word's effect is the common issue's answer, LUTMM's checked. -/
theorem exec_entersAs : ∃ eff, (∀ s, exec i s = s.issueWord i false eff) ∧
    ((∀ a, i ≠ .lutmm g a) ∧ eff x s1 = engineIssue k pr bs x s1 ∨ (∃ a, i = .lutmm g a) ∧ eff x s1 = x.checks pr (engineIssue k pr bs x s1)) := by
  obtain ⟨a, rfl, rfl, rfl, rfl⟩ | ⟨a, rfl, rfl, rfl, rfl⟩ | ⟨a, rfl, rfl, rfl, rfl⟩ | ⟨ac, rfl, rfl, rfl⟩ | ⟨kt, rfl, rfl, rfl⟩ := hi
  · exact ⟨_, fun s => rfl, .inl ⟨fun _ h => by injection h, rfl⟩⟩
  · exact ⟨_, fun s => rfl, .inr ⟨⟨a, rfl⟩, lutmmEffect_eq a x s1⟩⟩
  · exact ⟨_, fun s => rfl, .inl ⟨fun _ h => by injection h, rfl⟩⟩
  · exact ⟨_, fun s => rfl, .inl ⟨fun _ h => by injection h, rfl⟩⟩
  · exact ⟨_, fun s => rfl, .inl ⟨fun _ h => by injection h, rfl⟩⟩
theorem exec_lutmm_checks {t : State} (hd : engineIssue k pr bs x s1 = .done t) (hm : ∃ a, i = .lutmm g a) :
    ∃ eff, (∀ s, exec i s = s.issueWord i false eff) ∧ eff x s1 = x.checks pr (.done t) := by
  obtain ⟨eff, he, ⟨hn, -⟩ | ⟨-, hx⟩⟩ := exec_entersAs hi
  · obtain ⟨a, ha⟩ := hm
    exact absurd ha (hn a)
  · exact ⟨eff, he, hx.trans (by rw [hd])⟩
variable (h : s.ready i = some (x, s1))
include h
theorem exec_entersAs_asks {n : Nat} (ha : engineIssue k pr bs x s1 = .asks n) : ∃ s0, s.issueOf i = some (x, s0) ∧ exec i s = .next (s0.askLeave x.key n) := by
  obtain ⟨eff, he, heff⟩ := exec_entersAs hi
  rw [he]
  refine issueWord_asks h ?_
  obtain ⟨-, hx⟩ | ⟨-, hx⟩ := heff <;> rw [hx, ha]
  rfl
theorem exec_entersAs_waits {l : Option Nat} (ha : engineIssue k pr bs x s1 = .waits l) : ∃ s0, s.issueOf i = some (x, s0) ∧ exec i s = .next (s0.waitWord x l) := by
  obtain ⟨eff, he, heff⟩ := exec_entersAs hi
  rw [he]
  refine issueWord_waits h ?_
  obtain ⟨-, hx⟩ | ⟨-, hx⟩ := heff <;> rw [hx, ha]
  rfl
variable {t : State} (hd : engineIssue k pr bs x s1 = .done t)
include hd
theorem exec_entersAs_done (hn : ∀ a, i ≠ .lutmm g a) : exec i s = .next (t.advance x.key x.path.id) := by
  obtain ⟨eff, he, ⟨-, hx⟩ | ⟨⟨a, ha⟩, -⟩⟩ := exec_entersAs hi
  · rw [he]
    exact issueWord_done h (hx.trans hd)
  · exact absurd ha (hn a)
variable (hm : ∃ a, i = .lutmm g a)
include hm
theorem exec_lutmm_starts {o : EngineOp} (hs : t.startable (x.queueCore pr) = some o) (ho : o.order + 1 = t.seq) (hok : t.tableOk (x.queueCore pr) o = true) :
    exec i s = .next ((t.startOp (x.queueCore pr) o).advance x.key x.path.id) := by
  obtain ⟨eff, he, hx⟩ := exec_lutmm_checks hi hd hm
  rw [he]
  exact issueWord_done h (hx.trans (by simp only [Issue.checks, hs, ho, hok, if_true]))
theorem exec_lutmm_stale {o : EngineOp} (hs : t.startable (x.queueCore pr) = some o) (ho : o.order + 1 = t.seq) (hok : t.tableOk (x.queueCore pr) o = false) :
    ∃ s0, s.issueOf i = some (x, s0) ∧ exec i s = .next (s0.raise x (.of 0x30)) := by
  obtain ⟨eff, he, hx⟩ := exec_lutmm_checks hi hd hm
  rw [he]
  exact issueWord_trap h (hx.trans (by simp only [Issue.checks, hs, ho, hok, if_true, Bool.false_eq_true, if_false]))
theorem exec_lutmm_held (hs : t.startable (x.queueCore pr) = none ∨ ∃ o, t.startable (x.queueCore pr) = some o ∧ o.order + 1 ≠ t.seq) :
    exec i s = .next (t.hold x.key x.path.id .check) := by
  obtain ⟨eff, he, hx⟩ := exec_lutmm_checks hi hd hm
  rw [he]
  refine issueWord_moved h (hx.trans ?_)
  obtain hs | ⟨o, hs, ho⟩ := hs
  · simp only [Issue.checks, hs]
  · simp only [Issue.checks, hs, ho, if_false]
end Entry

theorem State.queue_enqueue (s : State) (core : Nat) (o : EngineOp) : ((s.enqueue core o).core core).engine.queue = (s.core core).engine.queue ++ [o] :=
  congrArg Engine.queue (s.engine_modEngine core fun e => { e with queue := e.queue ++ [o] })
/-- R171's check, bench by bench. -/
theorem State.tableOk_iff {s : State} {c kt fa fb ac tb : Nat} {h : Option (Nat × Nat)} {o : EngineOp} {u : Team} (hk : o.kind = .lutmm ac kt tb fa fb h) (hf : o.fault = false)
    (hu : tget s.teams o.gang.team = some u) : s.tableOk c o = true ↔ ∀ b, b < o.benches →
      let r := tgetD u.records (u.baseSpan c + b, kt) .empty
      (r.st = .valid ∨ r.st = .lost) ∧ r.fa = fa ∧ r.fb = fb := by
  simp [State.tableOk, hk, hf, hu, and_assoc]

/-- Settles O27: the causes come first, then the common issue's answers, leave, a full queue or barrier (log 83) and the entry, which LUTMM checks. -/
theorem engineOperationsEnterTheQueue : Obligations.EngineOperationsEnterTheQueue := by
  refine ⟨fun s x g i pr bs hi h hl hs ha => ⟨exec_entersQueue_pairRole hi h hl hs ha, fun c hp hn => exec_entersQueue_jobNames hi h hl hs ha hp hn⟩,
    fun x s b => ⟨Issue.pairRole_true_iff, rfl, Issue.jobNames_barrier b⟩,
    fun s s1 x g i k pr bs hi h => ⟨fun bar hr hn hu hl => ?asks, fun bar hr hn hf hl => ?waits, fun bar t hr hn hq hb hl => ?enters⟩,
    fun t c kt fa fb ac tb h o u hk hf hu => State.tableOk_iff hk hf hu⟩
  case asks => exact exec_entersAs_asks hi h (engineIssue_asks hr hn hu hl)
  case waits => exact exec_entersAs_waits hi h (engineIssue_waits hr hn hf hl)
  case enters =>
    have hd := engineIssue_enters hr hn hq hb hl
    exact ⟨State.queue_enqueue .., exec_entersAs_done hi h hd, fun hm => ⟨fun o => exec_lutmm_starts hi h hd hm, fun o => exec_lutmm_stale hi h hd hm, exec_lutmm_held hi h hd hm⟩⟩

end Sys2Proof.Machine
end

section
/-! PROOFS. The first cause that the lanes of a memory instruction meet, and the lanes that met it (R182, R189, R264, R266, R270, R309) (O23). -/
namespace Sys2Proof.Machine

-- The first cause in the order (R189, R270)

/-- A fold that keeps the lower of its two arguments ends at one that no element of its list is below. -/
theorem foldl_least {β : Type} {f : Option β → β → Option β} (rank : β → Nat)
    (hf : ∀ b e, ∃ r, f b e = some r ∧ rank r ≤ rank e ∧ ∀ c, b = some c → rank r ≤ rank c) {l : List β} {b : Option β} {r : β} (h : l.foldl f b = some r) :
    (∀ e ∈ l, rank r ≤ rank e) ∧ ∀ c, b = some c → rank r ≤ rank c := by
  induction l generalizing b with
  | nil => exact ⟨fun e he => absurd he List.not_mem_nil, fun c hc => by cases hc.symm.trans h; exact le_rfl⟩
  | cons e l ih =>
    obtain ⟨d, hd, hde, hdb⟩ := hf b e
    obtain ⟨hl, hb⟩ := ih h
    have hrd := hb d hd
    exact ⟨List.forall_mem_cons.2 ⟨hrd.trans hde, hl⟩, fun c hc => hrd.trans (hdb c hc)⟩

/-- A fault has the cause of a lane whose place in the order is the first, and names every lane of that cause. -/
theorem worstBad_eq_some {bad : List Bad} {f : LaneFault} (h : worstBad bad = some f) : ∃ b ∈ bad, (∀ e ∈ bad, b.rank ≤ e.rank) ∧ f.cause = b.f.cause ∧
    f.mask = maskOf ((bad.filter fun e => e.f.cause = b.f.cause).map Bad.lane) ∧ f.faulting = (bad.filter fun e => e.f.cause = b.f.cause).map fun e => (e.lane, e.va) := by
  unfold worstBad at h
  generalize hr : List.foldl _ none bad = r at h
  cases r with
  | none => cases h
  | some b =>
    have hmem : b ∈ bad := by
      rcases foldl_picks hr (by
        rintro (_ | c) e
        · exact .inl rfl
        · exact (ite_eq_or_eq (e.rank < c.rank) (some e) (some c)).imp_right fun h => ⟨rfl, h⟩) with ⟨c, hc, hbc⟩ | ⟨hn, -⟩
      · cases hbc
        exact hc
      · cases hn
    have hleast := (foldl_least Bad.rank (by
      rintro (_ | c) e
      · exact ⟨e, rfl, le_rfl, fun c hc => by cases hc⟩
      · by_cases hlt : e.rank < c.rank
        · exact ⟨e, if_pos hlt, le_rfl, fun d hd => by cases hd; exact hlt.le⟩
        · exact ⟨c, if_neg hlt, Nat.le_of_not_lt hlt, fun d hd => by cases hd; exact le_rfl⟩) hr).1
    refine ⟨b, hmem, hleast, ?_⟩
    simp only at h
    split at h
    · cases h
    · rename_i hthose
      cases h
      exact ⟨rfl, by rw [hthose], by rw [hthose]⟩

section Checks
variable {s : State} {k : GangKey} {m : MemOp} {addrs : Tbl Nat Nat} {f : LaneFault}
/-- The lanes that meet a cause, each with its place in the order. -/
theorem State.checkLanes_bad (h : s.checkLanes k m addrs = .error f) : ∃ bad, worstBad bad = some f ∧
    ∀ b, b ∈ bad ↔ (b.lane, b.va) ∈ addrs ∧ s.checkLane k m b.va = .error b.f ∧ b.rank = causeRank b.f.cause := by
  unfold State.checkLanes at h
  simp only at h
  split at h
  · rename_i hbad
    cases h
    refine ⟨_, hbad, fun b => ?_⟩
    simp only [List.mem_map, List.mem_filterMap]
    constructor
    · rintro ⟨⟨l, va, e⟩, ⟨_, ⟨⟨l', va'⟩, ha, rfl⟩, he⟩, rfl⟩
      cases hc : s.checkLane k m va' with
      | ok p => simp [hc] at he
      | error c =>
        simp only [hc, Option.some.injEq, Prod.mk.injEq] at he
        obtain ⟨rfl, rfl, rfl⟩ := he
        exact ⟨ha, hc, rfl⟩
    · rintro ⟨ha, hc, hr⟩
      exact ⟨(b.lane, b.va, b.f), ⟨_, ⟨_, ha, rfl⟩, by simp only [hc]⟩, by rw [← hr]⟩
  · cases h

variable (h : s.checkLanes k m addrs = .error f)
include h
theorem State.checkLanes_faulting (l va : Nat) : (l, va) ∈ f.faulting ↔ (l, va) ∈ addrs ∧ ∃ e, s.checkLane k m va = .error e ∧ e.cause = f.cause := by
  obtain ⟨bad, hw, hbad⟩ := State.checkLanes_bad h
  obtain ⟨b, -, -, hcause, -, hfaulting⟩ := worstBad_eq_some hw
  simp only [hfaulting, hcause, List.mem_map, List.mem_filter, hbad, decide_eq_true_eq]
  constructor
  · rintro ⟨c, ⟨⟨ha, hc, -⟩, hcb⟩, hlv⟩
    cases hlv
    exact ⟨ha, c.f, hc, hcb⟩
  · rintro ⟨ha, e, he, hcb⟩
    exact ⟨⟨l, va, causeRank e.cause, e⟩, ⟨⟨ha, he, rfl⟩, hcb⟩, rfl⟩
theorem State.checkLanes_mask {l : Nat} (hl : l < 64) : f.mask.getLsbD l = true ↔ ∃ va, (l, va) ∈ addrs ∧ ∃ e, s.checkLane k m va = .error e ∧ e.cause = f.cause := by
  obtain ⟨bad, hw, hbad⟩ := State.checkLanes_bad h
  obtain ⟨b, -, -, hcause, hmask, hfaulting⟩ := worstBad_eq_some hw
  have hlanes : f.mask = maskOf (f.faulting.map Prod.fst) := by rw [hmask, hfaulting, List.map_map]; rfl
  simp only [hlanes, getLsbD_maskOf _ hl, decide_eq_true_eq, List.mem_map, Prod.exists, ← State.checkLanes_faulting h, exists_and_right, exists_eq_right]
theorem State.checkLanes_rank {l va : Nat} {e : MFault} (ha : (l, va) ∈ addrs) (he : s.checkLane k m va = .error e) : causeRank f.cause ≤ causeRank e.cause := by
  obtain ⟨bad, hw, hbad⟩ := State.checkLanes_bad h
  obtain ⟨b, hb, hleast, hcause, -⟩ := worstBad_eq_some hw
  have hrank := hleast ⟨l, va, causeRank e.cause, e⟩ ((hbad _).2 ⟨ha, he, rfl⟩)
  obtain ⟨-, -, hplace⟩ := (hbad b).1 hb
  rwa [hplace, ← hcause] at hrank
end Checks

-- The instruction (R264, R266, R267)

section Raise
variable {s s1 : State} {x : Issue} {i : Instr} {m : MemOp} {f : LaneFault} (hm : i.memOp = some m) (h : s.ready i = some (x, s1))
include hm h
theorem exec_memOp_restarts {t : MTrap} (he : memEffect i m x s1 = .mfault t) (hc : t.cause ≠ 0x61) : exec i s = .next (s1.memFault x i.lookahead t) := by
  rw [exec_memOp hm]
  exact issueWord_mfault h he hc
theorem exec_memOp_fenced {t : MTrap} (he : memEffect i m x s1 = .mfault t) (hc : t.cause = 0x61) :
    ∃ s0, s.issueOf i = some (x, s0) ∧ exec i s = .next (s0.raiseLanes x t) := by
  rw [exec_memOp hm]
  exact issueWord_lanes h he hc
end Raise

-- One lane's address (R182, R198, R309, R368)

section Lane
variable (s : State) (k : GangKey) {m : MemOp} (va : Nat)
theorem State.checkLane_local (h : m.space = .local) : s.checkLane k m va =
    if (s.team k.team).holds (s.grid (s.team k.team).grid).launch va = false then .error ⟨0x11, none⟩
    else if va % m.w ≠ 0 then .error ⟨0x14, none⟩ else .ok (.scratch (s.team k.team).core va) := by
  simp only [State.checkLane, h, State.localLoc]
  cases (s.team k.team).holds (s.grid (s.team k.team).grid).launch va <;> rfl
theorem State.checkLane_peer_error {e : MFault} (h : m.space = .peer) (hp : s.peerLoc (s.team k.team).ctx va = .error e) : s.checkLane k m va = .error e := by
  simp only [State.checkLane, h, hp]
theorem State.checkLane_peer_ok {l : Loc} (h : m.space = .peer) (hp : s.peerLoc (s.team k.team).ctx va = .ok l) :
    s.checkLane k m va = if va % m.w ≠ 0 then .error ⟨0x14, none⟩ else .ok l := by
  simp only [State.checkLane, h, hp]
/-- A PEER value names an allocation of a team of the context on a core of the partition (R182, R309) (log 46, log 47). -/
def State.peerHeld (s : State) (c : CtxKey) (v : Nat) : Prop :=
  bitsAt v 19 13 = 0 ∧ bitsAt v 43 21 = 0 ∧ (s.part c.part).ownsCore (bitsAt v 32 11) = true ∧
    ((∃ e ∈ s.teams, e.2.ctx = c ∧ e.2.core = bitsAt v 32 11 ∧ e.2.res = .placed ∧ e.2.holds (s.grid e.2.grid).launch (v % 2 ^ 19) = true) ∨
      ∃ e ∈ s.pkg.fencedTeams, e.ctx = c ∧ e.core = bitsAt v 32 11 ∧ e.base ≤ v % 2 ^ 19 ∧ v % 2 ^ 19 < e.base + e.size)
theorem State.peerLoc_not_held {c : CtxKey} (h : ¬ s.peerHeld c va) : s.peerLoc c va = .error ⟨0x11, none⟩ := by
  refine if_pos ?_
  contrapose! h
  simpa [State.peerHeld, and_assoc, or_iff_not_imp_left] using h
theorem State.peerLoc_held {c : CtxKey} (h : s.peerHeld c va) : s.peerLoc c va =
    if s.pkg.fenced.contains (dieOf (bitsAt va 32 11)) = true then .error ⟨0x61, none⟩ else .ok (.scratch (bitsAt va 32 11) (va % 2 ^ 19)) := by
  refine if_neg ?_
  simpa [State.peerHeld, and_assoc, or_iff_not_imp_left] using h
end Lane

/-- Settles O23: the lanes' causes are those of each lane's check, the first of them raised; the word's trap and the checks' cases are their definitions'. -/
theorem memoryFaultsAreRestartable : Obligations.MemoryFaultsAreRestartable := by
  refine ⟨fun s s1 x i m f hm h => ?lanes, fun s k m va => ⟨s.checkLane_local k va, fun hp => ?peer⟩⟩
  case lanes =>
    intro addrs data herr
    have heff : memEffect i m x s1 = .mfault (f.trap addrs data m.kind i.counter (x.dests i)) := by
      simp only [addrs] at herr
      simp only [memEffect, herr]
      rfl
    refine ⟨fun hc => exec_memOp_restarts hm h heff hc, fun hc => ?fenced, State.checkLanes_faulting herr, fun l va ha hl => ?mask, fun l va e ha he => State.checkLanes_rank herr ha he⟩
    case fenced =>
      obtain ⟨s0, h0, hx⟩ := exec_memOp_fenced hm h heff hc
      refine ⟨s0, h0, hx.trans ?_⟩
      simp only [State.raiseLanes, LaneFault.trap, hc]
    case mask =>
      have hva : ∀ va', (l, va') ∈ addrs ↔ va' = va := fun va' => by
        simp only [addrs, List.mem_map, Prod.mk.injEq] at ha ⊢
        obtain ⟨l', hl', rfl, rfl⟩ := ha
        exact ⟨fun ⟨_, _, hll, hv⟩ => by rw [← hv, hll], fun hv => ⟨l', hl', rfl, hv.symm⟩⟩
      simp only [State.checkLanes_mask herr hl, hva, exists_eq_left]
  case peer =>
    exact ⟨fun hn => s.checkLane_peer_error k va hp (s.peerLoc_not_held va hn), fun hy hf => s.checkLane_peer_error k va hp ((s.peerLoc_held va hy).trans (if_pos hf)),
      fun hy hf => s.checkLane_peer_ok k va hp ((s.peerLoc_held va hy).trans (if_neg (Bool.eq_false_iff.1 hf)))⟩

end Sys2Proof.Machine
end

section
/-! PROOFS. The L1 copies that stand in memory's place: what a key domain reads while one core's copies of a line are filled, written, written back and dropped (R189 to R191, R195). -/
namespace Sys2Proof.Machine

-- The cores' records

theorem tgetD_of_mem {κ ν : Type} [DecidableEq κ] {t : Tbl κ ν} (hn : (t.map Prod.fst).Nodup) {e : κ × ν} (he : e ∈ t) (d : ν) : tgetD t e.1 d = e.2 := by
  induction t with
  | nil => exact absurd he List.not_mem_nil
  | cons x t ih =>
    rw [List.map_cons, List.nodup_cons] at hn
    rw [tgetD, tget_cons]
    rcases List.mem_cons.1 he with rfl | ht
    · rw [if_pos rfl]
      rfl
    · rw [if_neg fun hx => hn.1 (List.mem_map.2 ⟨e, ht, hx.symm⟩)]
      exact ih hn.2 ht
theorem mem_tset_iff {κ ν : Type} [DecidableEq κ] {t : Tbl κ ν} {k : κ} {v : ν} {e : κ × ν} : e ∈ tset t k v ↔ e = (k, v) ∨ (e ∈ t ∧ e.1 ≠ k) := by
  simp [tset, terase]
theorem nodup_keys_tset {κ ν : Type} [DecidableEq κ] {t : Tbl κ ν} (hn : (t.map Prod.fst).Nodup) (k : κ) (v : ν) : ((tset t k v).map Prod.fst).Nodup := by
  rw [tset, List.map_cons, List.nodup_cons]
  exact ⟨by simp [terase], (List.filter_sublist.map Prod.fst).nodup hn⟩

theorem State.mem_cores_of_dirty {s : State} {c n : Nat} (h : n ∈ (s.core c).dirty) : (c, s.core c) ∈ s.cores := by
  unfold State.core tgetD at h ⊢
  cases hc : tget s.cores c with
  | none => simp [hc, Core.initial] at h
  | some x => exact mem_of_tget hc

-- Dirty sectors, each in one L1 (R190, R195)

/-- A dirty sector stands whole and without a lease in one L1; one of the line stands in core's, under the line's key domain. -/
structure CopiesStand (cores : Tbl Nat Core) (core kd line : Nat) : Prop where
  nodup : (cores.map Prod.fst).Nodup
  alone : ∀ e ∈ cores, ∀ e' ∈ cores, ∀ n ∈ e.2.dirty, n ∈ e'.2.dirty → e.1 = e'.1
  held : ∀ e ∈ cores, ∀ n ∈ e.2.dirty, ∃ c, tget e.2.l1 n = some c ∧ c.leased = false ∧ (n / 4 = line → e.1 = core ∧ c.kd = kd ∧ c.bytes.length = 256)

section Stand
variable {cores : Tbl Nat Core} {core kd line : Nat} (h : CopiesStand cores core kd line)
include h
/-- Changes of every core that leave the dirty sectors dirty, each with its key domain, its size and no lease. -/
theorem CopiesStand.map {g : Nat × Core → Core} (hd : ∀ e ∈ cores, (g e).dirty = e.2.dirty)
    (hl : ∀ e ∈ cores, ∀ n ∈ e.2.dirty, ∀ c, tget e.2.l1 n = some c → c.leased = false →
      ∃ c', tget (g e).l1 n = some c' ∧ c'.leased = false ∧ c'.kd = c.kd ∧ c'.bytes.length = c.bytes.length) :
    CopiesStand (cores.map fun e => (e.1, g e)) core kd line where
  nodup := by
    rw [List.map_map]
    exact h.nodup
  alone := by
    simp only [List.forall_mem_map]
    intro e he e' he' n hn hn'
    exact h.alone e he e' he' n (hd e he ▸ hn) (hd e' he' ▸ hn')
  held := by
    simp only [List.forall_mem_map]
    intro e he n hn
    rw [hd e he] at hn
    obtain ⟨c, hc, hu, hline⟩ := h.held e he n hn
    obtain ⟨c', hc', hu', hk, hlen⟩ := hl e he n hn c hc hu
    exact ⟨c', hc', hu', by rwa [hk, hlen]⟩
/-- A change of core's own record, whose dirty sectors are old ones or of the line. -/
theorem CopiesStand.set {x : Core} (hd : ∀ n ∈ x.dirty, n ∈ (tgetD cores core .initial).dirty ∨ n / 4 = line)
    (hl : ∀ n ∈ x.dirty, ∃ c, tget x.l1 n = some c ∧ c.leased = false ∧ (n / 4 = line → c.kd = kd ∧ c.bytes.length = 256)) :
    CopiesStand (tset cores core x) core kd line where
  nodup := nodup_keys_tset h.nodup core x
  alone := by
    have hx : ∀ e ∈ cores, ∀ n ∈ x.dirty, n ∈ e.2.dirty → e.1 = core := fun e he n hn hn' => by
      obtain ho | hline := hd n hn
      · have hm := State.mem_cores_of_dirty (s := { State.reset with cores := cores }) ho
        exact h.alone e he _ hm n hn' ho
      · obtain ⟨_, -, -, hc⟩ := h.held e he n hn'
        exact (hc hline).1
    intro e he e' he' n hn hn'
    obtain rfl | ⟨he, hne⟩ := mem_tset_iff.1 he <;> obtain rfl | ⟨he', hne'⟩ := mem_tset_iff.1 he'
    · rfl
    · exact absurd (hx e' he' n hn hn') hne'
    · exact absurd (hx e he n hn' hn) hne
    · exact h.alone e he e' he' n hn hn'
  held := by
    intro e he n hn
    obtain rfl | ⟨he, -⟩ := mem_tset_iff.1 he
    · obtain ⟨c, hc, hu, hline⟩ := hl n hn
      exact ⟨c, hc, hu, fun h4 => ⟨rfl, hline h4⟩⟩
    · exact h.held e he n hn
end Stand

/-- The byte that a core's L1 shows in the place of memory's byte b. -/
def Core.readOver (c : Core) (kd a : Nat) (b : Byte) : Byte := ((c.dirtyCopy kd a).map Sector.bytes).elim b fun bs => bs.getD (a % 256) 0
theorem Core.readOver_of_clean {c : Core} {a : Nat} (h : sectorOf a ∉ c.dirty) (kd : Nat) (b : Byte) : c.readOver kd a b = b := by
  rw [Core.readOver, Core.dirtyCopy_of_clean h]
  rfl
theorem Core.readOver_of_dirty {c : Core} {kd a : Nat} {x : Sector} (h : sectorOf a ∈ c.dirty) (hx : tget c.l1 (sectorOf a) = some x) (hk : x.kd = kd) (b : Byte) :
    c.readOver kd a b = x.bytes.getD (a % 256) 0 := by
  rw [Core.readOver, Core.dirtyCopy_of_dirty h, hx]
  simp [Option.filter, hk]
theorem Core.readOver_congr {c c' : Core} {a : Nat} (hd : sectorOf a ∈ c'.dirty ↔ sectorOf a ∈ c.dirty)
    (hl : sectorOf a ∈ c.dirty → tget c'.l1 (sectorOf a) = tget c.l1 (sectorOf a)) (kd : Nat) (b : Byte) : c'.readOver kd a b = c.readOver kd a b := by
  by_cases h : sectorOf a ∈ c.dirty
  · rw [Core.readOver, Core.readOver, Core.dirtyCopy_of_dirty h, Core.dirtyCopy_of_dirty (hd.2 h), hl h]
  · rw [Core.readOver_of_clean h, Core.readOver_of_clean (mt hd.1 h)]

section Alone
variable {s : State} {core kd line : Nat} {f : Core → Core}
theorem State.core_eq_of_mem (hn : (s.cores.map Prod.fst).Nodup) {e : Nat × Core} (he : e ∈ s.cores) : s.core e.1 = e.2 := tgetD_of_mem hn he _
/-- Where no other L1 holds a sector dirty, what core's shows is read. -/
theorem State.keyRead_alone (hn : (s.cores.map Prod.fst).Nodup) {c a : Nat} (h : ∀ e ∈ s.cores, e.1 ≠ c → sectorOf a ∉ e.2.dirty) (kd : Nat) :
    s.keyRead kd a = (s.core c).readOver kd a (s.memByte kd a) := by
  have hd : s.dirtyCopy kd a = (s.core c).dirtyCopy kd a := by
    rw [State.dirtyCopy_eq]
    by_cases hc : sectorOf a ∈ (s.core c).dirty
    · have hother : ∀ e ∈ s.cores, e.2.dirtyCopy kd a = none ∨ e.2.dirtyCopy kd a = (s.core c).dirtyCopy kd a := fun e he => by
        rcases eq_or_ne e.1 c with rfl | hne
        · exact .inr (by rw [State.core_eq_of_mem hn he])
        · exact .inl (Core.dirtyCopy_of_clean (h e he hne) kd)
      cases hf : s.cores.findSome? fun e => e.2.dirtyCopy kd a with
      | none => exact ((List.findSome?_eq_none_iff.1 hf) _ (State.mem_cores_of_dirty hc)).symm
      | some y =>
        obtain ⟨e, he, hy⟩ := List.exists_of_findSome?_eq_some hf
        exact hy.symm.trans ((hother e he).resolve_left (by simp [hy]))
    · rw [Core.dirtyCopy_of_clean hc, List.findSome?_eq_none_iff]
      intro e he
      rcases eq_or_ne e.1 c with rfl | hne
      · exact Core.dirtyCopy_of_clean (State.core_eq_of_mem hn he ▸ hc) kd
      · exact Core.dirtyCopy_of_clean (h e he hne) kd
  rw [State.keyRead_eq, hd]
  rfl
/-- A change of core's record: a sector that another L1 holds dirty is read as before, every other one as core's L1 shows it. -/
theorem State.keyRead_modCore (hs : CopiesStand s.cores core kd line) (ht : CopiesStand (s.modCore core f).cores core kd line) (a : Nat) :
    ((∃ e ∈ s.cores, e.1 ≠ core ∧ sectorOf a ∈ e.2.dirty) ∧ (s.modCore core f).keyRead kd a = s.keyRead kd a) ∨
    (s.keyRead kd a = (s.core core).readOver kd a (s.memByte kd a) ∧ (s.modCore core f).keyRead kd a = (f (s.core core)).readOver kd a (s.memByte kd a)) := by
  by_cases h : ∃ e ∈ s.cores, e.1 ≠ core ∧ sectorOf a ∈ e.2.dirty
  · refine .inl ⟨h, ?_⟩
    obtain ⟨e, he, hne, ha⟩ := h
    have he' : e ∈ (s.modCore core f).cores := mem_tset_iff.2 (.inr ⟨he, hne⟩)
    rw [State.keyRead_alone hs.nodup (c := e.1) fun e' h' hne' ha' => hne' (hs.alone e' h' e he _ ha' ha),
      State.keyRead_alone ht.nodup (c := e.1) fun e' h' hne' ha' => hne' (ht.alone e' h' e he' _ ha' ha), State.core_modCore_ne s f hne]
    rfl
  · have hother : ∀ e ∈ s.cores, e.1 ≠ core → sectorOf a ∉ e.2.dirty := fun e he hne ha => h ⟨e, he, hne, ha⟩
    refine .inr ⟨State.keyRead_alone hs.nodup hother kd, ?_⟩
    rw [State.keyRead_alone ht.nodup (c := core) fun e he hne => (mem_tset_iff.1 he).elim (fun hx => absurd (congrArg Prod.fst hx) hne) fun hx => hother e hx.1 hne,
      State.core_modCore]
    rfl
end Alone

-- What is read, and what stands in the scratchpads

/-- The copies stand as above, a key domain reads the bytes of view, and the scratchpads hold pads. -/
def State.Shows (s : State) (core kd line : Nat) (view : Nat → Byte) (pads : Nat → Memory) : Prop :=
  CopiesStand s.cores core kd line ∧ (∀ a, s.keyRead kd a = view a) ∧ ∀ d, (s.core d).scratch = pads d

theorem State.shows_of_copiesAgree {s : State} {core kd pa : Nat} (h : s.copiesAgree core kd pa) :
    s.Shows core kd (lineOf pa) (s.keyRead kd) (fun d => (s.core d).scratch) := by
  obtain ⟨hnodup, halone, hheld, hbytes⟩ := h
  refine ⟨⟨hnodup, halone, fun e he n hn => ?_⟩, fun _ => rfl, fun _ => rfl⟩
  obtain ⟨c, hc, hu, hline⟩ := hheld e he n hn
  refine ⟨c, hc, hu, fun h4 => ?_⟩
  obtain ⟨rfl, hk⟩ := hline h4
  rw [← State.core_eq_of_mem hnodup he] at hc
  exact ⟨rfl, hk, by rw [hbytes n c h4 hc hu hk, List.length_map, List.length_range]⟩

section Shows
variable {s : State} {core kd line : Nat} {view : Nat → Byte} {pads : Nat → Memory} (h : s.Shows core kd line view pads)
include h
theorem State.Shows.of_view {view' : Nat → Byte} (hv : ∀ a, view a = view' a) : s.Shows core kd line view' pads := (funext hv : view = view') ▸ h
theorem State.Shows.held {n : Nat} (hn : n ∈ (s.core core).dirty) : ∃ c, tget (s.core core).l1 n = some c ∧ c.leased = false ∧ (n / 4 = line → c.kd = kd ∧ c.bytes.length = 256) := by
  obtain ⟨hstand, -, -⟩ := h
  obtain ⟨c, hc, hu, hline⟩ := hstand.held _ (State.mem_cores_of_dirty hn) n hn
  exact ⟨c, hc, hu, fun h4 => (hline h4).2⟩
theorem State.Shows.clean_of_leased {n : Nat} {c : Sector} (hc : tget (s.core core).l1 n = some c) (hl : c.leased = true) : n ∉ (s.core core).dirty := fun hn => by
  obtain ⟨c', hc', hu, -⟩ := h.held hn
  cases hc.symm.trans hc'
  exact absurd hl (by simp [hu])
theorem State.Shows.dirtyUnleased : s.dirtyUnleased := fun e he n hn c hc => by
  obtain ⟨hstand, -, -⟩ := h
  obtain ⟨c', hc', hu, -⟩ := hstand.held e he n hn
  cases hc.symm.trans hc'
  exact hu

/-- Copies that core's L1 takes in or drops beside its dirty ones change nothing that is read. -/
theorem State.Shows.setCopies (f : Core → Core) (hd : (f (s.core core)).dirty = (s.core core).dirty) (hs : (f (s.core core)).scratch = (s.core core).scratch)
    (hl : ∀ n ∈ (s.core core).dirty, tget (f (s.core core)).l1 n = tget (s.core core).l1 n) : (s.modCore core f).Shows core kd line view pads := by
  have hheld : ∀ n ∈ (s.core core).dirty, _ := fun _ hn => h.held hn
  obtain ⟨hstand, hread, hpads⟩ := h
  have ht : CopiesStand (s.modCore core f).cores core kd line := hstand.set (fun n hn => .inl (hd ▸ hn)) fun n hn => by
    rw [hd] at hn
    rw [hl n hn]
    exact hheld n hn
  refine ⟨ht, fun a => ?_, fun d => ?_⟩
  · obtain ⟨-, he⟩ | ⟨ho, hn⟩ := State.keyRead_modCore hstand ht a
    · exact he.trans (hread a)
    · rw [hn, Core.readOver_congr (by rw [hd]) (hl _), ← ho, hread]
  · rcases eq_or_ne d core with rfl | hne
    · rw [State.core_modCore, hs, hpads]
    · rw [State.core_modCore_ne s f hne, hpads]
/-- A sector of the line changed in core's L1: it is read as that L1 then shows it, and every other one as before. -/
theorem State.Shows.setSector {n : Nat} (hn : n / 4 = line) (f : Core → Core) (hs : (f (s.core core)).scratch = (s.core core).scratch)
    (hd : ∀ m, m ≠ n → (m ∈ (f (s.core core)).dirty ↔ m ∈ (s.core core).dirty)) (hl : ∀ m ∈ (s.core core).dirty, m ≠ n → tget (f (s.core core)).l1 m = tget (s.core core).l1 m)
    (hc : n ∈ (f (s.core core)).dirty → ∃ c, tget (f (s.core core)).l1 n = some c ∧ c.leased = false ∧ c.kd = kd ∧ c.bytes.length = 256) :
    (s.modCore core f).Shows core kd line (fun a => if sectorOf a = n then (f (s.core core)).readOver kd a (s.memByte kd a) else view a) pads := by
  have hheld : ∀ n ∈ (s.core core).dirty, _ := fun _ hn => h.held hn
  obtain ⟨hstand, hread, hpads⟩ := h
  have ht : CopiesStand (s.modCore core f).cores core kd line := by
    refine hstand.set (fun m hm => ?_) fun m hm => ?_
    · rcases eq_or_ne m n with rfl | hne
      · exact .inr hn
      · exact .inl ((hd m hne).1 hm)
    · rcases eq_or_ne m n with rfl | hne
      · obtain ⟨c, hc, hu, hk⟩ := hc hm
        exact ⟨c, hc, hu, fun _ => hk⟩
      · have hm' := (hd m hne).1 hm
        rw [hl m hm' hne]
        exact hheld m hm'
  refine ⟨ht, fun a => ?_, fun d => ?_⟩
  · dsimp only
    obtain ⟨⟨e, he, hne, ha⟩, hsame⟩ | ⟨ho, hnew⟩ := State.keyRead_modCore hstand ht a
    · have han : sectorOf a ≠ n := by
        rintro rfl
        obtain ⟨_, -, -, hline⟩ := hstand.held e he _ ha
        exact hne (hline hn).1
      rw [if_neg han, hsame, hread]
    · split
      · exact hnew
      · rename_i han
        rw [hnew, Core.readOver_congr (hd _ han) (fun ha => hl _ ha han), ← ho, hread]
  · rcases eq_or_ne d core with rfl | hne
    · rw [State.core_modCore, hs, hpads]
    · rw [State.core_modCore_ne s f hne, hpads]
end Shows

/-- The bytes of a view with some put at an address. -/
def putBytes (view : Nat → Byte) (pa : Nat) (bs : List Byte) (a : Nat) : Byte := if pa ≤ a ∧ a < pa + bs.length then bs.getD (a - pa) 0 else view a
theorem putBytes_cons (view : Nat → Byte) (pa : Nat) (b : Byte) (bs : List Byte) :
    putBytes (fun a => if a = pa then b else view a) (pa + 1) bs = putBytes view pa (b :: bs) := by
  funext a
  simp only [putBytes, List.length_cons]
  by_cases h0 : a = pa
  · subst h0; simp
  · by_cases h1 : pa + 1 ≤ a ∧ a < pa + 1 + bs.length
    · rw [if_pos h1, if_pos (by omega), show a - pa = (a - (pa + 1)) + 1 by omega, List.getD_cons_succ]
    · rw [if_neg h1, if_neg h0, if_neg (by omega)]

theorem Sector.getD_put {c : Sector} (hc : c.bytes.length = 256) {pa a : Nat} (hs : sectorOf a = sectorOf pa) (b : Byte) :
    (c.put pa b).bytes.getD (a % 256) 0 = if a = pa then b else c.bytes.getD (a % 256) 0 := by
  have hap : pa % 256 = a % 256 ↔ a = pa := by simp only [sectorOf] at hs; omega
  simp only [Sector.put, List.getD_eq_getElem?_getD, List.getElem?_set, hap, hc]
  split
  · rw [if_pos (Nat.mod_lt _ (by norm_num))]
    rfl
  · rfl

theorem State.dirtyCopy_keyWrite (s : State) (kd' pa' : Nat) (b : Byte) (kd pa : Nat) : (s.keyWrite kd' pa' b).dirtyCopy kd pa =
    (s.dirtyCopy kd pa).map fun x => if sectorOf pa = sectorOf pa' && !x.leased && x.kd = kd' then x.put pa' b else x := by
  obtain ⟨m, l, h⟩ := s.keyWrite_frame kd' pa' b
  simp only [State.dirtyCopy_eq, h, List.findSome?_map, List.map_findSome?]
  congr 1
  funext e
  exact e.2.dirtyCopy_patch kd pa kd' pa' b
theorem State.core_keyWrite (s : State) (kd pa : Nat) (b : Byte) (c : Nat) : (s.keyWrite kd pa b).core c = (s.core c).patch kd pa b := by
  obtain ⟨m, l, h⟩ := s.keyWrite_frame kd pa b
  have hm : tget (s.cores.map fun e => (e.1, e.2.patch kd pa b)) c = (tget s.cores c).map fun x => x.patch kd pa b := by
    simpa [tmap] using tget_tmap s.cores (fun _ _ => true) (fun x => x.patch kd pa b) c
  simp only [h, State.core, tgetD, hm]
  cases tget s.cores c <;> rfl

theorem State.core_rebase (s : State) (p c : Nat) : (s.rebase p).core c = if (s.part p).ownsCore c then (s.core c).rebase (s.rebaseBy p) else s.core c := by
  rw [State.core, State.rebase_cores, tgetD, tget_tmap, State.core, tgetD]
  cases tget s.cores c with
  | none => exact (ite_self Core.initial).symm
  | some x => rfl

/-- A copy found in memory's place is of the key domain that reads. -/
theorem CopiesStand.dirtyCopy {s : State} {core kd line : Nat} (h : CopiesStand s.cores core kd line) {a : Nat} {x : Sector} (hx : s.dirtyCopy kd a = some x) :
    x.leased = false ∧ x.kd = kd ∧ (lineOf a = line → x.bytes.length = 256) := by
  obtain ⟨e, he, hex⟩ := List.exists_of_findSome?_eq_some (s.dirtyCopy_eq kd a ▸ hx)
  have hd : sectorOf a ∈ e.2.dirty := by
    by_contra hn
    simp [Core.dirtyCopy_of_clean hn] at hex
  rw [Core.dirtyCopy_of_dirty hd, Option.filter_eq_some_iff] at hex
  obtain ⟨hget, hkd⟩ := hex
  obtain ⟨c, hc, hu, hline⟩ := h.held e he _ hd
  cases hc.symm.trans hget
  refine ⟨hu, by simpa using hkd, fun hl => ?_⟩
  obtain ⟨-, -, hlen⟩ := hline (by rw [← hl, sectorOf, lineOf, Nat.div_div_eq_div_mul])
  exact hlen

section Shows
variable {s : State} {core kd line : Nat} {view : Nat → Byte} {pads : Nat → Memory} (h : s.Shows core kd line view pads)
include h
/-- A keyed write in the line (R191): the domain reads the byte written, in memory or in the copy that stands in its place. -/
theorem State.Shows.keyWrite {pa : Nat} (hl : lineOf pa = line) (b : Byte) : (s.keyWrite kd pa b).Shows core kd line (fun a => if a = pa then b else view a) pads := by
  obtain ⟨hstand, hread, hpads⟩ := h
  refine ⟨?_, fun a => ?_, fun d => by rw [State.core_keyWrite]; exact hpads d⟩
  · obtain ⟨m, l, hf⟩ := s.keyWrite_frame kd pa b
    rw [hf]
    refine hstand.map (g := fun e => e.2.patch kd pa b) (fun _ _ => rfl) fun e he n hn c hc hu => ?_
    rw [Core.patch, tget_tmap, hc]
    refine ⟨_, rfl, ?_⟩
    dsimp only
    split
    · exact ⟨hu, rfl, List.length_set⟩
    · exact ⟨hu, rfl, rfl⟩
  · have hkr := hread a
    rw [State.keyRead_eq] at hkr ⊢
    rw [State.dirtyCopy_keyWrite, State.memByte_keyWrite]
    cases hx : s.dirtyCopy kd a with
    | none =>
      rw [hx] at hkr
      exact if_congr Iff.rfl rfl hkr
    | some x =>
      rw [hx] at hkr
      obtain ⟨hu, hk, hlen⟩ := hstand.dirtyCopy hx
      simp only [Option.map_some, Option.elim_some, hu, hk] at hkr ⊢
      by_cases hs : sectorOf a = sectorOf pa
      · have ha : lineOf a = line := by simp only [lineOf, sectorOf] at hl hs ⊢; omega
        simp only [hs, Bool.not_false, decide_true, Bool.and_self, if_true]
        rw [Sector.getD_put (hlen ha) hs, hkr]
      · have hne : a ≠ pa := fun he => hs (congrArg sectorOf he)
        simp only [hs, decide_false, Bool.false_and, Bool.false_eq_true, if_false, hne, hkr]
theorem State.Shows.keyWriteBytes {pa : Nat} {bs : List Byte} (hl : ∀ i < bs.length, lineOf (pa + i) = line) :
    (s.keyWriteBytes kd pa bs).Shows core kd line (putBytes view pa bs) pads := by
  induction bs generalizing s view pa with
  | nil =>
    exact h.of_view fun a => (if_neg (by simp only [List.length_nil]; omega)).symm
  | cons b bs ih =>
    have hb := h.keyWrite (hl 0 (Nat.succ_pos _)) b
    rw [← putBytes_cons]
    exact ih hb fun i hi => by rw [show pa + 1 + i = pa + (i + 1) by omega]; exact hl (i + 1) (Nat.succ_lt_succ hi)

/-- The times of a partition fall (R210). -/
theorem State.Shows.rebase (p : Nat) : (s.rebase p).Shows core kd line view pads := by
  have hu := h.dirtyUnleased
  obtain ⟨hstand, hread, hpads⟩ := h
  refine ⟨?_, fun a => (State.keyRead_rebase hu p kd a).trans (hread a), fun d => ?_⟩
  · have hc : (s.rebase p).cores = s.cores.map fun e => (e.1, if (s.part p).ownsCore e.1 then e.2.rebase (s.rebaseBy p) else e.2) := by
      rw [State.rebase_cores, tmap]
      refine List.map_congr_left fun e _ => ?_
      split <;> rfl
    rw [hc]
    refine hstand.map (fun e _ => by split <;> rfl) fun e he n hn c hc hl => ?_
    split
    · rw [Core.rebase_l1, tget_rebaseSectors (hu e he n hn), hc]
      exact ⟨_, rfl, hl, rfl, rfl⟩
    · exact ⟨c, hc, hl, rfl, rfl⟩
  · rw [← hpads d, State.core_rebase]
    split <;> rfl
end Shows

end Sys2Proof.Machine
end

section
/-! PROOFS. Loads, stores, atomics and CMNT on a page: what is read after each, through the L1 copies and at the home slice (R190, R195 to R197, R200, R206 to R211, R326). -/
namespace Sys2Proof.Machine

theorem tget_filter_of_get {κ ν : Type} [DecidableEq κ] {t : Tbl κ ν} {p : κ × ν → Bool} {k : κ} {v : ν} (h : tget t k = some v) (hp : p (k, v) = true) :
    tget (t.filter p) k = some v := by
  induction t with
  | nil => cases h
  | cons e t ih =>
    rw [tget_cons] at h
    rw [List.filter_cons]
    by_cases he : e.1 = k
    · rw [if_pos he, Option.some.injEq] at h
      obtain rfl := he
      obtain rfl := h
      rw [if_pos hp, tget_cons, if_pos rfl]
    · rw [if_neg he] at h
      split
      · rw [tget_cons, if_neg he, ih h]
      · exact ih h

theorem sectorOf_div (a : Nat) : sectorOf a / 4 = lineOf a := by simp only [sectorOf, lineOf]; omega

-- The times of loads and stores (R206, R210)

/-- A gang's accesses in flight, and the lanes that it has. -/
def Gang.flying (g : Gang) : List Flight × Nat := (g.flights, g.width)
theorem Gang.flying_pt (g : Gang) (n : Nat) : Gang.flying { g with pt := n } = g.flying := rfl
/-- The times of a load: a rebase where room is short, then the partition's record and the gang's program time (R206, R210). -/
theorem State.timeRead_frame (s : State) (k : GangKey) (lease key : Nat) :
    ∃ f n, s.timeRead k lease key = ((s.timeRoom (s.partOf k)).modPart (s.partOf k) f).setGang k { (s.timeRoom (s.partOf k)).gang k with pt := n } := ⟨_, _, rfl⟩
/-- The times of a gang's store: the partition's, then the gang's program time. -/
theorem State.gangStore_frame (s : State) (k : GangKey) (key : Nat) :
    ∃ t n, t = (s.timeStore (s.partOf k) (s.gang k).pt key).1 ∧ s.gangStore k key = t.setGang k { t.gang k with pt := n } := ⟨_, _, rfl, rfl⟩

section Times
variable {P : State → Prop} (hr : ∀ s p, P s → P (s.rebase p)) (hp : ∀ s p f, P s → P (s.modPart p f)) (hg : ∀ s k g, g.flying = (s.gang k).flying → P s → P (s.setGang k g))
include hr hp hg
/-- What a rebase, a change of a partition's record and a gang's new program time keep, the times of a gang's loads and stores keep (R206, R210). -/
theorem State.timeRead_keeps {s : State} (h : P s) (k : GangKey) (lease key : Nat) : P (s.timeRead k lease key) := by
  obtain ⟨f, n, he⟩ := s.timeRead_frame k lease key
  rw [he]
  exact hg _ _ _ (by rw [State.gang_modPart, Gang.flying_pt]) (hp _ _ _ (State.timeRoom_keeps hr h _))
theorem State.gangStore_keeps {s : State} (h : P s) (k : GangKey) (key : Nat) : P (s.gangStore k key) := by
  obtain ⟨t, n, ht, he⟩ := s.gangStore_frame k key
  rw [he]
  exact hg _ _ _ (Gang.flying_pt _ _) (ht ▸ State.timeStore_keeps hr hp h _ _ _)
end Times

section Shows
variable {s : State} {core kd line : Nat} {view : Nat → Byte} {pads : Nat → Memory} (h : s.Shows core kd line view pads)
include h
theorem State.Shows.timeRead (k : GangKey) (lease key : Nat) : (s.timeRead k lease key).Shows core kd line view pads :=
  State.timeRead_keeps (P := fun t => t.Shows core kd line view pads) (fun _ p h => h.rebase p) (fun _ _ _ h => h) (fun _ _ _ _ h => h) h k lease key
theorem State.Shows.timeLoad (k : GangKey) (key : Nat) : (s.timeLoad k key).Shows core kd line view pads := h.timeRead k 0 key
theorem State.Shows.gangStore (k : GangKey) (key : Nat) : (s.gangStore k key).Shows core kd line view pads :=
  State.gangStore_keeps (P := fun t => t.Shows core kd line view pads) (fun _ p h => h.rebase p) (fun _ _ _ h => h) (fun _ _ _ _ h => h) h k key
theorem State.Shows.sendRemote (pa : Nat) (p : RemotePacket) : (s.sendRemote pa p).Shows core kd line view pads := by
  unfold State.sendRemote
  split
  · exact h
  · exact h
theorem State.Shows.sendAt (loc : Loc) (p : Nat → Nat → RemotePacket) : (s.sendAt loc p).Shows core kd line view pads := by
  cases loc with
  | mem pa kd' coh ra => exact h.sendRemote pa _
  | scratch d off => exact h
theorem State.Shows.modGang (k : GangKey) (f : Gang → Gang) : (s.modGang k f).Shows core kd line view pads := h
theorem State.Shows.modPart (p : Nat) (f : Part → Part) : (s.modPart p f).Shows core kd line view pads := h
theorem State.Shows.seeLags (die pa w : Nat) (ts : List ThreadKey) (all : Bool) : (s.seeLags die pa w ts all).Shows core kd line view pads := h

/-- A dirty sector of the line is read from core's L1. -/
theorem State.Shows.view_of_dirty {a : Nat} {c : Sector} (hd : sectorOf a ∈ (s.core core).dirty) (hc : tget (s.core core).l1 (sectorOf a) = some c) (hl : sectorOf a / 4 = line) :
    view a = c.bytes.getD (a % 256) 0 := by
  obtain ⟨c', hc', -, hk⟩ := h.held hd
  cases hc.symm.trans hc'
  obtain ⟨hstand, hread, -⟩ := h
  have hother : ∀ e ∈ s.cores, e.1 ≠ core → sectorOf a ∉ e.2.dirty := fun e he hne ha => by
    obtain ⟨_, -, -, hline⟩ := hstand.held e he _ ha
    exact hne (hline hl).1
  rw [← hread, State.keyRead_alone hstand.nodup hother, Core.readOver_of_dirty hd hc (hk hl).1]

-- A clean sector's copy taken in or dropped

section Copy
variable {n : Nat} (hn : n ∉ (s.core core).dirty)
include hn
theorem State.Shows.fillCopy (x : Sector) : (s.modCore core fun c => { c with l1 := tset c.l1 n x }).Shows core kd line view pads :=
  h.setCopies (fun c => { c with l1 := tset c.l1 n x }) rfl rfl fun m hm => by rw [tget_tset, if_neg (ne_of_mem_of_not_mem hm hn)]
theorem State.Shows.eraseCopy : (s.modCore core fun c => { c with l1 := terase c.l1 n }).Shows core kd line view pads :=
  h.setCopies (fun c => { c with l1 := terase c.l1 n }) rfl rfl fun m hm => by rw [tget_terase, if_neg (ne_of_mem_of_not_mem hm hn)]
theorem State.Shows.replaceCopy (p : Prop) [Decidable p] (x : Sector) : (s.modCore core fun c => { c with l1 := if p then tset c.l1 n x else terase c.l1 n }).Shows core kd line view pads := by
  by_cases hp : p
  · simp only [if_pos hp]
    exact h.fillCopy hn x
  · simp only [if_neg hp]
    exact h.eraseCopy hn
end Copy
/-- Copies dropped, none of them dirty. -/
theorem State.Shows.filterCopies (p : Nat × Sector → Bool) (hp : ∀ m ∈ (s.core core).dirty, ∀ c, tget (s.core core).l1 m = some c → p (m, c) = true) :
    (s.modCore core fun c => { c with l1 := c.l1.filter p }).Shows core kd line view pads := by
  refine h.setCopies (fun c => { c with l1 := c.l1.filter p }) rfl rfl fun m hm => ?_
  obtain ⟨c, hc, -⟩ := h.held hm
  rw [hc, tget_filter_of_get hc (hp m hm c hc)]

-- Sectors written back and dropped (R190, R195)

/-- A dirty sector of the line written back: its bytes stand in memory, and its copy is clean. -/
theorem State.Shows.writeBack {n : Nat} (hn : n / 4 = line) : (s.writeBack core n).Shows core kd line view pads := by
  unfold State.writeBack
  by_cases hd : n ∈ (s.core core).dirty
  · obtain ⟨c, hc, -, hk⟩ := h.held hd
    obtain ⟨rfl, hlen⟩ := hk hn
    have hclean := h.setSector hn (fun c => { c with dirty := c.dirty.filter fun y => y ≠ n }) rfl (fun m hm => by simp [hm]) (fun _ _ _ => rfl) (fun hm => by simp at hm)
    have hwritten := hclean.keyWriteBytes (pa := n * 256) (bs := c.bytes.take 256) fun i hi => by
      rw [List.length_take] at hi
      simp only [lineOf]
      omega
    simp only [List.contains_iff_mem.2 hd, Bool.not_true, Bool.false_eq_true, if_false, hc]
    refine State.Shows.sendRemote (hwritten.of_view fun a => ?_) _ _
    have ha : sectorOf a = n ↔ n * 256 ≤ a ∧ a < n * 256 + 256 := by simp only [sectorOf]; omega
    simp only [putBytes, List.take_of_length_le hlen.le, hlen, ← ha]
    by_cases hs : sectorOf a = n
    · rw [if_pos hs, h.view_of_dirty (hs ▸ hd) (hs ▸ hc) (hs ▸ hn)]
      congr 1
      simp only [sectorOf] at hs
      omega
    · rw [if_neg hs, if_neg hs]
  · rw [if_pos (by simpa using hd)]
    exact h
end Shows

section Dirty
variable (s : State) (c : Nat)
theorem State.dirty_rebase (p : Nat) : ((s.rebase p).core c).dirty = (s.core c).dirty := by
  rw [State.core_rebase]
  split <;> rfl
theorem State.dirty_timeRead (k : GangKey) (lease key : Nat) : ((s.timeRead k lease key).core c).dirty = (s.core c).dirty :=
  State.timeRead_keeps (P := fun t => (t.core c).dirty = (s.core c).dirty) (fun t p h => (t.dirty_rebase c p).trans h) (fun _ _ _ h => h) (fun _ _ _ _ h => h) rfl k lease key
theorem State.dirty_sendRemote (pa : Nat) (p : RemotePacket) : ((s.sendRemote pa p).core c).dirty = (s.core c).dirty := by
  unfold State.sendRemote
  split <;> rfl
theorem State.dirty_keyWriteBytes (kd pa : Nat) (bs : List Byte) : ((s.keyWriteBytes kd pa bs).core c).dirty = (s.core c).dirty :=
  State.keyWriteBytes_keeps (fun t => (t.core c).dirty) (fun t kd pa b => by rw [State.core_keyWrite]; rfl) s kd pa bs
theorem State.dirty_writeBack (n : Nat) : ((s.writeBack c n).core c).dirty = (s.core c).dirty.filter fun y => y ≠ n := by
  unfold State.writeBack
  by_cases hd : n ∈ (s.core c).dirty
  · simp only [List.contains_iff_mem.2 hd, Bool.not_true, Bool.false_eq_true, if_false]
    split
    · rw [State.core_modCore]
    · rw [State.dirty_sendRemote, State.dirty_keyWriteBytes, State.core_modCore]
  · rw [if_pos (by simpa using hd), List.filter_eq_self.2 fun y hy => decide_eq_true (ne_of_mem_of_not_mem hy hd)]
theorem State.dirty_dropSector (n : Nat) : ((s.dropSector c n).core c).dirty = (s.core c).dirty.filter fun y => y ≠ n := by
  rw [State.dropSector, State.core_modCore, State.dirty_writeBack]
theorem State.dirty_writeLine (pa : Nat) {m : Nat} (h : m ∈ ((s.writeLine c pa).core c).dirty) : m / 4 ≠ lineOf pa := by
  simp only [State.writeLine, List.range_succ, List.range_zero, List.nil_append, List.cons_append, List.foldl_cons, List.foldl_nil, State.dirty_writeBack, List.mem_filter,
    decide_eq_true_eq] at h
  omega
end Dirty

section Shows
variable {s : State} {core kd line : Nat} {view : Nat → Byte} {pads : Nat → Memory} (h : s.Shows core kd line view pads)
include h
theorem State.Shows.dropSector {n : Nat} (hn : n / 4 = line) : (s.dropSector core n).Shows core kd line view pads :=
  (h.writeBack hn).eraseCopy (by simp [State.dirty_writeBack])
theorem State.Shows.dropLeased (n : Nat) : (s.dropLeased core n).Shows core kd line view pads :=
  h.filterCopies _ fun m hm c hc => by
    obtain ⟨c', hc', hu, -⟩ := h.held hm
    cases hc.symm.trans hc'
    simp [hu]
theorem State.Shows.writeLine {pa : Nat} (hl : lineOf pa = line) : (s.writeLine core pa).Shows core kd line view pads :=
  List.foldlRecOn (motive := fun (t : State) => t.Shows core kd line view pads) _ _ h fun t ht i hi => ht.writeBack (by have := List.mem_range.1 hi; omega)
theorem State.Shows.dropLine {pa : Nat} (hl : lineOf pa = line) : (s.dropLine core pa).Shows core kd line view pads :=
  (h.writeLine hl).filterCopies _ fun m hm c _ => by
    have hm4 := s.dirty_writeLine core pa hm
    refine decide_eq_true fun he => hm4 ?_
    rw [← he, lineOf, Nat.mul_div_mul_right _ 4 (by norm_num : 0 < 256)]

-- Loads (R190, R195 to R197, R208)

section Loads
variable (k : GangKey) {pa : Nat} (hl : lineOf pa = line)
include hl
theorem State.Shows.missLoad (kd' w : Nat) (alloc keep : Bool) : (s.missLoad k core pa kd' w alloc keep).1.Shows core kd line view pads := by
  have hw := h.writeBack (n := sectorOf pa) (by rw [sectorOf_div, hl])
  have hn : sectorOf pa ∉ ((s.writeBack core (sectorOf pa)).core core).dirty := by simp [State.dirty_writeBack]
  unfold State.missLoad
  dsimp only
  split
  · split
    · exact (hw.modGang k _).fillCopy hn _
    · exact hw
  · generalize hr : (State.timeRead _ k _ _).sendRemote pa _ = r
    have hshows : r.Shows core kd line view pads := hr ▸ (hw.timeRead k _ _).sendRemote _ _
    have hclean : sectorOf pa ∉ (r.core core).dirty := by rwa [← hr, State.dirty_sendRemote, State.dirty_timeRead]
    split
    · exact (hshows.modPart _ _).replaceCopy hclean _ _
    · exact hshows.replaceCopy hclean _ _
theorem State.Shows.plainLoad (kd' w : Nat) (poll : Bool) (ch : Nat) : (s.plainLoad k core pa kd' w poll ch).1.Shows core kd line view pads := by
  have h4 : sectorOf pa / 4 = line := by rw [sectorOf_div, hl]
  have ht := h.timeLoad k (lineOf pa)
  unfold State.plainLoad
  dsimp only
  split
  · split
    · exact ht.dropSector h4
    · exact ht
  · split
    · exact ht.sendRemote _ _
    · exact ((ht.sendRemote _ _).dropSector h4).fillCopy (by simp [State.dirty_dropSector]) _
theorem State.Shows.leasedLoad (kd' w : Nat) (poll : Bool) (ch : Nat) : (s.leasedLoad k core pa kd' w poll ch).1.Shows core kd line view pads := by
  unfold State.leasedLoad
  dsimp only
  split
  · rename_i c hc
    split
    · rename_i hlease
      have hget : tget (s.core core).l1 (sectorOf pa) = some c := (Option.ite_none_left_eq_some.1 hc).2
      simp only [Bool.and_eq_true] at hlease
      obtain ⟨⟨⟨hc, -⟩, -⟩, -⟩ := hlease
      split
      · exact (h.modGang k _).eraseCopy (h.clean_of_leased hget hc)
      · exact h
    · exact h.missLoad k hl _ _ _ _
  · split
    · exact (h.modPart _ _).missLoad k hl _ _ _ _
    · exact h.missLoad k hl _ _ _ _
end Loads
end Shows

-- Stores (R190, R195, R196, R207)

/-- Bytes put into a sector's copy. -/
def Sector.putAll (c : Sector) (pa : Nat) (bs : List Byte) : Sector := bs.zipIdx.foldl (fun c b => c.put (pa + b.2) b.1) c
/-- What putting bytes leaves of a copy, from the k-th of a store's bytes on. -/
theorem Sector.putFrom_rest (c : Sector) (pa k : Nat) (bs : List Byte) : let d := (bs.zipIdx k).foldl (fun c b => c.put (pa + b.2) b.1) c
    d.leased = c.leased ∧ d.kd = c.kd ∧ d.bytes.length = c.bytes.length := by
  induction bs generalizing c k with
  | nil => exact ⟨rfl, rfl, rfl⟩
  | cons b bs ih =>
    obtain ⟨hl, hk, hlen⟩ := ih (c.put (pa + k) b) (k + 1)
    exact ⟨hl, hk, hlen.trans List.length_set⟩
theorem Sector.putFrom_getD {c : Sector} (hc : c.bytes.length = 256) {pa k n : Nat} {bs : List Byte} (hf : ∀ i < bs.length, sectorOf (pa + (k + i)) = n) {a : Nat} (ha : sectorOf a = n) :
    ((bs.zipIdx k).foldl (fun c b => c.put (pa + b.2) b.1) c).bytes.getD (a % 256) 0 = if pa + k ≤ a ∧ a < pa + k + bs.length then bs.getD (a - (pa + k)) 0 else c.bytes.getD (a % 256) 0 := by
  induction bs generalizing c k with
  | nil => rw [if_neg (by simp only [List.length_nil]; omega)]; rfl
  | cons b bs ih =>
    have hput := Sector.getD_put hc (ha.trans (hf 0 (Nat.succ_pos _)).symm) b
    rw [List.zipIdx_cons, List.foldl_cons, ih (List.length_set.trans hc) fun i hi => by rw [show k + 1 + i = k + (i + 1) by omega]; exact hf (i + 1) (Nat.succ_lt_succ hi)]
    simp only [Nat.add_zero] at hput
    rw [hput, List.length_cons]
    by_cases h0 : a = pa + k
    · subst h0; simp
    · by_cases h1 : pa + (k + 1) ≤ a ∧ a < pa + (k + 1) + bs.length
      · rw [if_pos h1, if_pos (by omega), show a - (pa + k) = (a - (pa + (k + 1))) + 1 by omega, List.getD_cons_succ]
      · rw [if_neg h1, if_neg h0, if_neg (by omega)]

section Shows
variable {s : State} {core kd line : Nat} {view : Nat → Byte} {pads : Nat → Memory} (h : s.Shows core kd line view pads)
include h
/-- Bytes put into core's own copy, which is dirty then (R195). -/
theorem State.Shows.storeCopy {pa : Nat} {c : Sector} {bs : List Byte} (hl : lineOf pa = line) (hf : ∀ i < bs.length, sectorOf (pa + i) = sectorOf pa)
    (hc : tget (s.core core).l1 (sectorOf pa) = some c) (hu : c.leased = false) (hk : c.kd = kd) (hlen : c.bytes.length = 256)
    (hv : ∀ a, sectorOf a = sectorOf pa → view a = c.bytes.getD (a % 256) 0) :
    (s.modCore core fun x => { x with l1 := tmap x.l1 (fun n _ => n = sectorOf pa) (Sector.putAll · pa bs), dirty := sectorOf pa :: x.dirty.filter fun y => y ≠ sectorOf pa }).Shows
      core kd line (putBytes view pa bs) pads := by
  have hput : tget (tmap (s.core core).l1 (fun n _ => n = sectorOf pa) (Sector.putAll · pa bs)) (sectorOf pa) = some (c.putAll pa bs) := by
    rw [tget_tmap, hc]
    simp
  obtain ⟨hul, hkd, hln⟩ := Sector.putFrom_rest c pa 0 bs
  refine (h.setSector (n := sectorOf pa) (by rw [sectorOf_div, hl]) _ rfl (fun m hm => by simp [hm]) (fun m _ hm => ?_) fun _ => ⟨_, hput, ?_, ?_, ?_⟩).of_view fun a => ?_
  · rw [tget_tmap]
    simp [hm]
  · exact hul.trans hu
  · exact hkd.trans hk
  · exact hln.trans hlen
  · by_cases ha : sectorOf a = sectorOf pa
    · rw [if_pos ha, Core.readOver_of_dirty (x := c.putAll pa bs) (by simp [ha]) (by rw [ha]; exact hput) (hkd.trans hk), Sector.putAll, putBytes, hv a ha]
      exact Sector.putFrom_getD (k := 0) hlen (fun i hi => by rw [Nat.zero_add]; exact hf i hi) ha
    · rw [if_neg ha, putBytes, if_neg]
      rintro ⟨h1, h2⟩
      refine ha ?_
      rw [← hf (a - pa) (by omega)]
      congr 1
      omega

section Stores
variable (k : GangKey) {pa w : Nat} (hl : lineOf pa = line) (hf : ∀ i < w, sectorOf (pa + i) = sectorOf pa) (x : Nat) (ts : List ThreadKey)
include hl hf
/-- A store at the home slice, in memory and in the copies that stand in its place. -/
theorem State.Shows.homeStore (hh : isHost pa = false) (coh : Nat) (ra : Bool) :
    (s.homeStore k (.mem pa kd coh ra) w x ts).Shows core kd line (putBytes view pa (bytesOfNat w x)) pads := by
  have hline : ∀ i < (bytesOfNat w x).length, lineOf (pa + i) = line := fun i hi => by
    rw [← sectorOf_div, hf i (bytesOfNat_length w x ▸ hi), sectorOf_div, hl]
  unfold State.homeStore
  simp only [hh, Bool.false_eq_true, if_false]
  split
  · exact ((State.Shows.keyWriteBytes (s := s.addLag (some k) ts (s.partOf k) kd pa w) h hline).gangStore k (lineOf pa)).modPart _ _
  · exact ((h.keyWriteBytes hline).gangStore k (lineOf pa)).modPart _ _
end Stores

theorem State.Shows.ownCopy (k : GangKey) (pa kd' ch : Nat) : (s.ownCopy k core pa kd' ch).Shows core kd line view pads := by
  unfold State.ownCopy
  split
  · exact h
  · rename_i c hc
    obtain ⟨hget, hleased⟩ := Option.filter_eq_some_iff.1 hc
    have hclean := h.clean_of_leased hget hleased
    dsimp only
    by_cases h3 : ch = 3
    · simp only [h3, if_true]
      exact (h.modPart _ _).eraseCopy hclean
    · simp only [h3, if_false]
      exact (h.modPart _ _).fillCopy hclean _
end Shows

/-- A list of a sector's bytes as they are read gives the byte at each address of the sector. -/
theorem getD_sectorBytes (view : Nat → Byte) {n a : Nat} (ha : sectorOf a = n) : ((List.range 256).map fun i => view (256 * n + i)).getD (a % 256) 0 = view a := by
  have hlt : a % 256 < 256 := Nat.mod_lt _ (by norm_num)
  have hadd : 256 * n + a % 256 = a := by rw [← ha, sectorOf, Nat.div_add_mod]
  simp [List.getD_eq_getElem?_getD, hlt, hadd]

/-- A PRIVATE page's store in core's own copy, which .LAST then drops (R195, R196). -/
def State.storeInCopy (s : State) (k : GangKey) (core pa : Nat) (bs : List Byte) (ch : Nat) : State :=
  let t := (s.modCore core fun x => { x with
    l1 := tmap x.l1 (fun n _ => n = sectorOf pa) (Sector.putAll · pa bs), dirty := sectorOf pa :: x.dirty.filter fun y => y ≠ sectorOf pa }).gangStore k (lineOf pa)
  if ch = 3 then t.dropSector core (sectorOf pa) else t
/-- A sector's copy filled without a lease (R195). -/
def State.fillSector (s : State) (core kd pa : Nat) : State :=
  ((s.dropSector core (sectorOf pa)).sendRemote pa (.read (sectorOf pa * 256) kd 256)).modCore core fun c => { c with l1 := tset c.l1 (sectorOf pa) (s.plainSector kd pa) }
/-- A PRIVATE page's store finds the sector's copy, fills one, or goes to the home slice. -/
theorem State.plainStore_cases (s : State) (k : GangKey) (core : Nat) (loc : Loc) (pa kd w x ch : Nat) (ts : List ThreadKey) :
    (∃ c, s.plainCopy core kd pa = some c ∧ s.plainStore k core loc pa kd w x ch ts = s.storeInCopy k core pa (bytesOfNat w x) ch) ∨
    s.plainStore k core loc pa kd w x ch ts = (s.fillSector core kd pa).storeInCopy k core pa (bytesOfNat w x) ch ∨
    s.plainStore k core loc pa kd w x ch ts = (s.homeStore k loc w x ts).sendRemote pa (.write pa kd (bytesOfNat w x)) := by
  unfold State.plainStore
  cases s.plainCopy core kd pa with
  | some c => exact .inl ⟨c, rfl, rfl⟩
  | none =>
    cases hn : decide (ch ≥ 2) || s.pkg.poisoned.contains (sectorOf pa) with
    | true => exact .inr (.inr (by simp only [hn, if_true]))
    | false =>
      simp only [hn, Bool.false_eq_true, if_false]
      exact .inr (.inl rfl)

section Copies
variable {s : State} {core kd pa w : Nat} {view : Nat → Byte} {pads : Nat → Memory} (h : s.Shows core kd (lineOf pa) view pads)
include h
theorem State.Shows.fillSector : (s.fillSector core kd pa).Shows core kd (lineOf pa) view pads :=
  ((h.dropSector (sectorOf_div pa)).sendRemote _ _).fillCopy (by rw [State.dirty_sendRemote, State.dirty_dropSector]; simp) _
theorem State.Shows.storeInCopy (k : GangKey) {bs : List Byte} (hf : ∀ i < bs.length, sectorOf (pa + i) = sectorOf pa) {c : Sector} (hc : tget (s.core core).l1 (sectorOf pa) = some c)
    (hu : c.leased = false) (hk : c.kd = kd) (hb : c.bytes = (List.range 256).map fun i => view (256 * sectorOf pa + i)) (ch : Nat) :
    (s.storeInCopy k core pa bs ch).Shows core kd (lineOf pa) (putBytes view pa bs) pads := by
  have hlen : c.bytes.length = 256 := by rw [hb, List.length_map, List.length_range]
  have hstored := (h.storeCopy rfl hf hc hu hk hlen fun a ha => by rw [hb, getD_sectorBytes _ ha]).gangStore k (lineOf pa)
  unfold State.storeInCopy
  dsimp only
  split
  · exact hstored.dropSector (sectorOf_div pa)
  · exact hstored
end Copies

/-- A store to a page (R190, R195, R196, R207, R281, R401). -/
theorem State.shows_storeLoc {s : State} {core kd pa w : Nat} (h : s.copiesAgree core kd pa) (k : GangKey) (hf : ∀ i < w, sectorOf (pa + i) = sectorOf pa)
    (hh : isHost pa = false) (coh : Nat) (ra : Bool) (x ch : Nat) (ts : List ThreadKey) : (s.storeLoc k core (.mem pa kd coh ra) w x ch ts).Shows core kd (lineOf pa)
      (putBytes (s.keyRead kd) pa (bytesOfNat w x)) fun d => (s.core d).scratch := by
  have hs := State.shows_of_copiesAgree h
  have hhome := hs.homeStore k rfl hf x ts hh coh ra
  have hfits : ∀ i < (bytesOfNat w x).length, sectorOf (pa + i) = sectorOf pa := fun i hi => hf i (bytesOfNat_length w x ▸ hi)
  by_cases hcoh : coh = 0
  · have hplain : s.storeLoc k core (.mem pa kd coh ra) w x ch ts = s.plainStore k core (.mem pa kd coh ra) pa kd w x ch ts := by
      simp only [State.storeLoc, hh, hcoh, Bool.false_eq_true, if_false, if_true]
    rw [hplain]
    obtain ⟨c, hc, he⟩ | he | he := s.plainStore_cases k core (.mem pa kd coh ra) pa kd w x ch ts <;> rw [he]
    · obtain ⟨-, -, -, hbytes⟩ := h
      obtain ⟨hget, hplain⟩ := Option.filter_eq_some_iff.1 hc
      simp only [Bool.and_eq_true, Bool.not_eq_true', decide_eq_true_eq] at hplain
      obtain ⟨hu, hk⟩ := hplain
      exact hs.storeInCopy k hfits hget hu hk (hbytes _ c (sectorOf_div pa) hget hu hk) ch
    · refine hs.fillSector.storeInCopy k hfits (c := s.plainSector kd pa) ?_ rfl rfl ?_ ch
      · rw [State.fillSector, State.core_modCore, tget_tset, if_pos rfl]
      · simp only [State.plainSector, Nat.mul_comm 256]
    · exact hhome.sendRemote _ _
  · have hthrough : s.storeLoc k core (.mem pa kd coh ra) w x ch ts = ((s.homeStore k (.mem pa kd coh ra) w x ts).ownCopy k core pa kd ch).sendRemote pa (.write pa kd (bytesOfNat w x)) := by
      simp only [State.storeLoc, hh, hcoh, Bool.false_eq_true, if_false]
    rw [hthrough]
    exact (hhome.ownCopy k pa kd ch).sendRemote _ _

-- Loads, atomics and CMNT on a page

section Shows
variable {s : State} {core kd line : Nat} {view : Nat → Byte} {pads : Nat → Memory} (h : s.Shows core kd line view pads)
include h
theorem State.Shows.keyReadN (a n : Nat) : s.keyReadN kd a n = natOfBytes ((List.range n).map fun i => view (a + i)) := by
  obtain ⟨-, hread, -⟩ := h
  simp only [State.keyReadN, hread]
variable (k : GangKey) {pa : Nat} (hl : lineOf pa = line) (hh : isHost pa = false) (coh w : Nat) (ra : Bool) (ts : List ThreadKey)
include hl hh
theorem State.Shows.loadLoc (kd' : Nat) (poll : Bool) (ch : Nat) : (s.loadLoc k core (.mem pa kd' coh ra) w poll ch ts).1.Shows core kd line view pads := by
  simp only [State.loadLoc, hh, Bool.false_eq_true, if_false]
  split
  · exact h.plainLoad k hl kd' w poll ch
  · split
    · exact ((h.dropLeased _).seeLags _ pa w ts false).timeLoad k _
    · split
      · exact (h.seeLags _ pa w ts true).leasedLoad k hl kd' w poll ch
      · exact h.leasedLoad k hl kd' w poll ch
theorem State.Shows.beforeAtomic (kd' : Nat) : (s.beforeAtomic core (.mem pa kd' coh ra) w ts).Shows core kd line view pads := by
  simp only [State.beforeAtomic, hh, Bool.false_eq_true, if_false]
  split
  · exact h.dropLine hl
  · split
    · exact h.seeLags _ pa w ts true
    · exact h
theorem State.Shows.cleanLine (kd' : Nat) (drop : Bool) : (s.cleanLine core (.mem pa kd' coh ra) drop).Shows core kd line view pads := by
  simp only [State.cleanLine, hh, Bool.false_eq_true, if_false]
  split
  · exact h.dropLine hl
  · exact h.writeLine hl
theorem State.Shows.homeWrite (hf : ∀ i < w, sectorOf (pa + i) = sectorOf pa) (x : Nat) :
    (s.homeWrite k core (.mem pa kd coh ra) w x ts).Shows core kd line (putBytes view pa (bytesOfNat w x)) pads := by
  simp only [State.homeWrite, hh, Bool.false_eq_true, if_false]
  exact (h.dropSector (by rw [sectorOf_div, hl])).homeStore k hl hf x ts hh coh ra
end Shows

/-- A load of a page without leases gives the word that stands. -/
theorem State.plainLoad_value (s : State) (k : GangKey) (core pa kd w : Nat) (poll : Bool) (ch : Nat) : (s.plainLoad k core pa kd w poll ch).2 = s.keyReadN kd pa w := by
  unfold State.plainLoad
  dsimp only
  split <;> rfl

end Sys2Proof.Machine
end

section
/-! PROOFS. Accesses performed: a lane's bytes on a page, on a host page or in a scratchpad, and the word it finds (R199, R200, R307, R308, R324, R326, R366, R401). -/
namespace Sys2Proof.Machine

-- Scratchpads and host pages, which no L1 holds

/-- A location whose accesses pass by every L1: a scratchpad's or a host page's (R185, R190). -/
def Loc.uncached : Loc → Bool
  | .mem pa _ _ _ => isHost pa
  | .scratch _ _ => true
/-- A location with no L1, or a page of memory. -/
theorem Loc.uncached_or_page (l : Loc) : l.uncached = true ∨ ∃ pa kd coh ra, l = .mem pa kd coh ra ∧ isHost pa = false := by
  cases l with
  | scratch d off => exact .inl rfl
  | mem pa kd coh ra => exact (Bool.eq_false_or_eq_true (isHost pa)).imp id fun h => ⟨pa, kd, coh, ra, rfl, h⟩

section Uncached
variable (s : State) (k : GangKey) (core : Nat) {l : Loc} (h : l.uncached = true) (w : Nat) (ts : List ThreadKey)
include h
theorem State.loadLoc_uncached (poll : Bool) (ch : Nat) : s.loadLoc k core l w poll ch ts = (s.timeLoad k l.timeKey, s.homeRead l w) := by
  cases l with
  | mem pa kd coh ra => simp only [State.loadLoc, State.homeRead, Loc.timeKey, show isHost pa = true from h, if_true]
  | scratch d off => rfl
theorem State.storeLoc_uncached (x ch : Nat) : s.storeLoc k core l w x ch ts = s.homeStore k l w x ts := by
  cases l with
  | mem pa kd coh ra => simp only [State.storeLoc, show isHost pa = true from h, if_true]
  | scratch d off => rfl
theorem State.beforeAtomic_uncached : s.beforeAtomic core l w ts = s := by
  cases l with
  | mem pa kd coh ra => simp only [State.beforeAtomic, show isHost pa = true from h, if_true]
  | scratch d off => rfl
theorem State.homeWrite_uncached (x : Nat) : s.homeWrite k core l w x ts = s.homeStore k l w x ts := by
  cases l with
  | mem pa kd coh ra => simp only [State.homeWrite, show isHost pa = true from h, if_true]
  | scratch d off => rfl
omit w ts in
theorem State.sendAt_uncached (p : Nat → Nat → RemotePacket) : s.sendAt l p = s := by
  cases l with
  | mem pa kd coh ra => simp only [State.sendAt, State.sendRemote, show isHost pa = true from h, Bool.true_or, if_true]
  | scratch d off => rfl
omit w ts in
theorem State.cleanLine_uncached (drop : Bool) : s.cleanLine core l drop = s := by
  cases l with
  | mem pa kd coh ra => simp only [State.cleanLine, show isHost pa = true from h, if_true]
  | scratch d off => rfl
end Uncached

/-- Memory and the scratchpads. -/
def State.Holds (s : State) (m : Memory) (pads : Nat → Memory) : Prop := s.mem = m ∧ ∀ d, (s.core d).scratch = pads d
abbrev State.pads (s : State) (d : Nat) : Memory := (s.core d).scratch
section Holds
variable {s : State} {m : Memory} {pads : Nat → Memory} (h : s.Holds m pads)
include h
theorem State.Holds.rebase (p : Nat) : (s.rebase p).Holds m pads := by
  obtain ⟨hm, hpads⟩ := h
  refine ⟨(s.rebase_mem p).trans hm, fun d => ?_⟩
  rw [State.core_rebase, ← hpads]
  split <;> rfl
theorem State.Holds.timeLoad (k : GangKey) (key : Nat) : (s.timeLoad k key).Holds m pads :=
  State.timeRead_keeps (P := fun t => t.Holds m pads) (fun _ p h => h.rebase p) (fun _ _ _ h => h) (fun _ _ _ _ h => h) h k 0 key
theorem State.Holds.gangStore (k : GangKey) (key : Nat) : (s.gangStore k key).Holds m pads :=
  State.gangStore_keeps (P := fun t => t.Holds m pads) (fun _ p h => h.rebase p) (fun _ _ _ h => h) (fun _ _ _ _ h => h) h k key
theorem State.Holds.homeStore_host {pa : Nat} (hh : isHost pa = true) (k : GangKey) (kd coh w x : Nat) (ra : Bool) (ts : List ThreadKey) :
    (s.homeStore k (.mem pa kd coh ra) w x ts).Holds (m.writeN pa w x) pads := by
  obtain ⟨hm, hpads⟩ := h
  simp only [State.homeStore, hh, if_true]
  have hw : State.Holds { s with mem := s.mem.writeN pa w x } (m.writeN pa w x) pads := ⟨congrArg (Memory.writeN · pa w x) hm, hpads⟩
  exact hw.gangStore k _
theorem State.Holds.homeStore_scratch (k : GangKey) (d off w x : Nat) (ts : List ThreadKey) :
    (s.homeStore k (.scratch d off) w x ts).Holds m fun d' => if d' = d then (pads d).writeN off w x else pads d' := by
  obtain ⟨hm, hpads⟩ := h
  have hw : (s.modCore d fun c => { c with scratch := c.scratch.writeN off w x }).Holds m fun d' => if d' = d then (pads d).writeN off w x else pads d' := by
    refine ⟨hm, fun d' => ?_⟩
    by_cases hd : d' = d
    · simp only [hd, if_true, State.core_modCore, hpads]
    · simp only [hd, if_false, State.core_modCore_ne _ _ hd, hpads]
  exact hw.gangStore k _
end Holds

-- What a store puts, and what stands

theorem getD_bytesOfNat {i n : Nat} (hi : i < n) (x : Nat) : (bytesOfNat n x).getD i 0 = BitVec.ofNat 8 (x >>> (8 * i)) := by
  simp [bytesOfNat, List.getD_eq_getElem?_getD, hi]
theorem putBytes_bytesOfNat (view : Nat → Byte) (pa w x b : Nat) :
    putBytes view pa (bytesOfNat w x) b = if pa ≤ b ∧ b < pa + w then BitVec.ofNat 8 (x >>> (8 * (b - pa))) else view b := by
  rw [putBytes, bytesOfNat_length]
  split
  · rw [getD_bytesOfNat (by omega)]
  · rfl
theorem Memory.read_writeN (m : Memory) (a w x b : Nat) : (m.writeN a w x).read b = if a ≤ b ∧ b < a + w then BitVec.ofNat 8 (x >>> (8 * (b - a))) else m.read b :=
  (Memory.read_writeBytes m a b _).trans (putBytes_bytesOfNat m.read a w x b)

/-- Of t's bytes at a location, w hold x when c says so, and every other byte is as in s: of memory, of what the location's key domain reads, and of every scratchpad. -/
def State.Puts (s t : State) (core : Nat) (l : Loc) (c : Bool) (w x : Nat) : Prop :=
  (∀ d off, l = .scratch d off → t.mem = s.mem ∧ ∀ d' b, (t.core d').scratch.read b =
    if c = true ∧ d' = d ∧ off ≤ b ∧ b < off + w then BitVec.ofNat 8 (x >>> (8 * (b - off))) else (s.core d').scratch.read b) ∧
  (∀ pa kd coh ra, l = .mem pa kd coh ra → isHost pa = false → pa % w = 0 → s.copiesAgree core kd pa → (∀ d, (t.core d).scratch = (s.core d).scratch) ∧
    ∀ b, t.keyRead kd b = if c = true ∧ pa ≤ b ∧ b < pa + w then BitVec.ofNat 8 (x >>> (8 * (b - pa))) else s.keyRead kd b) ∧
  (∀ pa kd coh ra, l = .mem pa kd coh ra → isHost pa = true → (∀ d, (t.core d).scratch = (s.core d).scratch) ∧
    ∀ b, t.mem.read b = if c = true ∧ pa ≤ b ∧ b < pa + w then BitVec.ofNat 8 (x >>> (8 * (b - pa))) else s.mem.read b)
/-- v is the word of w bytes that stands at a location. -/
def State.Finds (s : State) (l : Loc) (v w : Nat) : Prop :=
  (∀ d off, l = .scratch d off → v = (s.core d).scratch.readN off w) ∧
  (∀ pa kd coh ra, l = .mem pa kd coh ra → isHost pa = true → v = s.mem.readN pa w) ∧
  (∀ pa kd coh ra, l = .mem pa kd coh ra → isHost pa = false → v = s.keyReadN kd pa w)

section Puts
variable {s t : State} {core : Nat} {l : Loc} {c : Bool} {w x : Nat}
/-- On a page: what the line shows, whenever the copies agree. -/
theorem State.puts_page {pa kd coh : Nat} {ra : Bool} (hh : isHost pa = false)
    (h : pa % w = 0 → s.copiesAgree core kd pa → t.Shows core kd (lineOf pa) (if c then putBytes (s.keyRead kd) pa (bytesOfNat w x) else s.keyRead kd) s.pads) :
    s.Puts t core (.mem pa kd coh ra) c w x := by
  refine ⟨fun _ _ hl => (by cases hl), fun _ _ _ _ hl _ ha hc => ?_, fun _ _ _ _ hl hh' => ?_⟩
  · cases hl
    obtain ⟨-, hread, hpads⟩ := h ha hc
    refine ⟨hpads, fun b => (hread b).trans ?_⟩
    cases c
    · simp
    · simp [putBytes_bytesOfNat]
  · cases hl
    exact absurd hh' (by simp [hh])
theorem State.puts_of_holds (hl : l.uncached = true) (h : t.Holds s.mem s.pads) : s.Puts t core l false w x := by
  obtain ⟨hm, hpads⟩ := h
  refine ⟨fun _ _ _ => ⟨hm, fun _ _ => ?_⟩, fun _ _ _ _ he hh => ?_, fun _ _ _ _ _ _ => ⟨hpads, fun _ => ?_⟩⟩
  · simp [hpads]
  · subst he
    exact absurd hl (by simp [Loc.uncached, hh])
  · simp [hm]
theorem State.puts_homeStore (hl : l.uncached = true) (k : GangKey) (ts : List ThreadKey) : s.Puts (s.homeStore k l w x ts) core l true w x := by
  have hs : s.Holds s.mem s.pads := ⟨rfl, fun _ => rfl⟩
  cases l with
  | mem pa kd coh ra =>
    have hh : isHost pa = true := hl
    obtain ⟨hm, hpads⟩ := hs.homeStore_host hh k kd coh w x ra ts
    refine ⟨fun _ _ he => (by cases he), fun _ _ _ _ he hh' => ?_, fun _ _ _ _ he _ => ?_⟩
    · cases he
      exact absurd hh (by simp [hh'])
    · cases he
      exact ⟨hpads, fun b => by simp [hm, Memory.read_writeN]⟩
  | scratch d off =>
    obtain ⟨hm, hpads⟩ := hs.homeStore_scratch k d off w x ts
    refine ⟨fun _ _ he => ?_, fun _ _ _ _ he => (by cases he), fun _ _ _ _ he => (by cases he)⟩
    cases he
    refine ⟨hm, fun d' b => ?_⟩
    rw [hpads]
    by_cases hd : d' = d
    · subst hd
      simp [Memory.read_writeN]
    · simp [hd]
theorem State.Puts.progress (h : s.Puts t core l c w x) (k : GangKey) : s.Puts (t.progress k) core l c w x := h
theorem State.finds_homeRead (s : State) (l : Loc) (w : Nat) : s.Finds l (s.homeRead l w) w := by
  refine ⟨fun _ _ he => ?_, fun _ _ _ _ he hh => ?_, fun _ _ _ _ he hh => ?_⟩ <;> subst he
  · rfl
  · simp only [State.homeRead, hh, if_true]
  · simp only [State.homeRead, hh, Bool.false_eq_true, if_false]
end Puts

theorem sectorOf_add {pa w i : Nat} (hw : w ∣ 256) (ha : pa % w = 0) (hi : i < w) : sectorOf (pa + i) = sectorOf pa := by
  obtain ⟨q, rfl⟩ := Nat.dvd_of_mod_eq_zero ha
  obtain ⟨r, hr⟩ := hw
  simp only [sectorOf, hr, ← Nat.div_div_eq_div_mul]
  rw [Nat.mul_add_div (by omega), Nat.div_eq_of_lt hi, Nat.mul_div_cancel_left _ (by omega), Nat.add_zero]

-- One access performed

section Perform
variable {s : State} {k : GangKey} {core : Nat} {a : LaneAccess} {ts : List ThreadKey}
theorem State.perform_load {w ch : Nat} {sx poll : Bool} (h : a.op = .load w sx poll ch) :
    s.perform k core a ts = ((s.loadLoc k core a.loc w poll ch ts).1, (s.loadLoc k core a.loc w poll ch ts).2, false) := by
  simp only [State.perform, h]
theorem State.perform_store {w x ch : Nat} (h : a.op = .store w x ch) : s.perform k core a ts = ((s.storeLoc k core a.loc w x ch ts).progress k, 0, true) := by
  simp only [State.perform, h]
theorem State.perform_maint {drop : Bool} (h : a.op = .maint drop) : s.perform k core a ts = (s.cleanLine core a.loc drop, 0, false) := by
  simp only [State.perform, h]
/-- The word that an atomic finds. -/
def State.atomicOld (s : State) (core : Nat) (l : Loc) (w : Nat) (ts : List ThreadKey) : Nat := (s.beforeAtomic core l w ts).homeRead l w
theorem State.perform_atom {op : AOp} {ty : ATy} {x : Nat} (h : a.op = .atom op ty x) : s.perform k core a ts =
    let w := if ty.regs = 2 then 8 else 4
    let old := s.atomicOld core a.loc w ts
    ((((s.beforeAtomic core a.loc w ts).homeWrite k core a.loc w (atomResult op ty old x) ts).sendAt a.loc fun pa kd => .atomic pa kd op ty (BitVec.ofNat 64 x)).progress k, old, true) := by
  simp only [State.perform, h]
  rfl
theorem State.perform_cas {w cmp new : Nat} (h : a.op = .cas w cmp new) : s.perform k core a ts =
    let old := s.atomicOld core a.loc w ts
    let t := (s.beforeAtomic core a.loc w ts).sendAt a.loc fun pa kd => .cas pa kd w cmp new
    if old = cmp % 2 ^ (8 * w) then ((t.homeWrite k core a.loc w new ts).progress k, old, true) else (t.timeLoad k a.loc.timeKey, old, false) := by
  simp only [State.perform, h]
  rfl
end Perform

section Atomic
variable (s : State) (k : GangKey) (core : Nat) (l : Loc) (w : Nat) (ts : List ThreadKey)
/-- An atomic finds the word that stands (R200, R211). -/
theorem State.atomicOld_finds (h : ∀ pa kd coh ra, l = .mem pa kd coh ra → isHost pa = false → s.copiesAgree core kd pa) : s.Finds l (s.atomicOld core l w ts) w := by
  have hold : s.atomicOld core l w ts = s.homeRead l w := by
    obtain hl | ⟨pa, kd, coh, ra, rfl, hh⟩ := l.uncached_or_page
    · rw [State.atomicOld, s.beforeAtomic_uncached core hl]
    · have hs := State.shows_of_copiesAgree (h pa kd coh ra rfl hh)
      simp only [State.atomicOld, State.homeRead, hh, Bool.false_eq_true, if_false, (hs.beforeAtomic rfl hh coh w ra ts kd).keyReadN, hs.keyReadN]
  rw [hold]
  exact s.finds_homeRead l w
end Atomic

section Puts
variable {s : State} (k : GangKey) (core : Nat) (l : Loc) (ts : List ThreadKey)
theorem State.Holds.self (s : State) : s.Holds s.mem s.pads := ⟨rfl, fun _ => rfl⟩
theorem State.puts_loadLoc (w : Nat) (poll : Bool) (ch : Nat) : s.Puts (s.loadLoc k core l w poll ch ts).1 core l false w 0 := by
  obtain hl | ⟨pa, kd, coh, ra, rfl, hh⟩ := l.uncached_or_page
  · rw [s.loadLoc_uncached k core hl]
    exact State.puts_of_holds hl ((State.Holds.self s).timeLoad k _)
  · exact State.puts_page hh fun _ hc => (State.shows_of_copiesAgree hc).loadLoc k rfl hh coh w ra ts kd poll ch
theorem State.puts_storeLoc {w : Nat} (hw : w ∣ 256) (x ch : Nat) : s.Puts (s.storeLoc k core l w x ch ts) core l true w x := by
  obtain hl | ⟨pa, kd, coh, ra, rfl, hh⟩ := l.uncached_or_page
  · rw [s.storeLoc_uncached k core hl]
    exact State.puts_homeStore hl k ts
  · exact State.puts_page hh fun ha hc => State.shows_storeLoc hc k (fun i hi => sectorOf_add hw ha hi) hh coh ra x ch ts
theorem State.puts_cleanLine (drop : Bool) : s.Puts (s.cleanLine core l drop) core l false 1 0 := by
  obtain hl | ⟨pa, kd, coh, ra, rfl, hh⟩ := l.uncached_or_page
  · rw [s.cleanLine_uncached core hl]
    exact State.puts_of_holds hl (State.Holds.self s)
  · exact State.puts_page hh fun _ hc => (State.shows_of_copiesAgree hc).cleanLine rfl hh coh ra kd drop
/-- An atomic's write, its packet sent before or after it. -/
theorem State.puts_atomic {w : Nat} (hw : w ∣ 256) (x : Nat) (p : Nat → Nat → RemotePacket) :
    s.Puts (((s.beforeAtomic core l w ts).homeWrite k core l w x ts).sendAt l p) core l true w x ∧
    s.Puts (((s.beforeAtomic core l w ts).sendAt l p).homeWrite k core l w x ts) core l true w x := by
  obtain hl | ⟨pa, kd, coh, ra, rfl, hh⟩ := l.uncached_or_page
  · simp only [s.beforeAtomic_uncached core hl, State.sendAt_uncached _ hl, State.homeWrite_uncached _ k core hl]
    exact ⟨State.puts_homeStore hl k ts, State.puts_homeStore hl k ts⟩
  · refine ⟨State.puts_page hh fun ha hc => ?_, State.puts_page hh fun ha hc => ?_⟩
    · have hb := (State.shows_of_copiesAgree hc).beforeAtomic rfl hh coh w ra ts kd
      exact (hb.homeWrite k rfl hh coh w ra ts (fun i hi => sectorOf_add hw ha hi) x).sendAt _ p
    · have hb := (State.shows_of_copiesAgree hc).beforeAtomic rfl hh coh w ra ts kd
      exact (hb.sendAt _ p).homeWrite k rfl hh coh w ra ts (fun i hi => sectorOf_add hw ha hi) x
/-- A compare-and-swap that fails loads. -/
theorem State.puts_atomic_load (w x : Nat) (p : Nat → Nat → RemotePacket) : s.Puts (((s.beforeAtomic core l w ts).sendAt l p).timeLoad k l.timeKey) core l false w x := by
  obtain hl | ⟨pa, kd, coh, ra, rfl, hh⟩ := l.uncached_or_page
  · rw [s.beforeAtomic_uncached core hl, State.sendAt_uncached _ hl]
    exact State.puts_of_holds hl ((State.Holds.self s).timeLoad k _)
  · exact State.puts_page hh fun _ hc => (((State.shows_of_copiesAgree hc).beforeAtomic rfl hh coh w ra ts kd).sendAt _ p).timeLoad k _
end Puts

end Sys2Proof.Machine
end

section
/-! PROOFS. What performing an access leaves of a gang's list of accesses in flight, and the flits that arrive before it (R203, R240). -/
namespace Sys2Proof.Machine

-- A gang's accesses in flight, which performing one leaves to the gang

/-- The accesses in flight of gang j, and its width. -/
def State.flying (s : State) (j : GangKey) : List Flight × Nat := (s.gang j).flying

theorem tget_map_keys {κ ν : Type} [DecidableEq κ] {g : κ × ν → κ × ν} (hg : ∀ e, (g e).1 = e.1) (t : Tbl κ ν) (k : κ) :
    tget (t.map g) k = (tget t k).map fun v => (g (k, v)).2 := by
  induction t with
  | nil => rfl
  | cons e t ih =>
    rw [List.map_cons, tget_cons, tget_cons, hg]
    by_cases h : e.1 = k
    · subst h
      simp
    · rw [if_neg h, if_neg h]
      exact ih
section Flying
variable {s t : State} (j : GangKey)
theorem State.flying_of_gangs (h : t.gangs = s.gangs) : t.flying j = s.flying j := by rw [State.flying, State.gang, h]; rfl
theorem State.flying_of_map {g : GangKey × Gang → GangKey × Gang} (h : t.gangs = s.gangs.map g) (hk : ∀ e, (g e).1 = e.1) (hf : ∀ e, (g e).2.flying = e.2.flying) :
    t.flying j = s.flying j := by
  rw [State.flying, State.gang, h, tgetD, tget_map_keys hk, State.flying, State.gang, tgetD]
  cases tget s.gangs j with
  | none => rfl
  | some g => exact hf (j, g)
theorem State.flying_setGang (k : GangKey) {g : Gang} (h : g.flying = (s.gang k).flying) : (s.setGang k g).flying j = s.flying j := by
  rcases eq_or_ne j k with rfl | hne
  · rw [State.flying, State.gang_setGang, h]
    rfl
  · rw [State.flying, State.gang_setGang_ne s g hne]
    rfl

variable (s)
theorem State.flying_modPart (p : Nat) (f : Part → Part) : (s.modPart p f).flying j = s.flying j := rfl
theorem State.flying_rebase (p : Nat) : (s.rebase p).flying j = s.flying j := by
  refine State.flying_of_map j (s := s) (t := s.rebase p) rfl (fun e => ?_) fun e => ?_ <;> dsimp only <;> split <;> rfl
theorem State.flying_timeRead (k : GangKey) (lease key : Nat) : (s.timeRead k lease key).flying j = s.flying j :=
  State.timeRead_keeps (P := fun t => t.flying j = s.flying j) (fun t p h => (t.flying_rebase j p).trans h) (fun _ _ _ h => h)
    (fun _ k _ hg h => (State.flying_setGang j k hg).trans h) rfl k lease key
theorem State.flying_timeLoad (k : GangKey) (key : Nat) : (s.timeLoad k key).flying j = s.flying j := s.flying_timeRead j k 0 key
theorem State.flying_gangStore (k : GangKey) (key : Nat) : (s.gangStore k key).flying j = s.flying j :=
  State.gangStore_keeps (P := fun t => t.flying j = s.flying j) (fun t p h => (t.flying_rebase j p).trans h) (fun _ _ _ h => h)
    (fun _ k _ hg h => (State.flying_setGang j k hg).trans h) rfl k key
theorem State.flying_progress (k : GangKey) : (s.progress k).flying j = s.flying j := by
  refine State.flying_of_map j (s := s) (t := s.progress k) rfl (fun e => ?_) fun e => ?_ <;> dsimp only <;> split <;> rfl
theorem State.flying_retry (f : GangKey → ParkOn → Bool) : (s.retry f).flying j = s.flying j :=
  State.flying_of_map j (s := s) (t := s.retry f) rfl (fun _ => rfl) fun _ => rfl
end Flying

section Gangs
variable (s : State)
theorem State.gangs_sendRemote (pa : Nat) (p : RemotePacket) : (s.sendRemote pa p).gangs = s.gangs := by
  unfold State.sendRemote
  split <;> rfl
theorem State.gangs_sendAt (l : Loc) (p : Nat → Nat → RemotePacket) : (s.sendAt l p).gangs = s.gangs := by
  cases l with
  | mem pa kd coh ra => exact s.gangs_sendRemote pa _
  | scratch d off => rfl
theorem State.gangs_keyWriteBytes (kd pa : Nat) (bs : List Byte) : (s.keyWriteBytes kd pa bs).gangs = s.gangs := State.keyWriteBytes_keeps State.gangs State.keyWrite_gangs s kd pa bs
theorem State.gangs_writeBack (c n : Nat) : (s.writeBack c n).gangs = s.gangs := by
  unfold State.writeBack
  split
  · rfl
  · dsimp only
    split
    · rfl
    · rw [State.gangs_sendRemote, State.gangs_keyWriteBytes, State.modCore_gangs]
theorem State.gangs_dropSector (c n : Nat) : (s.dropSector c n).gangs = s.gangs := by
  rw [State.dropSector, State.modCore_gangs, State.gangs_writeBack]
theorem State.gangs_writeLine (c pa : Nat) : (s.writeLine c pa).gangs = s.gangs := foldl_keeps State.gangs (fun t _ => t.gangs_writeBack c _) _ s
theorem State.gangs_dropLine (c pa : Nat) : (s.dropLine c pa).gangs = s.gangs := by
  rw [State.dropLine, State.modCore_gangs, State.gangs_writeLine]
theorem State.gangs_cleanLine (c : Nat) (l : Loc) (drop : Bool) : (s.cleanLine c l drop).gangs = s.gangs := by
  unfold State.cleanLine
  repeat' split
  · rfl
  · exact s.gangs_dropLine c _
  · exact s.gangs_writeLine c _
  · rfl
theorem State.gangs_beforeAtomic (c : Nat) (l : Loc) (w : Nat) (ts : List ThreadKey) : (s.beforeAtomic c l w ts).gangs = s.gangs := by
  unfold State.beforeAtomic
  repeat' split
  · rfl
  · exact s.gangs_dropLine c _
  · rfl
  · rfl
  · rfl
theorem State.gangs_ownCopy (k : GangKey) (c pa kd ch : Nat) : (s.ownCopy k c pa kd ch).gangs = s.gangs := by
  unfold State.ownCopy
  split <;> rfl
end Gangs

section Flying
variable (s : State) (j k : GangKey) (core : Nat)
theorem State.flying_missLoad (pa kd w : Nat) (alloc keep : Bool) : (s.missLoad k core pa kd w alloc keep).1.flying j = s.flying j := by
  have hw : (s.writeBack core (sectorOf pa)).flying j = s.flying j := State.flying_of_gangs j (s.gangs_writeBack core _)
  unfold State.missLoad
  dsimp only
  split
  · split
    · exact (State.flying_setGang j k (Gang.flying_pt _ _)).trans hw
    · exact (State.flying_setGang j k (Gang.flying_pt _ _)).trans hw
  · generalize hr : (State.timeRead _ k _ _).sendRemote pa _ = r
    have hread : r.flying j = s.flying j := by rw [← hr, State.flying_of_gangs j (State.gangs_sendRemote ..), State.flying_timeRead, hw]
    split
    · exact hread
    · exact hread
theorem State.flying_plainLoad (pa kd w : Nat) (poll : Bool) (ch : Nat) : (s.plainLoad k core pa kd w poll ch).1.flying j = s.flying j := by
  have ht := s.flying_timeLoad j k (lineOf pa)
  unfold State.plainLoad
  dsimp only
  split
  · split
    · exact (State.flying_of_gangs j (State.gangs_dropSector ..)).trans ht
    · exact ht
  · split
    · exact (State.flying_of_gangs j (State.gangs_sendRemote ..)).trans ht
    · refine (State.flying_of_gangs j ?_).trans ht
      rw [State.modCore_gangs, State.gangs_dropSector, State.gangs_sendRemote]
theorem State.flying_leasedLoad (pa kd w : Nat) (poll : Bool) (ch : Nat) : (s.leasedLoad k core pa kd w poll ch).1.flying j = s.flying j := by
  unfold State.leasedLoad
  dsimp only
  split
  · split
    · split
      · exact State.flying_setGang j k (Gang.flying_pt _ _)
      · exact State.flying_setGang j k (Gang.flying_pt _ _)
    · exact s.flying_missLoad j k core ..
  · split
    · exact State.flying_missLoad _ j k core ..
    · exact s.flying_missLoad j k core ..
theorem State.flying_loadLoc (l : Loc) (w : Nat) (poll : Bool) (ch : Nat) (ts : List ThreadKey) : (s.loadLoc k core l w poll ch ts).1.flying j = s.flying j := by
  unfold State.loadLoc
  split
  · exact s.flying_timeLoad j k _
  · split
    · exact s.flying_timeLoad j k _
    · split
      · exact s.flying_plainLoad j k core ..
      · split
        · exact State.flying_timeLoad _ j k _
        · dsimp only
          split
          · exact State.flying_leasedLoad _ j k core ..
          · exact s.flying_leasedLoad j k core ..
theorem State.flying_homeStore (l : Loc) (w x : Nat) (ts : List ThreadKey) : (s.homeStore k l w x ts).flying j = s.flying j := by
  unfold State.homeStore
  split
  · exact State.flying_gangStore _ j k _
  · split
    · exact State.flying_gangStore _ j k _
    · dsimp only
      split
      · rw [State.flying_modPart, State.flying_gangStore, State.flying_of_gangs j (State.gangs_keyWriteBytes ..)]
        exact State.flying_of_gangs j rfl
      · rw [State.flying_modPart, State.flying_gangStore, State.flying_of_gangs j (State.gangs_keyWriteBytes ..)]
theorem State.flying_storeInCopy (pa : Nat) (bs : List Byte) (ch : Nat) : (s.storeInCopy k core pa bs ch).flying j = s.flying j := by
  unfold State.storeInCopy
  dsimp only
  split
  · exact (State.flying_of_gangs j (State.gangs_dropSector ..)).trans (State.flying_gangStore _ j k _)
  · exact State.flying_gangStore _ j k _
theorem State.flying_plainStore (l : Loc) (pa kd w x ch : Nat) (ts : List ThreadKey) : (s.plainStore k core l pa kd w x ch ts).flying j = s.flying j := by
  obtain ⟨c, -, he⟩ | he | he := s.plainStore_cases k core l pa kd w x ch ts <;> rw [he]
  · exact s.flying_storeInCopy j k core ..
  · refine (State.flying_storeInCopy _ j k core ..).trans (State.flying_of_gangs j ?_)
    rw [State.fillSector, State.modCore_gangs, State.gangs_sendRemote, State.gangs_dropSector]
  · exact (State.flying_of_gangs j (State.gangs_sendRemote ..)).trans (s.flying_homeStore j k ..)
theorem State.flying_storeLoc (l : Loc) (w x ch : Nat) (ts : List ThreadKey) : (s.storeLoc k core l w x ch ts).flying j = s.flying j := by
  cases l with
  | scratch d off => exact s.flying_homeStore j k (.scratch d off) w x ts
  | mem pa kd coh ra =>
    unfold State.storeLoc
    dsimp only
    split
    · exact s.flying_homeStore j k ..
    · split
      · exact s.flying_plainStore j k core ..
      · rw [State.flying_of_gangs j (State.gangs_sendRemote ..), State.flying_of_gangs j (State.gangs_ownCopy ..), State.flying_homeStore]
theorem State.flying_homeWrite (l : Loc) (w x : Nat) (ts : List ThreadKey) : (s.homeWrite k core l w x ts).flying j = s.flying j := by
  unfold State.homeWrite
  split
  · split
    · exact s.flying_homeStore j k ..
    · exact (State.flying_homeStore _ j k ..).trans (State.flying_of_gangs j (State.gangs_dropSector ..))
  · exact s.flying_homeStore j k ..
/-- Performing an access leaves every gang's list of accesses as it is. -/
theorem State.flying_perform (a : LaneAccess) (ts : List ThreadKey) : (s.perform k core a ts).1.flying j = s.flying j := by
  cases h : a.op with
  | load w sx poll ch =>
    rw [State.perform_load h]
    exact s.flying_loadLoc j k core ..
  | store w x ch =>
    rw [State.perform_store h, State.flying_progress]
    exact s.flying_storeLoc j k core ..
  | atom op ty x =>
    rw [State.perform_atom h]
    dsimp only
    rw [State.flying_progress, State.flying_of_gangs j (State.gangs_sendAt ..), State.flying_homeWrite, State.flying_of_gangs j (State.gangs_beforeAtomic ..)]
  | cas w cmp new =>
    rw [State.perform_cas h]
    dsimp only
    split
    · rw [State.flying_progress, State.flying_homeWrite, State.flying_of_gangs j (State.gangs_sendAt ..), State.flying_of_gangs j (State.gangs_beforeAtomic ..)]
    · rw [State.flying_timeLoad, State.flying_of_gangs j (State.gangs_sendAt ..), State.flying_of_gangs j (State.gangs_beforeAtomic ..)]
  | maint drop =>
    rw [State.perform_maint h]
    exact State.flying_of_gangs j (s.gangs_cleanLine core _ drop)
end Flying

-- Flits that arrive before (R240)

/-- A flit's arrival, which writes receive registers and lets paths issue again. -/
theorem State.receiveFlit_keeps {s : State} {m : Memory} {pads : Nat → Memory} {j : GangKey} {x : List Flight × Nat} (f : Flit) (h : s.Holds m pads ∧ s.flying j = x) :
    (s.receiveFlit f).Holds m pads ∧ (s.receiveFlit f).flying j = x := by
  have hreg : ∀ g : Core → Core, (∀ c, (g c).scratch = c.scratch) → ((s.modCore f.core g).wakeReceivers f.core f.mi).Holds m pads ∧
      ((s.modCore f.core g).wakeReceivers f.core f.mi).flying j = x := fun g hg => by
    obtain ⟨⟨hm, hpads⟩, hfly⟩ := h
    refine ⟨⟨hm, fun d => ?_⟩, (State.flying_retry _ j _).trans hfly⟩
    refine Eq.trans ?_ (hpads d)
    show ((s.modCore f.core g).core d).scratch = _
    rcases eq_or_ne d f.core with rfl | hne
    · rw [State.core_modCore, hg]
    · rw [State.core_modCore_ne s g hne]
  unfold State.receiveFlit
  split
  · exact h
  · split
    · exact h
    · split
      · exact hreg _ fun _ => rfl
      · exact hreg _ fun _ => rfl
theorem State.arriveRoute_keeps {m : Memory} {pads : Nat → Memory} {j : GangKey} {x : List Flight × Nat} (src dst n : Nat) {s : State} (h : s.Holds m pads ∧ s.flying j = x) :
    (s.arriveRoute src dst n).Holds m pads ∧ (s.arriveRoute src dst n).flying j = x := by
  induction n generalizing s with
  | zero => exact h
  | succ n ih =>
    unfold State.arriveRoute
    split
    · exact h
    · exact ih (State.receiveFlit_keeps (s := { s with transit := _ }) _ h)
section Landing
variable (s : State) (core : Nat) (l : Loc)
theorem State.beforeLanding_keeps (j : GangKey) : (s.beforeLanding core l).Holds s.mem s.pads ∧ (s.beforeLanding core l).flying j = s.flying j := by
  have h : s.Holds s.mem s.pads ∧ s.flying j = s.flying j := ⟨State.Holds.self s, rfl⟩
  unfold State.beforeLanding
  split
  · split
    · exact h
    · exact State.arriveRoute_keeps core _ _ h
  · exact h
variable {s core l}
theorem State.Puts.of_beforeLanding {t : State} {c : Bool} {w x : Nat} (h : (s.beforeLanding core l).Puts t core l c w x) : s.Puts t core l c w x := by
  cases l with
  | mem pa kd coh ra => exact h
  | scratch d off =>
    obtain ⟨⟨hm, hpads⟩, -⟩ := s.beforeLanding_keeps core (.scratch d off) ⟨0, 0⟩
    obtain ⟨hscratch, -, -⟩ := h
    refine ⟨fun d' off' he => ?_, fun _ _ _ _ he => (by cases he), fun _ _ _ _ he => (by cases he)⟩
    obtain ⟨hmem, hread⟩ := hscratch d' off' he
    exact ⟨hmem.trans hm, fun e b => by rw [hread, hpads]⟩
theorem State.Finds.of_beforeLanding {v w : Nat} (h : (s.beforeLanding core l).Finds l v w) : s.Finds l v w := by
  cases l with
  | mem pa kd coh ra => exact h
  | scratch d off =>
    obtain ⟨⟨-, hpads⟩, -⟩ := s.beforeLanding_keeps core (.scratch d off) ⟨0, 0⟩
    obtain ⟨hscratch, -, -⟩ := h
    exact ⟨fun d' off' he => by rw [hscratch d' off' he, hpads], fun _ _ _ _ he => (by cases he), fun _ _ _ _ he => (by cases he)⟩
end Landing

end Sys2Proof.Machine
end

section
/-! PROOFS. ACCESS_PERFORMED takes the next request of a gang, lane by lane, and records each lane's result (R199, R200, R366, R391, R430) (O24). -/
namespace Sys2Proof.Machine

-- One lane performed (R199, R200)

section PerformLane
variable {s : State} {k : GangKey} {f : Flight} {a : LaneAccess} {rest : List LaneAccess}

theorem Flight.resultsOf_congr (f : Flight) {g g' : Gang} (h : g.width = g'.width) (a : LaneAccess) (v : Nat) : f.resultsOf g a v = f.resultsOf g' a v := by
  simp only [Flight.resultsOf, h]
/-- An instruction with a destination stands in flight with the rest of its accesses and one more result. -/
theorem Gang.accessDone_flies {g : Gang} (hf : f ∈ g.flights) (hd : f.dest ≠ []) (v : Nat) (news : Bool) :
    ∃ e ∈ (g.accessDone f a rest v news).flights, e.id = f.id ∧ e.todo = rest ∧ e.results = f.results ++ f.resultsOf g a v := by
  refine ⟨_, mem_popReturned (List.mem_map_of_mem hf) ?_ [], ?_⟩
  · simp [hd]
  · simp

theorem State.flights_demote (s : State) (k : GangKey) (n : Nat) : ((s.demote k n).gang k).flights = (s.gang k).flights := by
  unfold State.demote
  dsimp only
  split <;> rw [State.gang_setGang]
theorem State.Puts.modGang {t : State} {core : Nat} {l : Loc} {c : Bool} {w x : Nat} (h : s.Puts t core l c w x) (g : Gang → Gang) : s.Puts (t.modGang k g) core l c w x := h
theorem State.Puts.demote {t : State} {core : Nat} {l : Loc} {c : Bool} {w x : Nat} (h : s.Puts t core l c w x) (n : Nat) : s.Puts (t.demote k n) core l c w x := by
  unfold State.demote
  dsimp only
  split
  · exact h
  · exact h
theorem State.cores_demote (s : State) (k : GangKey) (n : Nat) : (s.demote k n).cores = s.cores := by
  unfold State.demote
  dsimp only
  split <;> rfl

/-- The state before the lane's access, and what the access answers. -/
abbrev State.landed (s : State) (k : GangKey) (a : LaneAccess) : State := s.beforeLanding (s.gang k).core a.loc
abbrev State.performed (s : State) (k : GangKey) (f : Flight) (a : LaneAccess) : State × Nat × Bool :=
  (s.landed k a).perform k (s.gang k).core a ((s.gang k).threadsOf k f a)

variable (hn : (s.gang k).nextAccess = some f) (ht : f.todo = a :: rest)
include hn ht
/-- The access is performed, then recorded; a path that saw nothing new may be demoted (R69). -/
theorem State.performLane_cases : ∃ news, let u := (s.performed k f a).1.modGang k fun g => g.accessDone f a rest (s.performed k f a).2.1 news
    s.performLane k = u ∨ ∃ n, s.performLane k = u.demote k n := by
  refine ⟨accessNews ((s.performed k f a).1.gang k) a (s.performed k f a).2.1 (s.performed k f a).2.2, ?_⟩
  simp only [State.performLane, hn, ht]
  split
  · exact .inr ⟨_, rfl⟩
  · exact .inl rfl
theorem State.performLane_puts {c : Bool} {w x : Nat} (h : (s.landed k a).Puts (s.performed k f a).1 (s.gang k).core a.loc c w x) :
    s.Puts (s.performLane k) (s.gang k).core a.loc c w x := by
  obtain ⟨news, he | ⟨n, he⟩⟩ := State.performLane_cases hn ht <;> rw [he]
  · exact h.of_beforeLanding.modGang _
  · exact (h.of_beforeLanding.modGang _).demote n
theorem State.performLane_ends (hd : f.dest ≠ []) : ∃ e ∈ ((s.performLane k).gang k).flights, e.id = f.id ∧ e.todo = rest ∧
    e.results = f.results ++ f.resultsOf (s.gang k) a (s.performed k f a).2.1 := by
  have hfly : (s.performed k f a).1.flying k = s.flying k := (State.flying_perform ..).trans (s.beforeLanding_keeps _ _ k).2
  have hlist : ((s.performed k f a).1.gang k).flights = (s.gang k).flights := congrArg Prod.fst hfly
  have hmem : f ∈ ((s.performed k f a).1.gang k).flights := hlist ▸ List.mem_of_find?_eq_some hn
  obtain ⟨news, he⟩ := State.performLane_cases hn ht
  have hflights : ((s.performLane k).gang k).flights = (((s.performed k f a).1.gang k).accessDone f a rest (s.performed k f a).2.1 news).flights := by
    obtain he | ⟨n, he⟩ := he <;> rw [he]
    · rw [State.gang_modGang]
    · rw [State.flights_demote, State.gang_modGang]
  rw [hflights, ← f.resultsOf_congr (congrArg Prod.snd hfly :) a]
  exact Gang.accessDone_flies hmem hd _ news
theorem State.performLane_cores : (s.performLane k).cores = (s.performed k f a).1.cores := by
  obtain ⟨news, he | ⟨n, he⟩⟩ := State.performLane_cases hn ht <;> rw [he]
  · rfl
  · rw [State.cores_demote]
    rfl
end PerformLane

-- The next request (R200, R391, R430)

section Request
variable {s : State} {k : GangKey} {f : Flight} {a : LaneAccess} {rest : List LaneAccess}
theorem State.requestLanes_none (h : (s.gang k).nextAccess = none) : s.requestLanes k = 0 := by simp only [State.requestLanes, h]
variable (hn : (s.gang k).nextAccess = some f) (ht : f.todo = a :: rest)
include hn ht
theorem State.requestLanes_one (h : f.dest ≠ [] ∨ ∀ op ty v, a.op ≠ .atom op ty v) : s.requestLanes k = 1 := by
  simp only [State.requestLanes, hn, ht]
  split
  · rename_i op ty v ha
    have hd : f.dest ≠ [] := h.resolve_right fun hne => hne _ _ _ ha
    simp [hd]
  · rfl
theorem State.requestLanes_bounds : 1 ≤ s.requestLanes k ∧ s.requestLanes k ≤ f.todo.length := by
  by_cases h : f.dest ≠ [] ∨ ∀ op ty v, a.op ≠ .atom op ty v
  · rw [State.requestLanes_one hn ht h, ht]
    exact ⟨le_rfl, Nat.succ_pos _⟩
  · push Not at h
    obtain ⟨hd, op, ty, v, ha⟩ := h
    have hred : s.requestLanes k = (f.todo.takeWhile fun b => s.servedAt k b.loc = s.servedAt k a.loc).length := by
      simp only [State.requestLanes, hn, ht, ha, hd, List.isEmpty_nil, if_true]
    rw [hred, ht, List.takeWhile_cons_of_pos (by simp), List.length_cons]
    exact ⟨Nat.succ_pos _, Nat.succ_le_succ (List.takeWhile_sublist _).length_le⟩
end Request

-- CMNT (R326)

/-- The line's sectors in the core's L1 are clean, and under .DROP none is left. -/
theorem State.cleanLine_clean (s : State) (core : Nat) {pa kd coh : Nat} {ra : Bool} (hh : isHost pa = false) (drop : Bool) :
    let t := s.cleanLine core (.mem pa kd coh ra) drop
    (∀ n ∈ (t.core core).dirty, n / 4 ≠ lineOf pa) ∧ (drop = true → ∀ e ∈ (t.core core).l1, e.1 / 4 ≠ lineOf pa) := by
  cases drop with
  | false =>
    simp only [State.cleanLine, hh, Bool.false_eq_true, if_false, false_implies, and_true]
    exact fun n => s.dirty_writeLine core pa
  | true =>
    simp only [State.cleanLine, hh, Bool.false_eq_true, if_false, if_true, true_implies, State.dropLine, State.core_modCore]
    refine ⟨fun n => s.dirty_writeLine core pa, fun e he => ?_⟩
    have hline : lineOf (e.1 * 256) ≠ lineOf pa := of_decide_eq_true (List.mem_filter.1 he).2
    rwa [lineOf, Nat.mul_div_mul_right _ 4 (by norm_num : 0 < 256)] at hline

/-- The value of a load in its register (R366). -/
theorem accessValue_load {a : LaneAccess} {w ch : Nat} {sx poll : Bool} (h : a.op = .load w sx poll ch) (v : Nat) :
    accessValue a v = if w < 4 ∧ sx = true then (signedOf (8 * w) v % 2 ^ 32).toNat else v := by
  simp only [accessValue, h, extendLoad, bitsOf, Bool.and_eq_true, decide_eq_true_eq]

section Values
variable (s : State) (k : GangKey) (core : Nat) (l : Loc) (w : Nat) (poll : Bool) (ch : Nat) (ts : List ThreadKey)
/-- The flits that arrive before a load change nothing that it reads. -/
theorem State.loadLoc_beforeLanding : ((s.beforeLanding core l).loadLoc k core l w poll ch ts).2 = (s.loadLoc k core l w poll ch ts).2 := by
  cases l with
  | mem pa kd coh ra => rfl
  | scratch d off =>
    obtain ⟨⟨-, hpads⟩, -⟩ := s.beforeLanding_keeps core (.scratch d off) k
    exact congrArg (Memory.readN · off w) (hpads d)
/-- A load gives the word that stands, but under a lease (R190). -/
theorem State.loadLoc_finds (h : ∀ pa kd coh ra, l = .mem pa kd coh ra → coh < 2) : s.Finds l (s.loadLoc k core l w poll ch ts).2 w := by
  have hread : (s.loadLoc k core l w poll ch ts).2 = s.homeRead l w := by
    obtain hl | ⟨pa, kd, coh, ra, rfl, hh⟩ := l.uncached_or_page
    · rw [s.loadLoc_uncached k core hl]
    · simp only [State.loadLoc, State.homeRead, hh, h pa kd coh ra rfl, Bool.false_eq_true, if_false, if_true, State.plainLoad_value]
  rw [hread]
  exact s.finds_homeRead l w
end Values

/-- Settles O24: performing a lane's access is its location's load, store, atomic or clean, between the flits that arrive before it and its record in the flight; what a page then shows
follows from its L1 copies, and a scratchpad's or a host page's bytes stand in no L1. -/
theorem accessesPerformed : Obligations.AccessesPerformed := by
  refine ⟨fun s k => ⟨rfl, fun h => ?none, rfl, fun _ => rfl, fun f a rest hn ht => ?request⟩, fun s k f a rest hn ht => ?lane⟩
  case none =>
    show Host.Outcome.next (s.performLanes k (s.requestLanes k)) = _
    rw [State.requestLanes_none h]
    rfl
  case request =>
    obtain ⟨h1, h2⟩ := State.requestLanes_bounds hn ht
    exact ⟨h1, h2, State.requestLanes_one hn ht⟩
  case lane =>
    intro core t ends puts stands
    have hends : ends (s.performed k f a).2.1 := State.performLane_ends hn ht
    have hputs : ∀ {c w x}, (s.landed k a).Puts (s.performed k f a).1 core a.loc c w x → puts c w x := State.performLane_puts hn ht
    have hstands : ∀ {w ts}, (∀ pa kd coh ra, a.loc = .mem pa kd coh ra → isHost pa = false → s.copiesAgree core kd pa) → stands ((s.landed k a).atomicOld core a.loc w ts) w := fun h =>
      (State.atomicOld_finds _ core a.loc _ _ fun pa kd coh ra he hh => by
        show (s.beforeLanding core a.loc).copiesAgree core kd pa
        rw [he]
        exact h pa kd coh ra he hh).of_beforeLanding
    have hsize : ∀ w ∈ [1, 2, 4, 8, 16], w ∣ 256 := by decide
    refine ⟨fun w sx poll ch ha hw => ?load, fun w v ch ha hw => ?store, fun op ty v ha => ?atom, fun w cmp new ha hw => ?cas, fun drop ha => ?maint⟩
    case load =>
      have hp := State.perform_load (s := s.landed k a) (k := k) (core := core) (ts := (s.gang k).threadsOf k f a) ha
      have hv : (s.performed k f a).2.1 = (s.loadLoc k core a.loc w poll ch ((s.gang k).threadsOf k f a)).2 := by
        rw [State.performed, hp]
        exact s.loadLoc_beforeLanding ..
      refine ⟨hv ▸ hends, hputs ?_, s.loadLoc_finds k core a.loc w poll ch _, accessValue_load ha _⟩
      rw [State.performed, hp]
      exact State.puts_loadLoc k core a.loc _ w poll ch
    case store =>
      refine hputs ?_
      rw [State.performed, State.perform_store ha]
      exact (State.puts_storeLoc k core a.loc _ (hsize w hw) v ch).progress k
    case atom =>
      have hp := State.perform_atom (s := s.landed k a) (k := k) (core := core) (ts := (s.gang k).threadsOf k f a) ha
      refine ⟨(s.performed k f a).2.1, fun h => ?_, hends, hputs ?_⟩
      · rw [State.performed, hp]
        exact hstands h
      · rw [State.performed, hp]
        exact (State.puts_atomic k core a.loc _ (by split <;> decide) _ _).1.progress k
    case cas =>
      have hp := State.perform_cas (s := s.landed k a) (k := k) (core := core) (ts := (s.gang k).threadsOf k f a) ha
      have hw8 : w ∣ 256 := (by decide : ∀ w ∈ [4, 8], w ∣ 256) w hw
      refine ⟨(s.landed k a).atomicOld core a.loc w ((s.gang k).threadsOf k f a), hstands, ?_⟩
      by_cases hold : (s.landed k a).atomicOld core a.loc w ((s.gang k).threadsOf k f a) = cmp % 2 ^ (8 * w)
      · rw [if_pos hold] at hp
        rw [State.performed, hp] at hends hputs
        rw [decide_eq_true hold]
        exact ⟨hends, hputs ((State.puts_atomic k core a.loc _ hw8 new _).2.progress k)⟩
      · rw [if_neg hold] at hp
        rw [State.performed, hp] at hends hputs
        rw [decide_eq_false hold]
        exact ⟨hends, hputs (State.puts_atomic_load k core a.loc _ w new _)⟩
    case maint =>
      have hp := State.perform_maint (s := s.landed k a) (k := k) (core := core) (ts := (s.gang k).threadsOf k f a) ha
      refine ⟨hputs ?_, fun pa kd coh ra he hh => ?_⟩
      · rw [State.performed, hp]
        exact State.puts_cleanLine core a.loc drop
      · have hcore : t.core core = ((s.landed k a).cleanLine core a.loc drop).core core := by
          rw [State.core, State.performLane_cores hn ht, State.performed, hp]
          rfl
        rw [hcore, State.landed, he]
        exact s.cleanLine_clean core hh drop

end Sys2Proof.Machine
end

section
/-! PROOFS. Memory in canonical form (R203): each row of the opcode table keeps it, hence each turn and each step does, and what a step leaves is told apart by its reads alone (O7). -/
namespace Sys2Proof.Machine

/-- Nothing is listed below the bound. -/
theorem Memory.read_below {m : Memory} {lo a : Nat} (h : m.wfAbove lo = true) (ha : a < lo) : m.read a = 0 := by
  induction m generalizing lo with
  | nil => rfl
  | cons c r ih =>
    obtain ⟨k, b⟩ := c
    simp only [Memory.wfAbove, Bool.and_eq_true, decide_eq_true_eq] at h
    obtain ⟨⟨hk, -⟩, hr⟩ := h
    rw [Memory.read, if_neg (by omega), ih hr (by omega)]
/-- The canonical form is the only one among those that read alike: the lesser of two first addresses reads its byte, which is not 0, in one memory and 0 in the other. -/
theorem Memory.wfAbove_ext {m n : Memory} {lo : Nat} (hm : m.wfAbove lo = true) (hn : n.wfAbove lo = true) (h : ∀ a, m.read a = n.read a) : m = n := by
  induction m generalizing n lo with
  | nil =>
    cases n with
    | nil => rfl
    | cons c r =>
      obtain ⟨k, b⟩ := c
      simp only [Memory.wfAbove, Bool.and_eq_true, decide_eq_true_eq] at hn
      exact absurd (by simpa [Memory.read] using (h k).symm) hn.1.2
  | cons c r ih =>
    obtain ⟨k, b⟩ := c
    cases n with
    | nil =>
      simp only [Memory.wfAbove, Bool.and_eq_true, decide_eq_true_eq] at hm
      exact absurd (by simpa [Memory.read] using h k) hm.1.2
    | cons d q =>
      obtain ⟨l, e⟩ := d
      simp only [Memory.wfAbove, Bool.and_eq_true, decide_eq_true_eq] at hm hn
      obtain ⟨⟨-, hb⟩, hr⟩ := hm
      obtain ⟨⟨-, he⟩, hq⟩ := hn
      have hk := h k
      have hl := h l
      rcases Nat.lt_trichotomy k l with hkl | rfl | hkl
      · rw [Memory.read, if_pos rfl, Memory.read, if_neg (by omega), Memory.read_below hq (by omega)] at hk
        exact absurd hk hb
      · have hbe : b = e := by simpa [Memory.read] using hk
        have hrq : r = q := ih hr hq fun a => by
          by_cases ha : k = a
          · rw [Memory.read_below hr (by omega), Memory.read_below hq (by omega)]
          · simpa [Memory.read, ha] using h a
        rw [hbe, hrq]
      · rw [Memory.read, if_neg (by omega), Memory.read_below hr (by omega), Memory.read, if_pos rfl] at hl
        exact absurd hl.symm he

section Step
variable {s t : State} (hw : s.mem.wf = true)
include hw

/-- Each row of the opcode table, by the lemma of its own meaning. -/
theorem exec_wf {i : Instr} (he : exec i s = .next t) : t.mem.wf = true := by
  cases i with
  | nop => exact execNop_wf hw he
  | mov => exact execMov_wf hw he
  | iadd => exact execIadd_wf hw he
  | isub => exact execIsub_wf hw he
  | imul => exact execImul_wf hw he
  | imad => exact execImad_wf hw he
  | imin => exact execImin_wf hw he
  | imax => exact execImax_wf hw he
  | and => exact execAnd_wf hw he
  | andn => exact execAndn_wf hw he
  | or => exact execOr_wf hw he
  | xor => exact execXor_wf hw he
  | shl => exact execShl_wf hw he
  | shr => exact execShr_wf hw he
  | sar => exact execSar_wf hw he
  | bcnt => exact execBcnt_wf hw he
  | bfx => exact execBfx_wf hw he
  | bfi => exact execBfi_wf hw he
  | fadd => exact execFadd_wf hw he
  | fmul => exact execFmul_wf hw he
  | ffma => exact execFfma_wf hw he
  | fmin => exact execFmin_wf hw he
  | fmax => exact execFmax_wf hw he
  | icmp => exact execIcmp_wf hw he
  | fcmp => exact execFcmp_wf hw he
  | sel => exact execSel_wf hw he
  | plop => exact execPlop_wf hw he
  | shfl => exact execShfl_wf hw he
  | vote => exact execVote_wf hw he
  | perm => exact execPerm_wf hw he
  | redg => exact execRedg_wf hw he
  | lea => exact execLea_wf hw he
  | ld => exact execLd_wf hw he
  | ldPoll => exact execLdPoll_wf hw he
  | ldc => exact execLdc_wf hw he
  | lds => exact execLds_wf hw he
  | ldp => exact execLdp_wf hw he
  | st => exact execSt_wf hw he
  | sts => exact execSts_wf hw he
  | stp => exact execStp_wf hw he
  | atom => exact execAtom_wf hw he
  | atoms => exact execAtoms_wf hw he
  | atomp => exact execAtomp_wf hw he
  | red => exact execRed_wf hw he
  | cas => exact execCas_wf hw he
  | cass => exact execCass_wf hw he
  | prefL1 => exact execPrefL1_wf hw he
  | prefLlc => exact execPrefLlc_wf hw he
  | fenceRepl => exact execFenceRepl_wf hw he
  | fenceHost => exact execFenceHost_wf hw he
  | fenceEng => exact execFenceEng_wf hw he
  | fenceAll => exact execFenceAll_wf hw he
  | cmntWb => exact execCmntWb_wf hw he
  | cmntDrop => exact execCmntDrop_wf hw he
  | qpush => exact execQpush_wf hw he
  | qpop => exact execQpop_wf hw he
  | qpopWait => exact execQpopWait_wf hw he
  | mmad => exact execMmad_wf hw he
  | azero => exact execAzero_wf hw he
  | tbuild => exact execTbuild_wf hw he
  | lutmm => exact execLutmm_wf hw he
  | tbinv => exact execTbinv_wf hw he
  | tbqry => exact execTbqry_wf hw he
  | accrd => exact execAccrd_wf hw he
  | accwr => exact execAccwr_wf hw he
  | twr => exact execTwr_wf hw he
  | trd => exact execTrd_wf hw he
  | mengq => exact execMengq_wf hw he
  | cpy => exact execCpy_wf hw he
  | tload => exact execTload_wf hw he
  | tstore => exact execTstore_wf hw he
  | tdesc => exact execTdesc_wf hw he
  | cpyq => exact execCpyq_wf hw he
  | cpycan => exact execCpycan_wf hw he
  | coll => exact execColl_wf hw he
  | tpost => exact execTpost_wf hw he
  | tsig => exact execTsig_wf hw he
  | braM => exact execBraM_wf hw he
  | braS => exact execBraS_wf hw he
  | brx => exact execBrx_wf hw he
  | call => exact execCall_wf hw he
  | callx => exact execCallx_wf hw he
  | ret => exact execRet_wf hw he
  | join => exact execJoin_wf hw he
  | exit => exact execExit_wf hw he
  | trap => exact execTrap_wf hw he
  | brk => exact execBrk_wf hw he
  | wflush => exact execWflush_wf hw he
  | wstat => exact execWstat_wf hw he
  | elect => exact execElect_wf hw he
  | launch => exact execLaunch_wf hw he
  | grow => exact execGrow_wf hw he
  | yield => exact execYield_wf hw he
  | gsr => exact execGsr_wf hw he
  | ssr => exact execSsr_wf hw he
  | famkillWrite => exact execFamkillWrite_wf hw he
  | eret => exact execEret_wf hw he
  | eretSkip => exact execEretSkip_wf hw he
  | rcp => exact execRcp_wf hw he
  | rsq => exact execRsq_wf hw he
  | sqrt => exact execSqrt_wf hw he
  | exp2 => exact execExp2_wf hw he
  | log2 => exact execLog2_wf hw he
  | sin => exact execSin_wf hw he
  | cos => exact execCos_wf hw he
  | tanh => exact execTanh_wf hw he
  | cvt => exact execCvt_wf hw he
  | frnd => exact execFrnd_wf hw he
  | dbfpk => exact execDbfpk_wf hw he
  | dbfunpk => exact execDbfunpk_wf hw he
  | wait => exact execWait_wf hw he
  | binit => exact execBinit_wf hw he
  | barrive => exact execBarrive_wf hw he
  | bwait => exact execBwait_wf hw he
  | btry => exact execBtry_wf hw he
  | binval => exact execBinval_wf hw he
  | bstat => exact execBstat_wf hw he
  | bstatClr => exact execBstatClr_wf hw he
  | gbarrive => exact execGbarrive_wf hw he
  | gbwait => exact execGbwait_wf hw he
  | racq => exact execRacq_wf hw he
  | rcommit => exact execRcommit_wf hw he
  | rwait => exact execRwait_wf hw he
  | rfree => exact execRfree_wf hw he
  | tsync => exact execTsync_wf hw he
  | chanbind => exact execChanbind_wf hw he
  | msgsend => exact execMsgsend_wf hw he
  | msgrecv => exact execMsgrecv_wf hw he
  | pwrreq => exact execPwrreq_wf hw he
  | pwrrel => exact execPwrrel_wf hw he
  | perflvl => exact execPerflvl_wf hw he
  | issueSelect => exact execIssueSelect_wf hw he
  | gangStarved => exact execGangStarved_wf hw he
  | resultWriteback => exact execResultWriteback_wf hw he
  | accessPerformed => exact execAccessPerformed_wf hw he
  | replicaPropagation => exact execReplicaPropagation_wf hw he
  | translationWalk => exact execTranslationWalk_wf hw he
  | trapEntry => exact execTrapEntry_wf hw he
  | watchdogExpiry => exact execWatchdogExpiry_wf hw he
  | watchdogGraceExpiry => exact execWatchdogGraceExpiry_wf hw he
  | formwaitExpiry => exact execFormwaitExpiry_wf hw he
  | formedGangRelease => exact execFormedGangRelease_wf hw he
  | porterSpill => exact execPorterSpill_wf hw he
  | porterRefill => exact execPorterRefill_wf hw he
  | spawnOverflowMove => exact execSpawnOverflowMove_wf hw he
  | gangEnd => exact execGangEnd_wf hw he
  | hostPost => exact execHostPost_wf hw he
  | taskIngest => exact execTaskIngest_wf hw he
  | gridCodebookRead => exact execGridCodebookRead_wf hw he
  | teamPlace => exact execTeamPlace_wf hw he
  | taskJobStart => exact execTaskJobStart_wf hw he
  | engineOpStart => exact execEngineOpStart_wf hw he
  | engineSlave => exact execEngineSlave_wf hw he
  | handleFetch => exact execHandleFetch_wf hw he
  | engineOpRetire => exact execEngineOpRetire_wf hw he
  | copyJobAccept => exact execCopyJobAccept_wf hw he
  | copyByteWrite => exact execCopyByteWrite_wf hw he
  | copyJobFault => exact execCopyJobFault_wf hw he
  | copyJobComplete => exact execCopyJobComplete_wf hw he
  | flitDelivery => exact execFlitDelivery_wf hw he
  | weighbridgeWindow => exact execWeighbridgeWindow_wf hw he
  | leaveGrant => exact execLeaveGrant_wf hw he
  | perfLevelChange => exact execPerfLevelChange_wf hw he
  | thermalSweep => exact execThermalSweep_wf hw he
  | timeRebase => exact execTimeRebase_wf hw he
  | preemptSaveTeam => exact execPreemptSaveTeam_wf hw he
  | preemptSaveContext => exact execPreemptSaveContext_wf hw he
  | preemptSavePartition => exact execPreemptSavePartition_wf hw he
  | preemptSwapPartition => exact execPreemptSwapPartition_wf hw he
  | preemptForcedStop => exact execPreemptForcedStop_wf hw he
  | shadowExchange => exact execShadowExchange_wf hw he
  | teamSave => exact execTeamSave_wf hw he
  | teamRestore => exact execTeamRestore_wf hw he
  | fqreplyServiced => exact execFqreplyServiced_wf hw he
  | fqreplyRefused => exact execFqreplyRefused_wf hw he
  | fqbaseWrite => exact execFqbaseWrite_wf hw he
  | elbaseWrite => exact execElbaseWrite_wf hw he
  | hcmaskWrite => exact execHcmaskWrite_wf hw he
  | rdcwaysWrite => exact execRdcwaysWrite_wf hw he
  | tlbInvalidate => exact execTlbInvalidate_wf hw he
  | tlbInvalidateDone => exact execTlbInvalidateDone_wf hw he
  | gbcfgWrite => exact execGbcfgWrite_wf hw he
  | statWrite => exact execStatWrite_wf hw he
  | pceilWrite => exact execPceilWrite_wf hw he
  | contextRun => exact execContextRun_wf hw he
  | contextStop => exact execContextStop_wf hw he
  | hatomWrite => exact execHatomWrite_wf hw he
  | configRegisterWrite => exact execConfigRegisterWrite_wf hw he
  | hostCompletionError => exact execHostCompletionError_wf hw he
  | loadkey => exact execLoadkey_wf hw he
  | revoke => exact execRevoke_wf hw he
  | attest => exact execAttest_wf hw he
  | lcstate => exact execLcstate_wf hw he
  | packageReset => exact execPackageReset_wf hw he
  | hbmWipeDone => exact execHbmWipeDone_wf hw he
  | firmwareImage => exact execFirmwareImage_wf hw he
  | dieFence => exact execDieFence_wf hw he
  | dieDrop => exact execDieDrop_wf hw he
  | errorDetected => exact execErrorDetected_wf hw he
  | correctedErrorLog => exact execCorrectedErrorLog_wf hw he
  | coolantAlarm => exact execCoolantAlarm_wf hw he
  | coolantRecover => exact execCoolantRecover_wf hw he
  | coolantFatal => exact execCoolantFatal_wf hw he
  | programTimeTick => exact execProgramTimeTick_wf hw he
  | fabricConfiguration => exact execFabricConfiguration_wf hw he
  | dieReset => exact execDieReset_wf hw he
  | hostLinkWrite => exact execHostLinkWrite_wf hw he
  | fabricRemoteAccess => exact execFabricRemoteAccess_wf hw he
theorem State.runTurn_wf {u : Turn} (he : s.runTurn u = .next t) : t.mem.wf = true := by
  cases u with
  | event i =>
    rw [State.runTurn] at he
    split at he
    · cases he; exact hw
    · exact exec_wf hw he
  | issue core bench k =>
    rw [State.runTurn] at he
    split at he
    case h_1 => exact exec_wf (by rw [State.fetched_mem]; exact hw) he
    case h_2 hn => cases he; exact State.nextWord_other_wf hw hn
  | tick core n => cases he; rw [State.tick_mem]; exact hw
  | evict core sector => cases he; exact State.evictSector_wf s core sector hw
  | elapse n => cases he; rw [State.elapse_mem]; exact hw
  | link pkg up => cases he; rw [State.modPkg_mem]; exact hw
theorem step_wf (he : step s = .next t) : t.mem.wf = true := by
  rw [step] at he
  split at he
  · cases he
  · split at he
    · cases he; exact hw
    · refine State.runTurn_wf ?_ he
      exact hw
/-- After a step, a canonical memory that reads like what the step left is what the step left. -/
theorem step_mem_eq_of_read (he : step s = .next t) {m : Memory} (hm : m.wf = true) (h : ∀ a, m.read a = t.mem.read a) : m = t.mem :=
  Memory.wfAbove_ext hm (step_wf hw he) h
end Step

/-- Settles O7: a step is one turn of the agenda, and a turn is an instruction's meaning or an agent's move, each of which keeps the canonical form. -/
theorem memoryStaysCanonical : Obligations.MemoryStaysCanonical := fun _ _ => step_wf

end Sys2Proof.Machine
end

section
/-! PROOFS. The words of a synchronisation object in a scratchpad (R228, R233): what a write of one leaves, and one arrival at a barrier object (R228, R230) (O47). -/
namespace Sys2Proof.Machine

-- A word of an object (R4, R205)

theorem natOfBytes_lt (bs : List Byte) : natOfBytes bs < 256 ^ bs.length := by
  induction bs with
  | nil => simp [natOfBytes]
  | cons b bs ih =>
    have hb := b.isLt
    rw [natOfBytes, List.length_cons, Nat.pow_succ]
    omega
theorem State.objWord_lt (s : State) (c off i : Nat) : s.objWord c off i < 2 ^ 32 := by
  have h := natOfBytes_lt ((s.core c).scratch.readBytes (off + 4 * i) 4)
  rwa [Memory.readBytes_length] at h

/-- A gang but for its program time, which the stamp of a write may rebase (R210). -/
def Gang.timeless (g : Gang) : Gang := { g with pt := 0 }
theorem State.timeless_rebase (s : State) (p : Nat) (k : GangKey) : ((s.rebase p).gang k).timeless = (s.gang k).timeless := by
  simp only [State.gang, tgetD]
  rw [show (s.rebase p).gangs = rebaseGangs (s.rebaseBy p) (fun j => (s.team j.team).ctx.part = p) s.gangs from rfl, rebaseGangs, tmap,
    tget_map_keys (fun e => by split <;> rfl)]
  cases tget s.gangs k with
  | none => rfl
  | some g =>
    simp only [Option.map_some, Option.getD_some]
    split <;> rfl

section Write
variable (s : State) (c off i x : Nat)
theorem State.timeless_stampObj (k : GangKey) : ((s.stampObj c off).gang k).timeless = (s.gang k).timeless := by
  unfold State.stampObj
  split
  · exact State.timeStore_keeps (P := fun t => (t.gang k).timeless = (s.gang k).timeless) (fun t p h => (t.timeless_rebase p k).trans h) (fun _ _ _ h => h) rfl ..
  · rfl
theorem State.stampObj_holds {m : Memory} {pads : Nat → Memory} (h : s.Holds m pads) : (s.stampObj c off).Holds m pads := by
  unfold State.stampObj
  split
  · exact State.timeStore_keeps (P := fun t => t.Holds m pads) (fun _ p h => h.rebase p) (fun _ _ _ h => h) h ..
  · exact h
theorem State.timeless_setObjWord (k : GangKey) : ((s.setObjWord c off i x).gang k).timeless = (s.gang k).timeless := State.timeless_stampObj _ c off k
theorem State.scratch_setObjWord (d : Nat) :
    ((s.setObjWord c off i x).core d).scratch = if d = c then (s.core c).scratch.writeN (off + 4 * i) 4 x else (s.core d).scratch := by
  refine ((State.stampObj_holds _ c off (pads := State.pads _) ⟨rfl, fun _ => rfl⟩).2 d).trans ?_
  by_cases h : d = c
  · rw [if_pos h, h, State.pads, State.core_modCore]
  · rw [if_neg h, State.pads, State.core_modCore_ne _ _ h]
theorem State.read_setObjWord {d b : Nat} (h : d ≠ c ∨ b < off + 4 * i ∨ off + 4 * i + 4 ≤ b) :
    ((s.setObjWord c off i x).core d).scratch.read b = (s.core d).scratch.read b := by
  rw [State.scratch_setObjWord]
  split
  next hd =>
    rw [Memory.read_writeN, if_neg (by omega), hd]
  next => rfl
theorem State.objWord_setObjWord : (s.setObjWord c off i x).objWord c off i = x % 2 ^ 32 := by
  rw [State.objWord, State.scratch_setObjWord, if_pos rfl]
  exact Memory.readN_writeN ..
variable {i} in
theorem State.objWord_setObjWord_ne {j : Nat} (h : j ≠ i) : (s.setObjWord c off i x).objWord c off j = s.objWord c off j :=
  Memory.readN_congr fun b _ _ => s.read_setObjWord c off i x (by omega)
theorem State.objWord_retry (f : GangKey → ParkOn → Bool) : (s.retry f).objWord c off i = s.objWord c off i := rfl
end Write

-- The status word (R174)

/-- One error merged: the word says so, and the first code stands. -/
theorem mergeWord_one {old first : Nat} (h : old < 2 ^ 32) :
    2 ^ 31 ≤ mergeWord old first 1 ∧ mergeWord old first 1 < 2 ^ 32 ∧ (old < 2 ^ 31 → bitsAt (mergeWord old first 1) 24 7 = bitsAt first 24 7) := by
  have hc : min 255 (bitsAt old 16 8 + 1) ≤ 255 := Nat.min_le_left ..
  have hf : bitsAt first 24 7 < 2 ^ 7 := Nat.mod_lt _ (by decide)
  simp only [mergeWord, Nat.one_ne_zero, if_false]
  generalize min 255 (bitsAt old 16 8 + 1) = n at hc
  split
  · exact ⟨by omega, by omega, fun ho => by omega⟩
  · generalize bitsAt first 24 7 = f at hf
    refine ⟨by omega, by omega, fun _ => ?_⟩
    rw [bitsAt, Nat.shiftRight_eq_div_pow]
    omega

-- Word 0 of a barrier object (R228)

section Word
variable (ph : Bool) (exp pnd : Nat)
theorem barWord_lt : barWord ph exp pnd < 2 ^ 32 := by
  rw [barWord]
  split <;> omega
theorem barPhase_barWord : barPhase (barWord ph exp pnd) = ph := by
  rw [barPhase, barWord]
  cases ph
  · exact decide_eq_false (by simp only [Bool.false_eq_true, if_false]; omega)
  · exact decide_eq_true (by simp only [if_true]; omega)
theorem barExp_barWord : barExp (barWord ph exp pnd) = exp % 2 ^ 15 := by
  rw [barExp, barWord, bitsAt, Nat.shiftRight_eq_div_pow]
  split <;> omega
theorem barPending_barWord : barPending (barWord ph exp pnd) = pnd % 2 ^ 16 := by
  rw [barPending, barWord]
  split <;> omega
variable {exp pnd}
theorem barWord_of_lt (he : exp < 2 ^ 15) (hp : pnd < 2 ^ 16) : barWord ph exp pnd = (if ph then 2 ^ 31 else 0) + exp * 2 ^ 16 + pnd := by
  rw [barWord, Nat.mod_eq_of_lt he, Nat.mod_eq_of_lt hp]
end Word

-- One arrival (R230)

/-- Of memory and the scratchpads, only an object's first three words changed. -/
structure State.InObject (s t : State) (c off : Nat) : Prop where
  rest : ∀ d b, (d ≠ c ∨ b < off ∨ off + 12 ≤ b) → (t.core d).scratch.read b = (s.core d).scratch.read b
  mem : t.mem = s.mem
theorem State.InObject.setObjWord {s t : State} {c off i : Nat} (h : s.InObject t c off) (hi : i < 3) (x : Nat) : s.InObject (t.setObjWord c off i x) c off where
  rest d b hb := (t.read_setObjWord c off i x (by omega)).trans (h.rest d b hb)
  mem := (t.setObjWord_mem ..).trans h.mem
theorem State.InObject.wakeBarrier {s t : State} {c off : Nat} (h : s.InObject t c off) (e o : Nat) (ph : Bool) : s.InObject (t.wakeBarrier e o ph) c off := ⟨h.rest, h.mem⟩
theorem State.InObject.refl (s : State) (c off : Nat) : s.InObject s c off := ⟨fun _ _ _ => rfl, rfl⟩

section Arrive
variable {s : State} {c off : Nat} {ph : Bool} {exp pnd : Nat} (hw : s.objWord c off 0 = barWord ph exp pnd) (hv : s.objWord c off 0 ≠ invalidWord)
include hw hv
theorem State.arrive_excess (h0 : pnd = 0) : s.arrive c off = s.setObjWord c off 2 (mergeWord (s.objWord c off 2) (0x20 * 2 ^ 24) 1) := by
  simp only [State.arrive, State.mergeStatus, if_neg hv]
  rw [hw, barPending_barWord, h0]
  rfl
variable (he : exp < 2 ^ 15) (hp : pnd < 2 ^ 16)
include he hp
theorem State.arrive_one (h0 : pnd ≠ 0) : s.arrive c off = (s.setObjWord c off 0 (barWord ph exp (pnd - 1))).flipIfDone c off := by
  simp only [State.arrive, if_neg hv]
  rw [hw, barPending_barWord, Nat.mod_eq_of_lt hp, if_neg h0, barPhase_barWord, barExp_barWord, Nat.mod_eq_of_lt he]
theorem State.arrive_waits (h : 2 ≤ pnd ∨ pnd = 1 ∧ s.objWord c off 1 ≠ 0) : s.arrive c off = s.setObjWord c off 0 (barWord ph exp (pnd - 1)) := by
  rw [State.arrive_one hw hv he hp (by omega), State.flipIfDone, State.objWord_setObjWord, State.objWord_setObjWord_ne _ _ _ _ (by decide),
    Nat.mod_eq_of_lt (barWord_lt ..), barPending_barWord, Nat.mod_eq_of_lt (by omega)]
  refine if_neg ?_
  simp only [Bool.and_eq_true, decide_eq_true_eq]
  omega
theorem State.arrive_flips (h1 : pnd = 1) (hb : s.objWord c off 1 = 0) :
    s.arrive c off = ((s.setObjWord c off 0 (barWord ph exp 0)).setObjWord c off 0 (barWord (!ph) exp exp)).wakeBarrier c off !ph := by
  rw [State.arrive_one hw hv he hp (by omega), h1, State.flipIfDone, State.objWord_setObjWord, State.objWord_setObjWord_ne _ _ _ _ (by decide), hb,
    Nat.mod_eq_of_lt (barWord_lt ..), barPending_barWord, barPhase_barWord, barExp_barWord, Nat.mod_eq_of_lt he]
  rfl
/-- Whatever it does, an arrival leaves the pending bytes, and every byte beside the object. -/
theorem State.arrive_inObject : (s.arrive c off).objWord c off 1 = s.objWord c off 1 ∧ s.InObject (s.arrive c off) c off := by
  have hs := State.InObject.refl s c off
  have hk (t : State) (w : Nat) : (t.setObjWord c off 0 w).objWord c off 1 = t.objWord c off 1 := t.objWord_setObjWord_ne c off w (by decide)
  by_cases h0 : pnd = 0
  · rw [State.arrive_excess hw hv h0]
    exact ⟨s.objWord_setObjWord_ne c off _ (by decide), hs.setObjWord (by decide) _⟩
  by_cases h1 : pnd = 1 ∧ s.objWord c off 1 = 0
  · rw [State.arrive_flips hw hv he hp h1.1 h1.2]
    exact ⟨(hk _ _).trans (hk _ _), ((hs.setObjWord (by decide) _).setObjWord (by decide) _).wakeBarrier ..⟩
  · rw [State.arrive_waits hw hv he hp (by omega)]
    exact ⟨hk _ _, hs.setObjWord (by decide) _⟩
end Arrive

/-- Settles O47: an arrival with others to come lowers the pending count, the last one flips the phase where no byte is pending, and one too many is merged into the status word. -/
theorem arrivalsFlipTheBarrier : Obligations.ArrivalsFlipTheBarrier := by
  intro s c off ph exp pnd he hp hw hv
  rw [← barWord_of_lt ph he hp] at hw
  obtain ⟨hbytes, hrest, hmem⟩ := State.arrive_inObject hw hv he hp
  refine ⟨fun h => ?waits, fun h1 hb => ?flips, fun h0 => ?excess, hbytes, hrest, hmem⟩
  case waits =>
    rw [State.arrive_waits hw hv he hp h, State.objWord_setObjWord, Nat.mod_eq_of_lt (barWord_lt ..), barWord_of_lt ph he (by omega)]
    exact ⟨rfl, fun k => (congrArg Gang.paths (s.timeless_setObjWord c off 0 _ k) :)⟩
  case flips =>
    rw [State.arrive_flips hw hv he hp h1 hb, State.wakeBarrier, State.objWord_retry, State.objWord_setObjWord, Nat.mod_eq_of_lt (barWord_lt ..), barWord_of_lt _ he (by omega)]
    cases ph <;> rfl
  case excess =>
    obtain ⟨hge, hlt, hcode⟩ := mergeWord_one (first := 0x20 * 2 ^ 24) (s.objWord_lt c off 2)
    rw [State.arrive_excess hw hv h0, State.objWord_setObjWord, State.objWord_setObjWord_ne _ _ _ _ (by decide), Nat.mod_eq_of_lt hlt]
    exact ⟨rfl, hge, hcode⟩

end Sys2Proof.Machine
end

section
/-! PROOFS. BINIT, BINVAL, BARRIVE, BWAIT, BTRY and BSTAT (R228 to R230, R311 to R313): the object's address and its causes, what each word answers, and what BINIT writes (O46). -/
namespace Sys2Proof.Machine

-- The object's address (R228, R311)

theorem Team.holds_iff {t : Team} {l : Launch} {a : Nat} : t.holds l a = true ↔ t.scratchBase ≤ a ∧ a < t.scratchBase + l.alloc := by
  simp [Team.holds]
theorem Issue.barrierOf_cases (x : Issue) (s : State) (o : Operand) (off : BitVec 16) :
    let b := x.once s o 1 % 2 ^ 32 + off.toNat
    let mine := x.team.scratchBase ≤ b ∧ b < x.team.scratchBase + x.launch.alloc
    (b % 16 ≠ 0 → x.barrierOf s o off = .error (.of 0x39)) ∧ (b % 16 = 0 → ¬ mine → x.barrierOf s o off = .error (.of 0x11)) ∧
      (b % 16 = 0 → mine → x.barrierOf s o off = .ok (x.team.core, b)) := by
  dsimp only
  rw [Issue.barrierOf, Issue.barrierAt]
  refine ⟨fun ha => if_pos ha, fun ha hm => ?_, fun ha hm => ?_⟩ <;> rw [if_neg (not_not_intro ha)]
  · exact if_pos (by rw [Bool.not_eq_true', ← Bool.not_eq_true, Team.holds_iff]; exact hm)
  · exact if_neg (by rw [Bool.not_eq_true', Bool.not_eq_false, Team.holds_iff]; exact hm)

-- Each word on its object (R229, R230, R311 to R313)

section Effects
variable {x : Issue} {s : State} {c off : Nat}
theorem binitEffect_ofObject {a : BarPhArgs} (hn : x.once s a.s2 1 % 2 ^ 32 ≤ 32767) (hb : x.barrierOf s a.s1 a.off = .ok (c, off)) :
    binitEffect a x s = if (s.syncPoint x.key).barrierBusy c off then .trap (.of 0x38)
      else .done (((s.syncPoint x.key).initBarrier c off (x.once s a.s2 1 % 2 ^ 32)).observe x.key) := by
  simp only [binitEffect, if_neg (Nat.not_lt.2 hn), hb]
theorem binvalEffect_ofObject {a : BarArgs} (hb : x.barrierOf s a.s1 a.off = .ok (c, off)) :
    binvalEffect a x s = if (s.syncPoint x.key).barrierBusy c off then .trap (.of 0x38)
      else .done (((s.syncPoint x.key).setObjWord c off 0 invalidWord).observe x.key) := by
  simp only [binvalEffect, hb]
theorem barriveEffect_ofObject {a : BarDstArgs} (hb : x.barrierOf s a.s1 a.off = .ok (c, off)) :
    barriveEffect a x s = if (s.syncPoint x.key).objWord c off 0 = invalidWord then .trap (.of 0x38)
      else .done (((((s.syncPoint x.key).arrive c off).observe x.key).progress x.key).giveAll x a.la a.d (if barPhase ((s.syncPoint x.key).objWord c off 0) then 1 else 0)) := by
  simp only [barriveEffect, hb]
theorem bwaitEffect_ofObject {a : BarPhArgs} (hb : x.barrierOf s a.s1 a.off = .ok (c, off)) :
    bwaitEffect a x s = if (s.catchUp x.key).objWord c off 0 = invalidWord then .trap (.of 0x38)
      else if barPhase ((s.catchUp x.key).objWord c off 0) ≠ x.phase (s.catchUp x.key) a.s2 then .done ((s.catchUp x.key).observe x.key)
      else .park (.barrier c off (x.phase (s.catchUp x.key) a.s2)) := by
  simp only [bwaitEffect, hb]
theorem btryEffect_ofObject {a : BtryArgs} (hb : x.barrierOf s a.s1 a.off = .ok (c, off)) :
    btryEffect a x s = if (s.catchUp x.key).objWord c off 0 = invalidWord then .trap (.of 0x38)
      else .done (((s.catchUp x.key).observe x.key).giveAll x a.la a.d (if barPhase ((s.catchUp x.key).objWord c off 0) ≠ x.phase (s.catchUp x.key) a.s2 then 1 else 0)) := by
  simp only [btryEffect, hb]
theorem bstatWith_ofObject {clr : Bool} {a : BarDstArgs} (hb : x.barrierOf s a.s1 a.off = .ok (c, off)) :
    bstatWith clr a x s = .done ((if clr then ((s.syncPoint x.key).setObjWord c off 2 0).observe x.key else s.syncPoint x.key).giveAll x a.la a.d
      ((s.syncPoint x.key).objWord c off 2)) := by
  simp only [bstatWith, hb]
end Effects

/-- A word on the barrier object at an operand and an offset; BINIT with a count in range. -/
def OnBarrier (x : Issue) (s : State) (g : Guard) (i : Instr) (b : Operand) (off : BitVec 16) : Prop :=
  (∃ a : BarPhArgs, b = a.s1 ∧ off = a.off ∧ (i = .bwait g a ∨ (i = .binit g a ∧ x.once s a.s2 1 % 2 ^ 32 ≤ 32767))) ∨
    (∃ a : BarArgs, b = a.s1 ∧ off = a.off ∧ i = .binval g a) ∨ (∃ a : BtryArgs, b = a.s1 ∧ off = a.off ∧ i = .btry g a) ∨
    (∃ a : BarDstArgs, b = a.s1 ∧ off = a.off ∧ (i = .barrive g a ∨ i = .bstat g a ∨ i = .bstatClr g a))
/-- The address's cause is the word's. -/
theorem OnBarrier.effect_trap {x : Issue} {s : State} {g : Guard} {i : Instr} {b : Operand} {off : BitVec 16} {c : Trap} (hi : OnBarrier x s g i b off)
    (hb : x.barrierOf s b off = .error c) : ∃ eff, (∀ s, exec i s = s.issueWord i false eff) ∧ eff x s = .trap c := by
  obtain ⟨a, rfl, rfl, rfl | ⟨rfl, hn⟩⟩ | ⟨a, rfl, rfl, rfl⟩ | ⟨a, rfl, rfl, rfl⟩ | ⟨a, rfl, rfl, rfl | rfl | rfl⟩ := hi
  · exact ⟨_, fun _ => rfl, by simp only [bwaitEffect, hb]⟩
  · exact ⟨_, fun _ => rfl, by simp only [binitEffect, if_neg (Nat.not_lt.2 hn), hb]⟩
  · exact ⟨_, fun _ => rfl, by simp only [binvalEffect, hb]⟩
  · exact ⟨_, fun _ => rfl, by simp only [btryEffect, hb]⟩
  · exact ⟨_, fun _ => rfl, by simp only [barriveEffect, hb]⟩
  · exact ⟨_, fun _ => rfl, by simp only [bstatEffect, bstatWith, hb]⟩
  · exact ⟨_, fun _ => rfl, by simp only [bstatClrEffect, bstatWith, hb]⟩
theorem exec_onBarrier_trap {s s1 : State} {x : Issue} {g : Guard} {i : Instr} {b : Operand} {off : BitVec 16} {c : Trap} (hi : OnBarrier x s1 g i b off)
    (h : s.ready i = some (x, s1)) (hb : x.barrierOf s1 b off = .error c) : ∃ s0, s.issueOf i = some (x, s0) ∧ exec i s = .next (s0.raise x c) := by
  obtain ⟨eff, he, hx⟩ := hi.effect_trap hb
  rw [he]
  exact issueWord_trap h hx

-- What BINIT writes (R229, R230)

theorem State.gang_retry (s : State) (f : GangKey → ParkOn → Bool) (k : GangKey) : (s.retry f).gang k = (s.gang k).mapAll fun p => p.retry (f k) := by
  simp only [State.gang, tgetD]
  rw [show (s.retry f).gangs = s.gangs.map fun e => (e.1, e.2.mapAll fun p => p.retry (f e.1)) from rfl,
    tget_map_keys (g := fun (e : GangKey × Gang) => (e.1, e.2.mapAll fun p => p.retry (f e.1))) fun _ => rfl]
  cases tget s.gangs k <;> rfl

section Init
variable (t : State) (c off n : Nat)
/-- The three words as BINIT puts them, before a barrier with no arrivals flips. -/
abbrev State.initWords : State := ((t.setObjWord c off 0 (barWord false n n)).setObjWord c off 1 0).setObjWord c off 2 0
theorem State.initWords_word0 : (t.initWords c off n).objWord c off 0 = barWord false n n := by
  rw [State.objWord_setObjWord_ne _ _ _ _ (by decide), State.objWord_setObjWord_ne _ _ _ _ (by decide), State.objWord_setObjWord, Nat.mod_eq_of_lt (barWord_lt ..)]
theorem State.initWords_word1 : (t.initWords c off n).objWord c off 1 = 0 := by
  rw [State.objWord_setObjWord_ne _ _ _ _ (by decide), State.objWord_setObjWord, Nat.zero_mod]
theorem State.initWords_word2 : (t.initWords c off n).objWord c off 2 = 0 := State.objWord_setObjWord ..
theorem State.initWords_inObject : t.InObject (t.initWords c off n) c off :=
  (((State.InObject.refl t c off).setObjWord (by decide) _).setObjWord (by decide) _).setObjWord (by decide) _
theorem State.timeless_initWords (k : GangKey) : ((t.initWords c off n).gang k).timeless = (t.gang k).timeless := by
  simp only [State.initWords, State.timeless_setObjWord]
variable {n}
theorem State.initBarrier_counted (h : n ≠ 0) : t.initBarrier c off n = t.initWords c off n := if_neg h
theorem State.initBarrier_zero : t.initBarrier c off 0 = ((t.initWords c off 0).setObjWord c off 0 (barWord true 0 0)).wakeBarrier c off true := by
  simp only [State.initBarrier, if_true, State.flipIfDone, t.initWords_word0, t.initWords_word1, barPending_barWord, barPhase_barWord, barExp_barWord]
  rfl
theorem State.initBarrier_leaves (h : n ≤ 32767) :
    let u := t.initBarrier c off n
    u.objWord c off 0 = (if n = 0 then 2 ^ 31 else n * 2 ^ 16 + n) ∧ u.objWord c off 1 = 0 ∧ u.objWord c off 2 = 0 ∧
      (∀ d b, (d ≠ c ∨ b < off ∨ off + 12 ≤ b) → (u.core d).scratch.read b = (t.core d).scratch.read b) ∧ u.mem = t.mem ∧
      ∀ k, (u.gang k).vregs = (t.gang k).vregs ∧ (u.gang k).sregs = (t.gang k).sregs ∧ (u.gang k).preds = (t.gang k).preds ∧ (n ≠ 0 → (u.gang k).paths = (t.gang k).paths) := by
  intro u
  have hin := t.initWords_inObject c off n
  have hgang := t.timeless_initWords c off n
  by_cases h0 : n = 0
  · subst h0
    have hu : u = _ := t.initBarrier_zero c off
    have hin2 := (hin.setObjWord (i := 0) (by decide) (barWord true 0 0)).wakeBarrier c off true
    refine ⟨?_, ?_, ?_, hu ▸ hin2.rest, hu ▸ hin2.mem, fun k => ?_⟩ <;> rw [hu, State.wakeBarrier]
    · rw [State.objWord_retry, State.objWord_setObjWord]
      rfl
    · rw [State.objWord_retry, State.objWord_setObjWord_ne _ _ _ _ (by decide), t.initWords_word1]
    · rw [State.objWord_retry, State.objWord_setObjWord_ne _ _ _ _ (by decide), t.initWords_word2]
    · have hk := (State.timeless_setObjWord _ c off 0 (barWord true 0 0) k).trans (hgang k)
      rw [State.gang_retry]
      exact ⟨(congrArg Gang.vregs hk :), (congrArg Gang.sregs hk :), (congrArg Gang.preds hk :), fun h => absurd rfl h⟩
  · have hu : u = _ := t.initBarrier_counted c off h0
    rw [hu, t.initWords_word0, if_neg h0, barWord_of_lt _ (by omega) (by omega)]
    exact ⟨Nat.zero_add .. ▸ rfl, t.initWords_word1 .., t.initWords_word2 .., hin.rest, hin.mem,
      fun k => ⟨(congrArg Gang.vregs (hgang k) :), (congrArg Gang.sregs (hgang k) :), (congrArg Gang.preds (hgang k) :), fun _ => (congrArg Gang.paths (hgang k) :)⟩⟩
end Init

/-- Settles O46: each word's answer on its object, the causes of its address, and the words that BINIT and a write leave. -/
theorem barrierInstructions : Obligations.BarrierInstructions := by
  intro s s1 x g
  refine ⟨fun c off => ⟨fun a h hb hn => ?binit, fun a h hb => ?binval, fun a h hb => ?barrive, fun a h hb => ?bwait, fun a h hb => ?btry, fun a hb => ?bstat⟩,
    fun a h hn => ?count, fun i b off c hi h hb => exec_onBarrier_trap hi h hb, x.barrierOf_cases s1, fun t c off i v => ?word, fun t c off n => t.initBarrier_leaves c off⟩
  case binit =>
    have he := binitEffect_ofObject hn hb
    exact ⟨fun hf => issueWord_done h (he.trans (if_neg (by rw [hf]; decide))), fun ht => issueWord_trap h (he.trans (if_pos ht))⟩
  case binval =>
    have he := binvalEffect_ofObject hb
    exact ⟨fun hf => issueWord_done h (he.trans (if_neg (by rw [hf]; decide))), fun ht => issueWord_trap h (he.trans (if_pos ht))⟩
  case barrive =>
    have he := barriveEffect_ofObject hb
    exact ⟨fun hv => issueWord_done h (he.trans (if_neg hv)), fun hv => issueWord_trap h (he.trans (if_pos hv))⟩
  case bwait =>
    have he := bwaitEffect_ofObject hb
    exact ⟨fun hv hp => issueWord_done h (he.trans ((if_neg hv).trans (if_pos hp))), fun hv hp => issueWord_park h (he.trans ((if_neg hv).trans (if_neg (not_not_intro hp)))),
      fun hv => issueWord_trap h (he.trans (if_pos hv))⟩
  case btry =>
    have he := btryEffect_ofObject hb
    exact ⟨fun hv => issueWord_done h (he.trans (if_neg hv)), fun hv => issueWord_trap h (he.trans (if_pos hv))⟩
  case bstat => exact ⟨fun h => issueWord_done h (bstatWith_ofObject (clr := false) hb), fun h => issueWord_done h (bstatWith_ofObject (clr := true) hb)⟩
  case count => exact issueWord_trap h (if_pos hn)
  case word =>
    refine ⟨t.objWord_setObjWord c off i v, fun d b => t.read_setObjWord c off i v, t.setObjWord_mem .., fun k => ?_⟩
    have hk := t.timeless_setObjWord c off i v k
    exact ⟨(congrArg Gang.paths hk :), (congrArg Gang.vregs hk :), (congrArg Gang.sregs hk :), (congrArg Gang.preds hk :)⟩

end Sys2Proof.Machine
end

section
/-! PROOFS. Global barriers (R231, R232, R354, R355), stage rings (R233 to R235, R388, R389) and TSYNC (R414) (O48). -/
namespace Sys2Proof.Machine

-- Global barriers (R232, R354, R355)

theorem Issue.gbarOf_eq (x : Issue) (s : State) (o : Operand) (imm : BitVec 12) :
    let n := (x.once s o 1 + imm.toNat) % 2 ^ 32
    let b := s.gbar x.team.ctx.part n
    x.gbarOf s o imm = if 4095 < n ∨ b.owner ≠ x.team.ctx.ctx ∨ b.expect = 0 then none else some n := by
  simp only [Issue.gbarOf, Bool.or_eq_true, decide_eq_true_eq, or_assoc, gt_iff_lt]

section Gbar
variable (t : State) (part n : Nat)
theorem State.gbar_modPart (b : GBar) (m : Nat) :
    (t.modPart part fun p => { p with gbars := tset p.gbars n b }).gbar part m = if m = n then b else t.gbar part m := by
  rw [State.gbar, State.part_modPart]
  by_cases h : m = n
  · rw [if_pos h, h, tgetD_tset_self]
  · rw [if_neg h]
    exact tgetD_tset_ne _ _ _ h
theorem State.gbarArrive_flips (h : (t.gbar part n).pending ≤ 1) (m : Nat) : (t.gbarArrive part n).gbar part m =
    if m = n then { t.gbar part n with ph := !(t.gbar part n).ph, pending := (t.gbar part n).expect } else t.gbar part m := by
  rw [State.gbarArrive, if_pos h]
  exact t.gbar_modPart part n _ m
theorem State.gbarArrive_waits (h : 1 < (t.gbar part n).pending) (m : Nat) : (t.gbarArrive part n).gbar part m =
    if m = n then { t.gbar part n with pending := (t.gbar part n).pending - 1 } else t.gbar part m := by
  rw [State.gbarArrive, if_neg (Nat.not_le.2 h)]
  exact t.gbar_modPart part n _ m
/-- The arrival that reaches zero flips and reloads, one before it counts down, and no other barrier changes. -/
theorem State.gbarArrive_cases :
    let b := t.gbar part n
    (b.pending ≤ 1 → (t.gbarArrive part n).gbar part n = { b with ph := !b.ph, pending := b.expect }) ∧
      (1 < b.pending → (t.gbarArrive part n).gbar part n = { b with pending := b.pending - 1 }) ∧
      ∀ m, m ≠ n → (t.gbarArrive part n).gbar part m = t.gbar part m := by
  refine ⟨fun h => (t.gbarArrive_flips part n h n).trans (if_pos rfl), fun h => (t.gbarArrive_waits part n h n).trans (if_pos rfl), fun m hm => ?_⟩
  rcases Nat.lt_or_ge 1 (t.gbar part n).pending with h | h
  · exact (t.gbarArrive_waits part n h m).trans (if_neg hm)
  · exact (t.gbarArrive_flips part n h m).trans (if_neg hm)
end Gbar

section GbarEffects
variable {x : Issue} {s : State}
theorem gbarriveEffect_ofBarrier {a : GbarriveArgs} {n : Nat} (h : x.gbarOf s a.s1 a.imm = some n) : gbarriveEffect a x s =
    .done ((((s.syncPoint x.key).gbarArrive x.team.ctx.part n).progress x.key).giveAll x a.la a.d (if ((s.syncPoint x.key).gbar x.team.ctx.part n).ph then 1 else 0)) := by
  simp only [gbarriveEffect, h]
theorem gbarriveEffect_none {a : GbarriveArgs} (h : x.gbarOf s a.s1 a.imm = none) : gbarriveEffect a x s = .trap (.of 0x11) := by
  simp only [gbarriveEffect, h]
theorem gbwaitEffect_ofBarrier {a : GbwaitArgs} {n : Nat} (h : x.gbarOf s a.s1 a.imm = some n) : gbwaitEffect a x s =
    if (s.gbar x.team.ctx.part n).ph ≠ x.phase s a.s2 then .done (s.syncPoint x.key) else .park (.gbar n (x.phase s a.s2)) := by
  simp only [gbwaitEffect, h]
theorem gbwaitEffect_none {a : GbwaitArgs} (h : x.gbarOf s a.s1 a.imm = none) : gbwaitEffect a x s = .trap (.of 0x11) := by
  simp only [gbwaitEffect, h]
end GbarEffects

-- A ring's block and its stages (R233, R234)

theorem ringStage_eq (w i : Nat) : ringStage w i = w / 4 ^ i % 4 := by
  rw [ringStage, bitsAt, Nat.shiftRight_eq_div_pow, Nat.pow_mul]
  rfl
/-- The word cut at a stage: what stands below it, the stage, what stands above it. -/
theorem ringStage_split (w st : Nat) : w = w % 4 ^ st + 4 ^ st * (ringStage w st + 4 * (w / 4 ^ (st + 1))) := by
  have h1 := Nat.mod_add_div w (4 ^ st)
  have h2 := Nat.mod_add_div (w / 4 ^ st) 4
  rw [Nat.div_div_eq_div_mul, ← Nat.pow_succ, ← ringStage_eq] at h2
  rw [h2, h1]
theorem setRingStage_split (w st new : Nat) : setRingStage w st new = w % 4 ^ st + 4 ^ st * (new + 4 * (w / 4 ^ (st + 1))) := by
  have h := ringStage_split w st
  rw [setRingStage]
  generalize w / 4 ^ (st + 1) = hi at *
  generalize ringStage w st = r at *
  generalize w % 4 ^ st = lo at *
  subst h
  simp only [Nat.mul_add, Nat.mul_comm r, Nat.mul_comm new]
  omega
section Stage
variable {lo st i : Nat} (r hi : Nat)
theorem ringStage_at (hlo : lo < 4 ^ st) (hr : r < 4) : ringStage (lo + 4 ^ st * (r + 4 * hi)) st = r := by
  rw [ringStage_eq, Nat.add_mul_div_left _ _ (by positivity), Nat.div_eq_of_lt hlo]
  omega
theorem ringStage_below (h : i < st) : ringStage (lo + 4 ^ st * (r + 4 * hi)) i = lo / 4 ^ i % 4 := by
  obtain ⟨k, rfl⟩ := Nat.exists_eq_add_of_lt h
  rw [ringStage_eq, show 4 ^ (i + k + 1) * (r + 4 * hi) = 4 ^ i * (4 * (4 ^ k * (r + 4 * hi))) by ring, Nat.add_mul_div_left _ _ (by positivity), Nat.add_mul_mod_self_left]
theorem ringStage_above (h : st < i) (hlo : lo < 4 ^ st) (hr : r < 4) : ringStage (lo + 4 ^ st * (r + 4 * hi)) i = hi / 4 ^ (i - st - 1) % 4 := by
  obtain ⟨k, rfl⟩ := Nat.exists_eq_add_of_lt h
  rw [ringStage_eq, show st + k + 1 - st - 1 = k by omega, show 4 ^ (st + k + 1) = 4 ^ st * (4 * 4 ^ k) by ring, ← Nat.div_div_eq_div_mul,
    Nat.add_mul_div_left _ _ (by positivity), Nat.div_eq_of_lt hlo, ← Nat.div_div_eq_div_mul, show (0 + (r + 4 * hi)) / 4 = hi by omega]
end Stage
/-- A stage's write is read back, and no other stage changes. -/
theorem ringStage_setRingStage (w st new i : Nat) (hn : new < 4) : ringStage (setRingStage w st new) i = if i = st then new else ringStage w i := by
  have hlo : w % 4 ^ st < 4 ^ st := Nat.mod_lt _ (by positivity)
  have hr : ringStage w st < 4 := Nat.mod_lt _ (by decide)
  rw [setRingStage_split]
  conv_rhs => rw [ringStage_split w st]
  rcases Nat.lt_trichotomy i st with h | rfl | h
  · rw [if_neg (by omega), ringStage_below _ _ h, ringStage_below _ _ h]
  · rw [if_pos rfl, ringStage_at _ _ hlo hn]
  · rw [if_neg (by omega), ringStage_above _ _ h hlo hn, ringStage_above _ _ h hlo hr]

/-- Where a ring stands, and what its block then holds. -/
theorem Issue.ringAt_some {x : Issue} {t : State} {r : BitVec 2} {c off : Nat} (h : x.ringAt t r = some (c, off)) :
    c = x.team.core ∧ off = x.team.scratchBase + x.launch.ringOff r.toNat ∧ 1 ≤ t.objWord c off 0 % 8 ∧
      bitsAt (t.objWord c off 0) 6 3 ≤ t.objWord c off 0 % 8 ∧ bitsAt (t.objWord c off 0) 3 3 ≤ t.objWord c off 0 % 8 := by
  simp only [Issue.ringAt] at h
  split at h
  · cases h
  next hgood =>
    obtain ⟨rfl, rfl⟩ := Prod.mk.inj (Option.some.inj h)
    simp only [State.ringBad, Bool.or_eq_true, decide_eq_true_eq, not_or] at hgood
    obtain ⟨-, ⟨⟨⟨-, hdepth⟩, hp⟩, hc⟩, -⟩ := hgood
    exact ⟨rfl, rfl, by omega, by omega, by omega⟩
theorem Issue.ringAt_above {x : Issue} (t : State) {r : BitVec 2} (h : x.launch.rings.length ≤ r.toNat) : x.ringAt t r = none := by
  simp only [Issue.ringAt]
  exact if_pos (by simp [h])

-- RACQ, RWAIT, RCOMMIT and RFREE (R235, R388, R389)

section RingEffects
variable {x : Issue} {s : State} {c off : Nat}
theorem racqEffect_ofRing {a : RingDstArgs} (h : x.ringAt (s.syncPoint x.key) a.ring = some (c, off)) :
    let t := s.syncPoint x.key
    let w0 := t.objWord c off 0
    let p := bitsAt w0 6 3
    racqEffect a x s = if ringStage (t.objWord c off 1) p ≠ 0 then .park (.ringAcquire c off)
      else .done (((t.setRing c off ((p + 1) % (w0 % 8 + 1)) (bitsAt w0 3 3) (w0 % 8) (setRingStage (t.objWord c off 1) p 1)).observe x.key).giveAll x a.la a.d p) := by
  simp only [racqEffect, h]
theorem rwaitEffect_ofRing {a : RingDstArgs} (h : x.ringAt (s.syncPoint x.key) a.ring = some (c, off)) :
    let t := s.syncPoint x.key
    let w0 := t.objWord c off 0
    let q := bitsAt w0 3 3
    rwaitEffect a x s = if ringStage (t.objWord c off 1) q ≠ 2 then .park (.ringWait c off)
      else .done (((t.setRing c off (bitsAt w0 6 3) ((q + 1) % (w0 % 8 + 1)) (w0 % 8) (setRingStage (t.objWord c off 1) q 3)).observe x.key).giveAll x a.la a.d q) := by
  simp only [rwaitEffect, h]
theorem ringPass_ofRing {a : RingStageArgs} {old new : Nat} (h : x.ringAt (s.syncPoint x.key) a.ring = some (c, off)) :
    let t := s.syncPoint x.key
    let w0 := t.objWord c off 0
    let st := x.once t a.s1 1
    ringPass a old new x s = if st < w0 % 8 + 1 ∧ ringStage (t.objWord c off 1) st = old then
        .done ((t.setRing c off (bitsAt w0 6 3) (bitsAt w0 3 3) (w0 % 8) (setRingStage (t.objWord c off 1) st new)).observe x.key)
      else .trap (.of 0x3B) := by
  simp only [ringPass, h]
  rw [← ite_not]
  congr 1
  simp only [Bool.or_eq_true, decide_eq_true_eq, not_or, Nat.not_le, ge_iff_le, ne_eq, not_not]
/-- A ring that cannot be used is the word's cause. -/
theorem ringEffect_none {a : RingDstArgs} (h : x.ringAt (s.syncPoint x.key) a.ring = none) : racqEffect a x s = .trap (.of 0x3B) ∧ rwaitEffect a x s = .trap (.of 0x3B) := by
  simp only [racqEffect, rwaitEffect, h, and_self]
theorem ringPass_none {a : RingStageArgs} {old new : Nat} (h : x.ringAt (s.syncPoint x.key) a.ring = none) : ringPass a old new x s = .trap (.of 0x3B) := by
  simp only [ringPass, h]
end RingEffects

/-- RCOMMIT and RFREE are one word but for the two states of the stage. -/
theorem exec_ringPass {i : Instr} {g : Guard} {a : RingStageArgs} {old new : Nat} (hi : (i = .rcommit g a ∧ old = 1 ∧ new = 2) ∨ (i = .rfree g a ∧ old = 3 ∧ new = 0)) (s : State) :
    exec i s = s.issueWord i false (ringPass a old new) := by
  obtain ⟨rfl, rfl, rfl⟩ | ⟨rfl, rfl, rfl⟩ := hi <;> rfl

/-- Settles O48: each word's answer on its barrier or ring, an arrival's on a global barrier, and the stage that is written among the others. -/
theorem globalBarriersRingsAndTsync : Obligations.GlobalBarriersRingsAndTsync := by
  intro s s1 x g
  refine ⟨fun a h => ⟨fun n hn => issueWord_done h (gbarriveEffect_ofBarrier hn), fun hn => issueWord_trap h (gbarriveEffect_none hn)⟩, fun a h => ⟨fun n hn => ?gbwait,
    fun hn => issueWord_trap h (gbwaitEffect_none hn)⟩, x.gbarOf_eq s1, State.gbarArrive_cases, fun a => ⟨fun c off hr => ⟨fun h => ?racq, fun h => ?rwait⟩, fun i hi h hr => ?none⟩,
    fun i a old new hi h => ⟨fun c off hr => ?pass, fun hr => ?passNone⟩, fun t r => ⟨Issue.ringAt_above t, fun c off => Issue.ringAt_some⟩,
    fun w st new i _ _ hn _ => ringStage_setRingStage w st new i hn, fun h => ⟨fun hd => issueWord_done h (if_pos hd), fun hd => issueWord_stall h (if_neg (by rw [hd]; decide))⟩⟩
  case gbwait =>
    have he := gbwaitEffect_ofBarrier hn
    exact ⟨fun hp => issueWord_done h (he.trans (if_pos hp)), fun hp => issueWord_park h (he.trans (if_neg (not_not_intro hp)))⟩
  case racq =>
    have he := racqEffect_ofRing hr
    exact ⟨fun hs => issueWord_done h (he.trans (if_neg (not_not_intro hs))), fun hs => issueWord_park h (he.trans (if_pos hs))⟩
  case rwait =>
    have he := rwaitEffect_ofRing hr
    exact ⟨fun hs => issueWord_done h (he.trans (if_neg (not_not_intro hs))), fun hs => issueWord_park h (he.trans (if_pos hs))⟩
  case none =>
    obtain ⟨hacq, hwait⟩ := ringEffect_none hr
    obtain rfl | rfl := hi
    · exact issueWord_trap h hacq
    · exact issueWord_trap h hwait
  case pass =>
    have he := ringPass_ofRing (old := old) (new := new) hr
    rw [exec_ringPass hi]
    exact ⟨fun hg => issueWord_done h (he.trans (if_pos hg)), fun hg => issueWord_trap h (he.trans (if_neg hg))⟩
  case passNone =>
    rw [exec_ringPass hi]
    exact issueWord_trap h (ringPass_none hr)

end Sys2Proof.Machine
end

section
/-! PROOFS. CPY, TLOAD and TSTORE (R120, R182, R221 to R223, R330, R408, R409): the tests of their one issue in R330's order, and the job that is handed over (O31). -/
namespace Sys2Proof.Machine

/-- R222's tests of the descriptor's fields, with those of a split (R409). -/
abbrev Issue.copyFieldsOk (x : Issue) (dsp ssp : Space) (f : CopyFmt) (parts : Nat) (ds : Operand) : Prop :=
  let d := parseDesc (x.descWords ds)
  descOk dsp ssp f (x.descWords ds) = true ∧ (parts ≠ 0 → d.rows % parts = 0 ∧ d.tr = false ∧ bitsAt (if dsp = .tile then d.dst else d.src) 16 3 = 0)
/-- R182's tests of both extents, and a split part's (R409). -/
abbrev State.copyRangesOk (s : State) (x : Issue) (dsp ssp : Space) (f : CopyFmt) (parts : Nat) (ds : Operand) : Prop :=
  let d := parseDesc (x.descWords ds)
  (parts ≠ 0 → splitFits f d parts (decide (dsp = .tile)) = true) ∧ s.rangesAllowed x ssp (allReads f d (tileParts ssp parts)) = true ∧
    s.rangesAllowed x dsp (allWrites f d (tileParts dsp parts)) = true

-- The tests of the common issue, in their order (R330)

section CopyIssue
variable {kind : JobKind} {dsp ssp : Space} {f : CopyFmt} {parts : Nat} {ds : Operand} {bs tk : Option Operand} {x : Issue} {s : State}
theorem Issue.copyFields_iff : (!descOk dsp ssp f (x.descWords ds) || (parts ≠ 0 && ((parseDesc (x.descWords ds)).rows % parts ≠ 0 || (parseDesc (x.descWords ds)).tr ||
    bitsAt (if dsp = .tile then (parseDesc (x.descWords ds)).dst else (parseDesc (x.descWords ds)).src) 16 3 ≠ 0))) = true ↔ ¬ x.copyFieldsOk dsp ssp f parts ds := by
  simp only [Issue.copyFieldsOk, not_and_or, Classical.not_imp, Bool.or_eq_true, Bool.not_eq_true', Bool.and_eq_true, decide_eq_true_eq, ne_eq, or_assoc, Bool.not_eq_true,
    Bool.not_eq_false]
theorem State.copyRanges_iff : ((parts ≠ 0 && !splitFits f (parseDesc (x.descWords ds)) parts (decide (dsp = .tile))) ||
    !s.rangesAllowed x ssp (allReads f (parseDesc (x.descWords ds)) (tileParts ssp parts)) ||
    !s.rangesAllowed x dsp (allWrites f (parseDesc (x.descWords ds)) (tileParts dsp parts))) = true ↔ ¬ s.copyRangesOk x dsp ssp f parts ds := by
  simp only [State.copyRangesOk, not_and_or, Classical.not_imp, Bool.or_eq_true, Bool.not_eq_true', Bool.and_eq_true, decide_eq_true_eq, ne_eq, or_assoc, Bool.not_eq_true]
theorem copyIssue_fields (h : ¬ x.copyFieldsOk dsp ssp f parts ds) : copyIssue kind dsp ssp f parts ds bs tk x s = .trap ⟨0x02, x.path.pos - 1, none, 0, false⟩ := by
  simp only [copyIssue]
  exact if_pos (Issue.copyFields_iff.2 h)
variable (hf : x.copyFieldsOk dsp ssp f parts ds)
include hf
/-- With the fields right, the rest of the tests decide. -/
theorem copyIssue_eq : copyIssue kind dsp ssp f parts ds bs tk x s =
    match x.jobNames s bs tk with
    | .error t => .trap t
    | .ok (bar, task) =>
      if !descAligned f (parseDesc (x.descWords ds)) then .trap (.of 0x14)
      else if (parts ≠ 0 && !splitFits f (parseDesc (x.descWords ds)) parts (decide (dsp = .tile))) ||
          !s.rangesAllowed x ssp (allReads f (parseDesc (x.descWords ds)) (tileParts ssp parts)) ||
          !s.rangesAllowed x dsp (allWrites f (parseDesc (x.descWords ds)) (tileParts dsp parts)) then .trap (.of 0x11)
      else if s.bytesFull bar (destBytes f (parseDesc (x.descWords ds))) then .stall
      else .done (s.submit x kind (parseDesc (x.descWords ds)) (jobEngine dsp ssp x.gang x.team) bar task (destBytes f (parseDesc (x.descWords ds)))) := by
  simp only [copyIssue]
  exact (if_neg (fun h => Issue.copyFields_iff.1 h hf)).trans (by rfl)
theorem copyIssue_error {c : Trap} (hn : x.jobNames s bs tk = .error c) : copyIssue kind dsp ssp f parts ds bs tk x s = .trap c := by
  rw [copyIssue_eq hf, hn]
variable {bar : Option (Nat × Nat)} {task : Option Nat} (hn : x.jobNames s bs tk = .ok (bar, task))
include hn
theorem copyIssue_misaligned (ha : descAligned f (parseDesc (x.descWords ds)) = false) : copyIssue kind dsp ssp f parts ds bs tk x s = .trap (.of 0x14) := by
  rw [copyIssue_eq hf, hn]
  exact if_pos (by rw [ha]; rfl)
variable (ha : descAligned f (parseDesc (x.descWords ds)) = true)
include ha
theorem copyIssue_ranges (hr : ¬ s.copyRangesOk x dsp ssp f parts ds) : copyIssue kind dsp ssp f parts ds bs tk x s = .trap (.of 0x11) := by
  rw [copyIssue_eq hf, hn]
  exact (if_neg (by rw [ha]; decide)).trans (if_pos (State.copyRanges_iff.2 hr))
theorem copyIssue_passed (hr : s.copyRangesOk x dsp ssp f parts ds) : copyIssue kind dsp ssp f parts ds bs tk x s =
    if s.bytesFull bar (destBytes f (parseDesc (x.descWords ds))) then .stall
    else .done (s.submit x kind (parseDesc (x.descWords ds)) (jobEngine dsp ssp x.gang x.team) bar task (destBytes f (parseDesc (x.descWords ds)))) := by
  rw [copyIssue_eq hf, hn]
  exact (if_neg (by rw [ha]; decide)).trans (if_neg fun h => State.copyRanges_iff.1 h hr)
end CopyIssue

-- The three words (R330, R408, R409)

/-- A word that issues a copy, with its job's kind, spaces, formats, parts and operands. -/
def IsCopyWord (x : Issue) (g : Guard) (i : Instr) (kind : JobKind) (dsp ssp : Space) (f : CopyFmt) (parts : Nat) (ds : Operand) (bs tk : Option Operand) : Prop :=
  (∃ a : CpyArgs, i = .cpy g a ∧ dsp = a.dsp ∧ ssp = a.ssp ∧ f = x.fmtOf a.srcf a.fs ∧ parts = 0 ∧ ds = a.ds ∧ bs = a.bs ∧ tk = a.tk ∧ kind = .copy a.dsp a.ssp a.srcf f.slot) ∨
    (∃ a : TileCpyArgs, i = .tload g a ∧ dsp = .tile ∧ ssp = a.sp ∧ f = x.fmtOf a.srcf a.fs ∧ parts = splitParts a.split x.team ∧ ds = a.ds ∧ bs = a.bs ∧ tk = a.tk ∧
      kind = .tiles true a.sp a.srcf f.slot parts) ∨
    (∃ a : TileCpyArgs, i = .tstore g a ∧ dsp = a.sp ∧ ssp = .tile ∧ f = x.fmtOf a.srcf a.fs ∧ parts = splitParts a.split x.team ∧ ds = a.ds ∧ bs = a.bs ∧ tk = a.tk ∧
      kind = .tiles false a.sp a.srcf f.slot parts)
/-- Its effect is the common issue. -/
theorem IsCopyWord.effect {x : Issue} {g : Guard} {i : Instr} {kind : JobKind} {dsp ssp : Space} {f : CopyFmt} {parts : Nat} {ds : Operand} {bs tk : Option Operand}
    (hi : IsCopyWord x g i kind dsp ssp f parts ds bs tk) :
    ∃ eff, (∀ s, exec i s = s.issueWord i false eff) ∧ ∀ s, eff x s = copyIssue kind dsp ssp f parts ds bs tk x s := by
  obtain ⟨a, rfl, rfl, rfl, rfl, rfl, rfl, rfl, rfl, rfl⟩ | ⟨a, rfl, rfl, rfl, rfl, rfl, rfl, rfl, rfl, rfl⟩ | ⟨a, rfl, rfl, rfl, rfl, rfl, rfl, rfl, rfl, rfl⟩ := hi
  · exact ⟨cpyEffect a, fun _ => rfl, fun _ => rfl⟩
  · exact ⟨tloadEffect a, fun _ => rfl, fun _ => rfl⟩
  · exact ⟨tstoreEffect a, fun _ => rfl, fun _ => rfl⟩

/-- Settles O31: the three words are one issue, whose tests come in R330's order and end in the job's hand-over, or in a wait while the barrier has no room. -/
theorem copiesHandOverJobs : Obligations.CopiesHandOverJobs := by
  intro s s1 x g i kind dsp ssp f parts ds bs tk hi h
  obtain ⟨eff, he, heff⟩ := IsCopyWord.effect hi
  rw [he]
  refine ⟨fun hf => issueWord_trap h ((heff s1).trans (copyIssue_fields hf)), fun c hf hn => issueWord_trap h ((heff s1).trans (copyIssue_error hf hn)),
    fun bar task hf hn => ⟨fun ha => issueWord_trap h ((heff s1).trans (copyIssue_misaligned hf hn ha)), fun ha hr => issueWord_trap h ((heff s1).trans (copyIssue_ranges hf hn ha hr)),
      fun ha hr hb => ?_, fun ha hr hb => ?_⟩⟩
  · exact issueWord_done h ((heff s1).trans ((copyIssue_passed hf hn ha hr).trans (if_neg (by rw [hb]; decide))))
  · exact issueWord_stall h ((heff s1).trans ((copyIssue_passed hf hn ha hr).trans (if_pos hb)))

end Sys2Proof.Machine
end

section
/-! PROOFS. COLL (R247, R259, R327), TDESC (R227, R407), CPYQ (R332) and the requests CPYCAN, TPOST and TSIG (R331, R410) (O33). That a task index of 65,536 or above is a precise PROTECTION on CPYQ
and CPYCAN too is log 70's choice. -/
namespace Sys2Proof.Machine

-- COLL (R247, R327)

/-- The member count of a COLL's group table, none while the table cannot be read (log 90). -/
abbrev Issue.collMembers (x : Issue) (s : State) (a : CollArgs) : Option Nat := (s.tableHead x.team.ctx (some x.gang.core) (parseColl (x.descWords a.ds)).table).map Prod.snd
abbrev Issue.collLegal (x : Issue) (s : State) (a : CollArgs) : Prop :=
  collFieldsOk (x.descWords a.ds) = true ∧ ∀ n, x.collMembers s a = some n → 1 ≤ n ∧ n ≤ 1152
abbrev Issue.collBytes (x : Issue) (s : State) (a : CollArgs) : Nat := (parseColl (x.descWords a.ds)).bytes ((x.collMembers s a).getD 0)
/-- The job numbered on its table and handed over, or waiting for its number (log 90). -/
abbrev State.submitColl (s : State) (x : Issue) (a : CollArgs) (bar : Option (Nat × Nat)) (task : Option Nat) (bytes : Nat) : State :=
  let r := s.numberColl x.team.ctx (some x.gang.core) (parseColl (x.descWords a.ds))
  (r.1.submit x r.2.kind (collDesc (x.descWords a.ds)) (jobEngine .global .global x.gang x.team) bar task bytes).noteWaiting x.team.ctx r.2 r.1.seq

section Coll
variable {a : CollArgs} {x : Issue} {s : State}
theorem Issue.collLegal_iff : (!collFieldsOk (x.descWords a.ds) || (x.collMembers s a).any fun n => !membersOk n) = true ↔ ¬ x.collLegal s a := by
  cases hm : x.collMembers s a with
  | none => simp [Issue.collLegal, hm]
  | some n => simp [Issue.collLegal, hm, membersOk, imp_iff_not_or]
theorem collEffect_illegal (h : ¬ x.collLegal (s.catchUp x.key) a) : collEffect a x s = .trap ⟨0x02, x.path.pos - 1, none, 0, false⟩ := by
  simp only [collEffect]
  exact if_pos (Issue.collLegal_iff.2 h)
variable (h : x.collLegal (s.catchUp x.key) a)
include h
theorem collEffect_eq : collEffect a x s =
    match x.jobNames (s.catchUp x.key) a.bs a.tk with
    | .error t => .trap t
    | .ok (bar, task) =>
      if (s.catchUp x.key).bytesFull bar (x.collBytes (s.catchUp x.key) a) then .stall
      else
        match (s.catchUp x.key).leaveNow x.key 64 (x.ownCharge (s.catchUp x.key) 0x66) with
        | none => .asks 64
        | some s3 => .done (s3.submitColl x a bar task (x.collBytes (s.catchUp x.key) a)) := by
  simp only [collEffect]
  exact (if_neg fun hl => Issue.collLegal_iff.1 hl h).trans (by rfl)
theorem collEffect_error {t : Trap} (hn : x.jobNames (s.catchUp x.key) a.bs a.tk = .error t) : collEffect a x s = .trap t := by
  rw [collEffect_eq h, hn]
variable {bar : Option (Nat × Nat)} {task : Option Nat} (hn : x.jobNames (s.catchUp x.key) a.bs a.tk = .ok (bar, task))
include hn
theorem collEffect_full (hb : (s.catchUp x.key).bytesFull bar (x.collBytes (s.catchUp x.key) a) = true) : collEffect a x s = .stall := by
  rw [collEffect_eq h, hn]
  exact if_pos hb
variable (hb : (s.catchUp x.key).bytesFull bar (x.collBytes (s.catchUp x.key) a) = false)
include hb
theorem collEffect_asks (hl : (s.catchUp x.key).leaveNow x.key 64 (x.ownCharge (s.catchUp x.key) 0x66) = none) : collEffect a x s = .asks 64 := by
  rw [collEffect_eq h, hn, hl]
  exact if_neg (by rw [hb]; decide)
theorem collEffect_submits {s3 : State} (hl : (s.catchUp x.key).leaveNow x.key 64 (x.ownCharge (s.catchUp x.key) 0x66) = some s3) :
    collEffect a x s = .done (s3.submitColl x a bar task (x.collBytes (s.catchUp x.key) a)) := by
  rw [collEffect_eq h, hn, hl]
  exact if_neg (by rw [hb]; decide)
end Coll

-- CPYQ (R332)

section Cpyq
variable {a : CpyqArgs} {x : Issue} {s : State} (hi : x.once s a.tk 1 < 65536)
include hi
theorem cpyqEffect_reads {bs : List Byte} (hq : (s.catchUp x.key).queryTask x.team.ctx (x.once s a.tk 1) = .ok bs) :
    cpyqEffect a x s = .done ((((s.catchUp x.key).askQuery x.team.ctx (x.once s a.tk 1))).addResult x (some .cp) a.la [x.gang.dest a.ds 8]
      ((x.gang.dest a.ds 8).writes x.low (natOfBytes bs)) false) := by
  simp only [cpyqEffect, if_neg (Nat.not_le.2 hi), hq]
theorem cpyqEffect_faults {e : Nat × MFault} (hq : (s.catchUp x.key).queryTask x.team.ctx (x.once s a.tk 1) = .error e) :
    cpyqEffect a x s = .mfault (cpyqFault x e ((s.catchUp x.key).taskVa x.team.ctx (x.once s a.tk 1)) (x.once s a.tk 1) (x.gang.dest a.ds 8)) := by
  simp only [cpyqEffect, if_neg (Nat.not_le.2 hi), hq]
end Cpyq

-- CPYCAN, TPOST and TSIG (R331, R410)

/-- The three requests are one word but for the job's kind. -/
theorem exec_request {i : Instr} {g : Guard} {tk : Operand} {kind : Nat → JobKind}
    (hi : (i = .cpycan g tk ∧ kind = .cancel) ∨ (i = .tpost g tk ∧ kind = .post) ∨ (i = .tsig g tk ∧ kind = .signal)) (s : State) :
    exec i s = s.issueWord i false (requestEffect tk kind) := by
  obtain ⟨rfl, rfl⟩ | ⟨rfl, rfl⟩ | ⟨rfl, rfl⟩ := hi <;> rfl

/-- Settles O33: COLL's tests in its order, the handle, the record or its fault, and the request. -/
theorem copyRequestsAndHandles : Obligations.CopyRequestsAndHandles := by
  intro s s1 x g
  refine ⟨fun a h => ⟨fun hl => issueWord_trap h (collEffect_illegal hl), fun t hl hn => issueWord_trap h (collEffect_error hl hn),
      fun bar task s3 hl hn hb hv => issueWord_done h (collEffect_submits hl hn hb hv), fun bar task hl hn hb => issueWord_stall h (collEffect_full hl hn hb),
      fun bar task hl hn hb hv => issueWord_asks h (collEffect_asks hl hn hb hv)⟩,
    fun a h => ⟨fun hd => issueWord_done h (if_neg (by rw [hd]; decide)), fun hd => issueWord_trap h (if_pos (by rw [hd]; rfl))⟩,
    fun a h => ⟨fun hi => issueWord_trap h (if_pos hi), fun bs hi hq => issueWord_done h (cpyqEffect_reads hi hq),
      fun e hi hq => issueWord_mfault h (cpyqEffect_faults hi hq) (State.queryTask_cause hq)⟩,
    fun i tk kind hi h => ?request⟩
  case request =>
    rw [exec_request hi]
    exact ⟨fun hlt => issueWord_done h (if_neg (Nat.not_le.2 hlt)), fun hge => issueWord_trap h (if_pos hge)⟩

end Sys2Proof.Machine
end

section
/-! PROOFS. CHANBIND (R239, R325), MSGSEND and MSGRECV (R240, R241, R378), MOV with message registers (R376), the delivery of flits (R13, R240) and the credit's return (O49). That a team on a fenced
die's core counts as there is the model's reading (log 47), and so are what a flit that cannot land holds back (log 79) and where one lands whose receiver is saved (log 100). -/
namespace Sys2Proof.Machine

-- CHANBIND (R239, R325)

section Bind
variable {a : ChanbindArgs} {x : Issue} {s : State}
theorem chanbindEffect_nobody (h : ¬((s.part x.team.ctx.part).ownsCore (x.once s a.s1 1) = true ∧ s.coreHasTeam x.team.ctx (x.once s a.s1 1) = true)) :
    chanbindEffect a x s = .trap (.of 0x11) := by
  refine if_pos ?_
  simpa only [Bool.or_eq_true, Bool.not_eq_true', not_and_or, Bool.not_eq_true] using h
variable (h : (s.part x.team.ctx.part).ownsCore (x.once s a.s1 1) = true ∧ s.coreHasTeam x.team.ctx (x.once s a.s1 1) = true)
include h
theorem chanbindEffect_fenced (hf : s.pkg.fenced.contains (dieOf (x.once s a.s1 1)) = true) : chanbindEffect a x s = .trap (.of 0x61) := by
  simp only [chanbindEffect, h, hf, Bool.not_true, Bool.or_self, Bool.false_eq_true, if_false, if_true]
variable (hf : s.pkg.fenced.contains (dieOf (x.once s a.s1 1)) = false)
include hf
theorem chanbindEffect_binds (ho : ∀ b, tget (s.core x.gang.core).mo a.mo.toNat = some b → b.owner = x.key) :
    chanbindEffect a x s = .done (s.bind x.key a.mo.toNat (x.once s a.s1 1) a.mi.toNat) := by
  simp only [chanbindEffect, h, hf, Bool.not_true, Bool.or_self, Bool.false_eq_true, if_false]
  cases hb : tget (s.core x.gang.core).mo a.mo.toNat with
  | none => rfl
  | some b => exact if_pos (ho b hb)
theorem chanbindEffect_taken {b : Binding} (hb : tget (s.core x.gang.core).mo a.mo.toNat = some b) (ho : b.owner ≠ x.key) : chanbindEffect a x s = .trap (.of 0x3A) := by
  simp only [chanbindEffect, h, hf, hb, Bool.not_true, Bool.or_self, Bool.false_eq_true, if_false]
  exact if_neg ho
end Bind

section Bound
variable (t : State) (k : GangKey) (mo core mi : Nat)
/-- A binding's two records: the send register's at the gang's core, and the receive register's count of producers. -/
theorem State.core_bind (d : Nat) : (t.bind k mo core mi).core d =
    ((t.modCore (t.gang k).core fun c => { c with mo := tset c.mo mo ⟨k, core, mi, true, t.seq⟩ }).modCore core fun c =>
      { c with producers := tset c.producers mi (tgetD c.producers mi 0 + 1) }).core d := by
  unfold State.bind
  dsimp only
  split <;> rfl
theorem State.mo_bind : (tget ((t.bind k mo core mi).core (t.gang k).core).mo mo).map (fun b => (b.owner, b.core, b.mi, b.credit)) = some (k, core, mi, true) := by
  rw [State.core_bind]
  by_cases h : (t.gang k).core = core
  · rw [h, State.core_modCore, State.core_modCore]
    simp [tget_tset]
  · rw [State.core_modCore_ne _ _ h, State.core_modCore]
    simp [tget_tset]
theorem State.producers_bind : tgetD ((t.bind k mo core mi).core core).producers mi 0 = tgetD (t.core core).producers mi 0 + 1 := by
  rw [State.core_bind, State.core_modCore, tgetD_tset_self]
  by_cases h : core = (t.gang k).core
  · rw [h, State.core_modCore]
  · rw [State.core_modCore_ne _ _ h]
end Bound

-- Sending and receiving (R240, R241, R376, R378)

theorem State.sendCheck_eq (t : State) (k : GangKey) (n : Nat) : t.sendCheck k n =
    match tget (t.core (t.gang k).core).mo n with
    | none => .closed
    | some b => if b.owner ≠ k then .closed else if t.pkg.fenced.contains (dieOf b.core) = true then .fenced else if b.credit = false then .full else .ready b := by
  rw [State.sendCheck, State.ownBinding]
  cases tget (t.core (t.gang k).core).mo n with
  | none => rfl
  | some b =>
    by_cases h : b.owner = k
    · simp only [h, if_true, ne_eq, not_true_eq_false, if_false, Bool.not_eq_true']
    · simp only [h, if_false, ne_eq, not_false_eq_true, if_true]

section Recv
variable {s : State} {k : GangKey} {n : Nat}
theorem State.recvCheck_flit {f : Flit} (h : tget (s.core (s.gang k).core).flits n = some f) : s.recvCheck k n = .flit f := by
  simp only [State.recvCheck, h]
variable (h : tget (s.core (s.gang k).core).flits n = none)
include h
theorem State.recvCheck_empty (ho : tgetD (s.core (s.gang k).core).producers n 0 ≠ 0) : s.recvCheck k n = .empty := by
  simp only [State.recvCheck, h, if_neg ho]
theorem State.recvCheck_closed (ho : ¬ tgetD (s.core (s.gang k).core).producers n 0 ≠ 0) : s.recvCheck k n = .closed := by
  simp only [State.recvCheck, h, if_pos (not_not.1 ho)]
end Recv

theorem msgsendEffect_eq {a : MsgsendArgs} {n : BitVec 2} (hd : a.d = .mo n) (x : Issue) (s : State) : msgsendEffect a x s =
    match s.sendCheck x.key n.toNat with
    | .closed => .trap (.of 0x3A)
    | .fenced => .trap (.of 0x61)
    | .full => .park (.credit n.toNat)
    | .ready b => .done (s.sendFlit x.key n.toNat b (x.once s a.s1 (if a.b64 then 2 else 1))) := by
  cases hc : s.sendCheck x.key n.toNat <;> simp only [msgsendEffect, hd, hc]
/-- MSGRECV's answer where it has no flit and does not wait. -/
abbrev Issue.recvNothing (x : Issue) (a : MsgrecvArgs) (s : State) : State :=
  s.addResult x (some .sp) a.la [x.gang.dest a.d 2, .pred a.pq.toNat] ((Dest.pred a.pq.toNat).laneWrites x.lanes fun _ => 0) false
theorem msgrecvEffect_eq {a : MsgrecvArgs} {n : BitVec 2} (hs : a.s1 = .mi n) (x : Issue) (s : State) : msgrecvEffect a x s =
    match s.recvCheck x.key n.toNat with
    | .flit f => .done ((s.takeFlit x.key n.toNat f).addResult x (some .sp) a.la [x.gang.dest a.d 2, .pred a.pq.toNat]
        ((x.gang.dest a.d 2).laneWrites x.lanes (fun _ => f.value) ++ (Dest.pred a.pq.toNat).laneWrites x.lanes fun _ => 1) false)
    | .closed => .done (x.recvNothing a s)
    | .empty => if a.nb then .done (x.recvNothing a s) else .park (.receive n.toNat) := by
  cases hc : s.recvCheck x.key n.toNat <;> simp only [msgrecvEffect, hs, hc]
theorem msgrecvEffect_nothing {a : MsgrecvArgs} {n : BitVec 2} (hs : a.s1 = .mi n) {x : Issue} {s : State} (h : tget (s.core (s.gang x.key).core).flits n.toNat = none)
    (ho : ¬ tgetD (s.core (s.gang x.key).core).producers n.toNat 0 ≠ 0 ∨ a.nb = true) : msgrecvEffect a x s = .done (x.recvNothing a s) := by
  rw [msgrecvEffect_eq hs]
  by_cases hc : tgetD (s.core (s.gang x.key).core).producers n.toNat 0 ≠ 0
  · rw [State.recvCheck_empty h hc]
    exact if_pos (ho.resolve_left (not_not_intro hc))
  · rw [State.recvCheck_closed h hc]

-- MOV (R376)

section Mov
variable {a : MovArgs} {x : Issue} {s : State}
/-- The state in which the flit that a source has given, if any, is taken. -/
def State.given (s : State) (k : GangKey) : Option (Nat × Flit) → State
  | some (mi, f) => s.takeFlit k mi f
  | none => s
theorem State.given_some (k : GangKey) (mi : Nat) (f : Flit) : s.given k (some (mi, f)) = s.takeFlit k mi f := rfl
theorem State.given_none (k : GangKey) : s.given k none = s := rfl
theorem movTo_send {m : BitVec 2} (hd : a.d = .mo m) (value : Nat → Nat) (flit : Option (Nat × Flit)) : movTo a value flit x s =
    match s.sendCheck x.key m.toNat with
    | .closed => .trap (.of 0x3A)
    | .fenced => .trap (.of 0x61)
    | .full => .stall
    | .ready b => .done ((s.given x.key flit).sendFlit x.key m.toNat b (value x.low)) := by
  cases hc : s.sendCheck x.key m.toNat <;> simp only [movTo, hd, hc]
  rfl
theorem movTo_set (hd : ∀ m, a.d ≠ .mo m) (value : Nat → Nat) (mi : Nat) (f : Flit) :
    movTo a value (some (mi, f)) x s = .done ((s.takeFlit x.key mi f).lanesSet x a.d a.ty.regs value) := by
  unfold movTo
  dsimp only
  split
  next m hm => exact absurd hm (hd m)
  next => rfl
theorem movEffect_receives {n : BitVec 2} (hs : a.s1 = .reg (.mi n)) : movEffect a x s =
    match s.recvCheck x.key n.toNat with
    | .closed => .trap (.of 0x3A)
    | .empty => .park (.receive n.toNat)
    | .flit f => movTo a (fun _ => f.value) (some (n.toNat, f)) x s := by
  cases hc : s.recvCheck x.key n.toNat <;> simp only [movEffect, hs, hc]
theorem movEffect_reads (hs : ∀ n, a.s1 ≠ .reg (.mi n)) : movEffect a x s = movTo a (fun l => x.readB s a.s1 a.ty l) none x s := by
  unfold movEffect
  split
  next n hn => exact absurd hn (hs n)
  next => rfl
variable {n : BitVec 2} (hs : a.s1 = .reg (.mi n))
include hs
theorem movEffect_flit {f : Flit} (hf : tget (s.core (s.gang x.key).core).flits n.toNat = some f) : movEffect a x s = movTo a (fun _ => f.value) (some (n.toNat, f)) x s := by
  rw [movEffect_receives hs, State.recvCheck_flit hf]
variable (hf : tget (s.core (s.gang x.key).core).flits n.toNat = none)
include hf
theorem movEffect_empty (ho : tgetD (s.core (s.gang x.key).core).producers n.toNat 0 ≠ 0) : movEffect a x s = .park (.receive n.toNat) := by
  rw [movEffect_receives hs, State.recvCheck_empty hf ho]
theorem movEffect_closed (ho : ¬ tgetD (s.core (s.gang x.key).core).producers n.toNat 0 ≠ 0) : movEffect a x s = .trap (.of 0x3A) := by
  rw [movEffect_receives hs, State.recvCheck_closed hf ho]
end Mov
/-- A MOV whose source has its value, if it is a receive register, comes to its destination. -/
theorem movEffect_sends {a : MovArgs} {x : Issue} {s : State}
    (hs : ∀ n, a.s1 = .reg (.mi n) → (tget (s.core (s.gang x.key).core).flits n.toNat).isSome = true) : ∃ value flit, movEffect a x s = movTo a value flit x s := by
  by_cases h : ∃ n, a.s1 = .reg (.mi n)
  · obtain ⟨n, hn⟩ := h
    obtain ⟨f, hf⟩ := Option.isSome_iff_exists.1 (hs n hn)
    exact ⟨_, _, movEffect_flit hn hf⟩
  · exact ⟨_, _, movEffect_reads fun n hn => h ⟨n, hn⟩⟩

-- FLIT_DELIVERY (R13, R240)

section Delivery
variable {s : State} {f : Flit}
theorem State.deliverable_iff {earlier : List Flit} : s.deliverable f earlier = true ↔
    (∀ e ∈ earlier, ¬(e.core = f.core ∧ e.fromCore = f.fromCore ∧ (e.mi = f.mi ∨ s.mayLand e = true))) ∧ s.mayLand f = true := by
  simp only [State.deliverable, Bool.and_eq_true, Bool.not_eq_true', List.any_eq_false, Bool.or_eq_true, decide_eq_true_eq, and_assoc]
/-- The flit chosen is the first of its register in the list that may arrive, and the others stay in order. -/
theorem State.nextFlit_spec {core mo : Nat} {before l rest : List Flit} (h : s.nextFlit core mo before l = some (f, rest)) :
    ∃ mid after, l = mid ++ f :: after ∧ rest = before ++ mid ++ after ∧ f.fromCore = core ∧ f.fromMo = mo ∧ s.deliverable f (before ++ mid) = true := by
  induction l generalizing before with
  | nil => cases h
  | cons e l ih =>
    rw [State.nextFlit] at h
    split at h
    next hc =>
      obtain ⟨rfl, rfl⟩ := Prod.mk.inj (Option.some.inj h)
      simp only [Bool.and_eq_true, decide_eq_true_eq] at hc
      obtain ⟨⟨hcore, hmo⟩, hd⟩ := hc
      exact ⟨[], l, rfl, by rw [List.append_nil], hcore, hmo, by rwa [List.append_nil]⟩
    next =>
      obtain ⟨mid, after, rfl, rfl, hcore, hmo, hd⟩ := ih h
      have happ : before ++ e :: mid = before ++ [e] ++ mid := List.append_cons ..
      exact ⟨e :: mid, after, rfl, by rw [happ], hcore, hmo, by rwa [happ]⟩
theorem State.transit_receiveFlit (s : State) (f : Flit) : (s.receiveFlit f).transit = s.transit := by
  unfold State.receiveFlit
  split
  · rfl
  · split
    · rfl
    · split <;> rfl

theorem State.core_retry (s : State) (g : GangKey → ParkOn → Bool) (d : Nat) : (s.retry g).core d = s.core d := rfl
theorem State.core_wakeReceivers (s : State) (core mi d : Nat) : (s.wakeReceivers core mi).core d = s.core d := rfl

variable (hf : s.pkg.fenced.contains (dieOf f.core) = false)
include hf
section Unsaved
variable (hu : s.savedUnit f = none)
include hu
/-- At the receiver's core a value stands in its register, and an unbind takes one producer away. -/
theorem State.core_receiveFlit : (s.receiveFlit f).core f.core =
    if f.data.isSome then { s.core f.core with flits := tset (s.core f.core).flits f.mi f }
    else { s.core f.core with producers := tset (s.core f.core).producers f.mi (tgetD (s.core f.core).producers f.mi 0 - 1) } := by
  simp only [State.receiveFlit, hf, hu, Bool.false_eq_true, if_false]
  cases f.data with
  | none =>
    dsimp only
    rw [State.core_wakeReceivers, State.core_modCore]
    rfl
  | some d =>
    dsimp only
    rw [State.core_wakeReceivers, State.core_modCore]
    rfl
theorem State.flits_receiveFlit (hd : f.data.isSome = true) : tget ((s.receiveFlit f).core f.core).flits f.mi = some f := by
  rw [State.core_receiveFlit hf hu, if_pos hd, tget_tset, if_pos rfl]
theorem State.producers_receiveFlit (hd : f.data = none) : tgetD ((s.receiveFlit f).core f.core).producers f.mi 0 = tgetD (s.core f.core).producers f.mi 0 - 1 := by
  rw [State.core_receiveFlit hf hu, hd]
  exact tgetD_tset_self ..
/-- A flit with a value that may land finds its register free. -/
theorem State.free_of_mayLand (hd : f.data.isSome = true) (h : s.mayLand f = true) : tget (s.core f.core).flits f.mi = none := by
  obtain ⟨d, hd⟩ := Option.isSome_iff_exists.1 hd
  simpa only [State.mayLand, hf, hu, hd, Option.isNone_some, Option.isSome_none, Bool.or_self, Bool.false_or, Option.isNone_iff_eq_none] using h
end Unsaved
/-- A flit whose receiver is saved waits in its unit (log 100). -/
theorem State.receiveFlit_saved {part : Nat} {u : Nat × Nat} (hu : s.savedUnit f = some (part, u)) :
    (s.receiveFlit f).cores = s.cores ∧ (s.receiveFlit f).gangs = s.gangs ∧
      ∀ v, tget (s.part part).units u = some v → (tget ((s.receiveFlit f).part part).units u).map MsgUnit.late = some (v.late ++ [f]) := by
  simp only [State.receiveFlit, hf, hu, Bool.false_eq_true, if_false]
  refine ⟨rfl, rfl, fun v hv => ?_⟩
  rw [State.part_modPart, tget_tmap, hv]
  simp
end Delivery

theorem exec_flitDelivery {s : State} {core mo : Nat} {f : Flit} {rest : List Flit} (h : s.nextFlit core mo [] s.transit = some (f, rest)) :
    exec (.flitDelivery core mo) s = .next (State.receiveFlit { s with transit := rest } f) := by
  rw [show exec (.flitDelivery core mo) s = execFlitDelivery core mo s from rfl, execFlitDelivery, h]

-- The credit's return (R240)

section Credit
variable {t : State} {f : Flit} {b : Binding}
theorem tget_creditMo {mo : Tbl Nat Binding} (hb : tget mo f.fromMo = some b) (hid : b.id = f.id) : (tget (creditMo f mo) f.fromMo).map Binding.credit = some true := by
  rw [creditMo, tget_tmap, hb]
  simp [hid]
theorem State.core_returnCredit (hb : tget (t.core f.fromCore).mo f.fromMo = some b) (hid : b.id = f.id) :
    (t.returnCredit f).core f.fromCore = { t.core f.fromCore with mo := creditMo f (t.core f.fromCore).mo } := by
  have hown : (tget (t.core f.fromCore).mo f.fromMo).filter (fun b => b.id = f.id) = some b := by rw [hb, Option.filter_some, if_pos (decide_eq_true hid)]
  unfold State.returnCredit
  dsimp only
  split
  next hn => exact absurd (hown.symm.trans hn) (by simp)
  next =>
    rw [State.core_retry, State.core_modCore]
    rfl
/-- A partition's record with the credit returned to the saved units and the shadowed ones of the sending core (log 100). -/
def Part.credited (p : Part) (f : Flit) : Part :=
  { p with
    units := tmap p.units (fun u _ => u.2 = f.fromCore) fun (u : MsgUnit) => { u with mo := creditMo f u.mo }
    shadow := p.shadow.map fun (x : Shadow) => { x with units := tmap x.units (fun c _ => c = f.fromCore) fun (u : MsgUnit) => { u with mo := creditMo f u.mo } } }
theorem State.parts_returnCredit (t : State) (f : Flit) : (t.returnCredit f).parts = t.parts.map fun e => (e.1, e.2.credited f) := by
  unfold State.returnCredit
  dsimp only
  split <;> rfl
theorem State.part_returnCredit {part : Nat} {p : Part} (hp : tget t.parts part = some p) : (t.returnCredit f).part part = p.credited f := by
  rw [State.part, tgetD, State.parts_returnCredit, tget_map_keys (g := fun (e : Nat × Part) => (e.1, e.2.credited f)) (fun _ => rfl), hp]
  rfl
/-- A credit goes back to the register that sent the flit, in its core or in the unit in which it is saved. -/
theorem State.credit_returnCredit (hb : tget (t.core f.fromCore).mo f.fromMo = some b) (hid : b.id = f.id) :
    (tget ((t.returnCredit f).core f.fromCore).mo f.fromMo).map Binding.credit = some true := by
  rw [State.core_returnCredit hb hid]
  exact tget_creditMo hb hid
theorem State.savedCredit_returnCredit {part : Nat} {p : Part} {u : Nat × Nat} {v : MsgUnit} (hp : tget t.parts part = some p) (hu : tget p.units u = some v)
    (hc : u.2 = f.fromCore) (hb : tget v.mo f.fromMo = some b) (hid : b.id = f.id) :
    ((tget ((t.returnCredit f).part part).units u).bind fun w => tget w.mo f.fromMo).map Binding.credit = some true := by
  rw [State.part_returnCredit hp, Part.credited, tget_tmap, hu, Option.map_some, if_pos (decide_eq_true hc)]
  exact tget_creditMo hb hid
end Credit

/-- Settles O49: each word's answer on its channel, the delivery of the chosen flit and what stood before it, and the credit's return. -/
theorem channelsAndMessages : Obligations.ChannelsAndMessages := by
  intro s s1 x g
  refine ⟨fun a h => ⟨fun hn => issueWord_trap h (chanbindEffect_nobody hn), fun ht hf => issueWord_trap h (chanbindEffect_fenced ht hf),
      fun ht hf => ⟨fun ho => issueWord_done h (chanbindEffect_binds ht hf ho), fun b hb ho => issueWord_trap h (chanbindEffect_taken ht hf hb ho)⟩⟩,
    fun t mo core mi => ⟨t.mo_bind x.key mo core mi, t.producers_bind x.key mo core mi⟩, fun a n h hd => ?send, State.sendCheck_eq, fun a n h hs => ?recv, fun a n h hs hd => ?movIn,
    fun a m h hs hd => ?movOut, fun a n m h hs hd => ?movThrough, fun a m h hd hs => ?movRefused, fun core mo f rest hn hf => ?deliver,
    fun t f b hb hid => State.credit_returnCredit hb hid, fun t f part p u v b hp hu hc hb hid => State.savedCredit_returnCredit hp hu hc hb hid⟩
  case send =>
    have he := msgsendEffect_eq hd x s1
    exact ⟨fun b hc => issueWord_done h (he.trans (by rw [hc])), fun hc => issueWord_park h (he.trans (by rw [hc])), fun hc => issueWord_trap h (he.trans (by rw [hc])),
      fun hc => issueWord_trap h (he.trans (by rw [hc]))⟩
  case recv =>
    have he := msgrecvEffect_eq hs x s1
    exact ⟨fun f hf => issueWord_done h (he.trans (by rw [State.recvCheck_flit hf])), fun hf ho => issueWord_done h (msgrecvEffect_nothing hs hf ho),
      fun hf ho hb => issueWord_park h (he.trans (by rw [State.recvCheck_empty hf ho, hb]; rfl))⟩
  case movIn =>
    exact ⟨fun f hf => issueWord_done h ((movEffect_flit hs hf).trans (movTo_set hd ..)), fun hf ho => issueWord_park h (movEffect_empty hs hf ho),
      fun hf ho => issueWord_trap h (movEffect_closed hs hf ho)⟩
  case movOut =>
    have he := (movEffect_reads hs (x := x) (s := s1)).trans (movTo_send hd ..)
    exact ⟨fun b hc => issueWord_done h (he.trans (by simp only [hc, State.given_none])), fun hc => issueWord_stall h (he.trans (by rw [hc]))⟩
  case movThrough =>
    have he {f : Flit} (hf : tget (s1.core (s1.gang x.key).core).flits n.toNat = some f) := (movEffect_flit hs hf).trans (movTo_send hd ..)
    exact ⟨fun f b hf hc => issueWord_done h ((he hf).trans (by simp only [hc, State.given_some])), fun f hf hc => issueWord_stall h ((he hf).trans (by rw [hc])),
      fun hf ho => issueWord_park h (movEffect_empty hs hf ho), fun hf ho => issueWord_trap h (movEffect_closed hs hf ho)⟩
  case movRefused =>
    obtain ⟨value, flit, he⟩ := movEffect_sends hs
    have hc := he.trans (movTo_send hd value flit)
    exact ⟨fun hk => issueWord_trap h (hc.trans (by rw [hk])), fun hk => issueWord_trap h (hc.trans (by rw [hk]))⟩
  case deliver =>
    obtain ⟨before, after, hlist, hrest, hcore, hmo, hd⟩ := State.nextFlit_spec hn
    obtain ⟨hfirst, hland⟩ := State.deliverable_iff.1 hd
    let u : State := { s with transit := rest }
    refine ⟨_, exec_flitDelivery hn, State.transit_receiveFlit .., State.receiveFlit_mem .., fun hu => ⟨State.flits_receiveFlit (s := u) hf hu, State.producers_receiveFlit (s := u) hf hu⟩,
      fun part v hu => State.receiveFlit_saved (s := u) hf hu, hcore, hmo, before, after, hlist, hrest, hfirst, fun hv hu => State.free_of_mayLand hf hu hv hland⟩

end Sys2Proof.Machine
end

section
/-! PROOFS. The foreman's posts and ingestion (R243, R244, R252, R298), the codebooks of a grid (R148, R251), placement in the ready order (R255) and the jobs of tasks (R245, R246) (O54). -/
namespace Sys2Proof.Machine

-- Posts (R243, R244, R252, R298)

theorem State.ctx_modCtx_ne (s : State) {c d : CtxKey} (f : Context → Context) (h : d ≠ c) : (s.modCtx c f).ctx d = s.ctx d := tgetD_tset_ne s.ctxs _ _ h
section Post
variable {s : State} {c : CtxKey} {i : Nat}
theorem exec_hostPost_posts (hr : (s.ctx c).run = true) (hw : s.pkg.wiping = false) (hi : i < (s.ctx c).devbase) :
    exec (.hostPost c i) s = .next (s.modCtx c fun x => { x with posts := x.posts ++ [i] }) := by
  have hd : s.deviceIndex c i = false := decide_eq_false (Nat.not_le.2 hi)
  rw [show exec (.hostPost c i) s = .next (s.hostPost c i) from rfl, State.hostPost, hr, hw, State.requestPost, hd]
  rfl
theorem exec_hostPost_none (h : (s.ctx c).run = false ∨ s.pkg.wiping = true ∨ (s.ctx c).devbase ≤ i) : exec (.hostPost c i) s = .next s := by
  rw [show exec (.hostPost c i) s = .next (s.hostPost c i) from rfl, State.hostPost, State.requestPost]
  congr 1
  obtain hr | hw | hi := h
  · rw [hr]
    rfl
  · rw [hw, Bool.or_true]
    rfl
  · rw [show s.deviceIndex c i = true from decide_eq_true hi]
    exact ite_self s
theorem exec_taskIngest {rest : List Nat} (h : (s.ctx c).posts = i :: rest) :
    exec (.taskIngest c) s = .next ((s.modCtx c fun x => { x with posts := rest }).ingest c i) := by
  rw [show exec (.taskIngest c) s = execTaskIngest c s from rfl, execTaskIngest, h]
theorem exec_taskIngest_none (h : (s.ctx c).posts = []) : exec (.taskIngest c) s = .next s := by
  rw [show exec (.taskIngest c) s = execTaskIngest c s from rfl, execTaskIngest, h]
end Post

-- Codebooks (R148, R251)

section Books
variable {s : State} {n : Nat} {g : Grid} {k : Task} (hg : tget s.grids n = some g) (hk : tget s.tasks (g.ctx, g.task) = some k)
include hg hk
theorem exec_gridCodebookRead_none (h : g.codebooks.isSome = true ∨ k.status ≠ .ready ∨ g.x * g.launch.y * g.launch.z = 0) : exec (.gridCodebookRead n) s = .next s := by
  rw [show exec (.gridCodebookRead n) s = execGridCodebookRead n s from rfl]
  simp only [execGridCodebookRead, hg, hk]
  refine if_pos ?_
  replace h : g.codebooks.isSome = true ∨ k.status ≠ .ready ∨ g.total = 0 := h
  simpa only [Bool.or_eq_true, Bool.not_eq_true', decide_eq_false_iff_not, decide_eq_true_eq, or_assoc] using h
/-- A READY grid with teams and no codebooks yet has them read. -/
theorem exec_gridCodebookRead (hb : g.codebooks = none) (ht : g.x * g.launch.y * g.launch.z ≠ 0) (hr : k.status = .ready) : exec (.gridCodebookRead n) s =
    match s.readBooks g.ctx ((List.range 8).map fun i => (i, g.launch.slot i)) with
    | .ok t => .next ((s.askBooks g.ctx ((List.range 8).map g.launch.slot)).setGrid n { g with codebooks := some t })
    | .error _ => .next ((State.finishTask { s.foremanError g.ctx g.task with grids := terase (s.foremanError g.ctx g.task).grids n } g.ctx g.task .failed).settleGrids) := by
  rw [show exec (.gridCodebookRead n) s = execGridCodebookRead n s from rfl]
  simp only [execGridCodebookRead, hg, hk]
  refine (if_neg ?_).trans ?_
  · simp [hb, hr, Grid.total, ht]
  · cases s.readBooks g.ctx ((List.range 8).map fun i => (i, g.launch.slot i)) <;> rfl
end Books

-- Placement (R255)

section Place
variable {s : State} {part : Nat} {p : Placement}
/-- Grids whose next team fits nowhere are passed over. -/
theorem State.placeFirst_append {no : List (Nat × Grid)} (h : ∀ e ∈ no, s.placeTeam part e.1 e.2 p = none ∧ s.fitsSomewhere part e.1 e.2 = false) (rest : List (Nat × Grid)) :
    s.placeFirst part p (no ++ rest) = s.placeFirst part p rest := by
  induction no with
  | nil => rfl
  | cons e no ih =>
    obtain ⟨hhere, hfits⟩ := h e List.mem_cons_self
    rw [List.cons_append, State.placeFirst, hhere, hfits]
    exact ih fun d hd => h d (List.mem_cons_of_mem e hd)
variable {no rest : List (Nat × Grid)} {n : Nat} {g : Grid} (ho : s.readyOrder part = no ++ (n, g) :: rest)
  (hno : ∀ e ∈ no, s.placeTeam part e.1 e.2 p = none ∧ s.fitsSomewhere part e.1 e.2 = false)
include ho hno
theorem exec_teamPlace : exec (.teamPlace part p) s = .next (s.placeFirst part p ((n, g) :: rest)) := by
  rw [show exec (.teamPlace part p) s = .next (s.placeFirst part p (s.readyOrder part)) from rfl, ho, State.placeFirst_append hno]
theorem exec_teamPlace_places {t : State} (ht : s.placeTeam part n g p = some t) : exec (.teamPlace part p) s = .next t := by
  rw [exec_teamPlace ho hno, State.placeFirst, ht]
theorem exec_teamPlace_elsewhere (hn : s.placeTeam part n g p = none) (hf : s.fitsSomewhere part n g = true) : exec (.teamPlace part p) s = .next s := by
  rw [exec_teamPlace ho hno, State.placeFirst, hn]
  exact congrArg Host.Outcome.next (if_pos hf)
end Place

-- The jobs of tasks (R245, R246)

section Start
variable {s : State} {c : CtxKey} {i : Nat} {k : Task} (hk : tget s.tasks (c, i) = some k)
include hk
theorem exec_taskJobStart : exec (.taskJobStart c i) s = if k.status = .ready ∧ k.job.isNone = true then .next (s.startTask c i k) else .next s := by
  rw [show exec (.taskJobStart c i) s = execTaskJobStart c i s from rfl, execTaskJobStart, hk]
  simp only [Bool.and_eq_true, decide_eq_true_eq]
theorem exec_taskJobStart_starts (hs : k.status = .ready) (hj : k.job = none) : exec (.taskJobStart c i) s = .next (s.startTask c i k) :=
  (exec_taskJobStart hk).trans (if_pos ⟨hs, by rw [hj]; rfl⟩)
theorem exec_taskJobStart_none (h : k.status ≠ .ready ∨ k.job.isSome = true) : exec (.taskJobStart c i) s = .next s := by
  refine (exec_taskJobStart hk).trans (if_neg fun ⟨hs, hj⟩ => ?_)
  obtain hn | hn := h
  · exact hn hs
  · rw [Option.isNone_iff_eq_none.1 hj] at hn
    cases hn
end Start

/-- Settles O54: a post joins its context's posts or is lost, and each turn of the foreman acts on the oldest post, the grid, the first placeable team or the task it names, or does nothing. -/
theorem foremanEvents : Obligations.ForemanEvents := by
  intro s
  refine ⟨fun c i hr hw hi => ?post, fun c i h => exec_hostPost_none h, fun c i rest h => exec_taskIngest h, fun c h => exec_taskIngest_none h,
    fun n g k hg hk => ⟨fun hb ht hr => ?books, fun h => exec_gridCodebookRead_none hg hk h⟩,
    fun part p no rest n g ho hno => ⟨fun t => exec_teamPlace_places ho hno, exec_teamPlace_elsewhere ho hno⟩, fun part p ho => ?nobody,
    fun c i k hk => ⟨exec_taskJobStart_starts hk, exec_taskJobStart_none hk⟩⟩
  case post => exact ⟨_, exec_hostPost_posts hr hw hi, congrArg Context.posts (s.ctx_modCtx c _), rfl, fun d hd => s.ctx_modCtx_ne _ hd⟩
  case books =>
    have he := exec_gridCodebookRead hg hk hb ht hr
    exact ⟨fun t hok => he.trans (by rw [hok]), fun e herr => ⟨_, he.trans (by rw [herr]), rfl⟩⟩
  case nobody => rw [show exec (.teamPlace part p) s = .next (s.placeFirst part p (s.readyOrder part)) from rfl, ho, State.placeFirst]

end Sys2Proof.Machine
end

section
/-! PROOFS. Power requests and levels (R260, R261, R381), the weighbridge's window and its leave (R258, R259), thermal clamps (R262), the rebase of program times (R210), and Zhoina's coolant
events (R302) (O50). The order of leave is the model's choice (log 93). -/
namespace Sys2Proof.Machine

-- PWRREQ, PWRREL and PERFLVL (R260, R381)

section Request
variable {a : PwrreqArgs} {x : Issue} {s : State}
theorem pwrreqEffect_grants (hl : 1 ≤ x.once s a.s1 1) (hu : x.once s a.s1 1 ≤ 65535)
    (hi : 2 * (s.reserved (clusterOf x.gang.core) + x.once s a.s1 1) ≤ Config.ilim s.pkg.firmware) : pwrreqEffect a x s =
      .done ((s.modGang x.key fun e => { e with reservation := e.reservation + x.once s a.s1 1 }).inFlight x (some .sp) a.la a.d 1 (fun _ => x.once s a.s1 1) false) := by
  refine if_neg ?_
  simp only [Bool.or_eq_true, decide_eq_true_eq]
  omega
theorem pwrreqEffect_refuses
    (h : ¬(1 ≤ x.once s a.s1 1 ∧ x.once s a.s1 1 ≤ 65535 ∧ 2 * (s.reserved (clusterOf x.gang.core) + x.once s a.s1 1) ≤ Config.ilim s.pkg.firmware)) :
    pwrreqEffect a x s = .done (s.inFlight x (some .sp) a.la a.d 1 (fun _ => 0) false) := by
  refine if_pos ?_
  simp only [Bool.or_eq_true, decide_eq_true_eq]
  omega
end Request

theorem perflvlEffect_eq (o : Operand) (x : Issue) (s : State) : perflvlEffect o x s = .done (s.modTeam x.key.team fun t => { t with level := min 7 (x.once s o 1) }) := by
  have hmin : (if x.once s o 1 > 7 then 7 else x.once s o 1) = min 7 (x.once s o 1) := by
    split <;> omega
  rw [perflvlEffect, hmin]

-- The weighbridge (R258, R259)

@[simp] theorem State.cluster_setCluster (s : State) (n : Nat) (c : Cluster) : (s.setCluster n c).cluster n = c := tgetD_tset_self ..
theorem State.cluster_setCluster_ne (s : State) {n m : Nat} (c : Cluster) (h : m ≠ n) : (s.setCluster n c).cluster m = s.cluster m := tgetD_tset_ne s.clusters _ _ h

section Grant
variable (s : State) (k : GangKey) (units since : Nat)
/-- A grant draws the request's units from the gang's reservation, the rest from the window, but for the figures of its team. -/
theorem State.grant_frame : ∃ teams, s.grant k units since = { (s.takeLeave k units).modGang k (fun g => { g with leave := .granted }) with teams := teams } := by
  by_cases h : units = 64
  · exact ⟨s.teams, if_pos h⟩
  · exact ⟨_, if_neg h⟩
theorem State.gang_grant : (s.grant k units since).gang k = { s.gang k with resLeft := (s.gang k).resLeft - units, leave := .granted } := by
  obtain ⟨teams, h⟩ := s.grant_frame k units since
  rw [h]
  show ((s.takeLeave k units).modGang k fun g => { g with leave := .granted }).gang k = _
  simp [State.takeLeave]
theorem State.charge_grant : ((s.grant k units since).cluster (clusterOf (s.gang k).core)).charge =
    (s.cluster (clusterOf (s.gang k).core)).charge + (units - (s.gang k).resLeft) := by
  obtain ⟨teams, h⟩ := s.grant_frame k units since
  rw [h]
  exact congrArg Cluster.charge (s.cluster_setCluster _ _)
end Grant

section Leave
variable {s : State} {n : Nat}
theorem exec_leaveGrant_grants {k : GangKey} {o u since : Nat} (h : s.oldestRequest n (s.leaveFits 0) = some (k, o, u, since)) :
    exec (.leaveGrant n) s = .next (s.grant k u since) := by
  rw [show exec (.leaveGrant n) s = execLeaveGrant n s from rfl, execLeaveGrant, h]
theorem exec_leaveGrant_none (h : s.oldestRequest n (s.leaveFits 0) = none) : exec (.leaveGrant n) s = .next s := by
  rw [show exec (.leaveGrant n) s = execLeaveGrant n s from rfl, execLeaveGrant, h]
end Leave

section Window
variable (s : State) (n : Nat)
/-- The window's start, before a grant: its record holds the standing reservations, whose units are drawn afresh (R260). -/
def State.freshWindow : State :=
  { (s.setCluster n { s.cluster n with charge := s.reserved n }) with
    gangs := s.gangs.map fun (e : GangKey × Gang) => if clusterOf e.2.core = n then (e.1, { e.2 with resLeft := e.2.reservation }) else e }
/-- The oldest request whose remainder ILIM alone does not hold. -/
def State.bigRequest : Option (GangKey × Nat × Nat × Nat) := s.oldestRequest n fun k units => (s.gang k).leaveRest units > Config.ilim s.pkg.firmware
theorem State.newWindow_eq : s.newWindow n = ((s.freshWindow n).bigRequest n).elim (s.freshWindow n) fun r => (s.freshWindow n).grant r.1 r.2.2.1 r.2.2.2 := by
  change (match (s.freshWindow n).bigRequest n with | none => s.freshWindow n | some (k, _, units, since) => (s.freshWindow n).grant k units since) = _
  cases (s.freshWindow n).bigRequest n <;> rfl
variable {s n}
theorem exec_weighbridgeWindow_none (h : (s.freshWindow n).bigRequest n = none) : exec (.weighbridgeWindow n) s = .next (s.freshWindow n) := by
  rw [show exec (.weighbridgeWindow n) s = .next (s.newWindow n) from rfl, State.newWindow_eq, h, Option.elim_none]
theorem exec_weighbridgeWindow_grants {k : GangKey} {o units since : Nat} (h : (s.freshWindow n).bigRequest n = some (k, o, units, since)) :
    exec (.weighbridgeWindow n) s = .next ((s.freshWindow n).grant k units since) := by
  rw [show exec (.weighbridgeWindow n) s = .next (s.newWindow n) from rfl, State.newWindow_eq, h, Option.elim_some]
end Window

-- Levels, clamps and program times (R210, R261, R262)

section Level
variable {s : State} {n : Nat}
theorem State.targetLevel_of_empty (h : s.clusterTeams n = []) : s.targetLevel n = 0 := if_pos (List.isEmpty_iff.2 h)
theorem State.targetLevel_of_teams (h : s.clusterTeams n ≠ []) : s.targetLevel n =
    min (s.requested n) (min (min (s.partOfCluster n).ceil (s.partOfCluster n).mceil) (min (s.cluster n).thermal (s.cluster n).slack)) := if_neg (mt List.isEmpty_iff.1 h)
end Level

theorem State.tget_rebase {s : State} {p : Nat} {k : GangKey} {g : Gang} (h : tget s.gangs k = some g) :
    tget (s.rebase p).gangs k = some (if (s.team k.team).ctx.part = p then { g with pt := g.pt - s.rebaseBy p } else g) := by
  rw [show (s.rebase p).gangs = tmap s.gangs (fun j _ => (s.team j.team).ctx.part = p) fun g => { g with pt := g.pt - s.rebaseBy p } from rfl, tget_tmap, h]
  simp

-- Zhoina (R302)

theorem State.part_clampAll (s : State) (level : Nat) {q : Nat} (h : q < 12) : (s.clampAll level).part q = { s.part q with mceil := level } := by
  have hfold (ps : List Nat) (s : State) : (ps.foldl (fun s p => s.modPart p fun x => { x with mceil := level }) s).part q =
      if q ∈ ps then { s.part q with mceil := level } else s.part q := by
    induction ps generalizing s with
    | nil => rfl
    | cons p ps ih =>
      rw [List.foldl_cons, ih]
      by_cases hp : q = p
      · simp [hp]
      · simp [hp, s.part_modPart_ne _ hp]
  exact (hfold ..).trans (if_pos (List.mem_range.2 h))
theorem State.clampAll_frame (s : State) (level : Nat) : { s.clampAll level with parts := s.parts } = s := by
  have hfold (ps : List Nat) (s : State) : ∃ parts, ps.foldl (fun s p => s.modPart p fun x => { x with mceil := level }) s = { s with parts := parts } := by
    induction ps generalizing s with
    | nil => exact ⟨s.parts, rfl⟩
    | cons p ps ih => exact ih _
  obtain ⟨parts, h⟩ := hfold (List.range 12) s
  rw [State.clampAll, h]

theorem State.keyWrite_errors (s : State) (kd pa : Nat) (b : Byte) : (s.keyWrite kd pa b).pkg.errors = s.pkg.errors := by
  obtain ⟨m, l, h⟩ := s.keyWrite_frame kd pa b
  rw [h]
section Log
variable (s : State) (part pa cls unit unitId : Nat) (ctx : Option Nat) (detail : Nat)
/-- What a log's record and its count leave alone. -/
theorem State.logTo_keeps {β : Type} (g : State → β) (hw : ∀ s kd pa b, g (State.keyWrite s kd pa b) = g s) (hp : ∀ s n f, g (State.modPart s n f) = g s) :
    g (s.logTo part pa cls unit unitId ctx detail) = g (s.modPkg fun k => { k with errors := tset k.errors part (tgetD k.errors part 0 + 1) }) := by
  unfold State.logTo
  dsimp only
  split
  · rfl
  · rw [hp, apply_ite g, State.keyWriteBytes_keeps g hw, ite_self]
theorem State.gangs_logTo : (s.logTo part pa cls unit unitId ctx detail).gangs = s.gangs :=
  s.logTo_keeps part pa cls unit unitId ctx detail State.gangs State.keyWrite_gangs fun _ _ _ => rfl
theorem State.errors_logTo : (s.logTo part pa cls unit unitId ctx detail).pkg.errors = tset s.pkg.errors part (tgetD s.pkg.errors part 0 + 1) :=
  s.logTo_keeps part pa cls unit unitId ctx detail (fun t => t.pkg.errors) State.keyWrite_errors fun _ _ _ => rfl
end Log
/-- The records that every partition's log gains before power goes. -/
def State.logFatal (s : State) : State := (List.range 12).foldl (fun s p => s.logTo p 0 0x05 0x0C 0 none 0) s
theorem State.errors_logFatal (s : State) {q : Nat} (h : q < 12) : tgetD s.logFatal.pkg.errors q 0 = tgetD s.pkg.errors q 0 + 1 := by
  have hfold (ps : List Nat) (s : State) : tgetD (ps.foldl (fun s p => s.logTo p 0 0x05 0x0C 0 none 0) s).pkg.errors q 0 = tgetD s.pkg.errors q 0 + ps.count q := by
    induction ps generalizing s with
    | nil => rfl
    | cons p ps ih =>
      rw [List.foldl_cons, ih, State.errors_logTo, List.count_cons]
      by_cases hp : q = p
      · subst hp
        simp only [tgetD_tset_self, beq_self_eq_true, if_true]
        omega
      · simp [tgetD_tset_ne _ _ _ hp, Ne.symm hp]
  rw [State.logFatal, hfold, List.count_eq_one_of_mem List.nodup_range (List.mem_range.2 h)]
theorem State.gangs_logFatal (s : State) : s.logFatal.gangs = s.gangs := foldl_keeps State.gangs (fun t p => t.gangs_logTo p 0 0x05 0x0C 0 none 0) _ s
def State.withoutPower (s : State) : State := s.modPkg fun p => { p with powered := false }
theorem State.powered_withoutPower (s : State) : s.withoutPower.pkg.powered = false := rfl
theorem State.errors_withoutPower (s : State) : s.withoutPower.pkg.errors = s.pkg.errors := rfl
theorem State.gangs_withoutPower (s : State) : s.withoutPower.gangs = s.gangs := rfl
theorem exec_coolantFatal (s : State) : exec .coolantFatal s = .next s.logFatal.withoutPower := rfl
theorem step_of_unpowered {s : State} (h : s.pkg.powered = false) : step s = .fault .powerOff := if_pos (by rw [h]; rfl)

/-- Settles O50: a power request is granted or answered 0, a window and LEAVE_GRANT grant the request they name, levels and clamps move as R261 and R262 say, and the coolant's events act on every
partition. -/
theorem powerRequestsAndSteps : Obligations.PowerRequestsAndSteps := by
  refine ⟨fun s s1 x g => ⟨fun a h => ⟨fun ⟨hl, hu, hi⟩ => issueWord_done h (pwrreqEffect_grants hl hu hi), fun hn => issueWord_done h (pwrreqEffect_refuses hn)⟩,
      fun la d h => issueWord_done h rfl, fun o h => issueWord_done h (perflvlEffect_eq o x s1)⟩,
    fun s => ⟨fun n => ⟨exec_weighbridgeWindow_none, fun k o units since => exec_weighbridgeWindow_grants⟩, fun n k o u since => exec_leaveGrant_grants,
      fun n => exec_leaveGrant_none, fun k units since => ?grant, fun n => ?level, fun r => ?sweep, fun p => ⟨_, rfl, s.rebase_mem p, fun k g => State.tget_rebase⟩,
      ⟨_, rfl, fun p => s.part_clampAll 1, s.clampAll_frame 1⟩, ⟨_, rfl, fun p => s.part_clampAll 7, s.clampAll_frame 7⟩,
      ?fatal⟩⟩
  case grant => exact ⟨congrArg Gang.leave (s.gang_grant k units since), s.charge_grant k units since, congrArg Gang.resLeft (s.gang_grant k units since)⟩
  case level =>
    have hc : (s.setCluster n { s.cluster n with level := s.targetLevel n }).cluster n = { s.cluster n with level := s.targetLevel n } := State.cluster_setCluster ..
    exact ⟨_, rfl, rfl, fun m => s.cluster_setCluster_ne _, (congrArg Cluster.charge hc :), (congrArg Cluster.thermal hc :), (congrArg Cluster.slack hc :),
      fun h => (congrArg Cluster.level hc).trans (State.targetLevel_of_empty h), fun h => (congrArg Cluster.level hc).trans (State.targetLevel_of_teams h)⟩
  case sweep =>
    exact ⟨_, rfl, rfl, congrArg Cluster.thermal (s.cluster_setCluster r.cluster _), fun m => s.cluster_setCluster_ne _, rfl, rfl⟩
  case fatal =>
    have hp := s.logFatal.powered_withoutPower
    refine ⟨_, exec_coolantFatal s, hp, fun p h => ?_, ?_, step_of_unpowered hp⟩
    · rw [State.errors_withoutPower, s.errors_logFatal h]
    · rw [State.gangs_withoutPower, s.gangs_logFatal]

end Sys2Proof.Machine
end

section
/-! PROOFS. Selection and co-issue (R49, R50, R256 to R258), starvation (R52), translation walks (R12, R273), the replicas of stores (R211) and the ticks of program time (R208, R210) (O51). What
rule 6's gang number is, what a passed-over slot counts, and the amount of a rebase are the model's choices (log 117, log 64, log 14). -/
namespace Sys2Proof.Machine

-- The order of selection (R256)

theorem insertBy_perm {α : Type} (le : α → α → Bool) (x : α) (l : List α) : (insertBy le x l).Perm (x :: l) := by
  induction l with
  | nil => rfl
  | cons y l ih =>
    rw [insertBy]
    split
    · rfl
    · exact (ih.cons y).trans (.swap x y l)
theorem sortBy_perm {α : Type} (le : α → α → Bool) (l : List α) : (sortBy le l).Perm l := by
  induction l with
  | nil => rfl
  | cons x l ih => exact (insertBy_perm le x _).trans (ih.cons x)
theorem State.mem_of_pick {s : State} {steer : Bool} {ks : List GangKey} {k : GangKey} (h : s.pick steer ks = some k) : k ∈ ks :=
  (sortBy_perm ..).mem_iff.1 (List.mem_of_head? h)
theorem State.clauseReady_of_mem_readyOn {s : State} {core bench : Nat} {k : GangKey} (h : k ∈ s.readyOn core bench) : s.clauseReady k = true := by
  obtain ⟨e, he, rfl⟩ := List.mem_map.1 h
  exact (Bool.and_eq_true_iff.1 (List.mem_filter.1 he).2).2

section Rules
variable {sel r : Bool} {rest : Prop}
/-- A rule by which the gang goes first that has the mark p and not the mark q; where it does not decide, the rules after it do. -/
theorem first_decides {p q : Bool} (hs : sel = if p = q then r else p) (h : sel = r → rest) :
    (p = true → q = false → sel = true) ∧ (p = false → q = true → sel = false) ∧ (p = q → rest) := by
  refine ⟨?_, ?_, fun hpq => h (hs.trans (if_pos hpq))⟩ <;> rintro rfl rfl <;> exact hs
/-- A rule by which the lesser figure goes first. -/
theorem less_decides {m n : Nat} (hs : sel = if m = n then r else decide (m < n)) : (m < n → sel = true) ∧ (n < m → sel = false) := by
  refine ⟨fun h => ?_, fun h => ?_⟩
  · rw [hs, if_neg h.ne, decide_eq_true h]
  · rw [hs, if_neg h.ne', decide_eq_false h.not_gt]
theorem less_eq_first (m n : Nat) (r : Bool) :
    (if m = n then r else decide (m < n)) = if decide (m < n) = decide (n < m) then r else decide (m < n) := by
  refine if_congr ?_ rfl rfl
  rw [decide_eq_decide]
  omega
end Rules

-- Co-issue (R50)

section Partners
variable (s : State) (eng : Nat) (ks : List GangKey)
/-- The gangs that may join the chosen ones in their slot: narrow, of one ENG, on lane quarters that are free. -/
def State.fits (chosen : List GangKey) : List GangKey :=
  ks.filter fun j => !chosen.contains j && (s.gang j).width ≤ 16 && s.clauseEng j = eng && (s.gang j).quarters.all fun q => chosen.all fun i => !(s.gang i).quarters.contains q
variable {s eng ks}
theorem State.mem_fits {chosen : List GangKey} {j : GangKey} (h : j ∈ s.fits eng ks chosen) :
    j ∈ ks ∧ j ∉ chosen ∧ (s.gang j).width ≤ 16 ∧ s.clauseEng j = eng ∧ ∀ i ∈ chosen, ∀ q ∈ (s.gang i).quarters, q ∉ (s.gang j).quarters := by
  obtain ⟨hk, hf⟩ := List.mem_filter.1 h
  simp only [Bool.and_eq_true, Bool.not_eq_true', List.contains_eq_mem, decide_eq_true_eq, decide_eq_false_iff_not, List.all_eq_true] at hf
  obtain ⟨⟨⟨hc, hw⟩, he⟩, hq⟩ := hf
  exact ⟨hk, hc, hw, he, fun i hi q hqi hqj => hq q hqj i hi hqi⟩

variable (s eng ks)
/-- The partners that join the chosen gangs. -/
def State.joining (steer : Bool) (chosen : List GangKey) (fuel : Nat) : List GangKey :=
  s.partners steer eng (ks.filter fun x => !chosen.contains x) (chosen.flatMap fun i => (s.gang i).quarters) fuel
theorem State.joining_succ (steer : Bool) (chosen : List GangKey) (fuel : Nat) : s.joining eng ks steer chosen (fuel + 1) =
    (s.pick steer (s.fits eng ks chosen)).elim [] fun j => j :: s.joining eng ks steer (chosen ++ [j]) fuel := by
  have hfits : (ks.filter fun x => !chosen.contains x).filter (fun k => (s.gang k).width ≤ 16 && s.clauseEng k = eng &&
      ((s.gang k).quarters.all fun q => !(chosen.flatMap fun i => (s.gang i).quarters).contains q)) = s.fits eng ks chosen := by
    rw [List.filter_filter, State.fits]
    refine List.filter_congr fun j _ => Bool.eq_iff_iff.2 ?_
    simp only [Bool.and_eq_true, Bool.not_eq_true', List.contains_eq_mem, decide_eq_true_eq, decide_eq_false_iff_not, List.all_eq_true, List.mem_flatMap, not_exists, not_and]
    tauto
  have hrest (j : GangKey) : (ks.filter fun x => !chosen.contains x).filter (fun x => x ≠ j) = ks.filter fun x => !(chosen ++ [j]).contains x := by
    rw [List.filter_filter]
    refine List.filter_congr fun x _ => Bool.eq_iff_iff.2 ?_
    simp only [Bool.and_eq_true, Bool.not_eq_true', List.contains_eq_mem, decide_eq_true_eq, decide_eq_false_iff_not, List.mem_append, List.mem_singleton]
    tauto
  rw [State.joining, State.partners, hfits]
  cases s.pick steer (s.fits eng ks chosen) with
  | none => rfl
  | some j => simp only [Option.elim_some, State.joining, hrest, List.flatMap_append, List.flatMap_singleton]
/-- Each partner is the one that R256's order picks among those that fit the gangs before it, until the fuel is used or none fits. -/
theorem State.joining_spec (steer : Bool) (fuel : Nat) : ∀ chosen, (s.joining eng ks steer chosen fuel).length ≤ fuel ∧
    (∀ before j after, s.joining eng ks steer chosen fuel = before ++ j :: after → s.pick steer (s.fits eng ks (chosen ++ before)) = some j) ∧
    ((s.joining eng ks steer chosen fuel).length < fuel → s.pick steer (s.fits eng ks (chosen ++ s.joining eng ks steer chosen fuel)) = none) := by
  induction fuel with
  | zero => exact fun chosen => ⟨le_rfl, fun before j after h => absurd h.symm (List.append_ne_nil_of_right_ne_nil before (List.cons_ne_nil j after)), fun h => absurd h (lt_irrefl _)⟩
  | succ fuel ih =>
    intro chosen
    rw [State.joining_succ]
    cases hp : s.pick steer (s.fits eng ks chosen) with
    | none =>
      exact ⟨Nat.zero_le _, fun before j after h => absurd h.symm (List.append_ne_nil_of_right_ne_nil before (List.cons_ne_nil j after)), fun _ => by rwa [Option.elim_none, List.append_nil]⟩
    | some i =>
      obtain ⟨hlen, hpick, hend⟩ := ih (chosen ++ [i])
      rw [List.append_assoc] at hend
      refine ⟨Nat.succ_le_succ hlen, fun before j after h => ?_, fun h => hend (Nat.lt_of_succ_lt_succ h)⟩
      obtain ⟨rfl, heq⟩ | ⟨before, rfl, heq⟩ := List.cons_eq_append_iff.1 h
      · obtain ⟨rfl, _⟩ := List.cons.inj heq
        rwa [List.append_nil]
      · have hj := hpick before j after heq
        rwa [List.append_assoc] at hj
end Partners

theorem pairwise_of_split {α : Type} {R : α → α → Prop} {l : List α} (h : ∀ before j after, l = before ++ j :: after → ∀ i ∈ before, R i j) : l.Pairwise R := by
  induction l using List.reverseRecOn with
  | nil => exact .nil
  | append_singleton l j ih =>
    refine List.pairwise_append.2 ⟨ih fun before i after hl => h before i (after ++ [j]) (by simp [hl]), List.pairwise_singleton .., fun i hi m hm => ?_⟩
    rw [List.mem_singleton.1 hm]
    exact h l j [] rfl i hi

-- ISSUE_SELECT (R49, R256)

/-- The gangs among which a free slot's gang is chosen: the clause-ready ones that the throttle lets through (R258). -/
def State.choosable (t : State) (core bench : Nat) : List GangKey := (t.readyOn core bench).filter fun k => !t.throttled core (t.clauseEng k)
/-- The partners of the gang k that a free slot takes first. -/
def State.partnersOf (t : State) (core bench : Nat) (k : GangKey) : List GangKey := t.joining (t.clauseEng k) (t.choosable core bench) (t.steering core) [k] 3
theorem State.partnersOf_eq (t : State) (core bench : Nat) (k : GangKey) : t.partnersOf core bench k =
    t.partners (t.steering core) (t.clauseEng k) ((t.choosable core bench).filter fun x => x ≠ k) (t.gang k).quarters 3 := by
  simp only [State.partnersOf, State.joining, List.contains_eq_mem, List.mem_singleton, List.flatMap_singleton, decide_not]
theorem State.partnersOf_fit {t : State} {core bench : Nat} {k j : GangKey} {before after : List GangKey} (h : t.partnersOf core bench k = before ++ j :: after) :
    j ∈ t.fits (t.clauseEng k) (t.choosable core bench) (k :: before) :=
  State.mem_of_pick ((t.joining_spec _ _ _ 3 [k]).2.1 before j after h)
theorem State.mem_partnersOf {t : State} {core bench : Nat} {k j : GangKey} (h : j ∈ t.partnersOf core bench k) :
    j ∈ t.choosable core bench ∧ j ≠ k ∧ (t.gang j).width ≤ 16 ∧ t.clauseEng j = t.clauseEng k := by
  obtain ⟨before, after, hl⟩ := List.append_of_mem h
  obtain ⟨hk, hc, hw, he, -⟩ := State.mem_fits (State.partnersOf_fit hl)
  exact ⟨hk, fun hjk => hc (hjk ▸ List.mem_cons_self), hw, he⟩
/-- Gangs that share a slot share no lane quarter (R50). -/
theorem State.partnersOf_disjoint (t : State) (core bench : Nat) (k : GangKey) :
    (k :: t.partnersOf core bench k).Pairwise fun i j => ∀ q ∈ (t.gang i).quarters, q ∉ (t.gang j).quarters := by
  refine pairwise_of_split fun before j after hl i hi => ?_
  obtain ⟨rfl, _⟩ | ⟨chosen, rfl, hrest⟩ := List.cons_eq_append_iff.1 hl
  · cases hi
  · obtain ⟨-, -, -, -, hq⟩ := State.mem_fits (State.partnersOf_fit hrest)
    exact hq i hi

section Select
variable {s t : State} {core bench : Nat} (ht : s.noteReady core = t)
include ht
theorem exec_issueSelect_taken (h : (t.bench core bench).slot ≠ []) : exec (.issueSelect core bench) s = .next t := by
  subst ht
  exact if_pos h
variable (h : (t.bench core bench).slot = [])
include h
theorem exec_issueSelect_none (hk : t.choosable core bench = []) : exec (.issueSelect core bench) s = .next t := by
  subst ht
  refine (if_neg (not_not.2 h)).trans ?_
  dsimp only
  rw [show ((s.noteReady core).readyOn core bench).filter _ = (s.noteReady core).choosable core bench from rfl, hk]
  rfl
variable {k : GangKey} (hk : t.pick false (t.choosable core bench) = some k)
include hk
theorem exec_issueSelect_picks {more : List GangKey} (hm : more = if (t.gang k).width ≤ 16 then t.partnersOf core bench k else []) : exec (.issueSelect core bench) s =
    .next ((k :: more).foldl (fun u j => u.enterSlot core bench j) (if (t.gang k).preempted then t else t.passOver (t.readyOn core bench) (k :: more))) := by
  subst ht
  refine (if_neg (not_not.2 h)).trans ?_
  dsimp only
  rw [show ((s.noteReady core).readyOn core bench).filter _ = (s.noteReady core).choosable core bench from rfl, hk]
  dsimp only
  rw [← State.partnersOf_eq, ← hm]
  cases ((s.noteReady core).gang k).preempted <;> rfl
theorem exec_issueSelect_wide (hw : 16 < (t.gang k).width) : exec (.issueSelect core bench) s =
    .next ((if (t.gang k).preempted then t else t.passOver (t.readyOn core bench) [k]).enterSlot core bench k) :=
  exec_issueSelect_picks ht h hk (if_neg (Nat.not_le.2 hw)).symm
theorem exec_issueSelect_narrow (hw : (t.gang k).width ≤ 16) : exec (.issueSelect core bench) s =
    .next ((k :: t.partnersOf core bench k).foldl (fun u j => u.enterSlot core bench j)
      (if (t.gang k).preempted then t else t.passOver (t.readyOn core bench) (k :: t.partnersOf core bench k))) :=
  exec_issueSelect_picks ht h hk (if_pos hw).symm
end Select

-- Starvation and program time (R52, R208)

section Tick
variable {s : State} {k : GangKey} {g : Gang} (hg : tget s.gangs k = some g)
include hg
theorem exec_gangStarved : exec (.gangStarved k) s = if 48 ≤ g.passed then .next (s.modGang k fun x => { x with starved := true }) else .next s := by
  rw [show exec (.gangStarved k) s = execGangStarved k s from rfl, execGangStarved, hg]
  simp only [Option.any_some, ge_iff_le, decide_eq_true_eq]
theorem exec_programTimeTick : exec (.programTimeTick k) s =
    .next (((s.setGang k { g with pt := g.pt + 1 }).modPart (s.partOf k) fun p => { p with top := max p.top (g.pt + 1) }).timeRoom (s.partOf k)) := by
  rw [show exec (.programTimeTick k) s = execProgramTimeTick k s from rfl, execProgramTimeTick, hg]
  rfl
end Tick

-- Translations kept by a walk (R12, R273)

theorem State.cores_askTables (s : State) (c : CtxKey) (va : Nat) : (s.askTables c va).cores = s.cores := by
  refine foldl_keeps State.cores (fun t a => ?_) _ s
  unfold State.sendRemote
  split <;> rfl
section Walk
variable {s : State} {core : Nat} {c : CtxKey} {va : Nat}
theorem exec_translationWalk_owned (h : (s.part c.part).ownsCore core = true) : exec (.translationWalk core c va) s = .next (s.fillTlb core c va) :=
  congrArg Host.Outcome.next (if_pos h)
theorem exec_translationWalk_foreign (h : (s.part c.part).ownsCore core = false) : exec (.translationWalk core c va) s = .next s :=
  congrArg Host.Outcome.next (if_neg (by rw [h]; decide))
theorem State.fillTlb_error {f : MFault} (h : s.lookup (some core) c va = .error f) : s.fillTlb core c va = s := by rw [State.fillTlb, h]
theorem exec_translationWalk_error {f : MFault} (h : s.lookup (some core) c va = .error f) : exec (.translationWalk core c va) s = .next s :=
  congrArg Host.Outcome.next ((congrArg (ite _ · s) (State.fillTlb_error h)).trans (ite_self s))
section Kept
variable {l : Leaf} (h : s.lookup (some core) c va = .ok l)
include h
theorem State.fillTlb_ok : s.fillTlb core c va = if l ∈ tgetD (s.core core).tlb (tlbKey c) [] then s else
    (s.askTables c va).modCore core fun k => { k with tlb := tset k.tlb (tlbKey c) (l :: tgetD (s.core core).tlb (tlbKey c) []) } := by
  rw [State.fillTlb, h]
  simp only [List.contains_iff_mem]
theorem State.mem_tlb_fillTlb : l ∈ tgetD ((s.fillTlb core c va).core core).tlb (tlbKey c) [] := by
  rw [State.fillTlb_ok h]
  split
  · assumption
  · simp
theorem State.core_fillTlb_ne {d : Nat} (hd : d ≠ core) : (s.fillTlb core c va).core d = s.core d := by
  rw [State.fillTlb_ok h]
  split
  · rfl
  · rw [State.core_modCore_ne _ _ hd, State.core, State.cores_askTables, ← State.core]
end Kept
end Walk

-- The stores that a replica lacks (R211)

/-- The replica of the die lacks the store, which covers the address. -/
def Lag.lacks (die addr : Nat) (l : Lag) : Prop := die ∈ l.dies ∧ l.addr ≤ addr ∧ addr < l.addr + l.olds.length
section Replica
variable {die addr : Nat} {e : Lag}
theorem Lag.lacks_iff : e.lacks die addr ↔ (e.dies.contains die && e.addr ≤ addr && addr < e.addr + e.olds.length) = true := by
  simp only [Lag.lacks, Bool.and_eq_true, decide_eq_true_eq, List.contains_iff_mem, and_assoc]
theorem dropLag_lacking (h : e.lacks die addr) (after : List Lag) : dropLag die addr (e :: after) =
    (if e.dies.filter (fun d => d ≠ die) = [] then [] else [{ e with dies := e.dies.filter fun d => d ≠ die }]) ++ after := by
  rw [dropLag, if_pos (Lag.lacks_iff.1 h)]
  cases e.dies.filter (fun d => d ≠ die) <;> rfl
theorem dropLag_append {before : List Lag} (h : ∀ b ∈ before, ¬b.lacks die addr) (es : List Lag) : dropLag die addr (before ++ es) = before ++ dropLag die addr es := by
  induction before with
  | nil => rfl
  | cons b before ih =>
    rw [List.cons_append, dropLag, if_neg (mt Lag.lacks_iff.2 (h b List.mem_cons_self)), ih fun c hc => h c (List.mem_cons_of_mem b hc)]
    rfl
end Replica

/-- Settles O51: a free slot takes the gang that R256's order picks, a narrow one with its partners; a gang passed over 48 times is starved, a walk keeps its translation, the oldest store reaches a
replica, and a program time rises by 1. -/
theorem coreEventsAct : Obligations.CoreEventsAct := by
  refine ⟨fun s core bench => ⟨exec_issueSelect_taken rfl, exec_issueSelect_none rfl, fun k hf hk => exec_issueSelect_wide rfl hf hk, fun k hf hk hw => ?narrow,
      fun k => State.mem_of_pick, fun k => State.clauseReady_of_mem_readyOn⟩,
    fun s a b => first_decides rfl fun hs => first_decides hs fun hs hx => ?order, fun s k g hg => ⟨fun hp => ?starved, fun hp => (exec_gangStarved hg).trans (if_neg (Nat.not_le.2 hp)), ?tick⟩,
    fun s p => ⟨fun hp => if_neg (Nat.not_le.2 hp), fun hp => if_pos hp⟩,
    fun s core c va => ⟨exec_translationWalk_foreign, fun f => exec_translationWalk_error, fun l ho hl => ?walk⟩, fun s die addr before after e hl he hb => ?replica⟩
  case narrow =>
    obtain ⟨hlen, hpick, hend⟩ := (s.noteReady core).joining_spec _ ((s.noteReady core).choosable core bench) _ 3 [k]
    exact ⟨_, exec_issueSelect_narrow rfl hf hk hw, hlen, fun j => State.mem_partnersOf, State.partnersOf_disjoint .., hpick, hend⟩
  case order =>
    rw [hx] at hs
    exact first_decides (hs.trans (less_eq_first ..)) fun hs => first_decides hs fun hs => less_decides hs
  case starved =>
    exact ⟨_, (exec_gangStarved hg).trans (if_pos hp), by rw [State.gang_modGang, State.gang_of_tget hg], fun j hj => s.gang_modGang_ne _ hj, rfl⟩
  case tick =>
    exact ⟨_, exec_programTimeTick hg, by simp, fun j hj => s.gang_setGang_ne _ hj, by simp, rfl⟩
  case walk =>
    have hc := s.caches_fillTlb core c va
    exact ⟨_, exec_translationWalk_owned ho, s.fillTlb_mem .., (congrArg State.gangs hc.rest :), State.mem_tlb_fillTlb hl, fun d => State.core_fillTlb_ne hl, hc.scratch core⟩
  case replica =>
    rw [show exec (.replicaPropagation die addr) s = .next { s with lags := dropLag die addr s.lags } from rfl, hl, dropLag_append hb, dropLag_lacking he, List.append_assoc]

end Sys2Proof.Machine
end

section
/-! PROOFS. Taking a trap (R119, R265, R282, R441) and the entry into the handler (R269 to R271) (O43). That a handler header with V = 0 is a double fault at once, and that a trap which still waits
goes below the one that enters, are the model's readings (log 123, log 126). -/
namespace Sys2Proof.Machine

-- Taking a trap (R119, R265)

section TakeTrap
variable {s : State} {k : GangKey} {i : TrapInfo}
theorem State.takeTrap_enters (h : (((s.leaveSlot k).recordTrap k i).gang k).trapReady = true) : s.takeTrap k i = ((s.leaveSlot k).recordTrap k i).enterTrap k i := if_pos h
theorem State.takeTrap_waits (h : (((s.leaveSlot k).recordTrap k i).gang k).trapReady = false) :
    s.takeTrap k i = ((s.leaveSlot k).recordTrap k i).modGang k fun g => { g with pendingTrap := some i } := if_neg (by simp [h])
/-- No record is due to a cause other than DATA_UNCORRECTABLE and SPILL_FAULT without a replay slot (R282, R441). -/
theorem State.recordTrap_none (hbad : i.cause ≠ 0x60#8) (hspill : i.cause ≠ 0x21#8) (hr : i.replay = none) : s.recordTrap k i = s := by
  have hq : s.recordQuery (s.team k.team).ctx i = s := by rw [State.recordQuery, hr]
  simp only [State.recordTrap, hq]
  exact if_neg (by simp [hbad, hspill])
end TakeTrap

-- Entering the handler (R269, R270)

/-- The handler's offset from the gang's code base. -/
def State.handlerOff (s : State) (k : GangKey) : Nat := ((s.ctx (s.team k.team).ctx).handler + 2 ^ 64 - (s.launchOf k).codeBase) % 2 ^ 64
/-- The gang in its handler; WATCHDOG alone starts the grace period (R269, R276). -/
def Gang.inHandler (g : Gang) (i : TrapInfo) (pathId hdr grace : Nat) : Gang :=
  { g.enterHandler i pathId hdr with watch := if i.cause = 0x48 then .grace grace else g.watch }
/-- The gang in its handler, before the lanes' addresses are written. -/
def State.entered (s : State) (k : GangKey) (i : TrapInfo) : State :=
  let u := ((s.modGang k fun g => g.enterHandler i s.seq (s.handlerOff k)).bump).leaveSlot k
  if i.cause = 0x48 then u.modGang k fun g => { g with watch := .grace (s.ctx (s.team k.team).ctx).wdgrace.toNat } else u

section Enter
variable {s : State} {k : GangKey} {i : TrapInfo}
theorem State.canEnter_iff {hdr : Nat} : s.canEnter k hdr = true ↔
    (s.gang k).traps.length < 4 ∧ (s.gang k).depth < 65535 ∧ s.reserveOk k 34 = true ∧ s.landing k hdr = true := by
  simp only [State.canEnter, Bool.and_eq_true, decide_eq_true_eq, and_assoc]
theorem State.enterTrap_double (h : s.canEnter k (s.handlerOff k) ≠ true) : s.enterTrap k i = s.teardown (s.team k.team).ctx :=
  if_pos ((Bool.not_eq_true' _).mpr (Bool.eq_false_of_not_eq_true h))
section Enters
variable (h : s.canEnter k (s.handlerOff k) = true)
include h
theorem State.enterTrap_enters (hv : (s.launchOf k).vtop ≠ 127) : s.enterTrap k i = s.entered k i :=
  (if_neg (by simpa [State.handlerOff] using h)).trans (if_pos hv)
theorem State.enterTrap_addrs (hv : (s.launchOf k).vtop = 127) : s.enterTrap k i =
    match (s.entered k i).take k (granuleOf (((s.entered k i).gang k).place 126)) with
    | .ok v => v.modGang k fun a => a.writeTrapAddrs i.addrs
    | _ => s.teardown (s.team k.team).ctx :=
  (if_neg (by simpa [State.handlerOff] using h)).trans (if_neg (not_not_intro hv))
end Enters
variable (s k i)
theorem State.gang_entered : (s.entered k i).gang k = (s.gang k).inHandler i s.seq (s.handlerOff k) (s.ctx (s.team k.team).ctx).wdgrace.toNat := by
  rw [State.entered, Gang.inHandler]
  split <;> simp only [State.gang_modGang, State.gang_leaveSlot, State.gang_bump]
  rfl
theorem State.gang_entered_ne {j : GangKey} (h : j ≠ k) : (s.entered k i).gang j = s.gang j := by
  rw [State.entered]
  split
  · rw [State.gang_modGang_ne _ _ h, State.gang_leaveSlot, State.gang_bump, State.gang_modGang_ne _ _ h]
  · rw [State.gang_leaveSlot, State.gang_bump, State.gang_modGang_ne _ _ h]
theorem State.mem_entered : (s.entered k i).mem = s.mem := by rw [State.entered]; split <;> rfl
theorem State.cores_entered : (s.entered k i).cores = s.cores := by rw [State.entered]; split <;> rfl
end Enter

/-- Settles O43: a trap is recorded, then it enters or waits; entry pushes the trap state and the slide-4 frame onto the gang and leaves its registers, or is a double fault. -/
theorem trapEntrySavesAndEnters : Obligations.TrapEntrySavesAndEnters := by
  refine ⟨fun s x c => rfl, fun s k i => ⟨State.takeTrap_enters, State.takeTrap_waits, State.recordTrap_none⟩, fun s k i => ⟨fun h hv => ?enters, fun h hv => ?addrs, fun h => ?double⟩⟩
  case enters =>
    rw [State.enterTrap_enters h hv]
    refine (s.gang_entered k i).symm ▸ ⟨rfl, rfl, ⟨_, rfl, rfl, rfl, rfl, rfl, rfl, rfl, rfl, rfl, rfl, rfl, rfl, rfl, rfl⟩, ⟨_, rfl, rfl, rfl, rfl, rfl⟩, ⟨_, rfl, rfl, rfl, rfl⟩, rfl,
      fun hw => if_pos hw, rfl, rfl, rfl, rfl, rfl, s.mem_entered k i, s.cores_entered k i, fun j hj => s.gang_entered_ne k i hj⟩
  case addrs =>
    exact ⟨s.entered k i, congrArg Gang.handlerMode (s.gang_entered k i), (congrArg Gang.vregs (s.gang_entered k i) :), State.enterTrap_addrs h hv⟩
  case double =>
    refine State.enterTrap_double fun hc => ?_
    obtain ⟨htraps, hdepth, hstack, hland⟩ := State.canEnter_iff.1 hc
    obtain hn | hn | hn | hn := h
    · exact Nat.not_le.2 htraps hn
    · exact Nat.not_le.2 hdepth hn
    · exact Bool.false_ne_true (hn.symm.trans hstack)
    · exact Bool.false_ne_true (hn.symm.trans hland)

end Sys2Proof.Machine
end

section
/-! PROOFS. Dies fenced, dropped and reset (R26, R281), and hardware errors, counted, logged, contained or fatal (R174, R226, R282) (O60). Which operation and job meet an error in SRAM is the model's
choice (log 54). -/
namespace Sys2Proof.Machine

-- Dies (R26, R281)

section Die
variable {s : State} {d : Nat}
theorem exec_dieFence (h : d < 24) : exec (.dieFence d) s = .next (s.fence d) := if_pos h
theorem State.fence_again (h : s.pkg.fenced.contains d = true) : s.fence d = s := if_pos h
/-- The die as its teams, its L1s and its flits have gone. -/
theorem State.fence_anew (h : s.pkg.fenced.contains d = false) : s.fence d =
    State.wakeSenders { (s.clearDie d).modPkg fun p => { p with fenced := d :: p.fenced } with transit := (s.clearDie d).transit.filter fun f => dieOf f.core ≠ d } d :=
  if_neg (by rw [h]; exact Bool.false_ne_true)
theorem State.fenced_fence (h : s.pkg.fenced.contains d = false) : (s.fence d).pkg.fenced.contains d = true := by
  rw [State.fence_anew h]
  exact List.contains_iff_mem.2 List.mem_cons_self
theorem State.transit_fence (h : s.pkg.fenced.contains d = false) : ∀ f ∈ (s.fence d).transit, dieOf f.core ≠ d := by
  rw [State.fence_anew h]
  exact fun f hf => by simpa using (List.mem_filter.1 hf).2
theorem exec_dieDrop (h : d < 24) (ha : s.pkg.absent.contains d = false) : exec (.dieDrop d) s = .next ((s.fence d).modPkg fun p => { p with absent := d :: p.absent }) :=
  if_neg (by simpa only [ha, Bool.or_false, decide_eq_true_eq] using Nat.not_le.2 h)
theorem exec_dieDrop_absent (ha : s.pkg.absent.contains d = true) : exec (.dieDrop d) s = .next s := if_pos (by rw [ha, Bool.or_true])
theorem exec_die_none (h : 24 ≤ d) {i : Instr} (hi : i = .dieFence d ∨ i = .dieDrop d ∨ i = .dieReset d) : exec i s = .next s := by
  obtain rfl | rfl | rfl := hi
  · exact if_neg (Nat.not_lt.2 h)
  · exact if_pos (by simp [h])
  · exact if_pos h

variable (s d) in
/-- The fenced die with its cores at reset and its fence lifted. -/
def State.resetDie : State :=
  { s.fence d with
    cores := (s.fence d).cores.filter (fun e => dieOf e.1 ≠ d), benches := (s.fence d).benches.filter (fun e => dieOf e.1.1 ≠ d),
    clusters := (s.fence d).clusters.filter fun e => e.1 / 8 ≠ d,
    pkg := { (s.fence d).pkg with
      fenced := (s.fence d).pkg.fenced.filter (fun x => x ≠ d), fencedTeams := (s.fence d).pkg.fencedTeams.filter fun t => dieOf t.core ≠ d } }
theorem exec_dieReset (h : d < 24) : exec (.dieReset d) s = .next (s.resetDie d) := if_neg (Nat.not_le.2 h)
theorem State.not_fenced_resetDie : (s.resetDie d).pkg.fenced.contains d = false := by simp [State.resetDie]
theorem tget_filter_none {κ ν : Type} [DecidableEq κ] (t : Tbl κ ν) {p : κ × ν → Bool} {k : κ} (h : ∀ v, p (k, v) = false) : tget (t.filter p) k = none := by
  cases hg : tget (t.filter p) k with
  | none => rfl
  | some v => exact absurd (List.mem_filter.1 (mem_of_tget hg)).2 (by simp [h])
theorem State.core_resetDie {c : Nat} (h : dieOf c = d) : (s.resetDie d).core c = Core.initial := by
  rw [State.core, tgetD, State.resetDie, tget_filter_none _ fun v => by simp [h]]
  rfl
theorem State.bench_resetDie {c : Nat} (h : dieOf c = d) (b : Nat) : (s.resetDie d).bench c b = Bench.initial := by
  rw [State.bench, tgetD, State.resetDie, tget_filter_none _ fun v => by simp [h]]
  rfl
theorem State.core_resetDie_ne {c : Nat} (h : dieOf c ≠ d) : (s.resetDie d).core c = (s.fence d).core c := by
  rw [State.core, tgetD, State.resetDie, tget_filter _ fun v => by simp [h]]
  rfl
end Die

-- What a record in the logs leaves (R282)

theorem State.keyWrite_jobs (s : State) (kd pa : Nat) (b : Byte) : (s.keyWrite kd pa b).jobs = s.jobs := by
  obtain ⟨m, l, h⟩ := s.keyWrite_frame kd pa b
  rw [h]
theorem State.keyWrite_pkgid (s : State) (kd pa : Nat) (b : Byte) : (s.keyWrite kd pa b).pkg.pkgid = s.pkg.pkgid := by
  obtain ⟨m, l, h⟩ := s.keyWrite_frame kd pa b
  rw [h]
theorem State.keyWrite_engine (s : State) (kd pa : Nat) (b : Byte) : (fun c => ((s.keyWrite kd pa b).core c).engine) = fun c => (s.core c).engine := by
  funext c
  rw [State.core_keyWrite]
  rfl

section LogError
variable (s : State) (e : HwError) (d : Nat)
theorem State.logError_keeps {β : Type} (g : State → β) (hw : ∀ s kd pa b, g (State.keyWrite s kd pa b) = g s) (hp : ∀ s n f, g (State.modPart s n f) = g s)
    (he : ∀ (s : State) (f : Package → Tbl Nat Nat), g (State.modPkg s fun k => { k with errors := f k }) = g s) : g (s.logError e d) = g s :=
  foldl_keeps g (fun t p => (t.logTo_keeps p _ _ _ _ _ _ g hw hp).trans (he t _)) _ s
theorem State.gangs_logError : (s.logError e d).gangs = s.gangs := s.logError_keeps e d State.gangs State.keyWrite_gangs (fun _ _ _ => rfl) fun _ _ => rfl
theorem State.jobs_logError : (s.logError e d).jobs = s.jobs := s.logError_keeps e d State.jobs State.keyWrite_jobs (fun _ _ _ => rfl) fun _ _ => rfl
theorem State.teams_logError : (s.logError e d).teams = s.teams := s.logError_keeps e d State.teams State.keyWrite_teams (fun _ _ _ => rfl) fun _ _ => rfl
theorem State.pkgid_logError : (s.logError e d).pkg.pkgid = s.pkg.pkgid := s.logError_keeps e d (fun t => t.pkg.pkgid) State.keyWrite_pkgid (fun _ _ _ => rfl) fun _ _ => rfl
theorem State.engine_logError (c : Nat) : ((s.logError e d).core c).engine = (s.core c).engine :=
  congrFun (s.logError_keeps e d (fun t c => (t.core c).engine) State.keyWrite_engine (fun _ _ _ => rfl) fun _ _ => rfl) c
theorem State.errors_logError (h : e.part < 12) : tgetD (s.logError e d).pkg.errors e.part 0 = tgetD s.pkg.errors e.part 0 + 1 := by
  rw [State.logError, errorParts, if_pos h, List.foldl_cons, List.foldl_nil, State.errors_logTo, tgetD_tset_self]
end LogError

-- ERROR_DETECTED (R282)

section Detected
variable {s : State} {e : HwError}
theorem exec_errorDetected_corrected (h : e.cls = 1) : exec (.errorDetected e) s = .next (s.countCorrected e) := if_pos h
theorem exec_errorDetected_contained (h : e.cls = 2) : exec (.errorDetected e) s = .next ((s.logError e e.detail.toNat).contain e) :=
  (if_neg (by rw [h]; decide)).trans (if_pos h)
theorem exec_errorDetected_fatal (h : e.cls = 5) : exec (.errorDetected e) s = .next ((errorParts e).foldl State.stopPart (s.logError e e.detail.toNat)) :=
  (if_neg (by rw [h]; decide)).trans ((if_neg (by rw [h]; decide)).trans (if_pos h))
theorem State.logged_countCorrected : tgetD (s.countCorrected e).pkg.logged (errorUnit e) (0, 0) =
    ((tgetD s.pkg.logged (errorUnit e) (0, 0)).1, (tgetD s.pkg.logged (errorUnit e) (0, 0)).2 + 1) := tgetD_tset_self ..

/-- An uncorrectable word of memory poisons its sector. -/
theorem State.contain_memory (h1 : e.unit ≠ 1) (h2 : e.unit ≠ 2) (hpa : e.pa ≠ 0) (hown : s.ownHbm e.pa.toNat 1 = true) :
    s.contain e = s.modPkg fun p => { p with poisoned := sectorOf e.pa.toNat :: p.poisoned.filter fun x => x ≠ sectorOf e.pa.toNat } :=
  (if_neg h1).trans ((if_neg h2).trans (if_neg (by rw [hown, decide_eq_false hpa]; exact Bool.false_ne_true)))
theorem State.contain_bench (h : e.unit = 1) : s.contain e = (s.benchEcc e.unitId.toNat).jobEcc 1 e.unitId.toNat := if_pos h
theorem State.contain_scratch (h : e.unit = 2) : s.contain e = s.jobEcc 2 e.unitId.toNat := (if_neg (by rw [h]; decide)).trans (if_pos h)
theorem State.ownHbm_logError (d pa n : Nat) : (s.logError e d).ownHbm pa n = s.ownHbm pa n := by rw [State.ownHbm, State.pkgid_logError, State.ownHbm]
end Detected

-- Errors in SRAM (R174, R226) (log 54)

/-- A job's status with DATA_ECC in it. -/
def Job.meetEcc (j : Job) (row : Nat) : Job := if j.errs.any fun e => e.code = 1 then j else { j with errs := j.errs ++ [⟨1, 0, row, 0⟩] }
theorem Job.errs_meetEcc (j : Job) (row : Nat) : ∃ x ∈ (j.meetEcc row).errs, x.code = 1 := by
  rw [Job.meetEcc]
  split
  case isTrue h => simpa using h
  case isFalse => exact ⟨_, List.mem_append_right _ List.mem_cons_self, rfl⟩

section Sram
variable {s : State}
theorem State.jobReads_congr {t : State} (h : t.teams = s.teams) (j : Job) (unit unitId : Nat) : t.jobReads j unit unitId = s.jobReads j unit unitId := by
  simp only [State.jobReads, State.team, h]
theorem State.tget_jobEcc {n unit unitId : Nat} {j : Job} (hj : tget s.jobs n = some j) (hr : s.jobReads j unit unitId = true) :
    ∃ j', tget (s.jobEcc unit unitId).jobs n = some j' ∧ ∃ x ∈ j'.errs, x.code = 1 := by
  refine ⟨j.meetEcc (Config.eccPlace s.freeNext), ?_, j.errs_meetEcc _⟩
  show tget (tmap s.jobs (fun _ j => s.jobReads j unit unitId) (Job.meetEcc · (Config.eccPlace s.freeNext))) n = _
  rw [tget_tmap, hj, Option.map_some, if_pos hr]
/-- The operation that runs on a core's own queue meets the error in the bench that failed. -/
theorem State.running_benchEcc {n : Nat} {o : EngineOp} (hs : (s.core (n / 4)).engine.slaved = false) (hr : (s.core (n / 4)).engine.running = some o) :
    ((s.benchEcc n).core (n / 4)).engine.running = some { o with errs := o.errs ++ [⟨1, n % 4, Config.eccPlace s.freeNext % 16, Config.eccPlace s.freeNext / 16 % 64⟩] } := by
  simp [State.benchEcc, hs, State.modEngine, hr]
variable {e : HwError} (hu : e.unit = 1 ∨ e.unit = 2)
include hu
theorem State.gangs_contain : (s.contain e).gangs = s.gangs := by
  obtain h | h := hu
  · rw [State.contain_bench h]
    rfl
  · rw [State.contain_scratch h]
    rfl
/-- A job that reads there has DATA_ECC in its status. -/
theorem State.tget_jobs_contain {n : Nat} {j : Job} (hj : tget s.jobs n = some j) (hr : s.jobReads j e.unit.toNat e.unitId.toNat = true) :
    ∃ j', tget (s.contain e).jobs n = some j' ∧ ∃ x ∈ j'.errs, x.code = 1 := by
  obtain h | h := hu
  · rw [h] at hr
    rw [State.contain_bench h]
    exact State.tget_jobEcc (s := s.benchEcc e.unitId.toNat) hj ((State.jobReads_congr rfl ..).trans hr)
  · rw [h] at hr
    rw [State.contain_scratch h]
    exact State.tget_jobEcc hj hr
end Sram

-- CORRECTED_ERROR_LOG (R282)

section CorrectedLog
variable {s : State} {e : HwError} {t n : Nat} (h : tgetD s.pkg.logged (errorUnit e) (0, 0) = (t, n))
include h
theorem exec_correctedErrorLog : exec (.correctedErrorLog e) s = if n = 0 ∨ (t ≠ 0 ∧ s.pkg.time < t + 1400000) then .next s else
    .next ((s.logError { e with cls := 1 } n).modPkg fun p => { p with logged := tset p.logged (errorUnit e) (max 1 s.pkg.time, 0) }) := by
  rw [show exec (.correctedErrorLog e) s = execCorrectedErrorLog e s from rfl, execCorrectedErrorLog, h]
  simp only [Bool.or_eq_true, Bool.and_eq_true, decide_eq_true_eq]
end CorrectedLog

/-- Settles O60: a fence, a drop and a reset are what stops on the die with its marks; an error is counted, logged and contained where its unit says, or stops its partitions. -/
theorem dieAndErrorEvents : Obligations.DieAndErrorEvents := by
  intro s
  refine ⟨fun d hd hf => (exec_dieFence hd).trans (by rw [State.fence_again hf]), fun d hd hf => ⟨_, exec_dieFence hd, rfl, State.fenced_fence hf, State.transit_fence hf⟩,
    fun d hd ha => ⟨_, exec_dieDrop hd ha, List.contains_iff_mem.2 List.mem_cons_self, rfl⟩, fun d _ ha => exec_dieDrop_absent ha, fun d hd i hi => exec_die_none hd hi,
    fun d hd => ⟨_, exec_dieReset hd, State.not_fenced_resetDie, fun c hc => ⟨State.core_resetDie hc, State.bench_resetDie hc⟩, fun c hc => State.core_resetDie_ne hc, rfl, rfl⟩,
    fun e hc => ⟨_, exec_errorDetected_corrected hc, State.logged_countCorrected, rfl, rfl⟩,
    fun e hc h1 h2 hpa hown hp => ?memory, fun e hc hu => ?sram, fun e hc => ⟨_, exec_errorDetected_fatal hc, rfl⟩, fun e t n hl => ⟨fun hn ht => ?logs, fun hn => ?waits⟩⟩
  case memory =>
    refine ⟨_, exec_errorDetected_contained hc, ?_⟩
    rw [State.contain_memory h1 h2 hpa ((State.ownHbm_logError ..).trans hown)]
    exact ⟨List.contains_iff_mem.2 List.mem_cons_self, State.errors_logError _ _ _ hp, State.gangs_logError ..⟩
  case sram =>
    refine ⟨_, exec_errorDetected_contained hc, (State.gangs_contain hu).trans (State.gangs_logError ..), fun n j hj hr => ?_, fun o h1 hs hr => ?_⟩
    · exact State.tget_jobs_contain hu (by rw [State.jobs_logError, hj]) ((State.jobReads_congr (State.teams_logError ..) ..).trans hr)
    · rw [← State.engine_logError s e e.detail.toNat] at hs hr
      rw [State.contain_bench h1]
      exact ⟨_, _, State.running_benchEcc hs hr⟩
  case logs =>
    refine ⟨_, (exec_correctedErrorLog hl).trans (if_neg ?_), rfl, tgetD_tset_self .., State.gangs_logError ..⟩
    omega
  case waits => exact (exec_correctedErrorLog hl).trans (if_pos hn)

end Sys2Proof.Machine
end

section
/-! PROOFS. BRA and BRA.S (R56 to R60, R270, R318) and BRX (R70, R320) (O34). That TADDR is the bad target's address at a BRA and a BRX is the model's choice (log 55), and so is what a split waits for
within the spawn memory (log 60). -/
namespace Sys2Proof.Machine

-- BRA (R270, R318)

/-- The lanes outside the guard, which go on to the next clause. -/
def Issue.fall (x : Issue) : Mask := x.live &&& ~~~x.active
/-- The lanes that a split sends away: the smaller side, the taken one on a tie (R58). -/
def Issue.smaller (x : Issue) : Mask := if popcount x.active ≤ popcount x.fall then x.active else x.fall
/-- Where the departing lanes go, by the taken lanes' target. -/
def Issue.gone (x : Issue) (target : Nat) : Nat := if popcount x.active ≤ popcount x.fall then target else x.path.after
/-- Where the staying lanes go. -/
def Issue.stay (x : Issue) (target : Nat) : Nat := if popcount x.active ≤ popcount x.fall then x.path.after else target

section BraEffect
variable {split : Bool} {off : BitVec 32} {x : Issue} {s : State} (ha : x.active ≠ 0)
include ha
theorem braEffect_badTarget (hb : ¬ (off.toNat % 8 = 0 ∧ s.fetchable x.key (x.target off) = true)) :
    braEffect split off x s = .trap ⟨0x23, 0, some x.live, x.launch.va (x.target off), true⟩ := by
  refine (if_neg ha).trans (if_pos ?_)
  by_cases h8 : off.toNat % 8 = 0
  · simpa [h8] using hb
  · simp [h8]
variable (hg : off.toNat % 8 = 0 ∧ s.fetchable x.key (x.target off) = true)
include hg
theorem braEffect_jumps (hf : x.fall = 0) : braEffect split off x s = .moved (s.jump x.key x.path.id (x.target off)) :=
  (if_neg ha).trans ((if_neg (by simp [hg])).trans (if_pos hf))
variable (hf : x.fall ≠ 0)
include hf
/-- What a diverging BRA's lookups find decides what it does. -/
theorem braEffect_diverges : braEffect split off x s = match s.divergeCheck x [x.target off, x.path.after] none with
    | (_, .fault va f) => tableFault va f
    | (_, .missing) => notSafe
    | (t, .ok rpc) =>
      if split && !x.deepDepart x.smaller then splitEffect x.smaller (x.gone (x.target off)) (x.stay (x.target off)) rpc x t
      else .moved (t.branch x rpc [⟨some x.path.after, x.fall, .ready⟩, ⟨some (x.target off), x.active, .ready⟩]) := by
  refine (if_neg ha).trans ((if_neg (by simp [hg])).trans ((if_neg hf).trans ?_))
  obtain ⟨t, c⟩ := s.divergeCheck x [x.target off, x.path.after] none
  cases c with
  | fault va f => rfl
  | missing => rfl
  | ok rpc =>
    rw [Issue.smaller, Issue.gone, Issue.stay]
    by_cases hc : popcount x.active ≤ popcount x.fall
    · simp only [if_pos hc]
      rw [if_pos (show popcount x.active ≤ popcount (x.live &&& ~~~x.active) from hc)]
      rfl
    · simp only [if_neg hc]
      rw [if_neg (show ¬ popcount x.active ≤ popcount (x.live &&& ~~~x.active) from hc)]
      rfl
end BraEffect

-- BRA.S (R58 to R60)

section SplitEffect
variable {m : Mask} {gone stay : Nat} {rpc : Option Nat} {x : Issue} {s : State}
theorem splitEffect_waits (h : x.gang.splitReady = false) : splitEffect m gone stay rpc x s = .stall := if_pos (by rw [h]; rfl)
variable (h : x.gang.splitReady = true) {u : State}
include h
theorem splitEffect_notSafe (he : s.safeEntry x.key gone = (u, .ok none)) : splitEffect m gone stay rpc x s = notSafe := by
  simp only [splitEffect, h, he]
  rfl
theorem splitEffect_fault {va : Nat} {f : MFault} (he : s.safeEntry x.key gone = (u, .error (va, f))) : splitEffect m gone stay rpc x s = tableFault va f := by
  simp only [splitEffect, h, he]
  rfl
/-- With an entry the departure turns on the spawn memory's room. -/
theorem splitEffect_departs {e : SafeEntry} (he : s.safeEntry x.key gone = (u, .ok (some e))) {node : Option Node} (hn : node = rpc.map fun _ => pathNode x.path u.seq .split (popcount m))
    {es : List Spawn} (hes : es = (lanesOf m x.gang.width).map fun l => u.spawnEntry x e gone rpc ((node.map Node.id).getD 0) l) : splitEffect m gone stay rpc x s =
    match u.spawnRoom x.gang.core ((es.map Spawn.bytes).foldl (· + ·) 0) ((u.spawnOn x.gang.core).length + 1) with
      | .ok v => .moved (v.depart x m es node rpc ⟨some stay, x.live &&& ~~~m, .ready⟩)
      | .fault v va f kind => .spill v va f kind
      | _ => .stall := by
  subst hn hes
  simp only [splitEffect, h, he]
  cases rpc <;> rfl
end SplitEffect

-- The words BRA and BRA.S

theorem active_of_ready {s s1 : State} {i : Instr} {x : Issue} (h : s.ready i = some (x, s1)) : x.active ≠ 0 := by
  obtain ⟨_, _, _, ha, _⟩ := ready_issueOf h
  exact ha
/-- BRA and BRA.S are one word but for what a division does. -/
theorem exec_bra {i : Instr} {g : Guard} {off : BitVec 32} (hi : i = .braM g off ∨ i = .braS g off) :
    ∃ split, (∀ s, exec i s = s.issueWord i true (braEffect split off)) ∧ (i = .braM g off → split = false) ∧ (i = .braS g off → split = true) := by
  obtain rfl | rfl := hi
  · exact ⟨false, fun _ => rfl, fun _ => rfl, nofun⟩
  · exact ⟨true, fun _ => rfl, nofun, fun _ => rfl⟩

section Bra
variable {s s1 : State} {x : Issue} {i : Instr} {g : Guard} {off : BitVec 32} (hi : i = .braM g off ∨ i = .braS g off) (h : s.ready i = some (x, s1))
include hi h
theorem exec_bra_badTarget (hb : ¬ (off.toNat % 8 = 0 ∧ s1.fetchable x.key (x.target off) = true)) :
    ∃ s0, s.issueOf i = some (x, s0) ∧ exec i s = .next (s0.raise x ⟨0x23, 0, some x.live, x.launch.va (x.target off), true⟩) := by
  obtain ⟨split, hexec, -, -⟩ := exec_bra hi
  rw [hexec]
  exact issueWord_trap h (braEffect_badTarget (active_of_ready h) hb)
variable (hg : off.toNat % 8 = 0 ∧ s1.fetchable x.key (x.target off) = true)
include hg
theorem exec_bra_jumps (hf : x.fall = 0) : exec i s = .next (s1.jump x.key x.path.id (x.target off)) := by
  obtain ⟨split, hexec, -, -⟩ := exec_bra hi
  rw [hexec]
  exact issueWord_moved h (braEffect_jumps (active_of_ready h) hg hf)
variable (hf : x.fall ≠ 0) {t : State}
include hf
theorem exec_bra_notSafe (hd : s1.divergeCheck x [x.target off, x.path.after] none = (t, .missing)) :
    ∃ s0, s.issueOf i = some (x, s0) ∧ exec i s = .next (s0.raise x (.of 0x24)) := by
  obtain ⟨split, hexec, -, -⟩ := exec_bra hi
  rw [hexec]
  exact issueWord_trap h ((braEffect_diverges (active_of_ready h) hg hf).trans (by rw [hd]; rfl))
theorem exec_bra_tableFault {va : Nat} {f : MFault} (hd : s1.divergeCheck x [x.target off, x.path.after] none = (t, .fault va f)) :
    ∃ s0, s.issueOf i = some (x, s0) ∧ exec i s = .next (s0.restartTrap x ⟨f.cause, 0, none, va, false⟩ f.missing) := by
  obtain ⟨split, hexec, -, -⟩ := exec_bra hi
  rw [hexec]
  exact issueWord_restart h ((braEffect_diverges (active_of_ready h) hg hf).trans (by rw [hd]; rfl))
variable {rpc : Option Nat} (hd : s1.divergeCheck x [x.target off, x.path.after] none = (t, .ok rpc))
include hd
theorem exec_bra_branches (hb : i = .braM g off ∨ x.deepDepart x.smaller = true) :
    exec i s = .next (t.branch x rpc [⟨some x.path.after, x.fall, .ready⟩, ⟨some (x.target off), x.active, .ready⟩]) := by
  obtain ⟨split, hexec, hm, -⟩ := exec_bra hi
  rw [hexec]
  refine issueWord_moved h ((braEffect_diverges (active_of_ready h) hg hf).trans ?_)
  rw [hd]
  refine if_neg ?_
  obtain hb | hb := hb
  · rw [hm hb]
    exact Bool.false_ne_true
  · simp [hb]
end Bra

section BraS
variable {s s1 t : State} {x : Issue} {g : Guard} {off : BitVec 32} {rpc : Option Nat} (h : s.ready (.braS g off) = some (x, s1))
  (hg : off.toNat % 8 = 0 ∧ s1.fetchable x.key (x.target off) = true) (hf : x.fall ≠ 0) (hd : s1.divergeCheck x [x.target off, x.path.after] none = (t, .ok rpc))
  (hn : x.deepDepart x.smaller = false)
include h hg hf hd hn
theorem braSEffect_splits : braSEffect off x s1 = splitEffect x.smaller (x.gone (x.target off)) (x.stay (x.target off)) rpc x t := by
  refine (braEffect_diverges (active_of_ready h) hg hf).trans ?_
  rw [hd]
  exact if_pos (by rw [hn]; rfl)
theorem exec_braS_waits (hr : x.gang.splitReady = false) : ∃ s0, s.issueOf (.braS g off) = some (x, s0) ∧ exec (.braS g off) s = .next s0 :=
  issueWord_stall h ((braSEffect_splits h hg hf hd hn).trans (splitEffect_waits hr))
variable (hr : x.gang.splitReady = true) {u : State}
include hr
theorem exec_braS_notSafe (he : t.safeEntry x.key (x.gone (x.target off)) = (u, .ok none)) :
    ∃ s0, s.issueOf (.braS g off) = some (x, s0) ∧ exec (.braS g off) s = .next (s0.raise x (.of 0x24)) :=
  issueWord_trap h ((braSEffect_splits h hg hf hd hn).trans (splitEffect_notSafe hr he))
theorem exec_braS_tableFault {va : Nat} {f : MFault} (he : t.safeEntry x.key (x.gone (x.target off)) = (u, .error (va, f))) :
    ∃ s0, s.issueOf (.braS g off) = some (x, s0) ∧ exec (.braS g off) s = .next (s0.restartTrap x ⟨f.cause, 0, none, va, false⟩ f.missing) :=
  issueWord_restart h ((braSEffect_splits h hg hf hd hn).trans (splitEffect_fault hr he))
variable {e : SafeEntry} (he : t.safeEntry x.key (x.gone (x.target off)) = (u, .ok (some e)))
include he
/-- The split at its departure: the node, the departing threads' entries and the spawn memory's room for them. -/
theorem exec_braS_departs :
    let node := rpc.map fun _ => pathNode x.path u.seq .split (popcount x.smaller)
    let es := (lanesOf x.smaller x.gang.width).map fun l => u.spawnEntry x e (x.gone (x.target off)) rpc ((node.map Node.id).getD 0) l
    let room := u.spawnRoom x.gang.core ((es.map Spawn.bytes).foldl (· + ·) 0) ((u.spawnOn x.gang.core).length + 1)
    (∀ v, room = .ok v → exec (.braS g off) s = .next (v.depart x x.smaller es node rpc ⟨some (x.stay (x.target off)), x.live &&& ~~~x.smaller, .ready⟩)) ∧
    (∀ v va f k, room = .fault v va f k → exec (.braS g off) s = .next (v.spillFault x va f k)) ∧
    (room = .stall ∨ room = .overflow → ∃ s0, s.issueOf (.braS g off) = some (x, s0) ∧ exec (.braS g off) s = .next s0) := by
  intro node es room
  have hact := (braSEffect_splits h hg hf hd hn).trans (splitEffect_departs hr he (node := node) rfl (es := es) rfl)
  refine ⟨fun v hv => issueWord_moved h (hact.trans ?_), fun v va f k hv => issueWord_spill h (hact.trans ?_), fun hv => issueWord_stall h (hact.trans ?_)⟩
  · rw [show u.spawnRoom .. = _ from hv]
  · rw [show u.spawnRoom .. = _ from hv]
  · obtain hv | hv := hv <;> rw [show u.spawnRoom .. = _ from hv]
end BraS

-- BRX (R70, R320)

/-- The part of the lanes outside the guard, where there are any. -/
def Issue.falls (x : Issue) : List Branch := if x.fall = 0 then [] else [⟨some x.path.after, x.fall, .ready⟩]
/-- A target's path, which stays at the branch for a bad target. -/
def State.targetBranch (s : State) (k : GangKey) (t : Nat × Mask) : Branch := if s.landing k t.1 then ⟨some t.1, t.2, .ready⟩ else ⟨none, t.2, .badTarget t.1⟩

section BrxEffect
variable {ra : Operand} {x : Issue} {s : State}
theorem brxEffect_one (hf : x.fall = 0) {t : Nat} {m : Mask} (ht : x.targets s ra = [(t, m)]) : brxEffect ra x s =
    if s.landing x.key t then .moved (s.jump x.key x.path.id t) else .trap ⟨0x23, 0, some x.live, x.launch.va t, true⟩ := by
  rw [Issue.fall] at hf
  simp only [brxEffect, hf, ht, decide_true]
theorem brxEffect_many (hm : x.fall ≠ 0 ∨ 2 ≤ (x.targets s ra).length) : brxEffect ra x s =
    match s.divergeCheck x ((x.targets s ra).map Prod.fst ++ x.falls.filterMap Branch.hdr) none with
    | (_, .fault va f) => tableFault va f
    | (_, .missing) => notSafe
    | (t, .ok rpc) => .moved (t.branch x rpc (x.falls ++ (x.targets s ra).map (t.targetBranch x.key))) := by
  unfold brxEffect
  dsimp only
  obtain hf | hl := hm
  · rw [Issue.fall] at hf
    rw [decide_eq_false hf]
    rfl
  · match x.targets s ra, hl with
    | _ :: _ :: _, _ => cases decide (x.live &&& ~~~x.active = 0) <;> rfl
end BrxEffect

section Brx
variable {s s1 : State} {x : Issue} {g : Guard} {ra : Operand} (h : s.ready (.brx g ra) = some (x, s1))
include h
theorem exec_brx_jumps (hf : x.fall = 0) {t : Nat} {m : Mask} (ht : x.targets s1 ra = [(t, m)]) (hl : s1.landing x.key t = true) :
    exec (.brx g ra) s = .next (s1.jump x.key x.path.id t) :=
  issueWord_moved (eff := brxEffect ra) h ((brxEffect_one hf ht).trans (if_pos hl))
theorem exec_brx_badTarget (hf : x.fall = 0) {t : Nat} {m : Mask} (ht : x.targets s1 ra = [(t, m)]) (hl : s1.landing x.key t = false) :
    ∃ s0, s.issueOf (.brx g ra) = some (x, s0) ∧ exec (.brx g ra) s = .next (s0.raise x ⟨0x23, 0, some x.live, x.launch.va t, true⟩) :=
  issueWord_trap (eff := brxEffect ra) h ((brxEffect_one hf ht).trans (if_neg (by rw [hl]; exact Bool.false_ne_true)))
variable (hm : x.fall ≠ 0 ∨ 2 ≤ (x.targets s1 ra).length) {t : State}
include hm
theorem exec_brx_notSafe (hd : s1.divergeCheck x ((x.targets s1 ra).map Prod.fst ++ x.falls.filterMap Branch.hdr) none = (t, .missing)) :
    ∃ s0, s.issueOf (.brx g ra) = some (x, s0) ∧ exec (.brx g ra) s = .next (s0.raise x (.of 0x24)) :=
  issueWord_trap (eff := brxEffect ra) h ((brxEffect_many hm).trans (by rw [hd]; rfl))
theorem exec_brx_tableFault {va : Nat} {f : MFault} (hd : s1.divergeCheck x ((x.targets s1 ra).map Prod.fst ++ x.falls.filterMap Branch.hdr) none = (t, .fault va f)) :
    ∃ s0, s.issueOf (.brx g ra) = some (x, s0) ∧ exec (.brx g ra) s = .next (s0.restartTrap x ⟨f.cause, 0, none, va, false⟩ f.missing) :=
  issueWord_restart (eff := brxEffect ra) h ((brxEffect_many hm).trans (by rw [hd]; rfl))
theorem exec_brx_branches {rpc : Option Nat} (hd : s1.divergeCheck x ((x.targets s1 ra).map Prod.fst ++ x.falls.filterMap Branch.hdr) none = (t, .ok rpc)) :
    exec (.brx g ra) s = .next (t.branch x rpc (x.falls ++ (x.targets s1 ra).map (t.targetBranch x.key))) :=
  issueWord_moved (eff := brxEffect ra) h ((brxEffect_many hm).trans (by rw [hd]))
end Brx

/-- Settles O34: the target is checked first, then the lookups of a division, then the split's own waits; BRX jumps to one target or divides by all of them. -/
theorem branchesDividePaths : Obligations.BranchesDividePaths := by
  refine fun s s1 x g => ⟨fun i off hi h => ?bra, fun ra h => ?brx⟩
  case bra =>
    refine ⟨exec_bra_badTarget hi h, exec_bra_jumps hi h, fun t hg hf => exec_bra_notSafe hi h hg hf, fun t va f hg hf => exec_bra_tableFault hi h hg hf, fun t rpc hg hf hd =>
      ⟨exec_bra_branches hi h hg hf hd, ?waits, ?departs, ?lookup⟩⟩
    case waits =>
      rintro rfl hn hr
      exact exec_braS_waits h hg hf hd hn hr
    case departs =>
      rintro u v e rfl hn hr he
      obtain ⟨hok, hfault, hstall⟩ := exec_braS_departs h hg hf hd hn hr he
      exact ⟨hok v, hfault v, hstall⟩
    case lookup =>
      rintro u rfl hn hr
      exact ⟨exec_braS_notSafe h hg hf hd hn hr, fun va f => exec_braS_tableFault h hg hf hd hn hr⟩
  case brx =>
    refine ⟨fun t m hf ht => ⟨exec_brx_jumps h hf ht, exec_brx_badTarget h hf ht⟩, fun hm t c hd => ⟨fun hc => ?_, fun va f hc => ?_, fun rpc hc => ?_⟩⟩ <;> subst hc
    · exact exec_brx_notSafe h hm hd
    · exact exec_brx_tableFault h hm hd
    · exact exec_brx_branches h hm hd

end Sys2Proof.Machine
end

section
/-! PROOFS. A context's registers are the firmware's (R295): no operation that a serviced fault performs again, no trap and no teardown changes them. Most operations leave the whole table of contexts; those
that end or enrol a task, or free a save slot, change the foreman's lists of a context alone (used by O56, whose restored team may perform its faulting words again). -/
namespace Sys2Proof.Machine

theorem State.ctxs_foldl {α : Type} {f : State → α → State} (h : ∀ s a, (f s a).ctxs = s.ctxs) (xs : List α) (s : State) : (xs.foldl f s).ctxs = s.ctxs := foldl_keeps State.ctxs h xs s

-- Logs and times

section Ctxs
variable (s : State)
@[simp] theorem State.ctxs_keyWrite (kd pa : Nat) (b : Byte) : (s.keyWrite kd pa b).ctxs = s.ctxs := by
  obtain ⟨m, l, h⟩ := s.keyWrite_frame kd pa b
  rw [h]
@[simp] theorem State.ctxs_keyWriteBytes (kd pa : Nat) (bs : List Byte) : (s.keyWriteBytes kd pa bs).ctxs = s.ctxs := State.keyWriteBytes_keeps State.ctxs State.ctxs_keyWrite s kd pa bs
@[simp] theorem State.ctxs_logTo (part pa cls unit unitId : Nat) (ctx : Option Nat) (detail : Nat) : (s.logTo part pa cls unit unitId ctx detail).ctxs = s.ctxs :=
  s.logTo_keeps part pa cls unit unitId ctx detail State.ctxs State.ctxs_keyWrite fun _ _ _ => rfl
@[simp] theorem State.ctxs_foremanError (c : CtxKey) (i : Nat) : (s.foremanError c i).ctxs = s.ctxs := s.ctxs_logTo ..
@[simp] theorem State.ctxs_recordQuery (c : CtxKey) (t : TrapInfo) : (s.recordQuery c t).ctxs = s.ctxs := by
  unfold State.recordQuery
  repeat' split
  all_goals simp
@[simp] theorem State.ctxs_recordBad (c : CtxKey) (pdie pa detail : Nat) : (s.recordBad c pdie pa detail).ctxs = s.ctxs := by
  unfold State.recordBad
  exact s.ctxs_logTo ..
@[simp] theorem State.ctxs_recordVa (c : CtxKey) (core : Option Nat) (va detail : Nat) : (s.recordVa c core va detail).ctxs = s.ctxs := by
  unfold State.recordVa
  split <;> simp
@[simp] theorem State.ctxs_recordTrap (k : GangKey) (t : TrapInfo) : (s.recordTrap k t).ctxs = s.ctxs := by
  unfold State.recordTrap
  dsimp only
  split <;> simp
@[simp] theorem State.ctxs_timeRoom (part : Nat) : (s.timeRoom part).ctxs = s.ctxs := by
  unfold State.timeRoom
  split <;> rfl
@[simp] theorem State.ctxs_timeStore (part pt key : Nat) : (s.timeStore part pt key).1.ctxs = s.ctxs :=
  State.timeStore_keeps (P := fun t => t.ctxs = s.ctxs) (fun _ _ h => h) (fun _ _ _ h => h) rfl ..
@[simp] theorem State.ctxs_stampObj (core off : Nat) : (s.stampObj core off).ctxs = s.ctxs := by
  unfold State.stampObj
  split <;> simp
@[simp] theorem State.ctxs_setObjWord (core off i x : Nat) : (s.setObjWord core off i x).ctxs = s.ctxs := State.ctxs_stampObj ..
@[simp] theorem State.ctxs_sendRemote (pa : Nat) (p : RemotePacket) : (s.sendRemote pa p).ctxs = s.ctxs := (congrArg State.ctxs (s.caches_sendRemote pa p).rest :)
@[simp] theorem State.ctxs_sendAt (l : Loc) (p : Nat → Nat → RemotePacket) : (s.sendAt l p).ctxs = s.ctxs := by
  cases l <;> simp [State.sendAt]
@[simp] theorem State.ctxs_rawWrite (l : Loc) (n x : Nat) : (s.rawWrite l n x).ctxs = s.ctxs := by
  unfold State.rawWrite
  repeat' split
  all_goals simp
@[simp] theorem State.ctxs_setLocBytes (ls : List Loc) (bs : List Byte) : (s.setLocBytes ls bs).ctxs = s.ctxs := by
  induction ls generalizing s bs with
  | nil => rfl
  | cons l ls ih =>
    cases bs with
    | nil => rfl
    | cons b bs => simp [State.setLocBytes, State.setLocByte, ih]
@[simp] theorem State.ctxs_stampLocs (part : Nat) (ls : List Loc) : (s.stampLocs part ls).ctxs = s.ctxs := State.ctxs_foldl (fun t _ => t.ctxs_timeStore ..) _ s
@[simp] theorem State.ctxs_agentStore (part : Nat) (ls : List Loc) (bs : List Byte) : (s.agentStore part ls bs).ctxs = s.ctxs := by
  have hlag (s : State) (l : Loc) : (match l with | .mem pa kd coh ra => if coh = 3 && !ra && !isHost pa then s.addLag none [] part kd pa 1 else s | .scratch .. => s).ctxs = s.ctxs := by
    repeat' split
    all_goals rfl
  rw [State.agentStore, State.dropRemote, State.modPart_ctxs, State.ctxs_stampLocs, State.ctxs_setLocBytes]
  exact State.ctxs_foldl hlag ls s
theorem State.ctxs_foremanWrite {s t : State} {c : CtxKey} {va : Nat} {bs : List Byte} (h : s.foremanWrite c va bs = .ok t) : t.ctxs = s.ctxs := by
  unfold State.foremanWrite at h
  split at h
  · cases h
  · cases h
    exact s.ctxs_agentStore ..
@[simp] theorem State.ctxs_agentRead (part pt key : Nat) : (s.agentRead part pt key).ctxs = s.ctxs := by
  unfold State.agentRead
  rw [State.modPart_ctxs, State.ctxs_timeRoom]
@[simp] theorem State.ctxs_agentReads (part pt : Nat) (ls : List Loc) : (s.agentReads part pt ls).ctxs = s.ctxs := State.ctxs_foldl (fun t _ => t.ctxs_agentRead ..) _ s
@[simp] theorem State.ctxs_sendRead (l : Loc) (n : Nat) : (s.sendRead l n).ctxs = s.ctxs := s.ctxs_sendAt ..
@[simp] theorem State.ctxs_askRemote (ls : List Loc) : (s.askRemote ls).ctxs = s.ctxs := State.ctxs_foldl (fun t _ => t.ctxs_sendRead ..) _ s
@[simp] theorem State.ctxs_askTables (c : CtxKey) (va : Nat) : (s.askTables c va).ctxs = s.ctxs := State.ctxs_foldl (fun t _ => t.ctxs_sendRemote ..) _ s
@[simp] theorem State.ctxs_foremanAsk (c : CtxKey) (va n : Nat) : (s.foremanAsk c va n).ctxs = s.ctxs := by
  unfold State.foremanAsk
  split <;> simp
-- Jobs and tasks

@[simp] theorem State.ctxs_mergeStatus (core off first n : Nat) : (s.mergeStatus core off first n).ctxs = s.ctxs := by
  unfold State.mergeStatus
  split <;> simp
@[simp] theorem State.ctxs_mergeJob (n : Nat) : (s.mergeJob n).ctxs = s.ctxs := by
  unfold State.mergeJob
  dsimp only
  repeat' split
  · rfl
  · rfl
  · exact State.ctxs_mergeStatus ..
  · rfl
  · rfl
  · exact State.ctxs_foremanError ..
  next h => simpa using State.ctxs_foremanWrite h
  · exact State.ctxs_foremanError ..
  · rfl
@[simp] theorem State.ctxs_flipIfDone (core off : Nat) : (s.flipIfDone core off).ctxs = s.ctxs := by
  unfold State.flipIfDone
  dsimp only
  split
  · exact s.ctxs_setObjWord ..
  · rfl
@[simp] theorem State.ctxs_takeBytes (core off n : Nat) : (s.takeBytes core off n).ctxs = s.ctxs := by
  unfold State.takeBytes
  split <;> simp
@[simp] theorem State.ctxs_recordWrite (c : CtxKey) (i off : Nat) (bs : List Byte) : (s.recordWrite c i off bs).ctxs = s.ctxs := by
  unfold State.recordWrite
  repeat' split
  · simp
  next h => exact State.ctxs_foremanWrite h
  · simp
@[simp] theorem State.ctxs_setStatus (c : CtxKey) (i : Nat) (st : TaskStatus) : (s.setStatus c i st).ctxs = s.ctxs := by
  unfold State.setStatus
  split <;> simp
@[simp] theorem State.ctxs_successors (c : CtxKey) (i : Nat) (t : Task) : (s.successors c i t).1.ctxs = s.ctxs := by
  unfold State.successors
  repeat' split
  all_goals simp
@[simp] theorem State.ctxs_markReady (c : CtxKey) (i : Nat) : (s.markReady c i).ctxs = s.ctxs := by
  unfold State.markReady
  repeat' split
  all_goals simp
@[simp] theorem State.ctxs_decrement (c : CtxKey) (i : Nat) : (s.decrement c i).ctxs = s.ctxs := by
  unfold State.decrement
  dsimp only
  repeat' split
  all_goals simp
@[simp] theorem State.ctxs_freeBanks (cores : List Nat) (grid : Nat) : (s.freeBanks cores grid).ctxs = s.ctxs := by
  refine State.ctxs_foldl (fun t c => ?_) cores s
  split <;> simp
@[simp] theorem State.ctxs_removeTeam (n : Nat) : (s.removeTeam n).ctxs = s.ctxs := by
  unfold State.removeTeam
  split
  · rfl
  · dsimp only
    rw [State.ctxs_freeBanks, State.modPart_ctxs]
    exact State.ctxs_foldl (f := fun t k => t.leaveSlot k) (fun _ _ => rfl) _ _
@[simp] theorem State.ctxs_setProgress (c : CtxKey) (i n : Nat) : (s.setProgress c i n).ctxs = s.ctxs := by
  unfold State.setProgress
  split <;> simp
@[simp] theorem State.ctxs_leaveTeam (n : Nat) : (s.leaveTeam n).ctxs = s.ctxs := by
  unfold State.leaveTeam
  dsimp only
  repeat' split
  all_goals simp

-- The porter and the windows

@[simp] theorem State.ctxs_agentWrite (part pt : Nat) (l : Loc) (n x : Nat) : (s.agentWrite part pt l n x).ctxs = s.ctxs := by
  unfold State.agentWrite
  dsimp only
  cases l with
  | mem pa kd coh ra => rw [State.modPart_ctxs, State.ctxs_timeStore, State.ctxs_rawWrite]
  | scratch c off => rw [State.ctxs_timeStore, State.ctxs_rawWrite]
@[simp] theorem State.ctxs_porterWrite (k : GangKey) (l : Loc) (x : Nat) : (s.porterWrite k l x).ctxs = s.ctxs := by
  unfold State.porterWrite
  dsimp only
  split <;> simp [State.dropLeased]
@[simp] theorem State.ctxs_porterWrites (k : GangKey) (ws : List (Nat × Loc × Word)) : (s.porterWrites k ws).ctxs = s.ctxs := State.ctxs_foldl (fun t _ => t.ctxs_porterWrite ..) _ s
@[simp] theorem State.ctxs_fillTlb (core : Nat) (c : CtxKey) (va : Nat) : (s.fillTlb core c va).ctxs = s.ctxs := (congrArg State.ctxs (s.caches_fillTlb core c va).rest :)
@[simp] theorem State.ctxs_fillTlbs (k : GangKey) (vas : List Nat) : (s.fillTlbs k vas).ctxs = s.ctxs := (congrArg State.ctxs (s.caches_fillTlbs k vas).rest :)
@[simp] theorem State.ctxs_fillRange (core : Option Nat) (c : CtxKey) (va n : Nat) : (s.fillRange core c va n).ctxs = s.ctxs := by
  cases core
  · rfl
  · exact State.ctxs_foldl (fun t _ => t.ctxs_fillTlb ..) _ s
@[simp] theorem State.ctxs_porterFill (k : GangKey) (ws : List (Nat × Nat × Word)) : (s.porterFill k ws).ctxs = s.ctxs := State.ctxs_foldl (fun t _ => t.ctxs_fillTlb ..) _ s
end Ctxs

-- Loads, stores and atomics (R195 to R203)

section Access
variable (s : State) (k : GangKey) (core : Nat)
@[simp] theorem State.ctxs_timeRead (lease key : Nat) : (s.timeRead k lease key).ctxs = s.ctxs :=
  State.timeRead_keeps (P := fun t => t.ctxs = s.ctxs) (fun _ _ h => h) (fun _ _ _ h => h) (fun _ _ _ _ h => h) rfl ..
@[simp] theorem State.ctxs_timeLoad (key : Nat) : (s.timeLoad k key).ctxs = s.ctxs := s.ctxs_timeRead ..
@[simp] theorem State.ctxs_gangStore (key : Nat) : (s.gangStore k key).ctxs = s.ctxs :=
  State.gangStore_keeps (P := fun t => t.ctxs = s.ctxs) (fun _ _ h => h) (fun _ _ _ h => h) (fun _ _ _ _ h => h) rfl ..
@[simp] theorem State.ctxs_writeBack (n : Nat) : (s.writeBack core n).ctxs = s.ctxs := by
  unfold State.writeBack
  dsimp only
  repeat' split
  all_goals simp
@[simp] theorem State.ctxs_dropSector (n : Nat) : (s.dropSector core n).ctxs = s.ctxs := by rw [State.dropSector, State.modCore_ctxs, State.ctxs_writeBack]
@[simp] theorem State.ctxs_plainLoad (pa kd w : Nat) (poll : Bool) (ch : Nat) : (s.plainLoad k core pa kd w poll ch).1.ctxs = s.ctxs := by
  unfold State.plainLoad
  dsimp only
  repeat' split
  all_goals simp
@[simp] theorem State.ctxs_seeLags (die pa w : Nat) (ts : List ThreadKey) (all : Bool) : (s.seeLags die pa w ts all).ctxs = s.ctxs := rfl
@[simp] theorem State.ctxs_missLoad (pa kd w : Nat) (alloc keep : Bool) : (s.missLoad k core pa kd w alloc keep).1.ctxs = s.ctxs := by
  unfold State.missLoad
  dsimp only
  repeat' split
  all_goals simp
@[simp] theorem State.ctxs_leasedLoad (pa kd w : Nat) (poll : Bool) (ch : Nat) : (s.leasedLoad k core pa kd w poll ch).1.ctxs = s.ctxs := by
  unfold State.leasedLoad
  dsimp only
  repeat' split
  all_goals simp
@[simp] theorem State.ctxs_loadLoc (l : Loc) (w : Nat) (poll : Bool) (ch : Nat) (ts : List ThreadKey) : (s.loadLoc k core l w poll ch ts).1.ctxs = s.ctxs := by
  unfold State.loadLoc
  dsimp only
  repeat' split
  all_goals simp [State.dropLeased]
@[simp] theorem State.ctxs_progress : (s.progress k).ctxs = s.ctxs := rfl
@[simp] theorem State.ctxs_homeStore (l : Loc) (w x : Nat) (ts : List ThreadKey) : (s.homeStore k l w x ts).ctxs = s.ctxs := by
  cases l with
  | scratch c off => exact State.ctxs_gangStore ..
  | mem pa kd coh ra =>
    unfold State.homeStore
    dsimp only
    split
    · exact State.ctxs_gangStore ..
    · rw [State.modPart_ctxs, State.ctxs_gangStore, State.ctxs_keyWriteBytes]
      split <;> rfl
@[simp] theorem State.ctxs_storeInCopy (pa : Nat) (bs : List Byte) (ch : Nat) : (s.storeInCopy k core pa bs ch).ctxs = s.ctxs := by
  unfold State.storeInCopy
  dsimp only
  split
  · rw [State.ctxs_dropSector, State.ctxs_gangStore, State.modCore_ctxs]
  · rw [State.ctxs_gangStore, State.modCore_ctxs]
@[simp] theorem State.ctxs_plainStore (l : Loc) (pa kd w x ch : Nat) (ts : List ThreadKey) : (s.plainStore k core l pa kd w x ch ts).ctxs = s.ctxs := by
  obtain ⟨-, -, h⟩ | h | h := s.plainStore_cases k core l pa kd w x ch ts <;> rw [h]
  · exact s.ctxs_storeInCopy ..
  · rw [State.ctxs_storeInCopy, State.fillSector, State.modCore_ctxs, State.ctxs_sendRemote, State.ctxs_dropSector]
  · rw [State.ctxs_sendRemote, State.ctxs_homeStore]
@[simp] theorem State.ctxs_ownCopy (pa kd ch : Nat) : (s.ownCopy k core pa kd ch).ctxs = s.ctxs := by
  unfold State.ownCopy
  split <;> rfl
@[simp] theorem State.ctxs_storeLoc (l : Loc) (w x ch : Nat) (ts : List ThreadKey) : (s.storeLoc k core l w x ch ts).ctxs = s.ctxs := by
  unfold State.storeLoc
  repeat' split
  all_goals simp
@[simp] theorem State.ctxs_writeLine (pa : Nat) : (s.writeLine core pa).ctxs = s.ctxs := State.ctxs_foldl (fun t _ => t.ctxs_writeBack ..) _ s
@[simp] theorem State.ctxs_dropLine (pa : Nat) : (s.dropLine core pa).ctxs = s.ctxs := by rw [State.dropLine, State.modCore_ctxs, State.ctxs_writeLine]
@[simp] theorem State.ctxs_beforeAtomic (l : Loc) (w : Nat) (ts : List ThreadKey) : (s.beforeAtomic core l w ts).ctxs = s.ctxs := by
  unfold State.beforeAtomic
  repeat' split
  all_goals simp
@[simp] theorem State.ctxs_homeWrite (l : Loc) (w x : Nat) (ts : List ThreadKey) : (s.homeWrite k core l w x ts).ctxs = s.ctxs := by
  unfold State.homeWrite
  repeat' split
  all_goals simp
@[simp] theorem State.ctxs_cleanLine (l : Loc) (drop : Bool) : (s.cleanLine core l drop).ctxs = s.ctxs := by
  unfold State.cleanLine
  repeat' split
  all_goals simp
@[simp] theorem State.ctxs_perform (a : LaneAccess) (ts : List ThreadKey) : (s.perform k core a ts).1.ctxs = s.ctxs := by
  unfold State.perform
  dsimp only
  repeat' split
  all_goals simp
@[simp] theorem State.ctxs_receiveFlit (f : Flit) : (s.receiveFlit f).ctxs = s.ctxs := by
  unfold State.receiveFlit
  repeat' split
  all_goals rfl
@[simp] theorem State.ctxs_arriveRoute (src dst n : Nat) : (s.arriveRoute src dst n).ctxs = s.ctxs := by
  induction n generalizing s with
  | zero => rfl
  | succ n ih =>
    unfold State.arriveRoute
    split
    · rfl
    · rw [ih, State.ctxs_receiveFlit]
@[simp] theorem State.ctxs_beforeLanding (l : Loc) : (s.beforeLanding core l).ctxs = s.ctxs := by
  unfold State.beforeLanding
  repeat' split
  all_goals simp
@[simp] theorem State.ctxs_demote (id : Nat) : (s.demote k id).ctxs = s.ctxs := by
  unfold State.demote
  dsimp only
  split <;> rfl
@[simp] theorem State.ctxs_performLane : (s.performLane k).ctxs = s.ctxs := by
  unfold State.performLane
  dsimp only
  repeat' split
  all_goals simp
@[simp] theorem State.ctxs_performLanes (n : Nat) : (s.performLanes k n).ctxs = s.ctxs := by
  induction n generalizing s with
  | zero => rfl
  | succ n ih => rw [State.performLanes, ih, State.ctxs_performLane]
@[simp] theorem State.ctxs_performN (n : Nat) : (s.performN k n).ctxs = s.ctxs := by
  induction n generalizing s with
  | zero => rfl
  | succ n ih => rw [State.performN, ih, State.performNext, State.ctxs_performLanes]
@[simp] theorem State.ctxs_catchUp : (s.catchUp k).ctxs = s.ctxs := s.ctxs_performN ..

-- Queues, page faults and the reads of a LAUNCH

@[simp] theorem State.ctxs_queueLook (l : Loc) (ts : List ThreadKey) : (s.queueLook k core l ts).ctxs = s.ctxs := by simp [State.queueLook]
@[simp] theorem State.ctxs_queueStore (l : Loc) (w x : Nat) (ts : List ThreadKey) : (s.queueStore k core l w x ts).ctxs = s.ctxs := by simp [State.queueStore]
@[simp] theorem State.ctxs_wakeQueue (pa : Nat) : (s.wakeQueue pa).ctxs = s.ctxs := by
  unfold State.wakeQueue
  dsimp only
  split <;> rfl
@[simp] theorem State.ctxs_sliceTouch (l : Loc) (ts : List ThreadKey) : (s.sliceTouch k core l ts).ctxs = s.ctxs := by simp [State.sliceTouch]
@[simp] theorem State.ctxs_observe : (s.observe k).ctxs = s.ctxs := rfl
@[simp] theorem State.ctxs_queueLane (o : QueueOp) (lane va x : Nat) : (s.queueLane k o lane va x).1.ctxs = s.ctxs := by
  unfold State.queueLane
  dsimp only
  repeat' split
  · rfl
  · rfl
  · exact State.ctxs_queueLook ..
  · rfl
  · rw [State.ctxs_wakeQueue, State.ctxs_progress, State.ctxs_sliceTouch, State.ctxs_queueStore, State.ctxs_queueStore, State.ctxs_beforeAtomic]
  · exact State.ctxs_queueLook ..
  · rfl
  · rw [State.ctxs_sliceTouch, State.ctxs_queueStore, State.ctxs_observe, State.ctxs_timeLoad, State.ctxs_sendRead, State.ctxs_beforeAtomic, State.ctxs_beforeAtomic]
@[simp] theorem State.ctxs_queueRun (o : QueueOp) (data : Tbl Nat Nat) (stop : Bool) (l : Tbl Nat Nat) : (s.queueRun k o data stop l).1.ctxs = s.ctxs := by
  induction l generalizing s with
  | nil => rfl
  | cons e l ih =>
    unfold State.queueRun
    dsimp only
    split
    · simp
    · simp [ih]
@[simp] theorem State.ctxs_queueWait (path since pa : Nat) (left : Mask) (ws : List RegWrite) : (s.queueWait k path since pa left ws).ctxs = s.ctxs := rfl
@[simp] theorem State.ctxs_queueFault (a : Agent) (c : CtxKey) (va cause : Nat) (kind : AccessKind) (level unitId gridid : Nat) :
    (s.queueFault a c va cause kind level unitId gridid).1.ctxs = s.ctxs := by
  unfold State.queueFault
  dsimp only
  repeat' split
  all_goals simp
@[simp] theorem State.ctxs_gangRead (c : CtxKey) (va : Nat) (ls : List Loc) : (s.gangRead k c va ls).ctxs = s.ctxs := by
  refine (State.ctxs_foldl (fun t _ => t.ctxs_timeLoad ..) _ _).trans ?_
  simp
end Access

section Room
variable {s t : State} {k : GangKey}
theorem State.ctxs_spillItem (h : (s.spillItem k).1 = .ok t) : t.ctxs = s.ctxs := by
  unfold State.spillItem at h
  dsimp only at h
  repeat' split at h
  all_goals cases h
  all_goals simp
theorem State.ctxs_spillRecords (n : Nat) : ∀ {s : State}, s.spillRecords k n = .ok t → t.ctxs = s.ctxs := by
  induction n with
  | zero => rintro s ⟨⟩; rfl
  | succ n ih =>
    intro s h
    unfold State.spillRecords at h
    repeat' split at h
    · next hi => exact (ih h).trans (State.ctxs_spillItem hi)
    · next hi => exact (hi _ h).elim
    · cases h; rfl
theorem State.ctxs_spillOne (n : Nat) : ∀ {s : State}, s.spillOne k n = .ok t → t.ctxs = s.ctxs := by
  induction n with
  | zero => rintro s ⟨⟩
  | succ n ih =>
    intro s h
    unfold State.spillOne at h
    split at h
    · next hi => exact (State.ctxs_spillRecords _ h).trans (State.ctxs_spillItem (congrArg Prod.fst hi))
    · next hi => exact (ih h).trans (State.ctxs_spillItem (congrArg Prod.fst hi))
    · next b ht hf hi =>
      cases b
      · exact (hf t h rfl).elim
      · exact (ht t h rfl).elim
theorem State.ctxs_makeRoom (h : s.makeRoom k = .ok t) : t.ctxs = s.ctxs := by
  unfold State.makeRoom at h
  dsimp only at h
  repeat' split at h
  · cases h; rfl
  · cases h; rfl
  · cases h
  · cases h
  · exact State.ctxs_spillOne _ h
theorem State.ctxs_take {gran : Nat} (h : s.take k gran = .ok t) : t.ctxs = s.ctxs := by
  unfold State.take at h
  dsimp only at h
  repeat' split at h
  · cases h; rfl
  · next u hr =>
    cases h
    exact (State.modGang_ctxs ..).trans (State.ctxs_makeRoom hr)
  · next hi => exact (hi _ h).elim
end Room

-- The context registers: the foreman's lists of a context may change with a task or a slot, its registers do not

/-- The registers of every context, its lists of used task indices and save slots left out. -/
def State.ctxRegs (s : State) : CtxKey → Context := fun c => { s.ctx c with slotsUsed := [], devUsed := [] }

section CtxRegs
variable {s t : State} {k : GangKey}
theorem State.ctxRegs_of_ctxs (h : t.ctxs = s.ctxs) : t.ctxRegs = s.ctxRegs := by
  unfold State.ctxRegs State.ctx
  rw [h]
theorem State.ctxRegs_modLists (s : State) (c : CtxKey) (slots dev : Context → List Nat) : (s.modCtx c fun x => { x with slotsUsed := slots x, devUsed := dev x }).ctxRegs = s.ctxRegs := by
  funext d
  simp only [State.ctxRegs, State.ctx, State.modCtx, State.setCtx, tgetD, tget_tset]
  split
  next hd =>
    subst hd
    rfl
  next => rfl
theorem State.ctxRegs_foldl {α : Type} {f : State → α → State} (h : ∀ s a, (f s a).ctxRegs = s.ctxRegs) (xs : List α) (s : State) : (xs.foldl f s).ctxRegs = s.ctxRegs :=
  foldl_keeps State.ctxRegs h xs s
/-- What keeps every context's registers keeps its save area's base. -/
theorem State.savebase_of_ctxRegs (h : t.ctxRegs = s.ctxRegs) (c : CtxKey) : (t.ctx c).savebase = (s.ctx c).savebase := by
  change (t.ctxRegs c).savebase = (s.ctxRegs c).savebase
  rw [h]

variable (s) (k)
theorem State.ctxRegs_finishTask (c : CtxKey) (i : Nat) (st : TaskStatus) : (s.finishTask c i st).ctxRegs = s.ctxRegs := by
  unfold State.finishTask
  split
  · rfl
  · dsimp only
    rw [State.ctxRegs_modLists]
    refine State.ctxRegs_of_ctxs ?_
    rw [State.ctxs_foldl fun u j => u.ctxs_markReady c j, State.ctxs_foldl fun u j => u.ctxs_decrement c j]
    exact (State.ctxs_successors ..).trans (s.ctxs_setStatus ..)
theorem State.ctxRegs_settle (n : Nat) : (s.settle n).ctxRegs = s.ctxRegs := by
  induction n generalizing s with
  | zero => rfl
  | succ n ih =>
    unfold State.settle
    split
    · rfl
    · exact (ih _).trans (State.ctxRegs_finishTask ..)
theorem State.ctxRegs_settleGrids : s.settleGrids.ctxRegs = s.ctxRegs := s.ctxRegs_settle _
theorem State.ctxRegs_finishJob (n : Nat) : (s.finishJob n).ctxRegs = s.ctxRegs := by
  have hbar (u : State) (b : Option (Nat × Nat)) (left : Nat) : (match b with | some (core, off) => u.takeBytes core off left | none => u).ctxRegs = u.ctxRegs := by
    cases b with
    | none => rfl
    | some b => exact State.ctxRegs_of_ctxs (u.ctxs_takeBytes ..)
  have htask (u : State) (c : CtxKey) (o : Option Nat) : (match o with | some i => (u.decrement c i).settleGrids | none => u).ctxRegs = u.ctxRegs := by
    cases o with
    | none => rfl
    | some i => exact (State.ctxRegs_settleGrids _).trans (State.ctxRegs_of_ctxs (u.ctxs_decrement ..))
  unfold State.finishJob
  dsimp only
  split
  · exact State.ctxRegs_of_ctxs (s.ctxs_mergeJob n)
  next j _ =>
    split
    · exact ((htask ..).trans (hbar ..)).trans (State.ctxRegs_of_ctxs (s.ctxs_mergeJob n))
    · exact ((State.ctxRegs_settleGrids _).trans (State.ctxRegs_finishTask ..)).trans (((htask ..).trans (hbar ..)).trans (State.ctxRegs_of_ctxs (s.ctxs_mergeJob n)))
theorem State.ctxRegs_cancelJob (n : Nat) : (s.cancelJob n).ctxRegs = s.ctxRegs := by
  unfold State.cancelJob
  split
  · rfl
  · exact (State.ctxRegs_finishJob ..).trans (State.ctxRegs_of_ctxs (State.ctxs_mergeJob ..))
theorem State.ctxRegs_teardown (c : CtxKey) : (s.teardown c).ctxRegs = s.ctxRegs := by
  unfold State.teardown
  dsimp only
  rw [State.ctxRegs_of_ctxs ((State.ctxs_logTo ..).trans (State.ctxs_foldl (fun u _ => u.ctxs_freeBanks ..) _ _)), State.ctxRegs_modLists]
  refine (State.ctxRegs_foldl (fun u _ => u.ctxRegs_finishTask ..) _ _).trans ?_
  refine (State.ctxRegs_of_ctxs ((State.ctxs_foldl (fun u _ => u.ctxs_setStatus ..) _ _).trans (State.ctxs_foldl (fun u _ => u.ctxs_setStatus ..) _ _))).trans ?_
  exact (State.ctxRegs_of_ctxs (State.ctxs_foldl (fun u n => u.ctxs_leaveTeam n) _ _)).trans (State.ctxRegs_foldl (fun u n => u.ctxRegs_cancelJob n) _ _)
theorem State.ctxRegs_enterTrap (i : TrapInfo) : (s.enterTrap k i).ctxRegs = s.ctxRegs := by
  have hwatch (u : State) (p : Prop) [Decidable p] (f : Gang → Gang) : (if p then u.modGang k f else u).ctxs = u.ctxs := by
    split <;> rfl
  unfold State.enterTrap
  dsimp only
  split
  · exact s.ctxRegs_teardown _
  · split
    · exact State.ctxRegs_of_ctxs (hwatch ..)
    · split
      next h => exact State.ctxRegs_of_ctxs ((State.ctxs_take h).trans (hwatch ..))
      · exact s.ctxRegs_teardown _
theorem State.ctxRegs_takeTrap (i : TrapInfo) : (s.takeTrap k i).ctxRegs = s.ctxRegs := by
  have hrecord : ((s.leaveSlot k).recordTrap k i).ctxs = s.ctxs := State.ctxs_recordTrap ..
  unfold State.takeTrap
  dsimp only
  split
  · exact (State.ctxRegs_enterTrap ..).trans (State.ctxRegs_of_ctxs hrecord)
  · exact State.ctxRegs_of_ctxs hrecord

-- What a serviced fault performs again (R267)

theorem State.ctxRegs_pageFault (w : PageWait) : (s.pageFault k w).ctxRegs = s.ctxRegs := by
  unfold State.pageFault
  dsimp only
  split
  · exact s.ctxRegs_takeTrap ..
  · exact State.ctxRegs_of_ctxs (s.ctxs_queueFault ..)
theorem State.ctxRegs_memTrap (i : TrapInfo) (miss : Option Nat) (kind : AccessKind) : (s.memTrap k i miss kind).ctxRegs = s.ctxRegs := by
  cases miss with
  | none => exact s.ctxRegs_takeTrap ..
  | some level => exact s.ctxRegs_pageFault ..
variable (r : Replay) (w : ReplayAt)
theorem State.ctxRegs_refault (f : LaneFault) (kind : AccessKind) : (s.refault k r w f kind).ctxRegs = s.ctxRegs := by
  unfold State.refault
  dsimp only
  split
  · exact State.ctxRegs_takeTrap ..
  · exact s.ctxRegs_memTrap ..
theorem State.ctxRegs_replayMem (i : Instr) (m : MemOp) : (s.replayMem k r w i m).ctxRegs = s.ctxRegs := by
  unfold State.replayMem
  split
  · exact s.ctxRegs_refault ..
  · dsimp only
    split
    · exact State.ctxRegs_of_ctxs (s.ctxs_fillTlbs ..)
    · rfl
theorem State.ctxRegs_replayQueue (o : QueueOp) : (s.replayQueue k r w o).ctxRegs = s.ctxRegs := by
  have hrun (vas : List Nat) : ((s.fillTlbs k vas).queueRun k o r.data o.wait r.addrs).1.ctxs = s.ctxs := (State.ctxs_queueRun ..).trans (s.ctxs_fillTlbs ..)
  unfold State.replayQueue
  split
  · exact s.ctxRegs_refault ..
  · refine State.ctxRegs_of_ctxs ?_
    dsimp only
    split
    · rw [State.replayResults, State.modGang_ctxs, hrun]
    · split
      · rw [State.ctxs_demote, State.replayResults, State.modGang_ctxs, hrun]
      · rw [State.ctxs_queueWait, State.modGang_ctxs, hrun]
theorem State.ctxRegs_enrolTask (c : CtxKey) (i : Nat) (x : Task) : (s.enrolTask c i x).ctxRegs = s.ctxRegs :=
  (State.ctxRegs_settleGrids _).trans (State.ctxRegs_of_ctxs (State.ctxs_markReady ..))
theorem State.ctxRegs_enrolGrid (c : CtxKey) (i : Nat) (x : Task) (l : Launch) (depth : Nat) (parent : Option Nat) : (s.enrolGrid c i x l depth parent).ctxRegs = s.ctxRegs :=
  State.ctxRegs_enrolTask ..
end CtxRegs

section Launch
variable {s t : State} {k : GangKey} {x : Nat}
theorem State.ctxRegs_postChild {bs : List Byte} {i : Nat} (h : s.postChild k bs i = .status t x) : t.ctxRegs = s.ctxRegs := by
  unfold State.postChild at h
  dsimp only at h
  repeat' split at h
  · cases h
  · cases h
  · cases h
  next hslot _ _ _ htask =>
    cases h
    exact ((State.ctxRegs_enrolGrid ..).trans (State.ctxRegs_modLists ..)).trans (State.ctxRegs_of_ctxs ((State.ctxs_foremanWrite htask).trans (State.ctxs_foremanWrite hslot)))
theorem State.ctxRegs_launchAt {addr : Nat} (h : s.launchAt k addr = .status t x) : t.ctxRegs = s.ctxRegs := by
  unfold State.launchAt at h
  dsimp only at h
  repeat' split at h
  · cases h; rfl
  · cases h; rfl
  · cases h; rfl
  · cases h
  · cases h
    exact State.ctxRegs_of_ctxs (s.ctxs_gangRead ..)
  · cases h
    exact State.ctxRegs_of_ctxs (s.ctxs_gangRead ..)
  · exact (State.ctxRegs_postChild h).trans (State.ctxRegs_of_ctxs (s.ctxs_gangRead ..))
variable (s) (k) (r : Replay) (w : ReplayAt)
theorem State.ctxRegs_replayLaunch : (s.replayLaunch k r w).ctxRegs = s.ctxRegs := by
  unfold State.replayLaunch
  split
  · rfl
  · split
    · exact s.ctxRegs_refault ..
    next h => exact (State.ctxRegs_of_ctxs (State.modGang_ctxs ..)).trans (State.ctxRegs_launchAt h)
theorem State.ctxRegs_replayCpyq : (s.replayCpyq k r w).ctxRegs = s.ctxRegs := by
  unfold State.replayCpyq
  split
  · rfl
  · dsimp only
    split
    · exact s.ctxRegs_refault ..
    · rfl
theorem State.ctxRegs_replaySlot : (s.replaySlot k r w).ctxRegs = s.ctxRegs := by
  have hcatch : (s.catchUp k).ctxRegs = s.ctxRegs := State.ctxRegs_of_ctxs (s.ctxs_catchUp k)
  unfold State.replaySlot
  dsimp only
  split
  · exact hcatch
  · split
    · exact (State.ctxRegs_replayMem ..).trans hcatch
    · exact (State.ctxRegs_replayQueue ..).trans hcatch
    · exact (State.ctxRegs_replayQueue ..).trans hcatch
    · exact (State.ctxRegs_replayQueue ..).trans hcatch
    · exact (State.ctxRegs_replayLaunch ..).trans hcatch
    · exact (State.ctxRegs_replayCpyq ..).trans hcatch
    · exact hcatch
theorem State.ctxRegs_answerGang (serviced : Bool) : (s.answerGang k serviced).ctxRegs = s.ctxRegs := by
  unfold State.answerGang
  dsimp only
  repeat' split
  · rfl
  · exact State.ctxRegs_takeTrap ..
  · exact State.ctxRegs_replaySlot ..
  · rfl
theorem State.ctxRegs_lateAnswer : (s.lateAnswer k).ctxRegs = s.ctxRegs := by
  unfold State.lateAnswer
  split
  · exact s.ctxRegs_answerGang ..
  · rfl
theorem State.ctxs_regang {t : State} (n : Nat) (blocks : List Byte) (gs : List (GangKey × Gang)) : ∀ {s : State} {off : Nat}, s.regang n blocks off gs = some t → t.ctxs = s.ctxs := by
  induction gs with
  | nil =>
    intro s off h
    cases h
    rfl
  | cons e gs ih =>
    intro s off h
    unfold State.regang at h
    dsimp only at h
    repeat' split at h
    · cases h
    · cases h
    · exact (ih h :)
theorem State.ctxRegs_restoreFrom {s t : State} {n slot : Nat} {bs : List Byte} (h : s.restoreFrom n slot bs = some t) : t.ctxRegs = s.ctxRegs := by
  unfold State.restoreFrom at h
  dsimp only at h
  repeat' split at h
  · cases h
  · cases h
  next hr =>
    cases h
    rw [State.ctxRegs_foldl fun u j => u.ctxRegs_lateAnswer j, State.ctxRegs_modLists]
    refine State.ctxRegs_of_ctxs ?_
    rw [State.modPart_ctxs, State.ctxs_foldl (f := State.putUnit) fun _ _ => rfl, State.modCore_ctxs]
    exact (State.ctxs_regang _ _ _ hr :)
end Launch
end Sys2Proof.Machine
end

section
/-! PROOFS. Pre-emption requests (R277), forced stops (R277), the save and the restore of a team (R279) and the shadow exchange (R278) (O56). That a spill which faults makes the save wait, and that a
slot which cannot be written fails the request, are the model's choices (log 97). -/
namespace Sys2Proof.Machine

-- Requests (R277)

/-- A gang of a marked team, which takes rule 1 unless a pre-emption has it already. -/
def Gang.marked (g : Gang) (b : Bool) : Gang := if b && !g.preempted then { g with preempt := .pending 0 } else g
theorem Gang.marked_false (g : Gang) : g.marked false = g := rfl
theorem Gang.marked_true {g : Gang} (h : g.preempt = .no) : g.marked true = { g with preempt := .pending 0 } := by rw [Gang.marked, Gang.preempted, h]; rfl
theorem Gang.marked_of_preempted {g : Gang} (h : g.preempted = true) (b : Bool) : g.marked b = g := by rw [Gang.marked, h, Bool.not_true, Bool.and_false]; rfl
theorem Gang.marked_marked (g : Gang) (a b : Bool) : (g.marked a).marked b = g.marked (a || b) := by
  cases h : g.preempted with
  | true => simp only [Gang.marked_of_preempted h]
  | false =>
    cases a with
    | false => rfl
    | true =>
      have hm : g.marked true = { g with preempt := .pending 0 } := by rw [Gang.marked, h]; rfl
      rw [Bool.true_or, hm]
      exact Gang.marked_of_preempted rfl b

section Request
variable {f : State → Nat → State} {k : GangKey} {g : Gang}
theorem State.tget_foldl_mark (hf : ∀ s n, (f s n).gangs = (s.markTeam n).gangs) (ns : List Nat) (s : State) (k : GangKey) :
    tget (ns.foldl f s).gangs k = (tget s.gangs k).map fun g => g.marked (ns.contains k.team) := by
  induction ns generalizing s with
  | nil => simp [Gang.marked_false]
  | cons n ns ih =>
    have hmark : tget (s.markTeam n).gangs k = (tget s.gangs k).map fun g => g.marked (decide (k.team = n)) :=
      tget_tmap s.gangs (fun k g => k.team = n && !g.preempted) (fun g => { g with preempt := .pending 0 }) k
    rw [List.foldl_cons, ih, hf, hmark, Option.map_map, List.contains_cons]
    exact congrArg (Option.map · _) (funext fun g => g.marked_marked ..)

variable (s : State) (p : Team → Bool)
/-- One turn of a SAVE's request. -/
def State.saveTurn (s : State) (n : Nat) : State := (s.modTeam n fun t => { t with preempting := true }).markTeam n
theorem State.requestSave_eq : s.requestSave p = (s.placedTeams p).foldl State.saveTurn s := rfl
theorem State.cores_requestSave : (s.requestSave p).cores = s.cores := foldl_keeps (f := State.saveTurn) State.cores (fun _ _ => rfl) _ s
theorem State.tget_requestSave (k : GangKey) : tget (s.requestSave p).gangs k = (tget s.gangs k).map fun g => g.marked ((s.placedTeams p).contains k.team) :=
  State.tget_foldl_mark (f := State.saveTurn) (fun _ _ => rfl) _ s k
theorem State.preempting_requestSave {n : Nat} (h : n ∈ s.placedTeams p) : ((s.requestSave p).team n).preempting = true := by
  have hturn (s : State) (m : Nat) : ((s.saveTurn m).team n).preempting = (n == m || (s.team n).preempting) := by
    show ((s.modTeam m fun t => { t with preempting := true }).team n).preempting = _
    by_cases hm : n = m
    · subst hm
      simp
    · rw [beq_false_of_ne hm, Bool.false_or]
      exact congrArg Team.preempting (tgetD_tset_ne s.teams _ _ hm)
  have hfold (ns : List Nat) (s : State) : ((ns.foldl State.saveTurn s).team n).preempting = (ns.contains n || (s.team n).preempting) := by
    induction ns generalizing s with
    | nil => rfl
    | cons m ns ih => rw [List.foldl_cons, ih, hturn, List.contains_cons, ← Bool.or_assoc, Bool.or_comm (ns.contains n)]
  rw [State.requestSave_eq, hfold, List.contains_iff_mem.2 h, Bool.true_or]
theorem State.tget_requestSwap (part : Nat) (k : GangKey) :
    tget (s.requestSwap part).gangs k = (tget s.gangs k).map fun g => g.marked ((s.placedTeams fun t => t.ctx.part = part).contains k.team) :=
  State.tget_foldl_mark (fun _ _ => rfl) _ _ k
theorem State.swapping_requestSwap (part : Nat) : ((s.requestSwap part).part part).swapping = true := by
  rw [State.requestSwap, foldl_keeps (f := State.markTeam) (fun t => t.part part) fun _ _ => rfl, State.part_modPart]
end Request

-- PREEMPT_FORCED_STOP (R277)

section ForcedStop
variable {s : State} {k : GangKey} {n : Nat} (h : (s.gang k).preempt = .pending n)
include h
theorem exec_preemptForcedStop : exec (.preemptForcedStop k) s = if 140000 ≤ n ∧ s.arrived k = false ∧ s.atBoundary k = true then
    .next ((s.modGang k fun x => { x with preempt := .stopped }).leaveSlot k) else .next s := by
  rw [show exec (.preemptForcedStop k) s = execPreemptForcedStop k s from rfl, execPreemptForcedStop, h]
  simp only [Bool.and_eq_true, Bool.not_eq_true', decide_eq_true_eq, and_assoc, ge_iff_le]
end ForcedStop

-- TEAM_SAVE and TEAM_RESTORE (R279)

section Team
variable {s : State} {n : Nat} {t : Team} (ht : tget s.teams n = some t)
include ht
theorem State.team_of_tget : s.team n = t := by rw [State.team, tgetD, ht]; rfl
theorem exec_teamSave_none (h : t.preempting = false ∨ s.teamHalted n = false ∨ s.flitsDue n = true) : exec (.teamSave n) s = .next s := by
  rw [show exec (.teamSave n) s = execTeamSave n s from rfl]
  simp only [execTeamSave, State.team_of_tget ht]
  refine if_pos ?_
  obtain h | h | h := h <;> simp [h]
section Halted
variable (hp : t.preempting = true) (hr : t.res = .placed) (hh : s.teamHalted n = true) (hf : s.flitsDue n = false)
include hp hr hh hf
theorem exec_teamSave_full (hs : s.freeSlot t.ctx = none) : exec (.teamSave n) s = .next (s.saveFails n) := by
  rw [show exec (.teamSave n) s = execTeamSave n s from rfl]
  simp only [execTeamSave, State.team_of_tget ht, ht, hp, hr, hh, hf, hs]
  rfl
variable {slot : Nat} (hs : s.freeSlot t.ctx = some slot)
include hs
theorem exec_teamSave_waits {s2 : State} (hw : s.spillTeam n = .error s2) : exec (.teamSave n) s = .next s2 := by
  rw [show exec (.teamSave n) s = execTeamSave n s from rfl]
  simp only [execTeamSave, State.team_of_tget ht, ht, hp, hr, hh, hf, hs, hw]
  rfl
variable {s2 : State} (hw : s.spillTeam n = .ok s2)
include hw
theorem exec_teamSave_saves {s3 : State} (hput : s2.foremanWrite t.ctx (s.slotVa t.ctx slot) (s2.slotImage n) = .ok s3) : exec (.teamSave n) s = .next (s3.leaveForSlot n slot) := by
  rw [show exec (.teamSave n) s = execTeamSave n s from rfl]
  simp only [execTeamSave, State.team_of_tget ht, ht, hp, hr, hh, hf, hs, hw, hput]
  rfl
theorem exec_teamSave_fails {e : Nat × MFault} (hput : s2.foremanWrite t.ctx (s.slotVa t.ctx slot) (s2.slotImage n) = .error e) : exec (.teamSave n) s = .next (s.saveFails n) := by
  rw [show exec (.teamSave n) s = execTeamSave n s from rfl]
  simp only [execTeamSave, State.team_of_tget ht, ht, hp, hr, hh, hf, hs, hw, hput]
  rfl
end Halted

section Restore
variable {slot : Nat} (hr : t.res = .saved slot) {h bs : List Byte} (hh : s.foremanRead t.ctx (s.slotVa t.ctx slot) 64 = .ok h)
  (hb : s.foremanRead t.ctx (s.slotVa t.ctx slot) (leField h 36 4) = .ok bs)
include hr hh hb
theorem exec_teamRestore_comes {u : State} (hu : s.restoreFrom n slot bs = some u) : exec (.teamRestore n) s = .next (u.foremanAsk t.ctx (u.slotVa t.ctx slot) bs.length) := by
  rw [show exec (.teamRestore n) s = execTeamRestore n s from rfl]
  simp only [execTeamRestore, State.team_of_tget ht, hr, hh, hb, hu]
theorem exec_teamRestore_stays (hu : s.restoreFrom n slot bs = none) : exec (.teamRestore n) s = .next s := by
  rw [show exec (.teamRestore n) s = execTeamRestore n s from rfl]
  simp only [execTeamRestore, State.team_of_tget ht, hr, hh, hb, hu]
end Restore
end Team
theorem State.slotVa_eq (s : State) (c : CtxKey) (i : Nat) : s.slotVa c i = (s.ctx c).savebase + 2 ^ 23 * i := by norm_num [State.slotVa, slotBytes]

-- SHADOW_EXCHANGE (R278)

section Shadow
variable {s : State} {p : Nat}
theorem exec_shadowExchange : exec (.shadowExchange p) s =
    if (s.part p).swapping = true ∧ s.partFlits p = false ∧ ∀ n ∈ s.placedTeams (fun t => t.ctx.part = p), s.teamHalted n = true then .next (s.exchange p) else .next s := by
  rw [show exec (.shadowExchange p) s = execShadowExchange p s from rfl, execShadowExchange]
  simp only [Bool.and_eq_true, Bool.not_eq_true', List.all_eq_true, and_assoc]

variable (s p) in
/-- The partition once its live image has left it. -/
def State.unloaded : State :=
  let out := s.placedTeams fun t => t.ctx.part = p
  let back := s.shadowedTeams p
  let u := ((s.liveImage p out).gangs.map Prod.fst).foldl (fun s k => s.leaveSlot k) s
  let u := { u with
    gangs := u.gangs.filter fun (e : GangKey × Gang) => !out.contains e.1.team,
    teams := u.teams.map fun (e : Nat × Team) =>
      if out.contains e.1 then (e.1, { e.2.loseTables with res := .shadowed }) else if back.contains e.1 then (e.1, { e.2.loseTables with res := .placed }) else e,
    cores := tmap u.cores (fun c _ => (u.part p).ownsCore c) fun (c : Core) => { c with scratch := [] } }
  (u.partCores p).foldl State.clearUnit u
/-- With no image in the shadow storage nothing comes back. -/
theorem State.exchange_empty (h : (s.part p).shadow = none) :
    s.exchange p = (s.unloaded p).modPart p fun x => { x with shadow := some (s.liveImage p (s.placedTeams fun t => t.ctx.part = p)), swapping := false } := by
  simp only [State.exchange, h, Option.getD_none, List.map_nil, List.filter_nil, List.foldl_nil, List.append_nil]
  rfl
theorem State.mem_unloaded : (s.unloaded p).mem = s.mem := by
  rw [State.unloaded, foldl_mem State.clearUnit_mem]
  exact foldl_mem (fun s k => s.leaveSlot_mem k) _ s
theorem State.gangs_unloaded : (s.unloaded p).gangs = s.gangs.filter fun e => !(s.placedTeams fun t => t.ctx.part = p).contains e.1.team := by
  rw [State.unloaded, foldl_keeps (f := State.clearUnit) State.gangs fun _ _ => rfl]
  exact congrArg (List.filter _) (foldl_keeps (f := fun s k => s.leaveSlot k) State.gangs (fun _ _ => rfl) _ s)
end Shadow

/-- Settles O56: a request marks the gangs of its teams, and each step of a pre-emption acts where its tests hold, or leaves the state. -/
theorem preemptionEventsAct : Obligations.PreemptionEventsAct := by
  intro s
  refine ⟨fun i f hi => ?save, fun p => ?swap, fun k n hk => ⟨fun hn ha hb => ?stops, fun h => ?runs⟩, fun n t ht hp hr hh hf => ?team, fun n t ht h => exec_teamSave_none ht h,
    fun n slot t h bs ht hr hh hb => ?restore, fun p => ?exchange⟩
  case save =>
    have hg := s.tget_requestSave f
    refine ⟨s.requestSave f, ?_, foldl_mem (f := State.saveTurn) (fun _ _ => rfl) _ s, s.cores_requestSave f, fun k g hk hp hn => ?_, fun k g hk hn => ?_, fun n => s.preempting_requestSave f⟩
    · obtain ⟨c, q, rfl, rfl⟩ | ⟨c, rfl, rfl⟩ | ⟨p, rfl, rfl⟩ := hi <;> rfl
    · rw [hg, hk, List.contains_iff_mem.2 hn, Option.map_some, Gang.marked_true hp]
    · rw [hg, hk, Bool.eq_false_iff.2 (mt List.contains_iff_mem.1 hn), Option.map_some, Gang.marked_false]
  case swap =>
    refine ⟨s.requestSwap p, rfl, foldl_mem (f := State.markTeam) (fun _ _ => rfl) _ _, s.swapping_requestSwap p, fun k g hk hp hn => ?_⟩
    rw [s.tget_requestSwap, hk, List.contains_iff_mem.2 hn, Option.map_some, Gang.marked_true hp]
  case stops => exact (exec_preemptForcedStop hk).trans (if_pos ⟨hn, ha, hb⟩)
  case runs =>
    refine (exec_preemptForcedStop hk).trans (if_neg fun ⟨hn, ha, hb⟩ => ?_)
    obtain h | h | h := h
    · omega
    · rw [ha] at h
      cases h
    · rw [hb] at h
      cases h
  case team =>
    simp only [← State.slotVa_eq]
    exact ⟨exec_teamSave_full ht hp hr hh hf, fun slot s2 hs hw => ⟨fun s3 => exec_teamSave_saves ht hp hr hh hf hs hw, fun e => exec_teamSave_fails ht hp hr hh hf hs hw⟩,
      fun slot s2 hs => exec_teamSave_waits ht hp hr hh hf hs⟩
  case restore =>
    rw [← State.slotVa_eq] at hh hb
    refine ⟨fun u hu => ?_, exec_teamRestore_stays ht hr hh hb⟩
    have hbase : (u.ctx t.ctx).savebase = (s.ctx t.ctx).savebase := State.savebase_of_ctxRegs (State.ctxRegs_restoreFrom hu) t.ctx
    rw [exec_teamRestore_comes ht hr hh hb hu, State.slotVa_eq, hbase]
  case exchange =>
    refine ⟨fun h => exec_shadowExchange.trans (if_pos h), fun h => exec_shadowExchange.trans (if_neg h), fun h => ?_⟩
    rw [State.exchange_empty h]
    refine ⟨congrArg Part.shadow (State.part_modPart ..), (congrArg Part.swapping (State.part_modPart ..) :), State.mem_unloaded, fun k hk => ?_, fun k hk => ?_⟩
    · exact (congrArg (tget · k) State.gangs_unloaded).trans (tget_filter_none _ fun v => by simp [hk])
    · exact (congrArg (tget · k) State.gangs_unloaded).trans (tget_filter _ fun v => by simp [hk])

end Sys2Proof.Machine
end

section
/-! PROOFS. Integer arithmetic (R359, R360): a type's values, and the pattern of a result, saturated or modulo the width (O12). -/
namespace Sys2Proof

-- Two's complement

theorem bitsOf_cast (w : Nat) (z : Int) : (bitsOf w z : Int) = z % 2 ^ w := Int.toNat_of_nonneg (Int.emod_nonneg z (by positivity))
theorem bitsOf_natCast (w n : Nat) : bitsOf w n = n % 2 ^ w := by
  zify
  exact bitsOf_cast w n
theorem signedOf_cases (w n : Nat) : (n % 2 ^ w < 2 ^ (w - 1) ∧ signedOf w n = (n % 2 ^ w : Nat)) ∨ (2 ^ (w - 1) ≤ n % 2 ^ w ∧ signedOf w n = (n % 2 ^ w : Nat) - 2 ^ w) := by
  unfold signedOf
  by_cases h : n % 2 ^ w < 2 ^ (w - 1)
  · exact .inl ⟨h, if_pos h⟩
  · exact .inr ⟨not_lt.1 h, if_neg h⟩
/-- The signed reading keeps the pattern. -/
theorem signedOf_emod (w n : Nat) : signedOf w n % 2 ^ w = (n : Int) % 2 ^ w := by
  obtain ⟨-, h⟩ | ⟨-, h⟩ := signedOf_cases w n
  · simp [h]
  · simp [h]

-- A type's values (R360)

section Values
variable (ty : ITy) (n : Nat)
theorem ITy.bits_cases : ty.bits = 64 ∨ ty.bits = 32 := by
  unfold ITy.bits
  split <;> simp
theorem ITy.val_emod : ty.val n % 2 ^ ty.bits = n % 2 ^ ty.bits := by
  unfold ITy.val
  split
  · exact signedOf_emod _ _
  · simp
theorem ITy.val_bounds : ty.lo ≤ ty.val n ∧ ty.val n ≤ ty.hi := by
  have hlt : n % 2 ^ ty.bits < 2 ^ ty.bits := Nat.mod_lt _ (by positivity)
  have hs := signedOf_cases ty.bits n
  unfold ITy.lo ITy.hi ITy.val
  obtain hb | hb := ty.bits_cases <;> rw [hb] at hs hlt ⊢ <;> norm_num at hs hlt ⊢ <;> split <;> omega
/-- A pattern reads back as its value where the type has it. -/
theorem ITy.val_bitsOf {z : Int} (hlo : ty.lo ≤ z) (hhi : z ≤ ty.hi) : ty.val (bitsOf ty.bits z) = z := by
  have hmod := ty.val_emod (bitsOf ty.bits z)
  have hval := ty.val_bounds (bitsOf ty.bits z)
  rw [bitsOf_cast, Int.emod_emod] at hmod
  unfold ITy.lo ITy.hi at *
  obtain hb | hb := ty.bits_cases <;> rw [hb] at hmod hval hlo hhi ⊢ <;> norm_num at hmod hval hlo hhi <;> split at hval <;> simp_all <;> omega
theorem ITy.lo_le_hi : ty.lo ≤ ty.hi := (ty.val_bounds 0).1.trans (ty.val_bounds 0).2
theorem ITy.val_result_sat (z : Int) : ty.val (ty.result true z) = if z < ty.lo then ty.lo else if z > ty.hi then ty.hi else z := by
  have h := ty.lo_le_hi
  refine (ty.val_bitsOf (le_max_left _ _) (max_le h (min_le_left _ _))).trans ?_
  grind
end Values
end Sys2Proof

namespace Sys2Proof.Machine

/-- Settles O12: each word sets its result lane by lane, and a result is a value of its type or its residue. -/
theorem integerArithmetic : Obligations.IntegerArithmetic := by
  refine fun s s1 x g => ⟨fun a => issueWord_lanes_set, fun a => issueWord_lanes_set, fun a h => ?imul, fun a => issueWord_lanes_set, fun a => issueWord_lanes_set,
    fun a => issueWord_lanes_set, fun ty n => ⟨ty.val_emod n, ty.val_bounds n⟩, fun ty z => ⟨rfl, ty.val_result_sat z⟩⟩
  case imul =>
    refine (issueWord_lanes_set h).trans ?_
    cases a.var <;> rfl

end Sys2Proof.Machine
end

section
/-! PROOFS. Logic, shifts, bit counts and bit fields (R306, R314, R316, R380, R395): shifts by any amount, the counts as runs of bits, and the bits of a field (O13). -/
namespace Sys2Proof

-- Shifts (R395)

theorem shiftLeft_eq (ty : BTy) (x n : Nat) : shiftLeft ty x n = x * 2 ^ n % 2 ^ ty.bits := by
  unfold shiftLeft
  split
  · rename_i h
    exact (Nat.mod_eq_zero_of_dvd ((Nat.pow_dvd_pow 2 h).mul_left x)).symm
  · rfl
/-- From the width of a value on, a shift leaves its sign alone. -/
theorem ediv_two_pow_of_lt {z : Int} {w n : Nat} (hlo : -2 ^ w ≤ z) (hhi : z < 2 ^ w) (hn : w ≤ n) : z / 2 ^ n = if 0 ≤ z then 0 else -1 := by
  have hpow : (2 : Int) ^ w ≤ 2 ^ n := pow_le_pow_right₀ (by decide) hn
  split
  · rename_i h
    exact Int.ediv_eq_zero_of_lt h (hhi.trans_le hpow)
  · rw [Int.ediv_eq_iff_of_pos (by positivity)]
    omega
theorem signedOf_bounds (w n : Nat) : -2 ^ w ≤ signedOf w n ∧ signedOf w n < 2 ^ w := by
  have hlt : ((n % 2 ^ w : Nat) : Int) < 2 ^ w := by exact_mod_cast Nat.mod_lt n (by positivity)
  obtain ⟨-, h⟩ | ⟨-, h⟩ := signedOf_cases w n <;> omega
theorem shiftArith_eq (ty : BTy) (x n : Nat) : shiftArith ty x n = (signedOf ty.bits x / 2 ^ n % 2 ^ ty.bits).toNat := by
  have hb := signedOf_bounds ty.bits x
  show bitsOf _ _ = bitsOf _ _
  obtain hn | hn := le_total n ty.bits
  · rw [min_eq_left hn]
  · rw [min_eq_right hn, ediv_two_pow_of_lt hb.1 hb.2 le_rfl, ediv_two_pow_of_lt hb.1 hb.2 hn]

-- Bit counts (R314)

theorem length_takeWhile_not {α : Type} (p : α → Bool) (l : List α) : (l.takeWhile fun a => !p a).length = l.findIdx p := by
  rw [List.takeWhile_eq_take_findIdx_not, List.length_take]
  simpa using List.findIdx_le_length
section Counts
variable (w x : Nat)
theorem countBits_tzc : countBits .tzc w x = (List.range w).findIdx x.testBit := length_takeWhile_not ..
theorem countBits_lzc : countBits .lzc w x = (List.range w).reverse.findIdx x.testBit := length_takeWhile_not ..
theorem testBit_of_mod_eq_zero {w x i : Nat} (h : x % 2 ^ w = 0) (hi : i < w) : x.testBit i = false := by
  have := Nat.testBit_mod_two_pow x w i
  simpa [h, hi] using this.symm
theorem exists_testBit_of_mod_ne_zero {w x : Nat} (h : x % 2 ^ w ≠ 0) : ∃ i < w, x.testBit i = true := by
  obtain ⟨i, hi⟩ := Nat.exists_testBit_of_ne_zero h
  rw [Nat.testBit_mod_two_pow, Bool.and_eq_true, decide_eq_true_eq] at hi
  exact ⟨i, hi⟩
theorem countBits_of_zero (h : x % 2 ^ w = 0) : countBits .lzc w x = w ∧ countBits .tzc w x = w := by
  have hz : ∀ i ∈ List.range w, x.testBit i = false := fun i hi => testBit_of_mod_eq_zero h (List.mem_range.1 hi)
  rw [countBits_lzc, countBits_tzc]
  constructor
  · simpa using List.findIdx_eq_length.2 (fun i hi => hz i (List.mem_reverse.1 hi))
  · simpa using List.findIdx_eq_length.2 hz
variable (h : x % 2 ^ w ≠ 0)
include h
theorem countBits_tzc_of_ne_zero : x.testBit (countBits .tzc w x) = true ∧ ∀ i, i < countBits .tzc w x → x.testBit i = false := by
  obtain ⟨j, hj, hx⟩ := exists_testBit_of_mod_ne_zero h
  have hlt := List.findIdx_lt_length.2 ⟨j, List.mem_range.2 hj, hx⟩
  rw [countBits_tzc]
  refine ⟨?_, fun i hi => ?_⟩
  · simpa using List.findIdx_getElem (w := hlt)
  · simpa using List.not_of_lt_findIdx hi
theorem countBits_lzc_of_ne_zero :
    x.testBit (w - 1 - countBits .lzc w x) = true ∧ ∀ i, i < w → i > w - 1 - countBits .lzc w x → x.testBit i = false := by
  obtain ⟨j, hj, hx⟩ := exists_testBit_of_mod_ne_zero h
  have hlt := List.findIdx_lt_length.2 ⟨j, List.mem_reverse.2 (List.mem_range.2 hj), hx⟩
  rw [countBits_lzc]
  refine ⟨?_, fun i hw hi => ?_⟩
  · simpa using List.findIdx_getElem (w := hlt)
  · have hbefore : w - 1 - i < (List.range w).reverse.findIdx x.testBit := by omega
    have hbit := List.not_of_lt_findIdx hbefore
    simp only [List.getElem_reverse, List.length_range, List.getElem_range] at hbit
    rwa [show w - 1 - (w - 1 - i) = i by omega] at hbit
end Counts

-- Bit fields (R316)

theorem signedOf_eq_toInt {w : Nat} (hw : w ≠ 0) (n : Nat) : signedOf w n = (BitVec.ofNat w n).toInt := by
  obtain ⟨k, rfl⟩ := Nat.exists_eq_succ_of_ne_zero hw
  have h2 : 2 ^ (k + 1) = 2 * 2 ^ k := Nat.pow_succ'
  rw [BitVec.toInt_eq_toNat_cond, BitVec.toNat_ofNat]
  unfold signedOf
  simp only [Nat.succ_eq_add_one, Nat.add_sub_cancel, Nat.cast_pow, Nat.cast_ofNat]
  congr 1
  rw [h2, eq_iff_iff, Nat.mul_lt_mul_left (by decide)]
theorem bitsOf_toInt {w : Nat} (v : Nat) (b : BitVec w) : bitsOf v b.toInt = (b.signExtend v).toNat := by
  zify
  rw [bitsOf_cast, BitVec.signExtend, BitVec.toNat_ofInt, Int.toNat_of_nonneg (Int.emod_nonneg _ (by positivity))]
  push_cast
  rfl
section Field
variable {ty : ITy} (x pos i n : Nat)
/-- Of a signed type: the source shifted down keeps its sign, the field's top bit is the result's. -/
theorem testBit_field_signed {w : Nat} (hw : w ≠ 0) (hn : n ≠ 0) (hle : n ≤ w) :
    (bitsOf w (signedOf n (bitsOf n (signedOf w x / 2 ^ pos)))).testBit i =
      (decide (i < w) && if i < n then (if pos + i < w then x.testBit (pos + i) else x.testBit (w - 1))
        else if pos + (n - 1) < w then x.testBit (pos + (n - 1)) else x.testBit (w - 1)) := by
  have hsrc : signedOf w x / 2 ^ pos = ((BitVec.ofNat w x).sshiftRight pos).toInt := by
    rw [signedOf_eq_toInt hw, BitVec.toInt_sshiftRight, Int.shiftRight_eq_div_pow]
    push_cast
    rfl
  rw [hsrc, bitsOf_toInt, signedOf_eq_toInt hn, BitVec.ofNat_toNat, BitVec.setWidth_eq, bitsOf_toInt, BitVec.testBit_toNat, BitVec.getLsbD_signExtend,
    BitVec.msb_eq_getLsbD_last]
  have hbit : ∀ j < n, (BitVec.signExtend n ((BitVec.ofNat w x).sshiftRight pos)).getLsbD j = if pos + j < w then x.testBit (pos + j) else x.testBit (w - 1) := by
    intro j hj
    have hjw : j < w := by omega
    have hlast : w - 1 < w := by omega
    rw [BitVec.getLsbD_signExtend, BitVec.getLsbD_sshiftRight, BitVec.msb_eq_getLsbD_last (BitVec.ofNat w x)]
    by_cases hp : pos + j < w <;> simp only [BitVec.getLsbD_ofNat, hj, hjw, not_le.2 hjw, hp, hlast, decide_true, decide_false, Bool.not_false, Bool.true_and, if_true, if_false]
  congr 1
  by_cases hi : i < n
  · rw [if_pos hi, if_pos hi, hbit i hi]
  · rw [if_neg hi, if_neg hi, hbit (n - 1) (by omega)]
theorem testBit_field_unsigned (w : Nat) :
    (bitsOf n ((x % 2 ^ w : Nat) / 2 ^ pos : Int)).testBit i = (decide (i < n) && (decide (pos + i < w) && x.testBit (pos + i))) := by
  rw [show ((x % 2 ^ w : Nat) / 2 ^ pos : Int) = ((x % 2 ^ w / 2 ^ pos : Nat) : Int) by push_cast; rfl, bitsOf_natCast, Nat.testBit_mod_two_pow,
    Nat.testBit_div_two_pow, Nat.testBit_mod_two_pow, Nat.add_comm]
end Field
theorem testBit_extractField (ty : ITy) (v pos len i : Nat) :
    let n := min (len % 256) ty.bits
    let src (j : Nat) : Bool := if pos % 256 + j < ty.bits then v.testBit (pos % 256 + j) else ty.signed && v.testBit (ty.bits - 1)
    (extractField ty v pos len).testBit i = (decide (i < ty.bits ∧ n ≠ 0) && if i < n then src i else ty.signed && src (n - 1)) := by
  intro n src
  have hw : ty.bits ≠ 0 := by have := ty.bits_cases; omega
  have hle : n ≤ ty.bits := min_le_right ..
  unfold extractField
  by_cases hn : n = 0
  · simp [hn, show min (len % 256) ty.bits = 0 from hn]
  rw [if_neg hn]
  cases hs : ty.signed with
  | true =>
    simp only [if_true, src, hs, Bool.true_and, hn, ne_eq, not_false_eq_true, and_true]
    exact testBit_field_signed v _ i n hw hn hle
  | false =>
    have hlt : i < n → i < ty.bits := fun h => h.trans_le hle
    simp only [Bool.false_eq_true, if_false, src, hs, Bool.false_and, hn, ne_eq, not_false_eq_true, and_true]
    refine (testBit_field_unsigned v _ i n ty.bits).trans ?_
    by_cases hi : i < n <;> simp [hi, hlt]

/-- The number whose bits below w are those of f. -/
def numberOf (f : Nat → Bool) (w : Nat) : Nat := (List.range w).foldl (fun acc i => if f i then acc + 2 ^ i else acc) 0
section NumberOf
variable (f : Nat → Bool) (w : Nat)
theorem numberOf_succ : numberOf f (w + 1) = if f w then 2 ^ w + numberOf f w else numberOf f w := by
  simp only [numberOf, List.range_succ, List.foldl_append, List.foldl_cons, List.foldl_nil, Nat.add_comm]
theorem numberOf_lt : numberOf f w < 2 ^ w := by
  induction w with
  | zero => exact Nat.one_pos
  | succ w ih =>
    rw [numberOf_succ, Nat.pow_succ]
    split <;> omega
theorem testBit_numberOf (i : Nat) : (numberOf f w).testBit i = (decide (i < w) && f i) := by
  induction w with
  | zero => exact Nat.zero_testBit i
  | succ w ih =>
    rw [numberOf_succ]
    obtain hi | rfl | hi := lt_trichotomy i w
    · simp [Nat.testBit_two_pow_add_gt hi, apply_ite (Nat.testBit · i), ih, hi, Nat.lt_succ_of_lt hi]
    · cases hf : f i <;> simp [Nat.testBit_two_pow_add_eq, ih]
    · have hlt := (numberOf_succ f w ▸ numberOf_lt f (w + 1)).trans_le (Nat.pow_le_pow_right (by decide) hi)
      rw [Nat.testBit_eq_false_of_lt hlt]
      simp [show ¬ i < w + 1 by omega]
end NumberOf
theorem testBit_insertField (ty : BTy) (v y pl i : Nat) : (insertField ty v y pl).testBit i =
    (decide (i < ty.bits) && if pl % 256 ≤ i ∧ i < pl % 256 + min (pl / 256 % 256) ty.bits then y.testBit (i - pl % 256) else v.testBit i) := by
  refine (testBit_numberOf _ ty.bits i).trans ?_
  simp only [Bool.and_eq_true, decide_eq_true_eq]
end Sys2Proof

namespace Sys2Proof.Machine

/-- Settles O13: each word sets its result lane by lane; a count is the place of the first set bit from its end, and a field's bits are those of the shifted source. -/
theorem logicShiftsAndFields : Obligations.LogicShiftsAndFields := by
  refine fun s s1 x g => ⟨fun a => issueWord_lanes_set, fun a => issueWord_lanes_set, fun a => issueWord_lanes_set, fun a => issueWord_lanes_set, fun a h => ?shl,
    fun a => issueWord_lanes_set, fun a h => ?sar, fun a => issueWord_lanes_set, fun a => issueWord_lanes_set, fun a => issueWord_lanes_set,
    fun w v => ⟨rfl, countBits_of_zero w v, fun h => ?count⟩, testBit_extractField, fun y t l a b p n => ⟨rfl, rfl⟩, testBit_insertField⟩
  case shl =>
    refine (issueWord_lanes_set h).trans ?_
    simp only [shiftLeft_eq]
  case sar =>
    refine (issueWord_lanes_set h).trans ?_
    simp only [shiftArith_eq]
  case count =>
    obtain ⟨hlzc, habove⟩ := countBits_lzc_of_ne_zero w v h
    obtain ⟨htzc, hbelow⟩ := countBits_tzc_of_ne_zero w v h
    exact ⟨hlzc, htzc, hbelow, habove⟩

end Sys2Proof.Machine
end

section
/-! PROOFS. Binary floating point (R134, R348, R351): the halves of packed types, and the choice of FMIN and FMAX by the order of exact values (O14). -/
namespace Sys2Proof

-- Packed halves (R116)

section Halves
variable {t : FTy}
theorem FTy.lift2_packed (ht : t = .f16x2 ∨ t = .bf16x2) (h : Nat → Nat → Nat) (y z : Nat) : t.lift2 h y z = onHalves2 h y z := by rcases ht with rfl | rfl <;> rfl
theorem FTy.lift3_packed (ht : t = .f16x2 ∨ t = .bf16x2) (h : Nat → Nat → Nat → Nat) (y z u : Nat) : t.lift3 h y z u = onHalves3 h y z u := by rcases ht with rfl | rfl <;> rfl
theorem FTy.lift2_narrow (ht : t = .f16 ∨ t = .bf16) (h : Nat → Nat → Nat) (y z : Nat) : t.lift2 h y z = h (y % 65536) (z % 65536) := by rcases ht with rfl | rfl <;> rfl
theorem FTy.lift3_narrow (ht : t = .f16 ∨ t = .bf16) (h : Nat → Nat → Nat → Nat) (y z u : Nat) : t.lift3 h y z u = h (y % 65536) (z % 65536) (u % 65536) := by
  rcases ht with rfl | rfl <;> rfl
end Halves
/-- The halves of two 16-bit patterns. -/
theorem halves_of_packed {lo hi : Nat} (hl : lo < 65536) (hh : hi < 65536) :
    (lo % 65536 + hi % 65536 * 65536) % 65536 = lo ∧ (lo % 65536 + hi % 65536 * 65536) / 65536 = hi := by omega

-- The order of exact values (R134)

theorem Exact.cmp_swap (y z : Exact) : z.cmp y = -y.cmp z := by
  cases y with
  | nan => cases z with
    | nan | fin => rfl
    | inf t => cases t <;> rfl
  | inf s => cases z with
    | inf t => cases s <;> cases t <;> rfl
    | nan | fin => cases s <;> rfl
  | fin s n d e => cases z with
    | nan => rfl
    | inf t => cases t <;> rfl
    | fin t m c g =>
      simp only [Exact.cmp]
      rw [min_comm g e, ← neg_sub, Int.sign_neg]
theorem Exact.lessMin_of_cmp_neg {y z : Exact} (h : y.cmp z < 0) : y.lessMin z = true ∧ z.lessMin y = false := by
  have hswap := y.cmp_swap z
  constructor
  · simp [Exact.lessMin, h]
  · simp [Exact.lessMin, show ¬ z.cmp y < 0 by omega, show ¬ z.cmp y = 0 by omega]

section MinMax
variable {f : FloatFmt} {y z : Nat}
theorem FloatFmt.min_max_nan_nan (hy : (f.decode y).isNaN = true) (hz : (f.decode z).isNaN = true) : f.min y z = f.nan ∧ f.max y z = f.nan := by
  simp [FloatFmt.min, FloatFmt.max, hy, hz]
theorem FloatFmt.min_max_nan_left (hy : (f.decode y).isNaN = true) (hz : (f.decode z).isNaN = false) : f.min y z = z ∧ f.max y z = z := by
  simp [FloatFmt.min, FloatFmt.max, hy, hz]
variable (hy : (f.decode y).isNaN = false)
include hy
theorem FloatFmt.min_max_nan_right (hz : (f.decode z).isNaN = true) : f.min y z = y ∧ f.max y z = y := by
  simp [FloatFmt.min, FloatFmt.max, hy, hz]
variable (hz : (f.decode z).isNaN = false)
include hz
theorem FloatFmt.min_max_of_less (h : (f.decode y).cmp (f.decode z) < 0) : f.min y z = y ∧ f.max y z = z := by
  obtain ⟨hless, hmore⟩ := Exact.lessMin_of_cmp_neg h
  simp [FloatFmt.min, FloatFmt.max, hy, hz, hless, hmore]
theorem FloatFmt.min_max_of_more (h : (f.decode y).cmp (f.decode z) > 0) : f.min y z = z ∧ f.max y z = y := by
  obtain ⟨hless, hmore⟩ := Exact.lessMin_of_cmp_neg (y := f.decode z) (z := f.decode y) (by rw [Exact.cmp_swap]; omega)
  simp [FloatFmt.min, FloatFmt.max, hy, hz, hless, hmore]
end MinMax
theorem F3.min_max_zeros (t : F3) : t.fmt.min 0 t.fmt.signBit = t.fmt.signBit ∧ t.fmt.min t.fmt.signBit 0 = t.fmt.signBit ∧
    t.fmt.max 0 t.fmt.signBit = 0 ∧ t.fmt.max t.fmt.signBit 0 = 0 := by cases t <;> decide

end Sys2Proof

namespace Sys2Proof.Machine

/-- Settles O14: each word sets its result lane by lane, a packed type's halves apart; FMIN and FMAX choose by the order of the operands' values. -/
theorem floatingPoint : Obligations.FloatingPoint := by
  refine ⟨fun s s1 x g => ⟨fun a => issueWord_lanes_set, fun a => issueWord_lanes_set, fun a => issueWord_lanes_set, fun a => issueWord_lanes_set, fun a => issueWord_lanes_set⟩,
    fun h y z hlt => ⟨fun t ht => ?halves2, fun t ht => FTy.lift2_narrow ht h y z⟩, fun h y z => rfl,
    fun h y z u hlt => ⟨fun t ht => ?halves3, fun t ht => FTy.lift3_narrow ht h y z u⟩, fun h y z u => rfl,
    fun f rnd n1 n2 n3 y z u => ⟨rfl, rfl, rfl⟩,
    fun f y z => ⟨FloatFmt.min_max_nan_nan, FloatFmt.min_max_nan_left, FloatFmt.min_max_nan_right, FloatFmt.min_max_of_less, FloatFmt.min_max_of_more⟩, F3.min_max_zeros⟩
  case halves2 =>
    rw [FTy.lift2_packed ht]
    exact halves_of_packed (hlt ..) (hlt ..)
  case halves3 =>
    rw [FTy.lift3_packed ht]
    exact halves_of_packed (hlt ..) (hlt ..)

end Sys2Proof.Machine
end

section
/-! PROOFS. FCMP (R349, R350): the order of exact values is that of the rationals they stand for, an infinity beyond all of them and NaN out of it (O15). -/
namespace Sys2Proof

/-- The rational number of a finite exact value. -/
def finRat (b : Bool) (n d : Nat) (e : Int) : ℚ := (if b then -1 else 1) * n / d * (2 : ℚ) ^ e

section Rational
variable {b b' : Bool} {n n' d d' : Nat} {e e' : Int}
theorem signedAt_cast (b : Bool) (n : Nat) {e base : Int} (h : base ≤ e) : (signedAt b n e base : ℚ) = (if b then -1 else 1) * n * (2 : ℚ) ^ (e - base) := by
  obtain ⟨k, hk⟩ := Int.eq_ofNat_of_zero_le (sub_nonneg.2 h)
  unfold signedAt
  rw [hk, Nat.shiftLeft_eq]
  cases b <;> simp
variable (hd : 0 < d) (hd' : 0 < d')
include hd hd'
/-- Over a common denominator, the numerators differ as the numbers do. -/
theorem cmp_numerators : ((signedAt b (n * d') e (min e e') - signedAt b' (n' * d) e' (min e e') : Int) : ℚ) =
    (finRat b n d e - finRat b' n' d' e') * (d * d' * (2 : ℚ) ^ (-min e e')) := by
  push_cast
  rw [signedAt_cast b _ (min_le_left e e'), signedAt_cast b' _ (min_le_right e e'), sub_eq_add_neg e, sub_eq_add_neg e', zpow_add₀ two_ne_zero, zpow_add₀ two_ne_zero]
  unfold finRat
  push_cast
  field_simp
theorem cmp_fin_pos : 0 < (Exact.fin b n d e).cmp (.fin b' n' d' e') ↔ finRat b' n' d' e' < finRat b n d e := by
  have hpos : (0 : ℚ) < d * d' * (2 : ℚ) ^ (-min e e') := by positivity
  show 0 < Int.sign _ ↔ _
  rw [Int.sign_pos_iff, ← Int.cast_pos (R := ℚ), cmp_numerators hd hd', mul_pos_iff_of_pos_right hpos, sub_pos]
theorem cmp_fin_zero : (Exact.fin b n d e).cmp (.fin b' n' d' e') = 0 ↔ finRat b n d e = finRat b' n' d' e' := by
  have hpos : (0 : ℚ) < d * d' * (2 : ℚ) ^ (-min e e') := by positivity
  show Int.sign _ = 0 ↔ _
  rw [Int.sign_eq_zero_iff_zero, ← Int.cast_eq_zero (α := ℚ), cmp_numerators hd hd', mul_eq_zero, or_iff_left hpos.ne', sub_eq_zero]
/-- A condition on finite values is the order of their numbers. -/
theorem FCond.holds_fin (c : FCond) : c.holds (.fin b n d e) (.fin b' n' d' e') = true ↔
    match c with
    | .eq => finRat b n d e = finRat b' n' d' e'
    | .ne => finRat b n d e ≠ finRat b' n' d' e'
    | .lt => finRat b n d e < finRat b' n' d' e'
    | .le => finRat b n d e ≤ finRat b' n' d' e'
    | .gt => finRat b n d e > finRat b' n' d' e'
    | .ge => finRat b n d e ≥ finRat b' n' d' e'
    | .num => True
    | .nan => False := by
  have hzero := cmp_fin_zero (b := b) (n := n) (e := e) (b' := b') (n' := n') (e' := e') hd hd'
  have hpos := cmp_fin_pos (b := b) (n := n) (e := e) (b' := b') (n' := n') (e' := e') hd hd'
  have hneg := cmp_fin_pos (b := b') (n := n') (e := e') (b' := b) (n' := n) (e' := e) hd' hd
  rw [Exact.cmp_swap (.fin b n d e)] at hneg
  cases c <;> simp only [FCond.holds, Exact.isNaN, Bool.or_self, Bool.not_false, Bool.true_and, Bool.false_or, decide_eq_true_eq, hzero, ne_eq, ge_iff_le, gt_iff_lt,
    Bool.false_eq_true]
  case lt => rw [← hneg, neg_pos]
  case le => rw [← not_lt, ← not_lt, hpos]
  case gt => exact hpos
  case ge => rw [← not_lt, ← not_lt, ← hneg, neg_pos]
end Rational

theorem FCond.holds_nan (c : FCond) {y z : Exact} (h : y.isNaN = true ∨ z.isNaN = true) : c.holds y z = decide (c = .ne ∨ c = .nan) := by
  have hun : (y.isNaN || z.isNaN) = true := by simpa using h
  cases c <;> simp [FCond.holds, hun]
/-- A condition on two values that are no NaN, the second below or above the first, or equal to it. -/
theorem FCond.holds_of_cmp (c : FCond) {y z : Exact} (hy : y.isNaN = false) (hz : z.isNaN = false) :
    (y.cmp z < 0 → c.holds y z = decide (c = .ne ∨ c = .lt ∨ c = .le ∨ c = .num)) ∧ (0 < y.cmp z → c.holds y z = decide (c = .ne ∨ c = .gt ∨ c = .ge ∨ c = .num)) ∧
    (y.cmp z = 0 → c.holds y z = decide (c = .eq ∨ c = .le ∨ c = .ge ∨ c = .num)) := by
  refine ⟨fun h => ?_, fun h => ?_, fun h => ?_⟩ <;> cases c <;> simp [FCond.holds, hy, hz] <;> omega
theorem FCond.holds_inf_fin (c : FCond) (b b' : Bool) (n d : Nat) (e : Int) : c.holds (.inf b) (.fin b' n d e) =
    if b then decide (c = .ne ∨ c = .lt ∨ c = .le ∨ c = .num) else decide (c = .ne ∨ c = .gt ∨ c = .ge ∨ c = .num) := by
  obtain ⟨hless, hmore, -⟩ := c.holds_of_cmp (y := .inf b) (z := .fin b' n d e) rfl rfl
  cases b with
  | true => exact hless (by decide : (-1 : Int) < 0)
  | false => exact hmore (by decide : (0 : Int) < 1)
theorem FCond.holds_fin_inf (c : FCond) (b b' : Bool) (n d : Nat) (e : Int) : c.holds (.fin b' n d e) (.inf b) =
    if b then decide (c = .ne ∨ c = .gt ∨ c = .ge ∨ c = .num) else decide (c = .ne ∨ c = .lt ∨ c = .le ∨ c = .num) := by
  obtain ⟨hless, hmore, -⟩ := c.holds_of_cmp (y := .fin b' n d e) (z := .inf b) rfl rfl
  cases b with
  | true => exact hmore (by decide : (0 : Int) < 1)
  | false => exact hless (by decide : (-1 : Int) < 0)
theorem FCond.holds_inf_inf (c : FCond) (b b2 : Bool) : c.holds (.inf b) (.inf b2) =
    if b = b2 then decide (c = .eq ∨ c = .le ∨ c = .ge ∨ c = .num)
    else if b then decide (c = .ne ∨ c = .lt ∨ c = .le ∨ c = .num) else decide (c = .ne ∨ c = .gt ∨ c = .ge ∨ c = .num) := by
  cases c <;> cases b <;> cases b2 <;> rfl

end Sys2Proof

namespace Sys2Proof.Machine

/-- Settles O15: the condition's outcome is the lane's result, and it holds as the values' numbers stand to each other. -/
theorem fcmpWritesTheOutcome : Obligations.FcmpWritesTheOutcome := by
  refine ⟨fun s s1 x g a => issueWord_lanes_set, fun c y z => c.holds_nan, fun b b' n n' d d' e e' hd hd' => ?finite, fun c b b' b2 n d e =>
    ⟨c.holds_inf_fin b b' n d e, c.holds_fin_inf b b' n d e, c.holds_inf_inf b b2⟩⟩
  case finite =>
    have h := FCond.holds_fin (b := b) (n := n) (e := e) (b' := b') (n' := n') (e' := e') hd hd'
    exact ⟨h .eq, h .ne, h .lt, h .le, h .gt, h .ge, (h .num).2 trivial, Bool.eq_false_iff.2 (h .nan).1⟩

end Sys2Proof.Machine
end

section
/-! PROOFS. Comparison, choice and moves (R240, R241, R361, R369, R375, R376, R379, R384, R396): each word's result for a lane, and MOV's message registers (O16). -/
namespace Sys2Proof.Machine

section Mov
variable {a : MovArgs} {x : Issue} {s : State}
theorem movTo_reads (hd : ∀ m, a.d ≠ .mo m) (value : Nat → Nat) : movTo a value none x s = .done (s.lanesSet x a.d a.ty.regs value) := by
  unfold movTo
  dsimp only
  split
  next m hm => exact absurd hm (hd m)
  next => rfl
end Mov
theorem leaResult_eq (n32 sx : Bool) (sh base index : Nat) : leaResult n32 sx sh base index =
    if n32 then Int.toNat (((base : Int) + (if sx then signedOf 32 index else ((index % 2 ^ 32 : Nat) : Int)) * 2 ^ sh) % 2 ^ 32)
    else Int.toNat (((base : Int) + (if sx then signedOf 32 index else ((index % 2 ^ 32 : Nat) : Int)) * 2 ^ sh) % 2 ^ 64) := by
  cases n32 <;> rfl

/-- Settles O16: each word sets its result lane by lane; MOV takes the flit that stands in mi n, and sends one from mo n under the binding's credit. -/
theorem compareChooseMove : Obligations.CompareChooseMove := by
  refine ⟨fun s s1 x g => ⟨fun a => issueWord_lanes_set, fun y z => ⟨rfl, rfl, rfl, rfl, rfl, rfl⟩, fun a => issueWord_lanes_set, fun a => issueWord_lanes_set,
      fun a h hd hs => issueWord_done h ((movEffect_reads hs).trans (movTo_reads hd _)), fun a h => ?lea, fun h => issueWord_done h rfl⟩,
    fun s s1 x g a n h => ⟨fun f hs hd hf => issueWord_done h ((movEffect_flit hs hf).trans (movTo_set hd ..)), fun b hd hs hb ho hc hf => ?sends,
      fun hs hf ho => issueWord_park h (movEffect_empty hs hf ho), fun hs hf ho => issueWord_trap h (movEffect_closed hs hf (not_not_intro ho))⟩⟩
  case lea =>
    refine (issueWord_lanes_set h).trans ?_
    simp only [leaResult_eq]
  case sends =>
    have he := (movEffect_reads hs (x := x) (s := s1)).trans (movTo_send hd ..)
    have hc : s1.sendCheck x.key n.toNat = .ready b := by
      rw [State.sendCheck_eq, hb]
      simp only [ho, hc, hf, ne_eq, not_true, if_false, Bool.false_eq_true, Bool.true_eq_false]
    exact issueWord_done h (he.trans (by simp only [hc, State.given_none]))

end Sys2Proof.Machine
end

section
/-! PROOFS. The words of one opcode (R109, R112, R123): a word that parses is its opcode, its guard and its instruction's one body; those of JOIN, EXIT, ERET and WAIT (R340, R342, R362, R417) (O5, O45). -/
namespace Sys2Proof

theorem bitBool_eq_getLsbD (x : BitVec 1) : bitBool x = x.getLsbD 0 := by revert x; decide
theorem splitWord_of_opcode {w : BitVec 64} {opc : BitVec 8} (h : field w 56 8 = opc) : splitWord w = ⟨opc, guardBits w, splitBody (opcClass opc) (field w 0 51)⟩ := by
  have hpn : bitBool (field w 51 1) = w.getLsbD 51 := by
    rw [bitBool_eq_getLsbD, field, BitVec.getLsbD_extractLsb']
    rfl
  simp only [splitWord, h, hpn, guardBits]
/-- Bodies of one class are cut apart alike only when they are alike. -/
theorem splitBody_inj {cls : Nat} {b b' : BitVec 51} : splitBody cls b = splitBody cls b' ↔ b = b' :=
  ⟨fun h => by rw [← body_splitBody cls b, h, body_splitBody], congrArg _⟩
theorem parse_of_candidate {w : BitVec 64} {i : Instr} (ha : assigned (splitWord w).opc = true) (hc : candidate (splitWord w) = some i) (hs : i.shapeOk = true) :
    parse w = if i.toWord = splitWord w then .ok i else .error .illegalField := by
  simp only [parse, ha, if_true, hc, hs, true_and]
/-- Under one opcode and guard, the words that stand for an instruction are those of one body. -/
theorem parse_of_body {w : BitVec 64} {opc : BitVec 8} {b : BitVec 51} {i : Instr} (h : field w 56 8 = opc) (ha : assigned opc = true)
    (hc : candidate ⟨opc, guardBits w, splitBody (opcClass opc) (field w 0 51)⟩ = some i) (hs : i.shapeOk = true)
    (hi : i.toWord = ⟨opc, guardBits w, splitBody (opcClass opc) b⟩) : parse w = if field w 0 51 = b then .ok i else .error .illegalField := by
  have hw := splitWord_of_opcode h
  rw [parse_of_candidate (by rwa [hw]) (by rwa [hw]) hs, hi, hw]
  simp only [WordFields.mk.injEq, true_and, splitBody_inj, eq_comm (a := b)]

/-- The body of ERET.SKIP. -/
abbrev skipBody : BitVec 51 := 0#18 ++ 1#1 ++ 0#32
theorem parse_eret {w : BitVec 64} (h : field w 56 8 = 0x91#8) : parse w =
    if field w 0 51 = 0#51 then .ok (.eret (guardBits w)) else if field w 0 51 = skipBody then .ok (.eretSkip (guardBits w)) else .error .illegalField := by
  have hcand : candidate ⟨0x91#8, guardBits w, splitBody (opcClass 0x91#8) (field w 0 51)⟩ =
      if field (field w 0 51) 32 4 = 0#4 then some (.eret (guardBits w)) else some (.eretSkip (guardBits w)) := rfl
  by_cases hm : field (field w 0 51) 32 4 = 0#4
  · rw [parse_of_body (b := 0#51) h (by decide) (hcand.trans (if_pos hm)) rfl rfl]
    have hskip : field w 0 51 ≠ skipBody := fun he => absurd (he ▸ hm) (by decide)
    simp only [hskip, if_false]
  · rw [parse_of_body (b := skipBody) h (by decide) (hcand.trans (if_neg hm)) rfl rfl]
    have hzero : field w 0 51 ≠ 0#51 := fun he => hm (he ▸ by decide)
    simp only [hzero, if_false]
theorem parse_join {w : BitVec 64} (h : field w 56 8 = 0x85#8) : parse w = if w = 0x8500_0000_0000_0000#64 then .ok .join else .error .illegalField := by
  have hw := splitWord_of_opcode h
  rw [parse_of_candidate (i := .join) (by rw [hw]; rfl) (by rw [hw]; rfl) rfl]
  congr 1
  rw [eq_iff_iff]
  constructor
  · intro hj
    rw [← join_splitWord w, ← hj]
    decide
  · rintro rfl
    decide

/-- The word of an instruction is its opcode, its guard and its body. -/
theorem encode_of_body {i : Instr} {g : Guard} {opc : BitVec 8} {f : Fields} {b : BitVec 51} (hi : i.isWord = true) (hw : i.toWord = ⟨opc, g, f⟩) (hb : f.body = b) :
    encode i = some (opc ++ g.pg ++ boolBit g.pn ++ b) := by
  rw [encode, if_pos hi, hw, WordFields.join, hb]
theorem ctl_body_zero : (ctl 0 0 0).body = 0#51 := by decide
theorem ctl_body_skip : (ctl 0 1 0).body = skipBody := by decide
theorem append_skipBody (x : BitVec 13) : x ++ 0#18 ++ 1#1 ++ 0#32 = x ++ skipBody := by
  apply BitVec.eq_of_getLsbD_eq
  intro i hi
  simp only [skipBody, BitVec.getLsbD_append]
  grind
/-- Settles O5: each opcode's words are those of one body, ERET's of two, and JOIN's guard is fixed too. -/
theorem joinExitEretWords : Obligations.JoinExitEretWords :=
  ⟨fun _ => parse_join, fun _ => encode_of_body rfl rfl ctl_body_zero, fun _ h => parse_of_body h (by decide) rfl rfl rfl,
    fun g => ⟨encode_of_body rfl rfl ctl_body_zero, (encode_of_body (i := .eretSkip g) rfl rfl ctl_body_skip).trans (congrArg some (append_skipBody _).symm)⟩, fun _ => parse_eret⟩

end Sys2Proof
end

section
/-! PROOFS. WAIT (R417): its word, what it waits for, and the gang that it holds (O45). That an instruction which waits for its replay is no outstanding result is the model's reading (log 23). -/
namespace Sys2Proof

theorem field_field {w : Nat} (x : BitVec w) (lo n a : Nat) {m : Nat} (h : a + m ≤ n) : field (field x lo n) a m = field x (lo + a) m := by
  apply BitVec.eq_of_getLsbD_eq
  intro i hi
  simp [field, hi, show a + i < n by omega, Nat.add_assoc]

/-- The body of a WAIT. -/
abbrev waitBody (res : BitVec 1) (thr : BitVec 6) (mask : BitVec 4) : BitVec 51 := 0#40 ++ (res ++ thr ++ mask)
theorem body_eq_waitBody (w : BitVec 64) : field w 0 51 = waitBody (field w 10 1) (field w 4 6) (field w 0 4) ↔ field w 11 40 = 0#40 := by
  have hlow : field w 10 1 ++ field w 4 6 ++ field w 0 4 = field w 0 11 := by
    simp (disch := decide) only [field_append_field, -Nat.reduceAdd]
  have hbody : field w 0 51 = field w 11 40 ++ field w 0 11 := (field_append_field (lo := 0) (m := 11) w 40 rfl).symm
  rw [waitBody, hlow, hbody]
  constructor
  · intro h
    have hhi := congrArg (field · 11 40) h
    simpa (disch := decide) only [field_hi, Nat.sub_self, field_all] using hhi
  · intro h
    rw [h]
theorem boolBit_decide (x : BitVec 1) : boolBit (decide (x = 1#1)) = x := boolBit_bitBool x
theorem syn_body_wait (res : BitVec 1) (thr : BitVec 6) (mask : BitVec 4) : (syn 0 0 0 0 (0#12 ++ res ++ thr ++ mask)).body = waitBody res thr mask := by
  apply BitVec.eq_of_getLsbD_eq
  intro i hi
  simp only [syn, Fields.body, waitBody, BitVec.getLsbD_append]
  grind
theorem splitBody_body_syn (la : BitVec 4) (d s1 s2 : BitVec 8) (imm : BitVec 23) : splitBody 6 (syn la d s1 s2 imm).body = syn la d s1 s2 imm := by
  simp (disch := decide) only [syn, splitBody, Fields.body, splitS, field_hi, field_lo, field_all, Nat.reduceSub]
theorem wait_toFields (g : Guard) (a : WaitArgs) : (Instr.wait g a).toFields = splitBody 6 (waitBody (boolBit a.res) a.thr a.mask) := by
  rw [← syn_body_wait]
  exact (splitBody_body_syn ..).symm
theorem parse_wait {w : BitVec 64} (h : field w 56 8 = 0xC0#8) : parse w =
    if field w 11 40 = 0#40 then .ok (.wait (guardBits w) ⟨field w 10 1 = 1#1, field w 4 6, field w 0 4⟩) else .error .illegalField := by
  have hcand : candidate ⟨0xC0#8, guardBits w, splitBody (opcClass 0xC0#8) (field w 0 51)⟩ = some (.wait (guardBits w) ⟨field w 10 1 = 1#1, field w 4 6, field w 0 4⟩) := by
    show some (Instr.wait (guardBits w) ⟨bitBool (field (field (field w 0 51) 0 23) 10 1), field (field (field w 0 51) 0 23) 4 6, field (field (field w 0 51) 0 23) 0 4⟩) = _
    simp (disch := decide) only [field_field, Nat.zero_add, bitBool]
  have hword : (Instr.wait (guardBits w) ⟨field w 10 1 = 1#1, field w 4 6, field w 0 4⟩).toWord =
      ⟨0xC0#8, guardBits w, splitBody (opcClass 0xC0#8) (waitBody (field w 10 1) (field w 4 6) (field w 0 4))⟩ :=
    congrArg (WordFields.mk 0xC0#8 (guardBits w)) ((wait_toFields ..).trans (by rw [boolBit_decide]; rfl))
  rw [parse_of_body h (by decide) hcand rfl hword]
  simp only [body_eq_waitBody]
theorem append_waitBody (x : BitVec 13) (res : BitVec 1) (thr : BitVec 6) (mask : BitVec 4) : x ++ 0#40 ++ res ++ thr ++ mask = x ++ waitBody res thr mask := by
  apply BitVec.eq_of_getLsbD_eq
  intro i hi
  simp only [waitBody, BitVec.getLsbD_append]
  grind

end Sys2Proof

namespace Sys2Proof.Machine

theorem Gang.waitMet_iff (e : Gang) (res : Bool) (thr : Nat) (mask : BitVec 4) : e.waitMet res thr mask.toNat = true ↔
    (mask.getLsbD 3 = true → e.counter .ld ≤ thr) ∧ (mask.getLsbD 2 = true → e.counter .st ≤ thr) ∧ (mask.getLsbD 1 = true → e.counter .sp ≤ thr) ∧
      (mask.getLsbD 0 = true → e.counter .cp ≤ thr) ∧ (res = true → ∀ f ∈ e.flights, f.returned = true ∨ f.dest = [] ∨ f.replaying = true) := by
  simp only [Gang.waitMet, Gang.drained, BitVec.testBit_toNat, Bool.and_eq_true, Bool.or_eq_true, Bool.not_eq_true', decide_eq_true_eq, List.all_eq_true, List.isEmpty_iff, and_assoc,
    or_assoc, imp_iff_not_or, Bool.not_eq_true]

section Held
variable {s : State} {k : GangKey} {p : Path} {res : Bool} {thr mask : Nat} (hp : p.st = .held (.wait res thr mask))
include hp
theorem State.canRun_of_held_wait : s.canRun k p = (s.gang k).waitMet res thr mask := by
  rw [State.canRun, hp]
theorem Path.holdsGang_of_held_wait : p.holdsGang = true := by
  rw [Path.holdsGang, hp]
/-- While a WAIT at the head of the path order holds its gang, no path of it issues. -/
theorem State.running_of_held_wait {ps : List Path} (hg : (s.gang k).paths = p :: ps) (hw : (s.gang k).waitMet res thr mask = false) : s.running k = none := by
  rw [State.running, hg, List.find?_cons_of_pos (Path.holdsGang_of_held_wait hp)]
  exact if_neg (by rw [State.canRun_of_held_wait hp, hw]; decide)
end Held
theorem State.not_clauseReady_of_running_none {s : State} {k : GangKey} (h : s.running k = none) : s.clauseReady k = false := by
  rw [State.clauseReady, h]
  simp only [Bool.and_false]

theorem exec_wait {s s1 : State} {x : Issue} {g : Guard} {a : WaitArgs} (h : s.ready (.wait g a) = some (x, s1)) :
    ((s1.gang x.key).waitMet a.res a.thr.toNat a.mask.toNat = true → exec (.wait g a) s = .next (s1.advance x.key x.path.id)) ∧
    ((s1.gang x.key).waitMet a.res a.thr.toNat a.mask.toNat ≠ true → ∃ s0, s.issueOf (.wait g a) = some (x, s0) ∧
      exec (.wait g a) s = .next (s0.hold x.key x.path.id (.wait a.res a.thr.toNat a.mask.toNat))) :=
  ⟨fun hm => issueWord_done h (if_pos hm), fun hm => issueWord_hold h (if_neg hm)⟩

/-- Settles O45: WAIT's words are those of one body, its condition is that of its counters, and a path that it holds keeps its gang from issuing. -/
theorem waitWatchesTheCounters : Obligations.WaitWatchesTheCounters := by
  refine ⟨fun g a => (encode_of_body (i := .wait g a) rfl rfl (syn_body_wait ..)).trans (congrArg some (append_waitBody _ _ _ _).symm), fun w => parse_wait, fun s s1 x g a h => ?exec,
    fun s k p res thr mask => State.canRun_of_held_wait, fun s k p ps res thr mask hg hp hw => ?held, by decide +kernel, by decide +kernel⟩
  case exec =>
    have hx := exec_wait h
    rw [ne_eq, Gang.waitMet_iff] at hx
    exact hx
  case held =>
    have hr := State.running_of_held_wait hp hg hw
    exact ⟨hr, State.not_clauseReady_of_running_none hr⟩

end Sys2Proof.Machine
end

section
/-! PROOFS. The security processor (R296, R297, R299 to R301) and the wipe (R298): what each command, a reset and a change of life-cycle state leave (O58). That the schedule and other packages' bytes
stay in a wipe is the model's choice (log 107). -/
namespace Sys2Proof.Machine

section Mailbox
variable {s : State} {p d : Nat} {c w : List Byte}
/-- A domain that the partition may use. -/
abbrev State.mayUse (s : State) (p d : Nat) : Prop := d < 64 ∧ (s.part p).kdmask.getLsbD d = true
theorem State.not_mayUse_iff : (decide (d ≥ 64) || !(s.part p).kdmask.getLsbD d) = true ↔ ¬ s.mayUse p d := by
  simp [State.mayUse, imp_iff_not_or]
theorem exec_loadkey_outside (h : ¬ s.mayUse p d) : exec (.loadkey p d c w) s = .next (s.mail 2 []) := if_pos (State.not_mayUse_iff.2 h)
theorem exec_revoke_outside (h : ¬ s.mayUse p d) : exec (.revoke p d) s = .next (s.mail 2 []) := if_pos (State.not_mayUse_iff.2 h)
theorem exec_revoke (h : s.mayUse p d) : exec (.revoke p d) s = .next ((s.revokeDomain d).mail Config.mailDone []) := if_neg fun hn => State.not_mayUse_iff.1 hn h
theorem exec_loadkey_refused (h : s.mayUse p d) (hw : Config.unwraps p c w = false) : exec (.loadkey p d c w) s = .next (s.mail Config.mailFailed []) :=
  (if_neg fun hn => State.not_mayUse_iff.1 hn h).trans (if_pos (by rw [hw]; rfl))
/-- The package with a fresh key in a domain. -/
def Package.loadKey (k : Package) (d : Nat) : Package := { k with keys := tset k.keys d k.keySerial, keySerial := k.keySerial + 1, revoked := k.revoked.filter fun x => x ≠ d }
theorem exec_loadkey (h : s.mayUse p d) (hw : Config.unwraps p c w = true) :
    exec (.loadkey p d c w) s = .next ((s.modPkg fun k => k.loadKey d).mail Config.mailDone []) :=
  (if_neg fun hn => State.not_mayUse_iff.1 hn h).trans (if_neg (by rw [hw]; decide))
theorem State.domainGone_of_revoked (h : s.pkg.revoked.contains d = true) : s.domainGone d = true := by
  rw [State.domainGone, h]
  rfl
variable {n : List Byte}
theorem exec_attest_refused (h : s.pkg.life ≠ .deployed ∨ s.pkg.idKey = false) : exec (.attest p n) s = .next (s.mail Config.mailFailed []) := if_pos (by simpa using h)
theorem exec_attest (hl : s.pkg.life = .deployed) (hk : s.pkg.idKey = true) :
    exec (.attest p n) s = .next (s.mail Config.mailDone (s.quote p n ++ (Config.falconSign (s.quote p n)).take 1280)) := if_neg (by simp [hl, hk])
variable {image : List Byte}
theorem exec_firmwareImage_there (h : s.pkg.fwGood = true) : exec (.firmwareImage image) s = .next s := if_pos h
theorem exec_firmwareImage_taken (h : s.pkg.fwGood = false) (hi : imageGood image s.pkg.fuse = true) :
    exec (.firmwareImage image) s = .next ((s.mail (Config.mailVerdict true) []).modPkg fun k => { k with firmware := image, fwGood := true }) :=
  (if_neg (by rw [h]; decide)).trans (if_pos hi)
theorem exec_firmwareImage_refused (h : s.pkg.fwGood = false) (hi : imageGood image s.pkg.fuse = false) :
    exec (.firmwareImage image) s = .next (s.mail (Config.mailVerdict false) []) := (if_neg (by rw [h]; decide)).trans (if_neg (by rw [hi]; decide))
end Mailbox

-- The wipe (R298, R299)

theorem State.read_wipe (s : State) (k : Package) (a : Nat) :
    (s.wipe k).mem.read a = if packageOf a = s.pkg.pkgid ∨ packageOf a = k.pkgid then 0 else s.mem.read a := by
  refine (Memory.read_filter s.mem (fun a => packageOf a ≠ s.pkg.pkgid && packageOf a ≠ k.pkgid) a).trans ?_
  simp only [Bool.and_eq_true, decide_eq_true_eq, ne_eq, ← not_or, ite_not]
section LifeCycle
variable {s : State} {code : Nat}
theorem exec_lcstate_refused (h : code ≤ s.pkg.life.code ∨ 2 < code) : exec (.lcstate code) s = .next (s.mail Config.mailFailed []) := if_pos (by simpa using h)
/-- A change of life-cycle state wipes the package, and keeps its id. -/
theorem exec_lcstate (hlt : s.pkg.life.code < code) (hle : code ≤ 2) : ∃ k : Package, exec (.lcstate code) s = .next (s.wipe k) ∧
    k.life.code = code ∧ k.idKey = (s.pkg.idKey && decide (code ≠ 2)) ∧ k.keys = [] ∧ k.pkgid = s.pkg.pkgid := by
  refine ⟨_, if_neg (by simp [hlt, hle]), ?_, rfl, rfl, rfl⟩
  have hcode : code = 1 ∨ code = 2 := by omega
  rcases hcode with rfl | rfl <;> rfl
end LifeCycle

/-- Settles O58: each command is the mailbox's answer, a key or its end, or a wipe, which leaves other packages' bytes. -/
theorem securityEvents : Obligations.SecurityEvents := by
  refine fun s => ⟨fun p d c w h i hi => ?outside, fun p d c w hd hk hw => ?loadkey, fun p d c w hd hk hw => ⟨_, exec_loadkey_refused ⟨hd, hk⟩ hw, rfl, rfl, rfl⟩,
    fun p d hd hk => ?revoke, fun p n h => ⟨_, exec_attest_refused h, rfl, rfl⟩, fun p n hl hk => ⟨_, exec_attest hl hk, rfl, rfl⟩,
    fun code h => ⟨_, exec_lcstate_refused h, rfl, rfl⟩, fun code hlt hle => ?lcstate, ⟨_, rfl, rfl, rfl, rfl, rfl, rfl, rfl, rfl, rfl, rfl, rfl, rfl, rfl, State.read_wipe s _⟩,
    ⟨_, rfl, rfl, rfl⟩, fun image hf hs hv => ⟨_, exec_firmwareImage_taken hf (by simp [imageGood, hs, hv]), rfl, rfl, rfl⟩,
    fun image hf h => ⟨_, exec_firmwareImage_refused hf ?unsigned, rfl, hf, rfl⟩, fun image => exec_firmwareImage_there⟩
  case outside =>
    have hn : ¬ s.mayUse p d := fun hm => h.elim (Nat.not_le.2 hm.1) fun hk => Bool.false_ne_true (hk.symm.trans hm.2)
    rcases hi with rfl | rfl
    · exact ⟨_, exec_loadkey_outside hn, rfl, rfl, rfl, rfl⟩
    · exact ⟨_, exec_revoke_outside hn, rfl, rfl, rfl, rfl⟩
  case loadkey =>
    refine ⟨_, exec_loadkey ⟨hd, hk⟩ hw, ?_, rfl, ?_, fun e he => ?_, rfl⟩
    · exact (tget_tset ..).trans (if_pos rfl)
    · simp [State.mail, State.modPkg, Package.loadKey]
    · exact (tget_tset ..).trans (if_neg he)
  case revoke =>
    have hrev : ((s.revokeDomain d).mail Config.mailDone []).pkg.revoked.contains d = true := by simp [State.mail, State.modPkg, State.revokeDomain]
    exact ⟨_, exec_revoke ⟨hd, hk⟩, (tget_terase ..).trans (if_pos rfl), hrev, State.domainGone_of_revoked hrev⟩
  case lcstate =>
    obtain ⟨k, hx, hlife, hid, hkeys, hpkg⟩ := exec_lcstate hlt hle
    refine ⟨_, hx, hlife, fun h => hid.trans (by simp [h]), fun h => hid.trans (by simp [h]), hkeys, rfl, hpkg, rfl, rfl, rfl, fun a => ?_⟩
    simp only [State.read_wipe, hpkg, or_self]
  case unsigned => rcases h with h | h <;> simp [imageGood, h]

end Sys2Proof.Machine
end

section
/-! PROOFS. Reset (R298, R295, R444): memory, the partition and context registers, and what a change of the life-cycle state leaves of them (O6, O8). -/
namespace Sys2Proof.Machine

/-- Settles O6: no address is listed. -/
theorem resetMemoryCanonical : Obligations.ResetMemoryCanonical := ⟨rfl, rfl⟩

theorem State.part_reset (p : Nat) : State.reset.part p = { Part.initial with hcmask := if p = 0 then 0xFFF else 0 } := by
  by_cases h : p = 0
  · subst h
    rfl
  · simp only [State.part, State.reset, tgetD, tget, if_neg (Ne.symm h), if_neg h]
    rfl
theorem State.stopped_reset (p : Nat) : State.reset.stopped p = true := List.all_eq_true.2 fun _ _ => rfl
theorem State.shadowHeld_reset (p : Nat) : State.reset.shadowHeld p = false := rfl
theorem State.readConfig_context (s : State) (p : Nat) {c off : Nat} (hw : s.pkg.wiping = false) (hc : c < 16) (ho : off < 256) :
    s.readConfig p (0x1000 + 256 * c + off) = s.readContext ⟨p, c⟩ off := by
  have hctx : (0x1000 + 256 * c + off - 0x1000) / 256 = c := by omega
  have hoff : (0x1000 + 256 * c + off - 0x1000) % 256 = off := by omega
  have hrange : (decide (0x1000 ≤ 0x1000 + 256 * c + off) && decide (0x1000 + 256 * c + off < 0x2000)) = true := by
    rw [Bool.and_eq_true, decide_eq_true_eq, decide_eq_true_eq]
    omega
  unfold State.readConfig
  rw [hw]
  simp only [Bool.false_eq_true, if_false]
  split
  case h_11 => rw [if_pos hrange, hctx, hoff]
  all_goals omega
theorem State.readContext_reset (c : CtxKey) (off : Nat) : State.reset.readContext c off = if off = 0x40 then 65536 else 0 := by
  unfold State.readContext
  split
  case h_8 => rfl
  all_goals simp_all [State.ctx, tgetD, State.reset, Context.initial]

/-- Settles O8: each register is a field of the initial partition or context, which a change of the life-cycle state leaves in their place. -/
theorem resetRegisterValues : Obligations.ResetRegisterValues := by
  refine ⟨fun p => ?partition, fun p c off hc ho => ?context, fun s t code hlt hle hx => ?lcstate⟩
  case partition =>
    have hpart := State.part_reset p
    have hstat : State.reset.readConfig p 0x058 = 1 := by
      show (if State.reset.stopped p = true then 1 else 0) + (if State.reset.shadowHeld p = true then 2 else 0) + (if (State.reset.part p).rej = true then 2 ^ 63 else 0) = 1
      rw [State.stopped_reset, State.shadowHeld_reset, hpart]
      rfl
    refine ⟨?hcmask, ?_, ?_, ?_, ?_, rfl, ?_, rfl, rfl, ?_, hstat, ?_, fun g => ?_⟩
    case hcmask =>
      show (State.reset.part p).hcmask.toNat = _
      rw [hpart, apply_ite BitVec.toNat]
      rfl
    all_goals simp only [State.readConfig, State.gbar, hpart]
    all_goals rfl
  case context => rw [State.readConfig_context _ _ rfl hc ho, State.readContext_reset]
  case lcstate =>
    obtain ⟨k, hwipe, -⟩ := exec_lcstate hlt hle
    obtain rfl := Host.Outcome.next.inj (hwipe.symm.trans hx)
    exact ⟨fun p => rfl, fun c => rfl⟩

end Sys2Proof.Machine
end

section
/-! PROOFS. A step stops for lack of module power alone (R302): every word and every agent's step answers a next state (O55). -/
namespace Sys2Proof.Machine

/-- Every issue answers a next state, and so does every branch of another agent's step. -/
theorem exec_next (i : Instr) (s : State) : ∃ t, exec i s = .next t := by
  cases i
  case issueSelect | gangStarved | resultWriteback | trapEntry | watchdogExpiry | watchdogGraceExpiry | porterSpill | porterRefill | spawnOverflowMove | gangEnd | taskIngest
    | gridCodebookRead | taskJobStart | engineOpStart | engineSlave | handleFetch | engineOpRetire | copyJobAccept | copyByteWrite | copyJobFault | copyJobComplete | flitDelivery
    | leaveGrant | thermalSweep | preemptForcedStop | shadowExchange | teamSave | teamRestore | configRegisterWrite | hostCompletionError | loadkey | revoke | attest | lcstate
    | firmwareImage | dieFence | dieDrop | errorDetected | correctedErrorLog | programTimeTick | fabricConfiguration | dieReset | hostLinkWrite | fabricRemoteAccess =>
    simp only [exec, execIssueSelect, execGangStarved, execResultWriteback, execTrapEntry, execWatchdogExpiry, execWatchdogGraceExpiry, execPorterSpill, execPorterRefill,
      execSpawnOverflowMove, execGangEnd, execTaskIngest, execGridCodebookRead, execTaskJobStart, execEngineOpStart, execEngineSlave, execHandleFetch, execEngineOpRetire,
      execCopyJobAccept, execCopyByteWrite, execCopyJobFault, execCopyJobComplete, execFlitDelivery, execLeaveGrant, execThermalSweep, execPreemptForcedStop, execShadowExchange,
      execTeamSave, execTeamRestore, execConfigRegisterWrite, execHostCompletionError, execLoadkey, execRevoke, execAttest, execLcstate, execFirmwareImage, execDieFence, execDieDrop,
      execErrorDetected, execCorrectedErrorLog, execProgramTimeTick, execFabricConfiguration, execDieReset, execHostLinkWrite, execFabricRemoteAccess]
    repeat' split
    all_goals exact ⟨_, rfl⟩
  all_goals exact ⟨_, rfl⟩
theorem State.runTurn_next (s : State) (u : Turn) : ∃ t, s.runTurn u = .next t := by
  cases u with
  | event i =>
    rw [State.runTurn]
    split
    · exact ⟨_, rfl⟩
    · exact exec_next i s
  | issue core bench k =>
    rw [State.runTurn]
    split
    · exact exec_next ..
    · exact ⟨_, rfl⟩
  | tick | evict | elapse | link => exact ⟨_, rfl⟩

/-- Settles O55: without power a step stops at once; with it a step fills the agenda or takes its first turn, which answers a next state. -/
theorem onlyPowerOffStops : Obligations.OnlyPowerOffStops := by
  refine fun s => ⟨step_of_unpowered, fun hp => ?_⟩
  rw [step, hp]
  cases s.agenda with
  | nil => exact ⟨_, rfl⟩
  | cons u rest => exact State.runTurn_next _ u

end Sys2Proof.Machine
end

section
/-! PROOFS. EXIT (R343), TRAP (R411), BRK (R319) and YIELD (R420): the clause that each ends, and what an exit takes out of a gang (O39). -/
namespace Sys2Proof.Machine

theorem Path.goto_after (p : Path) : (p.goto p.after).hdr = (p.hdr + 8 * (p.cnt + 1)) % 2 ^ 64 ∧ (p.goto p.after).pos = 0 ∧ (p.goto p.after).mask = p.mask :=
  ⟨Nat.mod_mod _ _, rfl, rfl⟩

section Words
variable {s s1 : State} {x : Issue} {g : Guard}
/-- The state in which the issuing path stands at the next clause header. -/
abbrev State.clauseEnded (s : State) (x : Issue) : State := s.modPath x.key x.path.id fun p => p.goto p.after
theorem exec_exit (h : s.ready (.exit g) = some (x, s1)) : exec (.exit g) s = .next (((s1.clauseEnded x).leaveSlot x.key).exitThreads x.key x.active) := issueWord_moved h rfl
theorem softTrap_eq (cause : Nat) (n : BitVec 16) (x : Issue) (s : State) : softTrap cause n.toNat x s =
    .moved ((s.clauseEnded x).takeTrap x.key ⟨BitVec.ofNat 8 cause, n, false, x.path.pc, x.path.after, x.active, 0, [], none, x.path.id⟩) := by
  simp only [softTrap, Issue.info, BitVec.ofNat_toNat, BitVec.setWidth_eq, Option.getD_none]
theorem exec_trap {n : BitVec 16} (h : s.ready (.trap g n) = some (x, s1)) :
    exec (.trap g n) s = .next ((s1.clauseEnded x).takeTrap x.key ⟨0x50#8, n, false, x.path.pc, x.path.after, x.active, 0, [], none, x.path.id⟩) :=
  issueWord_moved h (softTrap_eq ..)
theorem exec_brk (h : s.ready (.brk g) = some (x, s1)) :
    exec (.brk g) s = .next ((s1.clauseEnded x).takeTrap x.key ⟨0x51#8, 0#16, false, x.path.pc, x.path.after, x.active, 0, [], none, x.path.id⟩) :=
  issueWord_moved h (softTrap_eq 0x51 0#16 x s1)
end Words

section Yield
variable (s : State) (x : Issue)
/-- The path order after a YIELD: its path last, when another can run. -/
def State.yieldOrder (s : State) (x : Issue) : List Path :=
  let e := s.gang x.key
  let others := e.paths.filter fun p => p.id ≠ x.path.id
  if others.any (s.canRun x.key) then others ++ e.paths.filter (fun p => p.id = x.path.id) else e.paths
/-- The gang that has yielded, clause-ready from the next cycle. -/
def State.yielded (s : State) (x : Issue) : State :=
  (s.setGang x.key { s.gang x.key with paths := s.yieldOrder x, readySince := some ((s.core (s.gang x.key).core).cycle + 1) }).leaveSlot x.key
theorem exec_yield {s s1 : State} {x : Issue} {g : Guard} (h : s.ready (.yield g) = some (x, s1)) : exec (.yield g) s = .next ((s1.clauseEnded x).yielded x) := issueWord_moved h rfl
theorem State.gang_yielded : (s.yielded x).gang x.key =
    { s.gang x.key with paths := s.yieldOrder x, readySince := some ((s.core (s.gang x.key).core).cycle + 1) } := by
  rw [State.yielded, State.gang_leaveSlot]
  exact State.gang_setGang s x.key _
theorem State.gang_yielded_ne {k : GangKey} (h : k ≠ x.key) : (s.yielded x).gang k = s.gang k := by
  rw [State.yielded, State.gang_leaveSlot]
  exact State.gang_setGang_ne s _ h
end Yield

section ExitLanes
variable {m : Mask} {l : Nat}
theorem getLsbD_exitLanes (e : Gang) (m : Mask) (l : Nat) : (e.exitLanes m).exited.getLsbD l = (e.exited.getLsbD l || m.getLsbD l) := BitVec.getLsbD_or
/-- Of some paths, those that keep a lane outside a mask, without the lanes of the mask. -/
def cutPaths (m : Mask) (ps : List Path) : List Path := (ps.map fun p => { p with mask := p.mask &&& ~~~m }).filter fun p => p.mask ≠ 0
theorem mem_cutPaths {ps : List Path} {p : Path} (hp : p ∈ cutPaths m ps) : p.mask ≠ 0 ∧ (m.getLsbD l = true → p.mask.getLsbD l = false) := by
  obtain ⟨hmap, hne⟩ := List.mem_filter.1 hp
  obtain ⟨q, -, rfl⟩ := List.mem_map.1 hmap
  refine ⟨of_decide_eq_true hne, fun hl => ?_⟩
  simp [BitVec.getLsbD_and, BitVec.getLsbD_not, hl]
theorem exitLanes_paths (e : Gang) (m : Mask) : (e.exitLanes m).paths = cutPaths m e.paths ∧
    (e.exitLanes m).traps = e.traps.map fun t => { t with paths := cutPaths m t.paths } := ⟨rfl, rfl⟩
end ExitLanes

/-- Settles O39: each word ends its clause, and an exit cuts its lanes from every path, the suspended ones too. -/
theorem clauseEndingInstructions : Obligations.ClauseEndingInstructions := by
  refine fun s s1 x g => ⟨exec_exit, fun n => exec_trap, exec_brk, fun h => ?yield, Path.goto_after, fun e m l hl => ⟨getLsbD_exitLanes e m l, fun p hp => mem_cutPaths hp, fun t ht p hp => ?suspended⟩⟩
  case yield =>
    have hgang := State.gang_yielded (s1.clauseEnded x) x
    have hended : (s1.clauseEnded x).gang x.key = (s1.gang x.key).modPath x.path.id fun p => p.goto p.after := s1.gang_modGang x.key _
    rw [hended] at hgang
    refine ⟨exec_yield h, (congrArg Gang.demoted hgang :), (congrArg Gang.passed hgang :), (congrArg Gang.vregs hgang :), rfl, rfl, fun k hk => ?_⟩
    exact (State.gang_yielded_ne _ _ hk).trans (s1.gang_modGang_ne _ hk)
  case suspended =>
    obtain ⟨t', -, rfl⟩ := List.mem_map.1 ht
    exact mem_cutPaths hp

end Sys2Proof.Machine
end

section

/-! PROOFS. System registers: GSR (R357, R358), SSR (R399), WSTAT (R419), FAMKILL (R276; what a family's end takes with it is log 63). Obligation O40. -/

namespace Sys2Proof.Machine

/-- A system register's read is written for the lowest lane, TLADDR's for every active one. -/
theorem gsrEffect_eq (d : Operand) (r : SysReg) (x : Issue) (s : State) (hr : r ≠ .tladdr) :
    gsrEffect d r x s = .done (s.writeOnce x d (SysReg.width r) (s.sysReg x.key r)) := if_neg hr

theorem gsrEffect_tladdr (d : Operand) (x : Issue) (s : State) :
    gsrEffect d .tladdr x s = .done (s.lanesSet x d 2 fun l => tgetD x.gang.topTrap.addrs l 0) := if_pos rfl

theorem famkillEffect_even {v : Operand} {x : Issue} {s : State} (hv : x.once s v 1 % 2 = 0) : famkillEffect v x s = .done s := if_pos hv

theorem famkillEffect_odd {v : Operand} {x : Issue} {s : State} (hv : x.once s v 1 % 2 = 1) :
    famkillEffect v x s =
      .moved ((((x.gang.families x.key).eraseDups).foldl (fun t h => t.killFamily x.key.team h) (s.modPath x.key x.path.id Path.next)).leaveSlot x.key) :=
  if_neg (by omega)

/-- The state of the trap in force is the first one. -/
theorem Gang.topTrap_of_traps {e : Gang} {tr : TrapState} {rest : List TrapState} (h : e.traps = tr :: rest) : e.topTrap = tr := by
  rw [Gang.topTrap, h, List.headD_cons]

/-- A written TNEXT stands in the trap in force, which then asks for no replay. -/
theorem Gang.traps_writeTnext {e : Gang} {tr : TrapState} {rest : List TrapState} (h : e.traps = tr :: rest) (v : Nat) :
    (e.writeTnext v).traps = { tr with tnext := BitVec.ofNat 32 v, tnextWritten := true, tcause := tr.tcause &&& ~~~(0x100#32) } :: rest := by
  rw [Gang.writeTnext, h]

theorem getLsbD_clear_replay (w : BitVec 32) : (w &&& ~~~(0x100#32)).getLsbD 8 = false := by
  rw [BitVec.getLsbD_and]
  exact Bool.and_false _

/-- Settles O40: each word's effect is one register's read or write, or the end of the gang's families; a register stands in its gang, context or partition. -/
theorem systemRegistersReadAndWritten : Obligations.SystemRegistersReadAndWritten := by
  intro s s1 x g
  refine ⟨?gsr, ?tladdr, ?ssr, ?wstat, ?spared, ?killed, ?registers⟩
  case gsr => exact fun d r h hr => issueWord_done h (gsrEffect_eq d r x s1 hr)
  case tladdr => exact fun d h => issueWord_done h (gsrEffect_tladdr d x s1)
  case ssr => exact fun v r h => issueWord_done h rfl
  case wstat => exact fun d sel h => issueWord_done h rfl
  case spared => exact fun v h hv => issueWord_done h (famkillEffect_even hv)
  case killed => exact fun v h hv => issueWord_moved h (famkillEffect_odd hv)
  case registers =>
    intro t k
    refine ⟨rfl, rfl, rfl, rfl, rfl, rfl, rfl, rfl, rfl, rfl, rfl, ?inForce, rfl, rfl, rfl, rfl, fun v => ⟨?nstat, ?formwait, ?ceil, ?mceil, ?limit, ?grace, ?next⟩⟩
    case inForce =>
      intro tr rest h
      simp only [State.sysReg, Gang.topTrap_of_traps h, and_self]
    case nstat =>
      rw [State.writeSys, State.gang_modGang]
      rfl
    case formwait => rw [State.writeSys, State.ctx_modCtx]
    case ceil => rw [State.writeSys, State.part_modPart]
    case mceil => rw [State.writeSys, State.part_modPart]
    case limit => rw [State.writeSys, State.ctx_modCtx]
    case grace => rw [State.writeSys, State.ctx_modCtx]
    case next =>
      intro tr rest h
      rw [State.writeSys, State.gang_modGang]
      exact ⟨_, Gang.traps_writeTnext h v, rfl, getLsbD_clear_replay _⟩

end Sys2Proof.Machine

end

section

/-! PROOFS. Matrix-engine registers: ACCRD, ACCWR (R305, R175), TRD, TWR (R413), TBQRY (R403), MENGQ (R372), and their waits (R176). Obligation O28. -/

namespace Sys2Proof.Machine

/-- A write into a bench's storage changes its team, and of the cores only what running operations recall. -/
structure State.BenchWrite (s t : State) : Prop where
  gangs : t.gangs = s.gangs
  mem : t.mem = s.mem
  scratch : ∀ c, (t.core c).scratch = (s.core c).scratch
  queue : ∀ c, (t.core c).engine.queue = (s.core c).engine.queue

namespace State.BenchWrite
variable {s t u : State}
theorem refl (s : State) : s.BenchWrite s := ⟨rfl, rfl, fun _ => rfl, fun _ => rfl⟩
theorem trans (a : s.BenchWrite t) (b : t.BenchWrite u) : s.BenchWrite u :=
  ⟨b.gangs.trans a.gangs, b.mem.trans a.mem, fun c => (b.scratch c).trans (a.scratch c), fun c => (b.queue c).trans (a.queue c)⟩
end State.BenchWrite

/-- A change of each core by itself that keeps a figure of every core. -/
theorem State.figure_mapCores {α : Type} (P : Core → α) {f : Nat × Core → Nat × Core} (hf : ∀ e, (f e).1 = e.1) (hP : ∀ e, P (f e).2 = P e.2) (s : State) (c : Nat) :
    P (({ s with cores := s.cores.map f } : State).core c) = P (s.core c) := by
  rw [State.core, State.core, tgetD, tgetD, tget_map_keys hf]
  cases tget s.cores c with
  | none => rfl
  | some e => exact hP (c, e)

/-- A change of the running operations alone. -/
theorem State.benchWrite_mapCores (s : State) {f : Nat × Core → Nat × Core} (hf : ∀ e, f e = e ∨ ∃ o, f e = (e.1, { e.2 with engine := { e.2.engine with running := o } })) :
    s.BenchWrite { s with cores := s.cores.map f } := by
  have hkey (e) : (f e).1 = e.1 := by obtain h | ⟨o, h⟩ := hf e <;> rw [h]
  refine ⟨rfl, rfl, s.figure_mapCores Core.scratch hkey fun e => ?_, s.figure_mapCores (fun c => c.engine.queue) hkey fun e => ?_⟩
  all_goals obtain h | ⟨o, h⟩ := hf e <;> rw [h]

theorem State.benchWrite_modTeam (s : State) (n : Nat) (f : Team → Team) : s.BenchWrite (s.modTeam n f) := ⟨rfl, rfl, fun _ => rfl, fun _ => rfl⟩

theorem State.benchWrite_keepOld (s : State) (n : Nat) (acc : Bool) (a : Nat) (b : Byte) : s.BenchWrite (s.keepOld n acc a b) := by
  refine s.benchWrite_mapCores fun e => ?_
  split
  · split
    · exact .inr ⟨_, rfl⟩
    · exact .inl rfl
  · exact .inl rfl

theorem State.benchWrite_tileWritten (s : State) (n span ta : Nat) : s.BenchWrite (s.tileWritten n span ta) := by
  refine (s.benchWrite_modTeam n _).trans (State.benchWrite_mapCores _ fun e => ?_)
  split
  · split
    · split
      · exact .inr ⟨_, rfl⟩
      · exact .inl rfl
    · exact .inl rfl
  · exact .inl rfl

/-- What the running operations keep of bytes about to change leaves every team. -/
theorem State.keepOlds_frame (n : Nat) (acc : Bool) (read : State → Nat → Byte) (as : List Nat) (s : State) :
    let t := as.foldl (fun s a => s.keepOld n acc a (read s a)) s
    t.teams = s.teams ∧ s.BenchWrite t := by
  induction as generalizing s with
  | nil => exact ⟨rfl, .refl s⟩
  | cons a as ih =>
    obtain ⟨hteams, hframe⟩ := ih (s.keepOld n acc a (read s a))
    exact ⟨hteams, (s.benchWrite_keepOld n acc a _).trans hframe⟩

theorem State.teams_modTeam_congr {s t : State} (h : t.teams = s.teams) (n : Nat) (f : Team → Team) : (t.modTeam n f).teams = (s.modTeam n f).teams := by
  simp only [State.modTeam, State.setTeam, State.team, h]

theorem State.teams_tileWritten_congr {s t : State} (h : t.teams = s.teams) (n span ta : Nat) : (t.tileWritten n span ta).teams = (s.tileWritten n span ta).teams := by
  simp only [State.tileWritten, State.teams_modTeam_congr h]

section Words
variable {s s1 : State} {x : Issue} {g : Guard}

/-- The operations that a word on an accumulator waits for. -/
def Issue.accWait (x : Issue) (s : State) (ac : Nat) : Bool := x.engineWait s fun c o => o.covers (s.team x.key.team) c x.span && o.kind.writesAcc ac
/-- The operations that a write of a tile waits for. -/
def Issue.tileWait (x : Issue) (s : State) (ta : Nat) : Bool := x.engineWait s fun c o => o.covers (s.team x.key.team) c x.span && o.readsTile (s.team x.key.team) c x.span ta
def Issue.tableWait (x : Issue) (s : State) (kt : Nat) : Bool := x.engineWait s fun _ o => o.usesTable kt

section Accumulator
variable {a : AccArgs}
theorem accrdEffect_waits (hw : x.accWait s1 a.ac.toNat = true) : accrdEffect a x s1 = .waits none := if_pos hw
theorem accwrEffect_waits (hw : x.accWait s1 a.ac.toNat = true) : accwrEffect a x s1 = .waits none := if_pos hw
theorem accrdEffect_poisoned (hw : x.accWait s1 a.ac.toNat = false) (hp : (s1.team x.key.team).poison.contains (x.span, a.ac.toNat) = true) :
    accrdEffect a x s1 = .trap (.of 0x32) := (if_neg (ne_true_of_eq_false hw)).trans (if_pos hp)
theorem accrdEffect_reads (hw : x.accWait s1 a.ac.toNat = false) (hp : (s1.team x.key.team).poison.contains (x.span, a.ac.toNat) = false) :
    let v (l : Nat) : Rounded :=
      (x.launch.slot a.fa.toNat).encodeReg (FloatFmt.fp32.decode ((s1.team x.key.team).accs.readN (accAt x.span a.ac.toNat a.row.toNat (Issue.accColumn a.cb l)) 4))
    accrdEffect a x s1 = .done (s1.inFlight x (some .sp) a.la a.r 1 (fun l => (v l).bits) (x.lanes.any fun l => (v l).sat)) :=
  (if_neg (ne_true_of_eq_false hw)).trans (if_neg (ne_true_of_eq_false hp))
end Accumulator

theorem twrEffect_waits {a : TileArgs} (hw : x.tileWait s1 a.ta.toNat = true) : twrEffect a x s1 = .waits none := if_pos hw
theorem tbqryEffect_waits {a : TbqryArgs} (hw : x.tableWait s1 a.kt.toNat = true) : tbqryEffect a x s1 = .waits none := if_pos hw
theorem tbqryEffect_reads {a : TbqryArgs} (hw : x.tableWait s1 a.kt.toNat = false) :
    tbqryEffect a x s1 = .done (s1.inFlight x (some .sp) a.la a.d 1 (fun _ => (tgetD (s1.team x.key.team).records (a.bench.toNat, a.kt.toNat) .empty).word) false) :=
  if_neg (ne_true_of_eq_false hw)

section Query
variable {a : MengqArgs}
theorem mengqEffect_solo (hpr : a.pr = true) (hp : x.team.pair = false) : mengqEffect a x s1 = .trap (.of 0x31) := if_pos (by simp [hpr, hp])
theorem mengqEffect_other (hpr : a.pr = true) (hp : x.team.pair = true) :
    mengqEffect a x s1 = .done (s1.inFlight x (some .sp) a.la a.d 1
      (fun _ => s1.figure x.key.team (if x.gang.core = x.team.core then x.team.core + 1 else x.team.core) a.query.toNat) false) := by
  rw [mengqEffect, if_neg (by simp [hp]), if_pos hpr]
  rfl
theorem mengqEffect_own (hpr : a.pr = false) :
    mengqEffect a x s1 = .done (s1.inFlight x (some .sp) a.la a.d 1 (fun _ => s1.figure x.key.team x.gang.core a.query.toNat) false) := by
  rw [mengqEffect, if_neg (by simp [hpr]), if_neg (by simp [hpr])]
  rfl
end Query

/-- ACCWR writes its team's accumulators, and of the cores what running operations recall. -/
theorem exec_accwr {a : AccArgs} (h : s.ready (.accwr g a) = some (x, s1)) (hw : x.accWait s1 a.ac.toNat = false) :
    let v (l : Nat) : Rounded := FloatFmt.fp32.round .rn (x.launch.slot a.fa.toNat).sat ((x.launch.slot a.fa.toNat).real (x.read s1 a.r 1 .int l))
    ∃ t : State, exec (.accwr g a) s = .next ((t.addResult x (some .sp) 0 [] [] (x.lanes.any fun l => (v l).sat)).advance x.key x.path.id) ∧
      t.teams = (s1.modTeam x.key.team fun t => { t with
        accs := x.lanes.foldl (fun m l => m.writeN (accAt x.span a.ac.toNat a.row.toNat (Issue.accColumn a.cb l)) 4 (v l).bits) t.accs }).teams ∧ s1.BenchWrite t := by
  have hkept := State.keepOlds_frame x.key.team true (fun s a => (s.team x.key.team).accs.read a)
    (x.lanes.flatMap fun l => (List.range 4).map fun i => accAt x.span a.ac.toNat a.row.toNat (Issue.accColumn a.cb l) + i) s1
  obtain ⟨hteams, hframe⟩ := hkept
  exact ⟨_, issueWord_done h (if_neg (ne_true_of_eq_false hw)), State.teams_modTeam_congr hteams _ _, hframe.trans (State.benchWrite_modTeam _ _ _)⟩

/-- TWR writes its team's tiles; tables built from the tile are stale. -/
theorem exec_twr {a : TileArgs} (h : s.ready (.twr g a) = some (x, s1)) (hw : x.tileWait s1 a.ta.toNat = false) :
    ∃ t : State, exec (.twr g a) s = .next ((t.addResult x (some .sp) 0 [] [] false).advance x.key x.path.id) ∧
      t.teams = ((s1.modTeam x.key.team fun t => { t with tiles := x.lanes.foldl (fun m l => m.writeN (x.tileByte a l) 4 (x.read s1 a.r 1 .int l)) t.tiles }).tileWritten
        x.key.team x.span a.ta.toNat).teams ∧ s1.BenchWrite t := by
  have hkept := State.keepOlds_frame x.key.team false (fun s a => (s.team x.key.team).tiles.read a)
    (x.lanes.flatMap fun l => (List.range 4).map fun i => x.tileByte a l + i) s1
  obtain ⟨hteams, hframe⟩ := hkept
  refine ⟨_, issueWord_done h (if_neg (ne_true_of_eq_false hw)), State.teams_tileWritten_congr (State.teams_modTeam_congr hteams _ _) _ _ _, ?_⟩
  exact (hframe.trans (State.benchWrite_modTeam _ _ _)).trans (State.benchWrite_tileWritten _ _ _ _)
end Words

/-- Settles O28: each word waits for the operations it names, then puts what it read in flight, or writes its team's storage lane by lane. -/
theorem engineRegistersReadAndWritten : Obligations.EngineRegistersReadAndWritten := by
  intro s s1 x g
  refine ⟨?waits, fun a h hw => ⟨fun hp => ?accrd, fun hp => ?poisoned⟩, fun a h hw => ?accwr, fun a h => ?trd, fun a h hw => ?twr, fun a l => rfl, fun a h hw => ?tbqry,
    fun a h => ⟨fun hpr hp => ?solo, fun hpr hp => ?other, fun hpr => ?own⟩⟩
  case waits =>
    rintro i f (⟨a, rfl | rfl, rfl⟩ | ⟨a, rfl, rfl⟩ | ⟨a, rfl, rfl⟩) h hw
    · exact issueWord_waits h (accrdEffect_waits hw)
    · exact issueWord_waits h (accwrEffect_waits hw)
    · exact issueWord_waits h (twrEffect_waits hw)
    · exact issueWord_waits h (tbqryEffect_waits hw)
  case accrd => exact issueWord_done h (accrdEffect_reads hw hp)
  case poisoned => exact issueWord_trap h (accrdEffect_poisoned hw hp)
  case accwr =>
    obtain ⟨t, hexec, hteams, hframe⟩ := exec_accwr h hw
    exact ⟨t, hexec, hteams, hframe.gangs, hframe.mem, hframe.scratch, hframe.queue⟩
  case trd => exact issueWord_done h rfl
  case twr =>
    obtain ⟨t, hexec, hteams, hframe⟩ := exec_twr h hw
    exact ⟨t, hexec, hteams, hframe.gangs, hframe.mem, hframe.scratch, hframe.queue⟩
  case tbqry => exact issueWord_done h (tbqryEffect_reads hw)
  case solo => exact issueWord_trap h (mengqEffect_solo hpr hp)
  case other => exact issueWord_done h (mengqEffect_other hpr hp)
  case own => exact issueWord_done h (mengqEffect_own hpr)

end Sys2Proof.Machine

end

section

/-! PROOFS. Slice queues (R237, R387): a pop that meets an element across two lines of different key domains. Obligation O26 (its order of checks is log 45, its one step for all lanes log 77). -/

namespace Sys2Proof.Machine

-- What a write-back leaves of the key slots, and what every domain reads of a line without dirty sectors

/-- The package's number and its key slots. -/
def Package.slots (p : Package) : Nat × Tbl Nat Nat := (p.pkgid, p.keys)
section Slots
variable (s : State)
theorem State.slots_keyWrite (kd pa : Nat) (b : Byte) : (s.keyWrite kd pa b).pkg.slots = s.pkg.slots := by
  obtain ⟨m, l, h⟩ := s.keyWrite_frame kd pa b
  rw [h]
  rfl
theorem State.slots_sendRemote (pa : Nat) (p : RemotePacket) : (s.sendRemote pa p).pkg.slots = s.pkg.slots := by
  unfold State.sendRemote
  split <;> rfl
theorem State.slots_writeBack (c n : Nat) : (s.writeBack c n).pkg.slots = s.pkg.slots := by
  unfold State.writeBack
  split
  · rfl
  · dsimp only
    split
    · rfl
    · rw [State.slots_sendRemote, State.keyWriteBytes_keeps (fun t => t.pkg.slots) State.slots_keyWrite]
      rfl
theorem State.slots_writeBacks (c : Nat) (f : Nat → Nat) (is : List Nat) : (is.foldl (fun s i => s.writeBack c (f i)) s).pkg.slots = s.pkg.slots := by
  induction is generalizing s with
  | nil => rfl
  | cons i is ih => exact (ih _).trans (s.slots_writeBack c _)
theorem State.slots_dropLine (c pa : Nat) : (s.dropLine c pa).pkg.slots = s.pkg.slots := by
  rw [State.dropLine, State.modCore_pkg, State.writeLine, State.slots_writeBacks]
theorem State.slots_timeRead (k : GangKey) (lease n : Nat) : (s.timeRead k lease n).pkg.slots = s.pkg.slots :=
  State.timeRead_keeps (P := fun t => t.pkg.slots = s.pkg.slots) (fun t p h => (congrArg Package.slots (t.rebase_pkg p)).trans h) (fun _ _ _ h => h) (fun _ _ _ _ h => h) rfl k lease n
end Slots

theorem State.keyOf_of_slots {s t : State} (h : t.pkg.slots = s.pkg.slots) (kd pa : Nat) : t.keyOf kd pa = s.keyOf kd pa := by
  obtain ⟨hpkgid, hkeys⟩ := Prod.mk.inj h
  rw [State.keyOf, State.keyOf, hpkgid, hkeys]
/-- Two domains under one key read the same memory. -/
theorem State.memByte_of_keyOf {s : State} {kd kd' pa : Nat} (h : s.keyOf kd pa = s.keyOf kd' pa) : s.memByte kd pa = s.memByte kd' pa := by
  rw [State.memByte, State.memByte, h]
theorem State.keyRead_clean {s : State} {pa : Nat} (h : ∀ e ∈ s.cores, sectorOf pa ∉ e.2.dirty) (kd : Nat) : s.keyRead kd pa = s.memByte kd pa := by
  have hnone : s.dirtyCopy kd pa = none := List.findSome?_eq_none_iff.2 fun e he => if_neg (by simpa using h e he)
  rw [State.keyRead, hnone]
/-- A line none of whose sectors stands dirty in its core reads alike under every domain of one key. -/
theorem State.Shows.read_clean {s : State} {core kd line : Nat} {view : Nat → Byte} {pads : Nat → Memory} (h : s.Shows core kd line view pads)
    (hc : ∀ m ∈ (s.core core).dirty, m / 4 ≠ line) {kd' pa : Nat} (hl : lineOf pa = line) (hk : s.keyOf kd' pa = s.keyOf kd pa) : s.keyRead kd' pa = view pa := by
  obtain ⟨hstand, hread, -⟩ := h
  have hclean : ∀ e ∈ s.cores, sectorOf pa ∉ e.2.dirty := fun e he hd => by
    obtain ⟨_, -, -, hown⟩ := hstand.held e he _ hd
    obtain ⟨rfl, -⟩ := hown ((sectorOf_div pa).trans hl)
    rw [← State.core_eq_of_mem hstand.nodup he] at hd
    exact hc _ hd ((sectorOf_div pa).trans hl)
  rw [← hread pa, State.keyRead_clean hclean, State.keyRead_clean hclean, State.memByte_of_keyOf hk]

-- A pop from a PRIVATE page of an element in a COHERENT one (R190, R237)

/-- The state in which such a pop reads the element, once the descriptor's line is written back and dropped. -/
def State.atElement (s : State) (k : GangKey) (pa' kd' w : Nat) : State := (s.sendRemote pa' (.read pa' kd' w)).timeLoad k (lineOf pa')
theorem State.Shows.atElement {s : State} {core kd line : Nat} {view : Nat → Byte} {pads : Nat → Memory} (h : s.Shows core kd line view pads) (k : GangKey) (pa' kd' w : Nat) :
    (s.atElement k pa' kd' w).Shows core kd line view pads := (h.sendRemote pa' _).timeLoad k _
theorem State.dirty_atElement (s : State) (k : GangKey) (pa' kd' w c : Nat) : ((s.atElement k pa' kd' w).core c).dirty = (s.core c).dirty := by
  rw [State.atElement, State.timeLoad, State.dirty_timeRead, State.dirty_sendRemote]
theorem State.slots_atElement (s : State) (k : GangKey) (pa' kd' w : Nat) : (s.atElement k pa' kd' w).pkg.slots = s.pkg.slots := by
  rw [State.atElement, State.timeLoad, State.slots_timeRead, State.slots_sendRemote]
section Pop
variable {s : State} {k : GangKey} {core kd pa kd' pa' w : Nat}
theorem State.queueLane_pop {o : QueueOp} {lane va x : Nat} {q : QueueDesc} {ra : Bool} (hp : o.push = false) (hc : q.count ≠ 0) (hh : isHost pa = false) (hh' : isHost pa' = false)
    (hl : s.translate (s.team k.team).ctx (some (s.gang k).core) .atomic none va = .ok (.mem pa kd 0 ra)) (hq : (s.queueAt (.mem pa kd 0 ra)).2 = some q)
    (he : s.translate (s.team k.team).ctx (some (s.gang k).core) .load none (q.elem q.head) = .ok (.mem pa' kd' 2 true)) :
    (s.queueLane k o lane va x).2.2 = ((s.dropLine (s.gang k).core pa).atElement k pa' kd' o.w).keyReadN kd' pa' o.w := by
  simp only [State.queueLane, hl, hq, hp, if_neg hc, he, State.beforeAtomic, hh, hh', State.homeRead, Bool.false_eq_true, if_false, if_true]
  rfl
/-- In that state every domain under the descriptor's key reads the descriptor's line as the descriptor's domain read it before. -/
theorem State.keyRead_atElement (h : s.copiesAgree core kd pa) {b : Nat} (hl : lineOf b = lineOf pa) (hk : s.keyOf kd' b = s.keyOf kd b) :
    ((s.dropLine core pa).atElement k pa' kd' w).keyRead kd' b = s.keyRead kd b := by
  have hdropped := (State.shows_of_copiesAgree h).dropLine (pa := pa) rfl
  have hslots : ((s.dropLine core pa).atElement k pa' kd' w).pkg.slots = s.pkg.slots := by
    rw [State.slots_atElement, State.slots_dropLine]
  refine (hdropped.atElement k pa' kd' w).read_clean (fun m hm => ?_) hl ?_
  · rw [State.dirty_atElement, State.dropLine, State.core_modCore] at hm
    exact s.dirty_writeLine core pa hm
  · rw [State.keyOf_of_slots hslots, State.keyOf_of_slots hslots, hk]
end Pop

/-- A queue's descriptor at PA 0x30100 under key domain 0, which names one element of 4 bytes at VA 0x2FFFE. The element's last two bytes lie in the page of the descriptor, in a sector that
core 0 holds dirty; its first two in the page below, of key domain 1. -/
def straddlingQueue : State :=
  let s := (State.reset.modPkg fun p => { p with keys := [(0, 0), (1, 0)] }).modCore 0 fun c => { c with
    tlb := [(0, [⟨0x20000, 65536, 0x20000, false, true, 0, 31, 1, 2, true⟩, ⟨0x30000, 65536, 0x30000, false, true, 0, 31, 0, 0, true⟩])],
    l1 := [(0x300, ⟨List.replicate 256 1, 0, 0, 0, 0, false⟩)], dirty := [0x300] }
  { s with mem := ((Memory.writeN s.mem 0x30100 8 0x2FFFE).writeN 0x30108 4 1).writeN 0x30114 4 1 }
def straddlingPop : QueueOp := popOp false ⟨0, .v 20, .v 22, .p 1, .w4⟩
/-- The gang that pops. -/
def poppingGang : GangKey := ⟨0, 0⟩

namespace straddlingQueue

theorem descriptor_loc : straddlingQueue.translate (straddlingQueue.team poppingGang.team).ctx (some (straddlingQueue.gang poppingGang).core) .atomic none 0x30100 =
    .ok (.mem 0x30100 0 0 true) := by decide +kernel
theorem descriptor : (straddlingQueue.queueAt (.mem 0x30100 0 0 true)).2 = some ⟨0x2FFFE, 1, 4, 0, 1⟩ := by decide +kernel
theorem element_loc : straddlingQueue.translate (straddlingQueue.team poppingGang.team).ctx (some (straddlingQueue.gang poppingGang).core) .load none 0x2FFFE =
    .ok (.mem 0x2FFFE 1 2 true) := by decide +kernel

/-- The one copy that stands in memory's place is the dirty sector, under key domain 0. -/
theorem copy_eq {n : Nat} {c : Sector} (h : tget (straddlingQueue.core 0).l1 n = some c) : n = 0x300 ∧ c = ⟨List.replicate 256 1, 0, 0, 0, 0, false⟩ := by
  have hl1 : (straddlingQueue.core 0).l1 = [(0x300, ⟨List.replicate 256 1, 0, 0, 0, 0, false⟩)] := by decide +kernel
  exact Prod.mk.inj (List.mem_singleton.1 (mem_of_tget (hl1 ▸ h)))
theorem cores_eq : straddlingQueue.cores = [(0, straddlingQueue.core 0)] ∧ (straddlingQueue.core 0).dirty = [0x300] ∧
    tget (straddlingQueue.core 0).l1 0x300 = some ⟨List.replicate 256 1, 0, 0, 0, 0, false⟩ := by decide +kernel
theorem copy_bytes : List.replicate 256 1 = (List.range 256).map fun i => straddlingQueue.keyRead 0 (256 * 0x300 + i) := by
  obtain ⟨hcores, hdirty, hcopy⟩ := cores_eq
  refine (List.eq_replicate_iff.2 ⟨by rw [List.length_map, List.length_range], fun b hb => ?_⟩).symm
  obtain ⟨i, hi, rfl⟩ := List.mem_map.1 hb
  have hi := List.mem_range.1 hi
  have hsector : sectorOf (256 * 0x300 + i) = 0x300 := by
    rw [sectorOf]
    omega
  have hdirtyCopy : straddlingQueue.dirtyCopy 0 (256 * 0x300 + i) = some ⟨List.replicate 256 1, 0, 0, 0, 0, false⟩ := by
    rw [State.dirtyCopy, hsector, hcores, List.findSome?_singleton, hdirty, hcopy]
    rfl
  rw [State.keyRead, hdirtyCopy]
  exact List.getD_replicate _ (Nat.mod_lt _ (by norm_num))

/-- Its copies agree on every line for the domain under which the line's dirty sector stands. -/
theorem copiesAgree {kd pa : Nat} (h : lineOf pa = 192 → kd = 0) : straddlingQueue.copiesAgree 0 kd pa := by
  obtain ⟨hcores, hdirty, hcopy⟩ := cores_eq
  refine ⟨?nodup, ?alone, ?held, ?bytes⟩
  case nodup => simp [hcores]
  case alone => simp [hcores]
  case held =>
    rw [hcores]
    intro e he n hn
    obtain rfl := List.mem_singleton.1 he
    rw [hdirty] at hn
    obtain rfl := List.mem_singleton.1 hn
    exact ⟨_, hcopy, rfl, fun hline => ⟨rfl, (h hline.symm).symm⟩⟩
  case bytes =>
    intro n c _ hc _ hkd
    obtain ⟨rfl, rfl⟩ := copy_eq hc
    obtain rfl : 0 = kd := hkd
    exact copy_bytes

/-- The element's third byte, as its own domain reads it in the state in which the pop does. -/
theorem popped_byte : ((straddlingQueue.dropLine 0 0x30100).atElement poppingGang 0x2FFFE 1 4).keyRead 1 0x30000 = 1 := by
  rw [State.keyRead_atElement (copiesAgree fun _ => rfl) (by decide) (by decide +kernel)]
  exact (List.eq_replicate_iff.1 copy_bytes.symm).2 _ (List.mem_map.2 ⟨0, List.mem_range.2 (by norm_num), rfl⟩)
theorem element_before : straddlingQueue.homeRead (.mem 0x2FFFE 1 2 true) 4 = 0 := by decide +kernel
/-- The pop writes the dirty sector back under its own domain before it reads the element, and then finds bytes there that the element's domain did not read before. -/
theorem popped_ne : (straddlingQueue.queueLane poppingGang straddlingPop 0 0x30100 0).2.2 ≠ 0 := by
  have hcount : (⟨0x2FFFE, 1, 4, 0, 1⟩ : QueueDesc).count ≠ 0 := by decide
  rw [State.queueLane_pop rfl hcount (by decide) (by decide) descriptor_loc descriptor element_loc]
  have hbyte := popped_byte
  have hbytes (u : State) : u.keyReadN 1 0x2FFFE 4 = natOfBytes [u.keyRead 1 0x2FFFE, u.keyRead 1 0x2FFFF, u.keyRead 1 0x30000, u.keyRead 1 0x30001] := rfl
  have hone : (1 : Byte).toNat = 1 := rfl
  change State.keyReadN ((straddlingQueue.dropLine 0 0x30100).atElement poppingGang 0x2FFFE 1 4) 1 0x2FFFE 4 ≠ 0
  rw [hbytes, hbyte]
  simp only [natOfBytes]
  omega
end straddlingQueue

/-- Refutes O26: the statement asks no alignment of an element. One that reaches from a line of one key domain into a dirty line of another, the descriptor's own, is popped with the bytes that
the descriptor's write-back puts there, and not with the ones that its domain read before. The checks of R387 (log 45) refuse such an element, but the statement speaks of a lane alone. -/
theorem not_queueOperations : ¬ Obligations.QueueOperations := by
  rintro ⟨-, -, -, hlane, -⟩
  obtain ⟨-, -, hpop⟩ := hlane straddlingQueue poppingGang straddlingPop 0 0x30100 0 _ _ straddlingQueue.descriptor_loc straddlingQueue.descriptor
  obtain ⟨-, hvalue⟩ := hpop _ rfl (by decide) straddlingQueue.element_loc
  exact straddlingQueue.popped_ne ((hvalue _ _ _ _ _ _ _ _ rfl rfl (straddlingQueue.copiesAgree fun _ => rfl) (straddlingQueue.copiesAgree fun h => absurd h (by decide))).trans straddlingQueue.element_before)

end Sys2Proof.Machine

end

section

/-! PROOFS. Configuration registers (R295): HCMASK's wipe (R26, its barriers log 102), the other partition registers (R197, R231, R262; log 81, log 103), PREEMPT (R277), a context's registers
(R272, R300; log 104) and the offsets at which they stand. Obligation O57. -/

namespace Sys2Proof.Machine

-- Half-columns and lines (R23)

theorem State.inHalf_iff (s : State) (h a : Nat) : s.inHalf h a = true ↔ packageOf a = s.pkg.pkgid ∧ a % 2 ^ 41 < 0x18000000000 ∧ a % 2 ^ 41 / 2 ^ 37 = h := by
  simp only [State.inHalf, Bool.and_eq_true, decide_eq_true_eq, and_assoc]
/-- A line lies in one half-column. -/
theorem State.inHalf_of_line (s : State) (h : Nat) {a b : Nat} (hl : lineOf a = lineOf b) : s.inHalf h a = s.inHalf h b := by
  rw [Bool.eq_iff_iff, State.inHalf_iff, State.inHalf_iff]
  simp only [lineOf, packageOf] at hl ⊢
  omega
theorem lineOf_sector (n : Nat) : lineOf (n * 256) = n / 4 := by
  simp only [lineOf]
  omega

-- Dirty sectors written back (R190, R195)

/-- Dirty sectors written back change memory in some lines alone, and no sector becomes dirty. -/
structure State.Flushes (line : Nat → Prop) (s t : State) : Prop where
  gangs : t.gangs = s.gangs
  teams : t.teams = s.teams
  parts : t.parts = s.parts
  pkgid : t.pkg.pkgid = s.pkg.pkgid
  dirty : ∀ c, ∀ n ∈ (t.core c).dirty, n ∈ (s.core c).dirty
  read : ∀ a, ¬ line (lineOf a) → t.mem.read a = s.mem.read a

section Flushes
variable {line : Nat → Prop} {s t u : State}
theorem State.Flushes.refl : s.Flushes line s := ⟨rfl, rfl, rfl, rfl, fun _ _ h => h, fun _ _ => rfl⟩
theorem State.Flushes.trans (a : s.Flushes line t) (b : t.Flushes line u) : s.Flushes line u where
  gangs := b.gangs.trans a.gangs
  teams := b.teams.trans a.teams
  parts := b.parts.trans a.parts
  pkgid := b.pkgid.trans a.pkgid
  dirty c n h := a.dirty c n (b.dirty c n h)
  read x hx := (b.read x hx).trans (a.read x hx)
theorem State.Flushes.foldl {α : Type} {f : State → α → State} {xs : List α} (hf : ∀ t, s.Flushes line t → ∀ x ∈ xs, t.Flushes line (f t x)) : s.Flushes line (xs.foldl f s) :=
  List.foldlRecOn (motive := fun t => s.Flushes line t) xs f .refl fun t ht x hx => ht.trans (hf t ht x hx)

theorem State.flushes_keyWrite (kd : Nat) {pa : Nat} (b : Byte) (h : line (lineOf pa)) : s.Flushes line (s.keyWrite kd pa b) where
  gangs := s.keyWrite_gangs kd pa b
  teams := s.keyWrite_teams kd pa b
  parts := s.keyWrite_parts kd pa b
  pkgid := s.keyWrite_pkgid kd pa b
  dirty c n hn := by
    rw [State.core_keyWrite] at hn
    exact hn
  read a ha := by
    have hne : lineOf a ≠ lineOf pa := fun e => ha (e ▸ h)
    exact (Memory.read_write ..).trans ((if_neg fun e => hne (congrArg lineOf e)).trans (s.read_retag_ne hne))
theorem State.flushes_keyWriteBytes (kd pa : Nat) (bs : List Byte) (h : ∀ i < bs.length, line (lineOf (pa + i))) : s.Flushes line (s.keyWriteBytes kd pa bs) := by
  induction bs generalizing s pa with
  | nil => exact .refl
  | cons b bs ih =>
    refine (State.flushes_keyWrite kd b (h 0 (Nat.succ_pos _))).trans (ih (pa + 1) fun i hi => ?_)
    rw [Nat.add_assoc, Nat.add_comm 1]
    exact h (i + 1) (Nat.succ_lt_succ hi)
theorem State.flushes_sendRemote (pa : Nat) (p : RemotePacket) : s.Flushes line (s.sendRemote pa p) := by
  unfold State.sendRemote
  split
  · exact .refl
  · exact ⟨rfl, rfl, rfl, rfl, fun _ _ h => h, fun _ _ => rfl⟩
/-- Fewer sectors of one core stand dirty. -/
theorem State.flushes_clean (c : Nat) (p : Nat → Bool) : s.Flushes line (s.modCore c fun x => { x with dirty := x.dirty.filter p }) where
  gangs := rfl
  teams := rfl
  parts := rfl
  pkgid := rfl
  dirty d n hn := by
    by_cases hd : d = c
    · subst hd
      rw [State.core_modCore] at hn
      exact List.mem_of_mem_filter hn
    · rwa [State.core_modCore_ne s _ hd] at hn
  read _ _ := rfl
theorem State.flushes_writeBack (c : Nat) {n : Nat} (h : line (n / 4)) : s.Flushes line (s.writeBack c n) := by
  unfold State.writeBack
  split
  · exact .refl
  · dsimp only
    split
    · exact State.flushes_clean c _
    · refine ((State.flushes_clean c _).trans (State.flushes_keyWriteBytes _ _ _ fun i hi => ?_)).trans (State.flushes_sendRemote _ _)
      have hlt := lt_of_lt_of_le hi (List.length_take_le _ _)
      have hline : lineOf (n * 256 + i) = n / 4 := by
        simp only [lineOf]
        omega
      exact hline ▸ h
end Flushes

/-- A line of which a core of a half-column holds a sector dirty. -/
def State.dirtyIn (s : State) (h line : Nat) : Prop := ∃ c, halfColumn (dieOf c) = h ∧ ∃ n ∈ (s.core c).dirty, n / 4 = line
theorem State.flushes_flushHalf (s : State) (h : Nat) : s.Flushes (s.dirtyIn h) (s.flushHalf h) := by
  refine State.Flushes.foldl fun t ht c hc => State.Flushes.foldl fun u _ n hn => State.flushes_writeBack c ⟨c, ?_, n, ht.dirty c n hn, rfl⟩
  obtain ⟨e, he, rfl⟩ := List.mem_map.1 hc
  exact of_decide_eq_true (List.mem_filter.1 he).2

-- Half-columns wiped (R26)

/-- A half-column wiped: its memory reads 0, its lines are dirty nowhere, and elsewhere memory changes only in lines that its cores held dirty. -/
structure State.Wipes (h : Nat) (s t : State) : Prop where
  gangs : t.gangs = s.gangs
  teams : t.teams = s.teams
  pkgid : t.pkg.pkgid = s.pkg.pkgid
  hcmask : ∀ p, (t.part p).hcmask = (s.part p).hcmask
  dirty : ∀ c, ∀ n ∈ (t.core c).dirty, n ∈ (s.core c).dirty ∧ s.inHalf h (n * 256) = false
  zero : ∀ a, s.inHalf h a = true → t.mem.read a = 0
  kept : ∀ a, s.inHalf h a = false → ¬ s.dirtyIn h (lineOf a) → t.mem.read a = s.mem.read a

theorem tget_mapValues {κ ν : Type} [DecidableEq κ] (f : κ × ν → ν) (t : Tbl κ ν) (k : κ) : tget (t.map fun e => (e.1, f e)) k = (tget t k).map fun v => f (k, v) :=
  tget_map_keys (g := fun e => (e.1, f e)) (fun _ => rfl) t k
theorem State.parts_wipeHalf (s : State) (h : Nat) : (s.wipeHalf h).parts = (s.flushHalf h).parts.map fun e => (e.1, e.2.loseHalf (s.flushHalf h) h) := rfl
theorem State.cores_wipeHalf (s : State) (h : Nat) : ∃ f : Nat × Core → Core, (s.wipeHalf h).cores = (s.flushHalf h).cores.map (fun e => (e.1, f e)) ∧
    ∀ e, (f e).dirty = if halfColumn (dieOf e.1) = h then [] else e.2.dirty.filter fun n => !(s.flushHalf h).inHalf h (n * 256) := by
  refine ⟨_, rfl, fun e => ?_⟩
  simp only [decide_eq_true_eq]
  split <;> rfl
theorem State.hcmask_wipeHalf (s : State) (h p : Nat) : ((s.wipeHalf h).part p).hcmask = ((s.flushHalf h).part p).hcmask := by
  rw [State.part, State.part, tgetD, tgetD, State.parts_wipeHalf, tget_mapValues]
  cases tget (s.flushHalf h).parts p <;> rfl
theorem State.dirty_wipeHalf (s : State) (h c : Nat) {n : Nat} (hn : n ∈ ((s.wipeHalf h).core c).dirty) :
    n ∈ ((s.flushHalf h).core c).dirty ∧ (s.flushHalf h).inHalf h (n * 256) = false := by
  obtain ⟨f, hcores, hdirty⟩ := s.cores_wipeHalf h
  rw [State.core, tgetD, hcores, tget_mapValues] at hn
  rw [State.core, tgetD]
  cases htab : tget (s.flushHalf h).cores c with
  | none => simp [htab, Core.initial] at hn
  | some x =>
    simp only [htab, Option.map_some, Option.getD_some, hdirty] at hn ⊢
    split at hn
    · cases hn
    · simpa using hn
theorem State.wipes_wipeHalf (s : State) (h : Nat) : s.Wipes h (s.wipeHalf h) := by
  have hf := s.flushes_flushHalf h
  have hhalf : ∀ a, (s.flushHalf h).inHalf h a = s.inHalf h a := fun a => by rw [State.inHalf, State.inHalf, hf.pkgid]
  refine ⟨hf.gangs, hf.teams, hf.pkgid, fun p => ?hcmask, fun c n hn => ?dirty, fun a ha => ?zero, fun a ha hd => ?kept⟩
  case hcmask => rw [s.hcmask_wipeHalf h p, State.part, State.part, hf.parts]
  case dirty =>
    obtain ⟨hmem, hout⟩ := s.dirty_wipeHalf h c hn
    exact ⟨hf.dirty c n hmem, (hhalf _).symm.trans hout⟩
  case zero =>
    rw [← hhalf] at ha
    exact (Memory.read_filter _ (fun c => !(s.flushHalf h).inHalf h c) a).trans (if_neg (by simp [ha]))
  case kept =>
    rw [← hhalf] at ha
    exact (Memory.read_filter _ (fun c => !(s.flushHalf h).inHalf h c) a).trans ((if_pos (by simp [ha])).trans (hf.read a hd))

/-- Some half-columns wiped one after the other: their memory reads 0, their lines are dirty nowhere, and elsewhere memory changes only in lines that their cores held dirty. -/
structure State.WipesAll (hs : List Nat) (s t : State) : Prop where
  gangs : t.gangs = s.gangs
  teams : t.teams = s.teams
  pkgid : t.pkg.pkgid = s.pkg.pkgid
  hcmask : ∀ p, (t.part p).hcmask = (s.part p).hcmask
  dirty : ∀ c, ∀ n ∈ (t.core c).dirty, n ∈ (s.core c).dirty ∧ ∀ h ∈ hs, s.inHalf h (n * 256) = false
  zero : ∀ a, ∀ h ∈ hs, s.inHalf h a = true → t.mem.read a = 0
  kept : ∀ a, (∀ h ∈ hs, s.inHalf h a = false ∧ ¬ s.dirtyIn h (lineOf a)) → t.mem.read a = s.mem.read a

theorem State.wipesAll_nil (s : State) : s.WipesAll [] s := ⟨rfl, rfl, rfl, fun _ => rfl, fun _ _ hn => ⟨hn, fun _ h => absurd h List.not_mem_nil⟩, fun _ _ h => absurd h List.not_mem_nil, fun _ _ => rfl⟩
/-- A half-column wiped after others takes nothing back: none of its cores holds a line of theirs dirty any more. -/
theorem State.WipesAll.wipeHalf {hs : List Nat} {s t : State} (w : s.WipesAll hs t) (h : Nat) : s.WipesAll (hs ++ [h]) (t.wipeHalf h) := by
  have last := t.wipes_wipeHalf h
  have hhalf : ∀ i a, t.inHalf i a = s.inHalf i a := fun i a => by rw [State.inHalf, State.inHalf, w.pkgid]
  refine ⟨last.gangs.trans w.gangs, last.teams.trans w.teams, last.pkgid.trans w.pkgid, fun p => (last.hcmask p).trans (w.hcmask p), fun c n hn => ?dirty, fun a i hi ha => ?zero, fun a ha => ?kept⟩
  case dirty =>
    obtain ⟨hmem, hout⟩ := last.dirty c n hn
    obtain ⟨hmem, houts⟩ := w.dirty c n hmem
    refine ⟨hmem, fun i hi => (List.mem_append.1 hi).elim (houts i) fun hi => ?_⟩
    rw [List.mem_singleton.1 hi, ← hhalf, hout]
  case zero =>
    cases hlast : s.inHalf h a with
    | true => exact last.zero a ((hhalf h a).trans hlast)
    | false =>
      have hearlier : i ∈ hs := (List.mem_append.1 hi).resolve_right fun hi => by
        rw [List.mem_singleton.1 hi, hlast] at ha
        cases ha
      refine (last.kept a ((hhalf h a).trans hlast) ?_).trans (w.zero a i hearlier ha)
      rintro ⟨c, -, n, hn, hline⟩
      obtain ⟨-, houts⟩ := w.dirty c n hn
      rw [← s.inHalf_of_line i ((lineOf_sector n).trans hline), houts i hearlier] at ha
      cases ha
  case kept =>
    obtain ⟨hin, hclean⟩ := ha h (List.mem_append_right _ (List.mem_singleton.2 rfl))
    refine (last.kept a ((hhalf h a).trans hin) ?_).trans (w.kept a fun i hi => ha i (List.mem_append_left _ hi))
    rintro ⟨c, hc, n, hn, hline⟩
    obtain ⟨hmem, -⟩ := w.dirty c n hn
    exact hclean ⟨c, hc, n, hmem, hline⟩
theorem State.wipesAll_foldl (hs : List Nat) (p : Nat → Prop) [DecidablePred p] (s : State) :
    s.WipesAll (hs.filter (fun h => p h)) (hs.foldl (fun t h => if p h then t.wipeHalf h else t) s) := by
  induction hs using List.reverseRecOn with
  | nil => exact s.wipesAll_nil
  | append_singleton hs h ih =>
    rw [List.filter_append, List.foldl_append, List.foldl_cons, List.foldl_nil, List.filter_singleton]
    by_cases hp : p h
    · simpa [hp] using ih.wipeHalf h
    · simpa [hp] using ih

section Hcmask
variable (s : State) (p : Nat) (v : BitVec 64)
/-- HCMASK takes a value: the partition's contexts are stopped, and it is a shape that meets no other partition's. -/
def State.maskOk (s : State) (p : Nat) (m : BitVec 12) : Prop := s.stopped p = true ∧ shapeOk m = true ∧ ∀ e ∈ s.parts, e.1 ≠ p → e.2.hcmask &&& m = 0
theorem exec_hcmaskWrite_bad (h : ¬ s.maskOk p (BitVec.ofNat 12 v.toNat)) : exec (.hcmaskWrite p v) s = .next (s.reject p) := by
  refine congrArg Host.Outcome.next (if_pos ?_)
  by_contra hn
  refine h ?_
  simpa [State.maskOk, and_assoc] using hn
section Taken
variable (hok : s.maskOk p (BitVec.ofNat 12 v.toNat))
include hok
theorem exec_hcmaskWrite_same (hm : BitVec.ofNat 12 v.toNat = (s.part p).hcmask) : exec (.hcmaskWrite p v) s = .next s :=
  congrArg Host.Outcome.next ((if_neg (by simpa [State.maskOk, and_assoc] using hok)).trans (if_pos hm))
/-- The half-columns that change hands are wiped, and the partition takes the mask. -/
theorem exec_hcmaskWrite_new (hm : BitVec.ofNat 12 v.toNat ≠ (s.part p).hcmask) :
    ∃ t : State, s.WipesAll ((List.range 12).filter fun h => (BitVec.ofNat 12 v.toNat).getLsbD h ≠ (s.part p).hcmask.getLsbD h) t ∧
      exec (.hcmaskWrite p v) s = .next (t.modPart p fun x => { x with hcmask := BitVec.ofNat 12 v.toNat, gbars := [] }) :=
  ⟨_, s.wipesAll_foldl _ _, congrArg Host.Outcome.next ((if_neg (by simpa [State.maskOk, and_assoc] using hok)).trans (if_neg hm))⟩
end Taken
/-- An address in a half-column that changes hands. -/
theorem State.mem_turned {m : BitVec 12} {a : Nat} : (∃ h ∈ (List.range 12).filter (fun h => m.getLsbD h ≠ (s.part p).hcmask.getLsbD h), s.inHalf h a = true) ↔
    packageOf a = s.pkg.pkgid ∧ a % 2 ^ 41 < 0x18000000000 ∧ m.getLsbD (a % 2 ^ 41 / 2 ^ 37) ≠ (s.part p).hcmask.getLsbD (a % 2 ^ 41 / 2 ^ 37) := by
  constructor
  · rintro ⟨h, hh, ha⟩
    obtain ⟨hpkg, hlt, rfl⟩ := (s.inHalf_iff h a).1 ha
    exact ⟨hpkg, hlt, of_decide_eq_true (List.mem_filter.1 hh).2⟩
  · rintro ⟨hpkg, hlt, hturned⟩
    exact ⟨_, List.mem_filter.2 ⟨List.mem_range.2 (by omega), decide_eq_true hturned⟩, (s.inHalf_iff _ a).2 ⟨hpkg, hlt, rfl⟩⟩
end Hcmask

-- The other partition registers

section Part
variable (s : State) (p : Nat) (v : BitVec 64)
theorem exec_fqbaseWrite_ok (h : s.stopped p = true ∧ (s.part p).kdmask.getLsbD (bitsAt v.toNat 58 6) = true ∧ bitsAt v.toNat 52 6 = 0 ∧ bitsAt v.toNat 0 17 = 0 ∧
      s.ownsRange p (bitsAt v.toNat 17 35 * 2 ^ 17) (2 ^ 17) = true) :
    exec (.fqbaseWrite p v) s = .next (s.modPart p fun x => { x with fqbase := some (bitsAt v.toNat 17 35 * 2 ^ 17, bitsAt v.toNat 58 6), fqNext := 1, fq := [] }) := by
  refine congrArg Host.Outcome.next (if_neg ?_)
  simpa [and_assoc] using h
theorem exec_fqbaseWrite_bad (h : ¬ (s.stopped p = true ∧ (s.part p).kdmask.getLsbD (bitsAt v.toNat 58 6) = true ∧ bitsAt v.toNat 52 6 = 0 ∧ bitsAt v.toNat 0 17 = 0 ∧
      s.ownsRange p (bitsAt v.toNat 17 35 * 2 ^ 17) (2 ^ 17) = true)) : exec (.fqbaseWrite p v) s = .next (s.reject p) := by
  refine congrArg Host.Outcome.next (if_pos ?_)
  by_contra hn
  exact h (by simpa [and_assoc] using hn)
theorem exec_elbaseWrite_ok (h : (s.part p).kdmask.getLsbD (bitsAt v.toNat 58 6) = true ∧ bitsAt v.toNat 52 6 = 0 ∧
      s.ownsRange p (bitsAt v.toNat 12 40 * 2 ^ 12) (4096 * bitsAt v.toNat 0 12) = true) :
    exec (.elbaseWrite p v) s = .next (s.modPart p fun x => { x with elbase := some (bitsAt v.toNat 12 40 * 2 ^ 12, bitsAt v.toNat 58 6, bitsAt v.toNat 0 12), elNext := 0 }) := by
  refine congrArg Host.Outcome.next (if_neg ?_)
  simpa [and_assoc] using h
theorem exec_elbaseWrite_bad (h : ¬ ((s.part p).kdmask.getLsbD (bitsAt v.toNat 58 6) = true ∧ bitsAt v.toNat 52 6 = 0 ∧
      s.ownsRange p (bitsAt v.toNat 12 40 * 2 ^ 12) (4096 * bitsAt v.toNat 0 12) = true)) : exec (.elbaseWrite p v) s = .next (s.reject p) := by
  refine congrArg Host.Outcome.next (if_pos ?_)
  by_contra hn
  exact h (by simpa [and_assoc] using hn)

/-- TLBINV drops the translations of one context in the partition's cores. -/
theorem State.tlb_writeTlbinv (x : Nat) {c : Nat} (h : (s.part p).ownsCore c = true) : tget ((s.writeTlbinv p x).core c).tlb (tlbKey ⟨p, x % 16⟩) = none := by
  have hcores : (s.writeTlbinv p x).cores = tmap s.cores (fun k _ => (s.part p).ownsCore k) fun (k : Core) => { k with tlb := terase k.tlb (tlbKey ⟨p, x % 16⟩) } := rfl
  rw [State.core, tgetD, hcores, tget_tmap]
  cases tget s.cores c with
  | none => rfl
  | some k => simp only [Option.map_some, Option.getD_some, h, if_true, tget_terase]

theorem exec_gbcfgWrite_idle (h : (s.gbar p (bitsAt v.toNat 0 12)).pending = (s.gbar p (bitsAt v.toNat 0 12)).expect) : exec (.gbcfgWrite p v) s =
    .next (s.modPart p fun x =>
      { x with gbars := tset x.gbars (bitsAt v.toNat 0 12) ⟨(s.gbar p (bitsAt v.toNat 0 12)).ph, bitsAt v.toNat 16 24, bitsAt v.toNat 16 24, bitsAt v.toNat 12 4⟩ }) := congrArg Host.Outcome.next (if_neg (not_not.2 h))
theorem exec_gbcfgWrite_counting (h : (s.gbar p (bitsAt v.toNat 0 12)).pending ≠ (s.gbar p (bitsAt v.toNat 0 12)).expect) : exec (.gbcfgWrite p v) s = .next (s.reject p) :=
  congrArg Host.Outcome.next (if_pos h)
end Part

-- Contexts and their registers

section Context
variable {s : State} {c : CtxKey}
theorem exec_contextRun_start (h : (s.ctx c).run = false) (hf : s.pkg.fwGood = true) :
    exec (.contextRun c) s = .next ((s.modCtx c fun x => { x with run := true, devUsed := [] }).modPkg fun k => { k with fabricFixed := true }) :=
  congrArg Host.Outcome.next (if_neg (by simp [h, hf]))
theorem exec_contextRun_idle (h : (s.ctx c).run = true ∨ s.pkg.fwGood = false) : exec (.contextRun c) s = .next s := congrArg Host.Outcome.next (if_pos (by simpa using h))
theorem exec_contextStop_running (h : (s.ctx c).run = true) : exec (.contextStop c) s = .next ((s.teardown c).modCtx c fun x => { x with run := false, posts := [] }) :=
  congrArg Host.Outcome.next (if_pos h)
theorem exec_contextStop_stopped (h : (s.ctx c).run = false) : exec (.contextStop c) s = .next s := congrArg Host.Outcome.next (if_neg (by simp [h]))
end Context

-- The offsets at which the registers stand

section Offsets
variable (s : State) {p : Nat} (v : BitVec 64)
theorem exec_configRegisterWrite (hp : p < 12) (off : Nat) : exec (.configRegisterWrite p off v) s = .next (s.writeConfig p off v.toNat) := if_pos hp
theorem exec_configRegisterWrite_none (off : Nat) (hp : ¬ p < 12) : exec (.configRegisterWrite p off v) s = .next s := if_neg hp

theorem State.writeConfig_reply (s : State) (p x : Nat) : s.writeConfig p 0x028 x = s.reply p (x % 2 ^ 32) (!x.testBit 32) := rfl
/-- An offset at which no partition register stands names a context's, or none. -/
theorem State.writeConfig_other (s : State) (p x : Nat) {off : Nat} (h : off % 8 ≠ 0 ∨ 0x60 < off) :
    s.writeConfig p off x = if 0x1000 ≤ off && off < 0x2000 then s.writeContext ⟨p, (off - 0x1000) / 256⟩ ((off - 0x1000) % 256) x else s := by
  unfold State.writeConfig
  split
  case h_14 => rfl
  all_goals omega
theorem State.writeContext_other (s : State) (k : CtxKey) (x : Nat) {off : Nat} (h : off % 8 ≠ 0 ∨ 0x48 < off) : s.writeContext k off x = s := by
  unfold State.writeContext
  split
  case h_11 => rfl
  all_goals omega
theorem State.writeConfig_context (s : State) (p x : Nat) {c off : Nat} (hc : c < 16) (ho : off < 256) : s.writeConfig p (0x1000 + 256 * c + off) x = s.writeContext ⟨p, c⟩ off x := by
  have hctx : (0x1000 + 256 * c + off - 0x1000) / 256 = c := by omega
  have hoff : (0x1000 + 256 * c + off - 0x1000) % 256 = off := by omega
  rw [State.writeConfig_other s p x (.inr (by omega)), if_pos (by simp; omega), hctx, hoff]
theorem exec_contextWrite (hp : p < 12) {c off : Nat} (hc : c < 16) (ho : off < 256) :
    exec (.configRegisterWrite p (0x1000 + 256 * c + off) v) s = .next (s.writeContext ⟨p, c⟩ off v.toNat) := by
  rw [exec_configRegisterWrite s v hp, State.writeConfig_context s p _ hc ho]
end Offsets

-- PREEMPT (R277)

section Preempt
variable {s : State} {p x : Nat}
theorem State.writePreempt_refused (h : x % 4 = 3 ∨ (x.testBit 2 = true ∧ x % 4 ≠ 2)) : s.writePreempt p x = s.reject p := by
  unfold State.writePreempt
  split
  case h_1 => exact if_pos (h.resolve_left (by omega)).1
  case h_2 => exact if_pos (h.resolve_left (by omega)).1
  case h_3 => omega
  case h_4 => rfl
theorem State.writePreempt_swap (ht : x.testBit 2 = true) (h : x % 4 = 2) : s.writePreempt p x = s.requestSwap p := by
  unfold State.writePreempt
  simp only [h, ht, if_true]
section Save
variable (ht : x.testBit 2 = false)
include ht
theorem State.writePreempt_request (h : x % 4 = 0) : s.writePreempt p x = s.requestSave fun t => t.ctx = ⟨p, bitsAt x 4 4⟩ && t.q = bitsAt x 16 15 := by
  unfold State.writePreempt
  simp [h, ht]
theorem State.writePreempt_context (h : x % 4 = 1) : s.writePreempt p x = s.requestSave fun t => t.ctx = ⟨p, bitsAt x 4 4⟩ := by
  unfold State.writePreempt
  simp [h, ht]
theorem State.writePreempt_partition (h : x % 4 = 2) : s.writePreempt p x = s.requestSave fun t => t.ctx.part = p := by
  unfold State.writePreempt
  simp [h, ht]
end Save
end Preempt

/-- Settles O57: a refused value sets REJ, HCMASK's wipe goes half-column by half-column, and an offset names one register's write or none. -/
theorem registerWrites : Obligations.RegisterWrites := by
  refine ⟨fun s p v => ?partitions, fun s => ?others⟩
  case partitions =>
    refine ⟨⟨exec_fqbaseWrite_ok s p v, exec_fqbaseWrite_bad s p v⟩, ⟨exec_elbaseWrite_ok s p v, exec_elbaseWrite_bad s p v⟩,
      ⟨fun hok hm => ?same, fun hok hm => ?wiped, exec_hcmaskWrite_bad s p v⟩, rfl, ⟨_, rfl, ?tlbinv, rfl, rfl, fun c hc => s.tlb_writeTlbinv p _ hc⟩, rfl,
      ⟨fun hb => ⟨_, exec_gbcfgWrite_idle s p v hb, ?gbar, fun m hm => ?gbars, rfl⟩, exec_gbcfgWrite_counting s p v⟩,
      fun h => congrArg Host.Outcome.next (if_pos h), fun h => congrArg Host.Outcome.next (if_neg (ne_true_of_eq_false h)), fun ag => rfl⟩
    case same => exact exec_hcmaskWrite_same s p v hok hm
    case wiped =>
      obtain ⟨t, hw, hexec⟩ := exec_hcmaskWrite_new s p v hok hm
      refine ⟨_, hexec, ?_, ?_, fun q hq => ?_, hw.gangs, hw.teams, fun a => ⟨fun ha => ?_, fun ha hclean => ?_⟩⟩
      · rw [State.part_modPart]
      · rw [State.part_modPart]
      · rw [State.part_modPart_ne _ _ hq, hw.hcmask]
      · obtain ⟨h, hh, hin⟩ := (s.mem_turned p).2 ha
        exact hw.zero a h hh hin
      · refine hw.kept a fun h hh => ⟨Bool.eq_false_iff.2 fun hin => ha ((s.mem_turned p).1 ⟨h, hh, hin⟩), ?_⟩
        rintro ⟨c, rfl, n, hn, hline⟩
        exact hclean _ (State.mem_cores_of_dirty hn) (of_decide_eq_true (List.mem_filter.1 hh).2) n hn hline
    case tlbinv => rw [State.writeTlbinv, State.part_modPart]
    case gbar => rw [State.gbar_modPart, if_pos rfl]
    case gbars => rw [State.gbar_modPart, if_neg hm]
  case others =>
    refine ⟨fun c => exec_contextRun_start, fun c => exec_contextRun_idle, fun c hr => ⟨_, exec_contextStop_running hr, ?stops, ?posts, rfl⟩, fun c => exec_contextStop_stopped,
      fun v => ⟨_, rfl, rfl, rfl⟩, fun p v hp => ?registers, fun p off v h => ?outside⟩
    case stops => rw [State.ctx_modCtx]
    case posts => rw [State.ctx_modCtx]
    case outside =>
      by_cases hp : p < 12
      · rw [exec_configRegisterWrite s v hp, State.writeConfig_other s p _ (.inr (by omega)), if_neg (by simp; omega)]
      · exact exec_configRegisterWrite_none s v off hp
    case registers =>
      have hwrite := exec_configRegisterWrite s v hp
      refine ⟨fun i off hi => ?offsets, hwrite _, hwrite _, fun h => (hwrite _).trans (congrArg _ (State.writePreempt_refused h)),
        fun ht => ⟨fun h => (hwrite _).trans (congrArg _ (State.writePreempt_request ht h)), fun h => (hwrite _).trans (congrArg _ (State.writePreempt_context ht h)),
          fun h => (hwrite _).trans (congrArg _ (State.writePreempt_partition ht h))⟩,
        fun ht h => (hwrite _).trans (congrArg _ (State.writePreempt_swap ht h)), fun h => ?kdmask, fun h => (hwrite _).trans (congrArg _ (if_neg (ne_true_of_eq_false h))),
        fun c hc => ?contexts, fun off ho h => ?noRegister⟩
      case offsets =>
        rw [hwrite]
        rcases hi with ⟨rfl, rfl⟩ | ⟨rfl, rfl⟩ | ⟨rfl, rfl⟩ | ⟨rfl, rfl⟩ | ⟨rfl, rfl⟩ | ⟨rfl, rfl⟩ | ⟨rfl, rfl⟩ | ⟨rfl, rfl⟩ | ⟨rfl, hb, rfl⟩ | ⟨rfl, hb, rfl⟩
        case inr.inr.inr.inr.inr.inr.inr.inr.inl =>
          rw [State.writeConfig_reply, hb]
          rfl
        case inr.inr.inr.inr.inr.inr.inr.inr.inr =>
          rw [State.writeConfig_reply, hb]
          rfl
        all_goals rfl
      case kdmask =>
        refine (hwrite _).trans ((congrArg _ (if_pos h)).trans ?_)
        rw [BitVec.ofNat_toNat, BitVec.setWidth_eq]
      case noRegister => rw [hwrite, State.writeConfig_other s p _ h, if_neg (by simp; omega)]
      case contexts =>
        have hctx {off : Nat} (ho : off < 256) := exec_contextWrite s v hp hc ho
        refine ⟨hctx (by decide), hctx (by decide), hctx (by decide), hctx (by decide), hctx (by decide), hctx (by decide), ?run, hctx (by decide),
          fun hr => ⟨(hctx (by decide)).trans (congrArg _ (if_neg (ne_true_of_eq_false hr))), (hctx (by decide)).trans (congrArg _ (if_neg (ne_true_of_eq_false hr)))⟩,
          fun hr => ⟨(hctx (by decide)).trans (congrArg _ (if_pos hr)), (hctx (by decide)).trans (congrArg _ (if_pos hr))⟩,
          fun off ho h => (hctx ho).trans (congrArg _ (s.writeContext_other _ _ h))⟩
        refine (hctx (by decide)).trans ?_
        split
        case isTrue hrun => exact congrArg _ (if_pos hrun)
        case isFalse hstop => exact congrArg _ (if_neg hstop)

end Sys2Proof.Machine

end

section

/-! PROOFS. PREF (R385; another package's line is left as it is, log 18) and FENCE (R212, R215). Obligation O25. -/

namespace Sys2Proof.Machine

-- The scratchpads, which no fill of an L1 touches

section Pads
variable (s : State)
theorem State.pads_modCore (n : Nat) {f : Core → Core} (h : (f (s.core n)).scratch = (s.core n).scratch) : (s.modCore n f).pads = s.pads := by
  funext c
  by_cases hc : c = n
  · subst hc
    rw [State.pads, State.core_modCore, h]
  · rw [State.pads, State.core_modCore_ne s f hc]
theorem State.pads_keyWrite (kd pa : Nat) (b : Byte) : (s.keyWrite kd pa b).pads = s.pads := by
  funext c
  rw [State.pads, State.core_keyWrite]
  rfl
theorem State.pads_sendRemote (pa : Nat) (p : RemotePacket) : (s.sendRemote pa p).pads = s.pads := by
  unfold State.sendRemote
  split <;> rfl
theorem State.pads_rebase (p : Nat) : (s.rebase p).pads = s.pads := by
  funext c
  rw [State.pads, State.core_rebase]
  split <;> rfl
theorem State.pads_timeRead (k : GangKey) (lease n : Nat) : (s.timeRead k lease n).pads = s.pads :=
  State.timeRead_keeps (P := fun t => t.pads = s.pads) (fun t p h => (t.pads_rebase p).trans h) (fun _ _ _ h => h) (fun _ _ _ _ h => h) rfl k lease n
theorem State.pads_writeBack (c n : Nat) : (s.writeBack c n).pads = s.pads := by
  unfold State.writeBack
  split
  · rfl
  · dsimp only
    split
    · exact s.pads_modCore c rfl
    · rw [State.pads_sendRemote, State.keyWriteBytes_keeps State.pads State.pads_keyWrite, s.pads_modCore c rfl]
theorem State.pads_dropSector (c n : Nat) : (s.dropSector c n).pads = s.pads := by
  rw [State.dropSector, State.pads_modCore _ c rfl, State.pads_writeBack]
theorem State.pads_missLoad (k : GangKey) (c pa kd w : Nat) (alloc keep : Bool) : (s.missLoad k c pa kd w alloc keep).1.pads = s.pads := by
  unfold State.missLoad
  dsimp only
  split
  · split
    · exact (State.pads_modCore _ c rfl).trans (s.pads_writeBack c _)
    · exact s.pads_writeBack c _
  · rw [State.pads_modCore _ c rfl]
    split
    · exact (State.pads_sendRemote _ _ _).trans ((State.pads_timeRead _ k _ _).trans (s.pads_writeBack c _))
    · exact (State.pads_sendRemote _ _ _).trans ((State.pads_timeRead _ k _ _).trans (s.pads_writeBack c _))
theorem State.pads_plainLoad (k : GangKey) (c pa kd w : Nat) (poll : Bool) (ch : Nat) : (s.plainLoad k c pa kd w poll ch).1.pads = s.pads := by
  unfold State.plainLoad
  dsimp only
  split
  · split
    · exact (State.pads_dropSector _ c _).trans (s.pads_timeRead k 0 _)
    · exact s.pads_timeRead k 0 _
  · split
    · exact (State.pads_sendRemote _ _ _).trans (s.pads_timeRead k 0 _)
    · exact (State.pads_modCore _ c rfl).trans ((State.pads_dropSector _ c _).trans ((State.pads_sendRemote _ _ _).trans (s.pads_timeRead k 0 _)))
end Pads

-- PREF.L1 (R385)

/-- A sector taken into L1 as a load would take it. -/
def State.fillSectorFor (s : State) (k : GangKey) (core kd coh a : Nat) : State :=
  if coh ≥ 2 then (s.missLoad k core a kd 256 true true).1 else (s.plainLoad k core a kd 256 false 0).1
/-- The four sectors of a line taken into L1. -/
def State.fillLineFor (s : State) (k : GangKey) (core kd coh pa : Nat) : State :=
  (List.range 4).foldl (fun t i => t.fillSectorFor k core kd coh (lineOf pa * 1024 + 256 * i)) s

section Fill
variable {s : State} {k : GangKey} {core kd coh : Nat}
theorem State.pads_fillSectorFor (a : Nat) : (s.fillSectorFor k core kd coh a).pads = s.pads := by
  unfold State.fillSectorFor
  split
  · exact s.pads_missLoad k core a kd 256 true true
  · exact s.pads_plainLoad k core a kd 256 false 0
theorem State.pads_fillLineFor (pa : Nat) : (s.fillLineFor k core kd coh pa).pads = s.pads :=
  foldl_keeps State.pads (fun t _ => t.pads_fillSectorFor _) (List.range 4) s
variable {line : Nat} {view : Nat → Byte} {pads : Nat → Memory} (h : s.Shows core kd line view pads)
include h
theorem State.Shows.fillSectorFor {a : Nat} (hl : lineOf a = line) : (s.fillSectorFor k core kd coh a).Shows core kd line view pads := by
  unfold State.fillSectorFor
  split
  · exact h.missLoad k hl kd 256 true true
  · exact h.plainLoad k hl kd 256 false 0
theorem State.Shows.fillLineFor {pa : Nat} (hl : lineOf pa = line) : (s.fillLineFor k core kd coh pa).Shows core kd line view pads :=
  List.foldlRecOn (motive := fun (t : State) => t.Shows core kd line view pads) _ _ h fun t ht i hi => ht.fillSectorFor (by
    have hlt := List.mem_range.1 hi
    rw [← hl]
    simp only [lineOf]
    omega)
end Fill

section Prefetch
variable {t : State} {k : GangKey} {va : Nat}
/-- A prefetch leaves the state as it is, or fills the line and keeps the gang's program time. -/
theorem State.prefetch_cases (t : State) (k : GangKey) (va : Nat) : t.prefetch k va = t ∨
    ∃ pa kd coh ra f, t.translate (t.team k.team).ctx (some (t.gang k).core) .load none va = .ok (.mem pa kd coh ra) ∧
      t.prefetch k va = (t.fillLineFor k (t.gang k).core kd coh pa).modGang k f := by
  unfold State.prefetch
  dsimp only
  split
  · exact .inl rfl
  · split
    · exact .inl rfl
    · exact .inr ⟨_, _, _, _, _, by assumption, rfl⟩
  · exact .inl rfl
theorem State.prefetch_fault {e : MFault} (h : t.translate (t.team k.team).ctx (some (t.gang k).core) .load none va = .error e) : t.prefetch k va = t := by
  unfold State.prefetch
  simp only [h]
theorem State.prefetch_elsewhere {pa kd coh : Nat} {ra : Bool} (h : t.translate (t.team k.team).ctx (some (t.gang k).core) .load none va = .ok (.mem pa kd coh ra))
    (hp : packageOf pa ≠ t.pkg.pkgid) : t.prefetch k va = t := by
  unfold State.prefetch
  simp only [h]
  exact if_pos (by simp [hp])
theorem State.scratch_prefetch (c : Nat) : ((t.prefetch k va).core c).scratch = (t.core c).scratch := by
  obtain h | ⟨pa, kd, coh, ra, f, -, h⟩ := t.prefetch_cases k va
  · rw [h]
  · rw [h]
    exact congrFun (State.pads_fillLineFor pa) c
theorem State.keyRead_prefetch {pa kd coh : Nat} {ra : Bool} (h : t.translate (t.team k.team).ctx (some (t.gang k).core) .load none va = .ok (.mem pa kd coh ra))
    (ha : t.copiesAgree (t.gang k).core kd pa) (b : Nat) : (t.prefetch k va).keyRead kd b = t.keyRead kd b := by
  obtain hp | ⟨pa', kd', coh', ra', f, h', hp⟩ := t.prefetch_cases k va
  · rw [hp]
  · obtain ⟨rfl, rfl, rfl, rfl⟩ := Loc.mem.inj (Except.ok.inj (h.symm.trans h'))
    obtain ⟨-, hread, -⟩ := ((State.shows_of_copiesAgree ha).fillLineFor (k := k) (coh := coh) (pa := pa) rfl).modGang k f
    exact hp ▸ hread b
end Prefetch

-- FENCE (R212)

section Fence
variable {s s1 t : State} {x : Issue} {k : GangKey} {i : Instr} {kinds : Nat}
/-- The words of FENCE and the waits that each has. -/
theorem exec_fence {g : Guard} (h : (i = .fenceRepl g ∧ kinds = 1) ∨ (i = .fenceHost g ∧ kinds = 2) ∨ (i = .fenceEng g ∧ kinds = 4) ∨ (i = .fenceAll g ∧ kinds = 7)) :
    exec i s = s.issueWord i false (fenceEffect kinds) ∧ (kinds.testBit 2 = true ↔ ¬ kinds < 4) := by
  obtain ⟨rfl, rfl⟩ | ⟨rfl, rfl⟩ | ⟨rfl, rfl⟩ | ⟨rfl, rfl⟩ := h <;> exact ⟨rfl, by decide⟩
theorem fenceEffect_met (hm : s.fenceMet x.key kinds = true) (hk : kinds.testBit 2 = true ↔ ¬ kinds < 4) :
    fenceEffect kinds x s = .done (if kinds < 4 then s else s.observe x.key) := by
  rw [fenceEffect, if_pos hm, if_congr hk rfl rfl, ite_not]
theorem fenceEffect_unmet (hm : s.fenceMet x.key kinds = false) : fenceEffect kinds x s = .hold (.fence kinds) := if_neg (ne_true_of_eq_false hm)

theorem State.fenceMet_all (t : State) (k : GangKey) : t.fenceMet k 7 = (t.fenceMet k 1 && t.fenceMet k 2 && t.fenceMet k 4) := by
  simp [State.fenceMet, Nat.testBit]
theorem State.fenceMet_repl (h : t.fenceMet k 1 = true) : (∀ e ∈ t.lags, e.gang ≠ some k) ∧
    ∀ f ∈ (t.gang k).flights, ∀ a ∈ f.todo, a.op.writes = true → ∀ pa kd ra, a.loc ≠ .mem pa kd 3 ra := by
  simp [State.fenceMet, Nat.testBit] at h
  obtain ⟨hlags, htodo⟩ := h
  refine ⟨hlags, fun f hf a ha hw pa kd ra hloc => ?_⟩
  simpa [hw, hloc] using htodo f hf a ha
theorem State.fenceMet_host (h : t.fenceMet k 2 = true) : ∀ f ∈ (t.gang k).flights, ∀ a ∈ f.todo, ∀ pa kd coh ra, a.loc = .mem pa kd coh ra → isHost pa = false := by
  simp [State.fenceMet, Nat.testBit] at h
  intro f hf a ha pa kd coh ra hloc
  simpa [hloc] using h f hf a ha
theorem State.fenceMet_eng (h : t.fenceMet k 4 = true) : (∀ e ∈ t.jobs, e.2.gang = some k → e.2.kind.isRequest = true) ∧ t.fetching k = false := by
  simp [State.fenceMet, Nat.testBit] at h
  obtain ⟨hjobs, hfetch⟩ := h
  refine ⟨fun e he hk => ?_, hfetch⟩
  simpa [hk] using hjobs e.1 e.2 he
end Fence

/-- Settles O25: a prefetch fills the line as loads would, which shows every byte as before; a fence's condition is that of its kinds. -/
theorem prefetchAndFence : Obligations.PrefetchAndFence := by
  intro s s1 x g
  refine ⟨fun a h => issueWord_done h rfl, fun t k va => ⟨State.scratch_prefetch, fun pa kd coh ra => State.keyRead_prefetch, fun pa kd coh ra => State.prefetch_elsewhere, fun e => State.prefetch_fault⟩,
    fun a h => issueWord_done h rfl, fun i kinds hi h => ⟨fun hm => ?met, fun hm => ?unmet⟩, fun t k => ⟨t.fenceMet_all k, State.fenceMet_repl, State.fenceMet_host, State.fenceMet_eng⟩⟩
  all_goals obtain ⟨hexec, hk⟩ := exec_fence (s := s) hi
  case met => exact hexec.trans (issueWord_done h (fenceEffect_met hm hk))
  case unmet =>
    rw [hexec]
    exact issueWord_hold h (fenceEffect_unmet hm)

end Sys2Proof.Machine

end

section

/-! PROOFS. JOIN (R363): threads that return (R65, R66; faults and waits of the porter log 61, threads without an entry log 58) and paths that merge at a division's node (R57; path numbers
log 30). Obligation O38. -/

namespace Sys2Proof.Machine

-- The word (R363)

section Word
variable {s s1 u t : State} {x : Issue}
/-- The state after a path has arrived at JOIN: gone with its threads, waiting at its reconvergence PC, or past the word. -/
def State.joined (u : State) (x : Issue) : State :=
  if (u.gang x.key).paths.any (fun p => p.id = x.path.id) = false then (u.leaveSlot x.key).mergePaths x.key
  else if x.path.rpc = some x.path.hdr ∧ (u.gang x.key).callLink x.path.link = false then ((u.modPath x.key x.path.id fun p => { p with st := .waiting }).leaveSlot x.key).mergePaths x.key
  else u.advance x.key x.path.id
theorem State.arriveJoin_eq (u : State) (x : Issue) : u.arriveJoin x = .moved (u.joined x) ∨ u.arriveJoin x = .done u ∧ u.joined x = u.advance x.key x.path.id := by
  by_cases hgone : (u.gang x.key).paths.any (fun p => p.id = x.path.id) = false
  · left
    rw [State.joined, if_pos hgone]
    exact if_pos (by rw [hgone]; rfl)
  · by_cases hmeets : x.path.rpc = some x.path.hdr ∧ (u.gang x.key).callLink x.path.link = false
    · left
      rw [State.joined, if_neg hgone, if_pos hmeets]
      exact (if_neg (by simpa using hgone)).trans (if_pos (by simp [hmeets]))
    · right
      rw [State.joined, if_neg hgone, if_neg hmeets]
      exact ⟨(if_neg (by simpa using hgone)).trans (if_neg (by simpa using hmeets)), rfl⟩

section Ready
variable (h : s.ready .join = some (x, s1))
include h
theorem exec_join_arrives (ha : joinEffect x s1 = u.arriveJoin x) : exec .join s = .next (u.joined x) := by
  obtain hm | ⟨hd, hu⟩ := u.arriveJoin_eq x
  · exact issueWord_moved h (ha.trans hm)
  · rw [hu]
    exact issueWord_done h (ha.trans hd)
theorem exec_join_alone (hr : x.returners = []) : exec .join s = .next (s1.joined x) := exec_join_arrives h (by rw [joinEffect, hr])
section Returning
variable (hr : x.returners ≠ [])
include hr
theorem exec_join_pending (hp : x.gang.resultPending = true) : ∃ s0, s.issueOf .join = some (x, s0) ∧ exec .join s = .next s0 := by
  refine issueWord_stall h ?_
  unfold joinEffect
  split
  · exact absurd (by assumption) hr
  · exact if_pos hp
omit h
section Lookup
variable (hp : x.gang.resultPending = false)
include hp
theorem joinEffect_fault {e : Nat × MFault} (hs : (s1.catchUp x.key).safeEntry x.key x.path.hdr = (u, .error e)) : joinEffect x s1 = tableFault e.1 e.2 := by
  unfold joinEffect
  split
  · exact absurd (by assumption) hr
  · rw [if_neg (ne_true_of_eq_false hp), hs]
section Entry
variable {e : Option SafeEntry} (hs : (s1.catchUp x.key).safeEntry x.key x.path.hdr = (u, .ok e))
include hs
theorem joinEffect_back (ht : u.returnAll x (e.getD ⟨noRpc, 0, 0, 0⟩) x.returners = .ok t) :
    joinEffect x s1 = (t.modGang x.key fun g => g.dismiss (maskOf (x.returners.map Prod.fst))).arriveJoin x := by
  unfold joinEffect
  split
  · exact absurd (by assumption) hr
  · simp only [hp, hs, ht, Bool.false_eq_true, if_false]
theorem joinEffect_spill {va : Nat} {f : MFault} {kind : AccessKind} (ht : u.returnAll x (e.getD ⟨noRpc, 0, 0, 0⟩) x.returners = .fault t va f kind) :
    joinEffect x s1 = .spill u va f kind := by
  unfold joinEffect
  split
  · exact absurd (by assumption) hr
  · simp only [hp, hs, ht, Bool.false_eq_true, if_false]
theorem joinEffect_stall (ht : u.returnAll x (e.getD ⟨noRpc, 0, 0, 0⟩) x.returners = .stall) : joinEffect x s1 = .stall := by
  unfold joinEffect
  split
  · exact absurd (by assumption) hr
  · simp only [hp, hs, ht, Bool.false_eq_true, if_false]
end Entry
end Lookup
end Returning
end Ready
end Word

theorem Issue.mem_returners {x : Issue} {l : Nat} {d : Depart} : (l, d) ∈ x.returners ↔ 32 ≤ x.key.idx ∧ x.gang.depth = 0 ∧ l ∈ lanesOf x.live x.gang.width ∧
    (tgetD x.team.departs (x.gang.homeOf x.key l) []).head? = some d ∧ d.rpc = some x.path.hdr := by
  unfold Issue.returners
  split
  case isTrue hno =>
    have hno : x.key.idx < 32 ∨ x.gang.depth ≠ 0 := by simpa using hno
    refine ⟨fun h => absurd h List.not_mem_nil, ?_⟩
    rintro ⟨hidx, hdepth, -⟩
    exact absurd hdepth (hno.resolve_left (Nat.not_lt.2 hidx))
  case isFalse hyes =>
    obtain ⟨hidx, hdepth⟩ : 32 ≤ x.key.idx ∧ x.gang.depth = 0 := by simpa using hyes
    rw [List.mem_filterMap]
    constructor
    · rintro ⟨l', hl, hd⟩
      split at hd
      case h_1 d' ds hdeparts =>
        obtain ⟨hrpc, hld⟩ := Option.ite_none_right_eq_some.1 hd
        obtain ⟨rfl, rfl⟩ := Prod.mk.inj (Option.some.inj hld)
        exact ⟨hidx, hdepth, hl, by rw [hdeparts, List.head?_cons], hrpc⟩
      case h_2 => cases hd
    · rintro ⟨-, -, hl, hhead, hrpc⟩
      refine ⟨l, hl, ?_⟩
      obtain ⟨ds, hdeparts⟩ := List.head?_eq_some_iff.1 hhead
      rw [hdeparts]
      exact if_pos hrpc

-- Merging (R57)

/-- The path into which a division's paths merge, the first of them q, at a node that is no call's. -/
def Node.joint (n : Node) (inCall : Bool) (q : Path) (kids : List Path) : Path :=
  { n.merged inCall q (kids.foldl (fun a p => a ||| p.mask) 0) with ret := kids.findSome? Path.ret }

section Merge
variable (g : Gang) (winMin : Nat) {n : Node}
theorem Gang.nodeArrived_iff : g.nodeArrived n = true ↔ n.away = 0 ∧ (∀ m ∈ g.nodes, m.link ≠ n.id) ∧ ∀ p ∈ g.paths, p.link = n.id → p.st = .waiting := by
  simp [Gang.nodeArrived, and_assoc, or_iff_not_imp_left]
/-- The scalar registers outlast every merge. -/
theorem Gang.sregs_mergeNode : (g.mergeNode winMin n).sregs = g.sregs := by
  unfold Gang.mergeNode
  dsimp only
  split <;> split <;> simp

/-- The link leads to another node, a call's. -/
theorem Gang.callLink_without (link : Nat) : Gang.callLink { g with nodes := g.nodes.filter fun m => m.id ≠ n.id } link = g.nodes.any fun m => m.id = link && m.id ≠ n.id && m.ofCall := by
  rw [Gang.callLink, List.any_filter]
  congr 1
  funext m
  ac_rfl

section Plain
variable (hn : ∀ d, n.kind ≠ .call d)
include hn
/-- A node that is no call's goes; with none of its paths left that is all. -/
theorem Gang.mergeNode_nil (hp : g.paths.filter (fun p => p.link = n.id) = []) : g.mergeNode winMin n = { g with nodes := g.nodes.filter fun m => m.id ≠ n.id } := by
  cases hk : n.kind with
  | call d => exact absurd hk (hn d)
  | branch => simp only [Gang.mergeNode, hk, List.map_id', hp]
  | split => simp only [Gang.mergeNode, hk, List.map_id', hp]
/-- The merged path takes the place of the first of its paths. -/
theorem Gang.mergeNode_cons {q : Path} {qs : List Path} (hp : g.paths.filter (fun p => p.link = n.id) = q :: qs) : g.mergeNode winMin n =
    { g with
      nodes := g.nodes.filter fun m => m.id ≠ n.id,
      paths := g.paths.flatMap fun p =>
        if p.id = q.id then [n.joint (Gang.callLink { g with nodes := g.nodes.filter fun m => m.id ≠ n.id } n.link) q (q :: qs)] else if p.link = n.id then [] else [p] } := by
  cases hk : n.kind with
  | call d => exact absurd hk (hn d)
  | branch =>
    simp only [Gang.mergeNode, hk, List.map_id', hp]
    rfl
  | split =>
    simp only [Gang.mergeNode, hk, List.map_id', hp]
    rfl
theorem Gang.mergeNode_rest : ∃ ps, g.mergeNode winMin n = { g with nodes := g.nodes.filter fun m => m.id ≠ n.id, paths := ps } := by
  cases hp : g.paths.filter fun p => p.link = n.id with
  | nil => exact ⟨_, g.mergeNode_nil winMin hn hp⟩
  | cons q qs => exact ⟨_, g.mergeNode_cons winMin hn hp⟩
/-- A merged path stands where its first path stood, past its JOIN when that is not the node's own reconvergence PC. -/
theorem Node.merged_plain (inCall : Bool) (q : Path) (mask : Mask) : n.merged inCall q mask =
    let p := { q with id := n.path, mask := mask, rpc := n.rpc, link := n.link, st := .waiting }
    if n.rpc = some q.hdr && !inCall then p else p.next := by
  cases hk : n.kind with
  | call d => exact absurd hk (hn d)
  | branch => simp only [Node.merged, hk]
  | split => simp only [Node.merged, hk]

section Decomposed
variable {g} {q : Path} {ps qs : List Path} (hg : g.paths = ps ++ q :: qs) (hq : q.link = n.id) (hps : ∀ p ∈ ps, p.link ≠ n.id ∧ p.id ≠ q.id) (hqs : ∀ p ∈ qs, p.id ≠ q.id)
omit hn
include hg hq hps
theorem Gang.kids_eq : g.paths.filter (fun p => p.link = n.id) = q :: qs.filter fun p => p.link = n.id := by
  rw [hg, List.filter_append, List.filter_cons, if_pos (decide_eq_true hq), List.filter_eq_nil_iff.2 fun p hp => by simp [(hps p hp).1], List.nil_append]
omit hq
include hqs
/-- The merged path stands where the first of its paths stood; the other ones go. -/
theorem Gang.paths_replaced (m : Path) : (g.paths.flatMap fun p => if p.id = q.id then [m] else if p.link = n.id then [] else [p]) = ps ++ m :: qs.filter fun p => p.link ≠ n.id := by
  have hbefore : (ps.flatMap fun p => if p.id = q.id then [m] else if p.link = n.id then [] else [p]) = ps := by
    refine (List.flatMap_congr fun p hp => ?_).trans (List.flatMap_singleton' ps)
    obtain ⟨hlink, hid⟩ := hps p hp
    rw [if_neg hid, if_neg hlink]
  have hafter : (qs.flatMap fun p => if p.id = q.id then [m] else if p.link = n.id then [] else [p]) = qs.filter fun p => p.link ≠ n.id := by
    clear hg
    induction qs with
    | nil => rfl
    | cons p qs ih =>
      rw [List.flatMap_cons, if_neg (hqs p List.mem_cons_self), ih fun r hr => hqs r (List.mem_cons_of_mem p hr)]
      by_cases hlink : p.link = n.id <;> simp [hlink]
  rw [hg, List.flatMap_append, List.flatMap_cons, hbefore, hafter, if_pos rfl, List.singleton_append]
end Decomposed
end Plain
end Merge

section Joint
variable {n : Node} (hn : ∀ d, n.kind ≠ .call d) (inCall : Bool) (q : Path) (kids : List Path)
theorem Path.next_goes (p : Path) : p.next.id = p.id ∧ p.next.mask = p.mask ∧ p.next.rpc = p.rpc ∧ p.next.link = p.link ∧ p.next.st = .ready ∧ (p.pos < p.cnt → p.next.hdr = p.hdr ∧ p.next.pos = p.pos + 1) := by
  unfold Path.next
  split
  · exact ⟨rfl, rfl, rfl, rfl, rfl, fun h => absurd h (by omega)⟩
  · exact ⟨rfl, rfl, rfl, rfl, rfl, fun _ => ⟨rfl, rfl⟩⟩
include hn
theorem Node.joint_waits (h : n.rpc = some q.hdr ∧ inCall = false) :
    n.joint inCall q kids = { q with id := n.path, mask := kids.foldl (fun a p => a ||| p.mask) 0, rpc := n.rpc, link := n.link, st := .waiting, ret := kids.findSome? Path.ret } := by
  rw [Node.joint, Node.merged_plain hn]
  simp [h]
theorem Node.joint_goes (h : ¬ (n.rpc = some q.hdr ∧ inCall = false)) :
    n.joint inCall q kids = { Path.next { q with id := n.path, mask := kids.foldl (fun a p => a ||| p.mask) 0, rpc := n.rpc, link := n.link, st := .waiting } with ret := kids.findSome? Path.ret } := by
  rw [Node.joint, Node.merged_plain hn]
  simp only [Bool.and_eq_true, Bool.not_eq_true', decide_eq_true_eq, if_neg h]
end Joint

/-- A division's paths, some of a gang's, become one in the place of the first of them. -/
theorem Gang.mergeNode_joins {g : Gang} {n : Node} {q : Path} {ps qs : List Path} (winMin : Nat) (hn : ∀ d, n.kind ≠ .call d) (hg : g.paths = ps ++ q :: qs) (hq : q.link = n.id)
    (hps : ∀ p ∈ ps, p.link ≠ n.id ∧ p.id ≠ q.id) (hqs : ∀ p ∈ qs, p.id ≠ q.id) :
    (g.mergeNode winMin n).paths = ps ++ n.joint (g.nodes.any fun m => m.id = n.link && m.id ≠ n.id && m.ofCall) q (q :: qs.filter fun p => p.link = n.id) :: qs.filter fun p => p.link ≠ n.id := by
  rw [g.mergeNode_cons winMin hn (Gang.kids_eq hg hq hps), ← g.callLink_without]
  exact Gang.paths_replaced hg hps hqs _

-- Threads that return (R65, R66)

/-- Register writes touch one file each. -/
theorem Gang.preds_writeRegs_congr {g e : Gang} (h : g.preds = e.preds) (ws : List RegWrite) : (g.writeRegs ws).preds = (e.writeRegs ws).preds := by
  induction ws generalizing g e with
  | nil => exact h
  | cons w ws ih =>
    refine ih ?_
    cases w with
    | vec | scal => exact h
    | pred n l b => by_cases hn : n = 0 <;> simp [Gang.writeReg, hn, h]

/-- The live registers of a thread that returns, into its lane of the gang it left. -/
def Issue.vectorsBack (x : Issue) (e : SafeEntry) (g : Gang) (lane : Nat) (d : Depart) : List RegWrite :=
  ((List.range (x.launch.vtop + 1)).filter e.vregs.testBit).map fun n => .vec (g.placeAt d.depth n) d.laneLeft (x.gang.readV n lane)
def Issue.predsBack (x : Issue) (e : SafeEntry) (lane : Nat) (d : Depart) : List RegWrite :=
  ((List.range 16).filter e.preds.testBit).map fun n => .pred n d.laneLeft ((x.gang.readP n).getLsbD lane)
/-- A gang with a thread's registers takes it back, in a path of its own that waits. -/
def Gang.regain (g : Gang) (sat : Bool) (node : Nat) (p : Path) (lane pt : Nat) : Gang :=
  { (((g.joinNstat sat).nodeBack node).addReturned node p) with away := g.away &&& ~~~(laneBit lane), pt := max g.pt pt }
def Issue.takeBack (x : Issue) (e : SafeEntry) (lane : Nat) (d : Depart) (p : Path) (g : Gang) : Gang :=
  (g.writeRegs (x.vectorsBack e g lane d ++ x.predsBack e lane d)).regain x.gang.nstat d.node p d.laneLeft x.gang.pt

/-- What every merge keeps, all that are due keep. -/
theorem Gang.mergeAll_keeps {α : Type} (read : Gang → α) (h : ∀ e w n, read (Gang.mergeNode e w n) = read e) (g : Gang) (w m : Nat) : read (g.mergeAll w m) = read g := by
  induction m generalizing g with
  | zero => rfl
  | succ m ih =>
    rw [Gang.mergeAll]
    split
    · rfl
    · rw [ih, h]
/-- With no call among the nodes, merges change nodes and paths alone. -/
theorem Gang.mergeAll_rest {g : Gang} (h : ∀ n ∈ g.nodes, ∀ c, n.kind ≠ .call c) (w m : Nat) : ∃ ns ps, g.mergeAll w m = { g with nodes := ns, paths := ps } := by
  induction m generalizing g with
  | zero => exact ⟨g.nodes, g.paths, rfl⟩
  | succ m ih =>
    rw [Gang.mergeAll]
    split
    · exact ⟨g.nodes, g.paths, rfl⟩
    · rename_i n hfind
      obtain ⟨ps, hps⟩ := g.mergeNode_rest w (h n (List.mem_of_find?_eq_some hfind))
      obtain ⟨ns, qs, hrest⟩ := ih (g := g.mergeNode w n) fun k hk => by
        rw [hps] at hk
        exact h k (List.mem_of_mem_filter hk)
      exact ⟨ns, qs, by rw [hrest, hps]⟩

/-- A gang that takes a thread back changes by a node's count, the returned path, the lane and what the thread carries. -/
theorem Gang.regain_rest (g : Gang) (sat : Bool) (node : Nat) (p : Path) (lane pt : Nat) : ∃ ns ps ts st aw pt', g.regain sat node p lane pt =
      { g with nodes := ns, paths := ps, traps := ts, nstat := st, away := aw, pt := pt' } ∧ ((∀ n ∈ g.nodes, ∀ c, n.kind ≠ .call c) → ∀ n ∈ ns, ∀ c, n.kind ≠ .call c) := by
  have hplain (h : ∀ n ∈ g.nodes, ∀ c, n.kind ≠ .call c) : ∀ n ∈ ((g.joinNstat sat).nodeBack node).nodes, ∀ c, n.kind ≠ .call c := by
    intro n hn
    obtain ⟨m, hm, rfl⟩ := List.mem_map.1 hn
    split
    · exact h m hm
    · exact h m hm
  unfold Gang.regain Gang.addReturned
  split
  · exact ⟨_, _, _, _, _, _, rfl, hplain⟩
  · exact ⟨_, _, _, _, _, _, rfl, hplain⟩

section TakeBack
variable (x : Issue) (e : SafeEntry) (lane : Nat) (d : Depart) (p : Path) (g : Gang)
theorem Gang.nodes_back : (g.writeRegs (x.vectorsBack e g lane d ++ x.predsBack e lane d)).nodes = g.nodes := (congrArg Gang.nodes (g.writeRegs_withRegs _) :)
theorem Issue.takeBack_rest : ∃ ns ps ts st aw pt, x.takeBack e lane d p g =
      { g.writeRegs (x.vectorsBack e g lane d ++ x.predsBack e lane d) with nodes := ns, paths := ps, traps := ts, nstat := st, away := aw, pt := pt } ∧
    ((∀ n ∈ g.nodes, ∀ c, n.kind ≠ .call c) → ∀ n ∈ ns, ∀ c, n.kind ≠ .call c) := by
  rw [← Gang.nodes_back x e lane d g]
  exact Gang.regain_rest _ _ _ _ _ _
theorem Gang.sregs_back : (g.writeRegs (x.vectorsBack e g lane d ++ x.predsBack e lane d)).sregs = g.sregs := by
  refine Gang.writeRegs_keeps Gang.sregs fun w hw c => ?_
  obtain hw | hw := List.mem_append.1 hw
  · obtain ⟨n, -, rfl⟩ := List.mem_map.1 hw
    rfl
  · obtain ⟨n, -, rfl⟩ := List.mem_map.1 hw
    exact c.sregs_writeReg_pred n _ _
theorem Gang.vregs_back : (g.writeRegs (x.vectorsBack e g lane d ++ x.predsBack e lane d)).vregs = (g.writeRegs (x.vectorsBack e g lane d)).vregs := by
  rw [Gang.writeRegs, List.foldl_append]
  refine Gang.writeRegs_keeps (ws := x.predsBack e lane d) Gang.vregs fun w hw c => ?_
  obtain ⟨n, -, rfl⟩ := List.mem_map.1 hw
  exact c.vregs_writeReg_pred n _ _
theorem Gang.preds_back : (g.writeRegs (x.vectorsBack e g lane d ++ x.predsBack e lane d)).preds = (g.writeRegs (x.predsBack e lane d)).preds := by
  rw [Gang.writeRegs, List.foldl_append]
  refine Gang.preds_writeRegs_congr (Gang.writeRegs_keeps (ws := x.vectorsBack e g lane d) Gang.preds fun w hw c => ?_) _
  obtain ⟨n, -, rfl⟩ := List.mem_map.1 hw
  rfl
end TakeBack

section Return
variable (s : State) (x : Issue) (e : SafeEntry) (lane : Nat) (d : Depart)
theorem State.returnThread_eq : ∃ (p : Path) (w : Nat) (m : Gang → Nat), s.returnThread x e lane d =
    (((s.modTeam x.key.team fun t => { t with departs := tset t.departs (x.gang.homeOf x.key lane) (tgetD t.departs (x.gang.homeOf x.key lane) []).tail }).modGang ⟨x.key.team, d.gangLeft⟩
      (x.takeBack e lane d p)).bump).modGang ⟨x.key.team, d.gangLeft⟩ fun g => g.mergeAll w (m g) := ⟨_, _, fun g => g.nodes.length + 1, rfl⟩
theorem State.gang_returnThread : ∃ p w m, (s.returnThread x e lane d).gang ⟨x.key.team, d.gangLeft⟩ = (x.takeBack e lane d p (s.gang ⟨x.key.team, d.gangLeft⟩)).mergeAll w m := by
  obtain ⟨p, w, m, h⟩ := s.returnThread_eq x e lane d
  refine ⟨p, w, m (x.takeBack e lane d p (s.gang ⟨x.key.team, d.gangLeft⟩)), ?_⟩
  rw [h, State.gang_modGang, State.gang_bump, State.gang_modGang, State.gang_modTeam]
theorem State.gang_returnThread_ne {k : GangKey} (hk : k ≠ ⟨x.key.team, d.gangLeft⟩) : (s.returnThread x e lane d).gang k = s.gang k := by
  obtain ⟨p, w, m, h⟩ := s.returnThread_eq x e lane d
  rw [h, State.gang_modGang_ne _ _ hk, State.gang_bump, State.gang_modGang_ne _ _ hk, State.gang_modTeam]
theorem State.departs_returnThread : tgetD ((s.returnThread x e lane d).team x.key.team).departs (x.gang.homeOf x.key lane) [] =
    (tgetD (s.team x.key.team).departs (x.gang.homeOf x.key lane) []).tail := by
  obtain ⟨p, w, m, h⟩ := s.returnThread_eq x e lane d
  rw [h, State.team_modGang, State.team_bump, State.team_modGang, State.team_modTeam, tgetD_tset_self]
theorem State.mem_returnThread : (s.returnThread x e lane d).mem = s.mem := by
  obtain ⟨p, w, m, h⟩ := s.returnThread_eq x e lane d
  rw [h]
  rfl
theorem State.sregs_returnThread : ((s.returnThread x e lane d).gang ⟨x.key.team, d.gangLeft⟩).sregs = (s.gang ⟨x.key.team, d.gangLeft⟩).sregs := by
  obtain ⟨p, w, m, h⟩ := s.gang_returnThread x e lane d
  obtain ⟨ns, ps, ts, st, aw, pt, hback, -⟩ := x.takeBack_rest e lane d p (s.gang ⟨x.key.team, d.gangLeft⟩)
  rw [h, Gang.mergeAll_keeps Gang.sregs (fun c w n => c.sregs_mergeNode w), hback]
  exact Gang.sregs_back x e lane d _
theorem State.regs_returnThread (hn : ∀ n ∈ (s.gang ⟨x.key.team, d.gangLeft⟩).nodes, ∀ c, n.kind ≠ .call c) :
    let g := s.gang ⟨x.key.team, d.gangLeft⟩
    ((s.returnThread x e lane d).gang ⟨x.key.team, d.gangLeft⟩).vregs = (g.writeRegs (x.vectorsBack e g lane d)).vregs ∧
    ((s.returnThread x e lane d).gang ⟨x.key.team, d.gangLeft⟩).preds = (g.writeRegs (x.predsBack e lane d)).preds := by
  obtain ⟨p, w, m, h⟩ := s.gang_returnThread x e lane d
  obtain ⟨ns, ps, ts, st, aw, pt, hback, hplain⟩ := x.takeBack_rest e lane d p (s.gang ⟨x.key.team, d.gangLeft⟩)
  have hnodes : ∀ n ∈ (x.takeBack e lane d p (s.gang ⟨x.key.team, d.gangLeft⟩)).nodes, ∀ c, n.kind ≠ .call c := by
    rw [hback]
    exact hplain hn
  obtain ⟨ns', ps', hmerged⟩ := Gang.mergeAll_rest hnodes w m
  rw [h, hmerged, hback]
  exact ⟨Gang.vregs_back x e lane d _, Gang.preds_back x e lane d _⟩
end Return

/-- Settles O38: JOIN's lookup and returns lead to one arrival; a returned thread's registers are what its gang gains, and a division's paths give one path. -/
theorem joinMergesPaths : Obligations.JoinMergesPaths := by
  refine ⟨fun s s1 x h => ⟨exec_join_alone h, exec_join_pending h, fun hr hp u r hs => ⟨fun e he => ?fault, fun e he => ⟨fun t ht => ?back, fun t va f kind hf => ?spill, fun hw => ?stall⟩⟩⟩,
    fun x l d => Issue.mem_returners, fun s x e lane d => ⟨s.departs_returnThread x e lane d, s.sregs_returnThread x e lane d, fun k hk => s.gang_returnThread_ne x e lane d hk,
      s.mem_returnThread x e lane d, s.regs_returnThread x e lane d⟩, fun g n => g.nodeArrived_iff, fun g winMin n q ps qs rs hn hg hq hps hqs hrs => ?merge⟩
  case fault =>
    subst he
    exact issueWord_restart h (joinEffect_fault hr hp hs)
  case back =>
    subst he
    exact exec_join_arrives h (joinEffect_back hr hp hs ht)
  case spill =>
    subst he
    exact issueWord_spill h (joinEffect_spill hr hp hs hf)
  case stall =>
    subst he
    exact issueWord_stall h (joinEffect_stall hr hp hs hw)
  case merge =>
    intro inCall
    obtain ⟨_, hrest⟩ := g.mergeNode_rest winMin hn
    have hmask : ((q :: qs.filter fun p => p.link = n.id).foldl (fun a p => a ||| p.mask) 0) = (qs.filter fun p => p.link = n.id).foldl (fun a p => a ||| p.mask) q.mask := by
      rw [List.foldl_cons, show (0 : Mask) ||| q.mask = q.mask from BitVec.zero_or]
    refine ⟨_, hrs ▸ Gang.mergeNode_joins winMin hn hg hq hps hqs, ?_⟩
    rw [hrest, ← hmask]
    by_cases hw : n.rpc = some q.hdr ∧ inCall = false
    · rw [Node.joint_waits hn _ q _ hw]
      exact ⟨rfl, rfl, rfl, rfl, fun _ _ => ⟨rfl, rfl⟩, fun hgo => absurd hw (by rintro ⟨hr, hc⟩; simp [hr, hc] at hgo), rfl, rfl⟩
    · rw [Node.joint_goes hn _ q _ hw]
      obtain ⟨hid, hm, hrpc, hlink, hst, hnext⟩ := Path.next_goes
        { q with id := n.path, mask := (q :: qs.filter fun p => p.link = n.id).foldl (fun a p => a ||| p.mask) 0, rpc := n.rpc, link := n.link, st := .waiting }
      exact ⟨hid, hrpc, hlink, hm, fun hr hc => absurd ⟨hr, hc⟩ hw, fun _ => ⟨hst, hnext⟩, rfl, rfl⟩

end Sys2Proof.Machine

end
